-- ==== Sys2Proof/Word.lean ====
section
/-! DEFINITION. Word: the word types of the TKA2436 (00_scope.md, R1 to R9): a nonet of 9 bits, a
word of 36 bits, a double of 72 bits, an octet, and the 24-bit word address of the control space. -/
namespace Sys2Proof

/-- A word: 36 bits, numbered 35 to 0. -/
abbrev W36 := BitVec 36

/-- A double: 72 bits. -/
abbrev W72 := BitVec 72

/-- An octet. -/
abbrev Octet := BitVec 8

/-- A 24-bit word address of the control space. -/
abbrev Addr := BitVec 24

/-- The two bits that a digit carries (R20). -/
abbrev Digit := BitVec 2

/-- The four rails of one position, bit v being rail v (Table 2.1); 0 is neutral. -/
abbrev Rails := BitVec 4

end Sys2Proof
end

