-- ==== Sys2Proof/Syntax.lean ====
section
/-! DEFINITION. Syntax: the commands of the TKA2436, one constructor of `Instr` for each row of
spec/opcode_table.json, with the operands that the outside world gives that command. -/
namespace Sys2Proof

/-- A cell by hearth, physical tile column, tile row and cell number (Table 2.17). -/
structure Cell where
  h : Fin 36
  col : Fin 66
  row : Fin 32
  k : Fin 36
deriving DecidableEq, Repr

/-- A producer of a channel position: a cell's output, a band's side port or a hearth's hinge port
(Table 3.1). -/
inductive Src where
  | cell (c : Cell)
  /-- The carry out of a cell: a bit channel to the next cell of its chain (R31). -/
  | carry (c : Cell)
  | side (h : Fin 36) (col : Fin 66) (p : Fin 128)
  | hinge (h : Fin 36) (p : Fin 512)
  /-- Up-port u of a hearth that is drained: its isolation gate finishes the outgoing channel
  (Tables 2.11 and 14.3). -/
  | gate (h : Fin 36) (u : Fin 768)
deriving DecidableEq, Repr

/-- A consumer of a channel position: an input slot of a cell, a side port or a hinge port. -/
inductive Dst where
  | slot (c : Cell) (s : Fin 8)
  /-- The carry in of a cell from the chain (Table 2.6). -/
  | carry (c : Cell)
  | side (h : Fin 36) (col : Fin 66) (p : Fin 128)
  | hinge (h : Fin 36) (p : Fin 512)
  /-- Down-port g (0 to 767) or broadcast entry g - 768 (768 to 783) of a hearth that is drained: its
  isolation gate answers for the hearth (Tables 2.11 and 14.3). -/
  | gate (h : Fin 36) (g : Fin 784)
deriving DecidableEq, Repr

/-- A configuration frame (R342): hearth, column, tile row, frame number. -/
structure FrameAddr where
  h : Fin 36
  col : Fin 66
  row : Fin 32
  f : Fin 12
deriving DecidableEq, Repr

/-- A particle upset of a bit of a stored frame (bits 1296 to 1307 are its check bits), or a failed
wire: a producer whose rails take a value it did not drive (R25, R344). -/
inductive Upset where
  | frameBit (a : FrameAddr) (bit : Fin 1308)
  | wire (src : Src) (rails : Rails)
deriving DecidableEq, Repr

/-- A hinge that seals and re-seats: an event hinge, a word hinge, a hinge FIFO or the control
hinge (Table 6.24). -/
inductive HingeId where
  | ev (i : Fin 1152)
  | wd (j : Fin 288)
  | fifo (f : Fin 128)
  | ctl
deriving DecidableEq, Repr

/-- One FIFO entry (R151): a word, the end bit E and the abort bit A. -/
structure Entry where
  data : W36
  e : Bool
  a : Bool
deriving DecidableEq, Repr

/-- A 66-bit block before the scrambler: sync header 01b (data) or 10b (control), and 64 payload bits (R175). -/
structure Block where
  header : BitVec 2
  bits : BitVec 64
deriving DecidableEq, Repr

/-- An MGMT block of the ring (R225). -/
structure Mgmt where
  dst : BitVec 8
  src : BitVec 8
  seg : BitVec 8
  data : BitVec 32
deriving DecidableEq, Repr

/-- A stored bit of a line that has changed since it was written: its beat and its place in the 80 bits. -/
structure DramFlip where
  beat : Fin 8
  bit : Fin 80
deriving DecidableEq, Repr

/-- What discovery found on one flash (R312): whether it answers, whether it gives both tables of 8D-8D-8D, its
density in octets, and a number that stands for its 8D-8D-8D read parameters. -/
structure FlashInfo where
  present : Bool
  octal : Bool
  density : Nat
  params : Nat
deriving DecidableEq, Repr

/-- Who asked for a hearth reload (R355). -/
inductive ReloadCause where
  | scrubber | listFull | firmware | design
deriving DecidableEq, Repr

/-- One failing bit that a test found, in the layout of SCB_RES_VAL (Table 14.14): kind, hearth, unit, address
and bit, and the physical unit that fails: a column, a store block (with its faulty rows), or a unit with no
spare. -/
inductive FailUnit where
  | column (h : Fin 36) (p : Fin 66)
  | block (h : Fin 36) (p : Fin 102) (rows : List (Fin 1024))
  | other
deriving DecidableEq, Repr

/-- One failing unit and its failing bits, each in the layout of SCB_RES_VAL. -/
structure TestResult where
  unit : FailUnit
  bits : List (BitVec 36)
deriving DecidableEq, Repr

/-- The three transports of the dictionary (R379). -/
inductive Transport where
  | can | spi | kwr
deriving DecidableEq, Repr

/-- What ends BANKED (R430): wake slot k of a bank, a tumbler, alarm 15, or a write of 0 to 2900h:01. -/
inductive WakeSource where
  | pin (b : Fin 12) (k : Fin 4)
  | tumbler (t : Fin 4)
  | alarm
  | management (t : Transport)
deriving DecidableEq, Repr

/-- How a test of one unit ended (R361): the pattern counter reached its count, the signature matched, a compare
found a fault; the failing bits in the layout of SCB_RES_VAL, and the failing rows of a store block. -/
structure TestRun where
  complete : Bool
  signature : Bool
  fault : Bool
  bits : List (BitVec 36)
  rows : List (Fin 1024)
deriving DecidableEq, Repr

/-- What the VFAB regulator answers to VOUT_MODE at the boot: no acknowledge, the ULINEAR16 data format, or another (R94). -/
inductive VoutMode where
  | nack | ulinear16 | other
deriving DecidableEq, Repr

/-- The transport's place in bit orders and queue tables. -/
def Transport.idx : Transport → Nat
  | .can => 0
  | .spi => 1
  | .kwr => 2

/-- The commands, in the order of the table of operations and events. -/
inductive Instr where
  /-- R421: The last of VSTBY, VAUX, VPER and VFAB enters its range with PORST_N high, which starts the power-up of Table 16.4. -/
  | supplyRise
  /-- R422: Power-on reset releases 2 ms after the supplies settle; the straps are sampled and the timebase starts at 0. -/
  | powerOnResetRelease (pdc : BitVec 12) (forceKindN : Bool)
  /-- R411: The root PLL locks on REF25, the clocked domains leave reset, and the timebase then counts every tick. -/
  | rootPllLock
  /-- R19: The MGC finishes booting from ROM: it applies the calibration, repair record, column shifts and cord maps, commands VFAB, and CAN FD and SPI become reachable. -/
  | mgcBootDone (vout : VoutMode)
  /-- R358: The start-up full test of a full start completes and the load begins. -/
  | startupBistDone (fails : List TestResult) (eligible : BitVec 24) (incomplete : BitVec 24) (ms : BitVec 17)
  /-- R19: The device enters RUN once the staggered wake has ended and every SDRAM channel in use has finished its start-up sweep. -/
  | runReached
  /-- R419: PORST_N is held low for 1 us or more, which causes a cold reset. -/
  | porst
  /-- R423: A supply falls below its brownout threshold for 1 us, which causes a cold reset. -/
  | brownout
  /-- R413: REF25 shows no edge for 1 us, which causes a cold reset with cause 'reference or lock lost'. -/
  | refLost
  /-- R413: The root PLL loses lock in RUN or SIMMER, which causes a cold reset. -/
  | rootPllLockLost
  /-- R17: The MGC firmware stops; the watchdog restarts it, in-progress dictionary transfers abort, and new SDO requests are answered with abort 0800 0020h. -/
  | mgcFirmwareStop
  /-- R17: The MGC firmware restart ends; serving, heartbeat supervision and the held emergencies resume, and A001h is raised. -/
  | mgcRestartEnd
  /-- R22: A producer raises one rail in every position of a channel (phase 1). -/
  | handshakeRequest (rails : List (Src × Rails))
  /-- R22: A consumer raises the acknowledge of a channel whose positions are all valid (phase 2). -/
  | handshakeAck (dsts : List Dst)
  /-- R22: A producer that has seen the acknowledge returns its positions to neutral (phase 3). -/
  | handshakeRelease (srcs : List Src)
  /-- R22: A consumer that has seen neutral lowers the acknowledge and the channel returns to phase 0 (phase 4). -/
  | handshakeReady (dsts : List Dst)
  /-- R26: A cell whose inputs in use are valid and whose token stage is empty computes its output, captures it and acknowledges its inputs. -/
  | cellFire (c : Cell)
  /-- R344: A particle upset or wire failure changes a configuration bit or a wire. -/
  | particleUpset (u : Upset)
  /-- R41: A 1 written to a hearth's bit in FAB_URST_REQ starts a user reset: the hinges seal and the hearth's tokens are drained. -/
  | userResetRequest (h : Fin 36)
  /-- R41: The last boundary channel of a resetting hearth reaches phase 0, and the initial tokens are reinserted. -/
  | boundaryWaitEnd (h : Fin 36)
  /-- R43: A boundary wait exceeds FAB_URST_LIM; FAB_URST_STAT is set and 1103h is raised. -/
  | boundaryWaitTimeout (h : Fin 36)
  /-- R45: A 1 written to FAB_TOK_LAST.clr sets every field of FAB_TOK_LAST to 0. -/
  | tokLastClear
  /-- R45: A 1 written to FAB_TOK_CNT.clr sets the token fault count to 0. -/
  | tokCntClear
  /-- R72: A 1 written to FAB_XB_LAST.clr sets every field of FAB_XB_LAST to 0. -/
  | xbLastClear
  /-- R72: A 1 written to FAB_XB_CNT.clr sets the invalid-row count to 0. -/
  | xbCntClear
  /-- R69: A write of FAB_PRB_PIN_p with en = 1 enables the probe, or refuses it, and switches the pin to the probe function. -/
  | probeEnable (p : Fin 16) (w : W36)
  /-- R69: A write of FAB_PRB_PIN_p with en = 0 disables the probe and switches the pin back to its park state. -/
  | probeDisable (p : Fin 16) (w : W36)
  /-- R71: A write to FAB_PRB_SEL_p takes effect at once on an enabled probe. -/
  | probeSelWrite (p : Fin 16) (w : W36)
  /-- R80: A pace window starts every period × 128 ticks, counted from commit. -/
  | paceWindowStart
  /-- R79: A pace window ends and FAB_PACE_h is updated with the lower trimmed rate and the factor. -/
  | paceWindowEnd (h : Fin 36) (a : Nat) (b : Nat)
  /-- R88: Each 1 us governor period the governor estimates power and raises or lowers the stretch levels. -/
  | governorPeriod (silent : List (Fin 36)) (tempMax : Int)
  /-- R89: The governor's first 1,000 periods of measurement end and the full budget applies. -/
  | governorWarmEnd
  /-- R89: FAB_GOV_CFG.en written from 0 to 1 starts a warm millisecond of measurement. -/
  | governorEnable
  /-- R92: FAB_GOV_CFG.en written 0 sets every stretch level to 0 at the next period. -/
  | governorDisable
  /-- R95: A new VFAB target is written and the MGC starts to ramp toward it. -/
  | vfabTargetWrite (mv : BitVec 10)
  /-- R95: Every 10 us of a ramp the MGC steps VOUT_COMMAND by 5 mV toward the target. -/
  | vfabRampStep (ack : Bool)
  /-- R96: Every 100 us the MGC reads READ_VOUT and STATUS_WORD into FAB_VFAB_CTL.actual. -/
  | vfabReadVout (mv : Option (BitVec 10)) (status : BitVec 16)
  /-- R96: PMB_ALERT_N asserts, which is a regulator fault. -/
  | pmbAlert
  /-- R96: The actual VFAB differs from the commanded value by more than 25 mV for 1 ms, which is a regulator fault. -/
  | vfabMismatchTimeout
  /-- R106: A store-block port request with op = 0 reads the item. -/
  | storeRead (h : Fin 36) (slot : Fin 96) (port : Bool)
  /-- R106: A store-block port request with op = 1 writes the masked nonets and returns no response. -/
  | storeWrite (h : Fin 36) (slot : Fin 96) (port : Bool)
  /-- R106: A store-block port request with op = 2 reads the item and writes the masked nonets as one indivisible access. -/
  | storeExchange (h : Fin 36) (slot : Fin 96) (port : Bool)
  /-- R106: A store-block request with op = 3 stalls the port, is recorded in FAB_SB_LAST and raises 1108h. -/
  | storeRequestFault (h : Fin 36) (slot : Fin 96) (port : Bool)
  /-- R107: A read access completes and the block presents its response. -/
  | storeResponse (h : Fin 36) (slot : Fin 96) (port : Bool)
  /-- R114: The accesses already acknowledged complete and the row copy to the spare begins. -/
  | blockHandoverQuiesced (h : Fin 36) (slot : Fin 96)
  /-- R114: The copy ends, steering maps the slot to the spare, and the held requests proceed. -/
  | blockHandoverSwitch (h : Fin 36) (slot : Fin 96)
  /-- R114: Step 2 of a block handover has not ended by 25,600 ticks; the handover is abandoned and the slice is INCOMPLETE. -/
  | blockHandoverTimeout (h : Fin 36) (slot : Fin 96)
  /-- R127: An event reaches an event hinge sender, which starts a crossing, sets pending or merges the event. -/
  | eventOffered (i : Fin 1152)
  /-- R125: An event hinge receiver sees REQ high and delivers the event as a token or a pulse. -/
  | eventReqSeen (i : Fin 1152)
  /-- R125: The event is taken and the receiver raises ACK. -/
  | eventTaken (i : Fin 1152)
  /-- R125: The sender sees ACK high and lowers REQ. -/
  | eventAckSeen (i : Fin 1152)
  /-- R125: The receiver sees REQ low, with its channel back in phase 0, and lowers ACK. -/
  | eventReqLowSeen (i : Fin 1152)
  /-- R127: The sender sees ACK low; the crossing completes and a set pending slot starts the next crossing. -/
  | eventCrossingComplete (i : Fin 1152)
  /-- R131: The clocked source writes a new value into a word hinge's Gray register. -/
  | wordValueWrite (j : Fin 288) (v : W36)
  /-- R132: The register has held a value for two consecutive periods and the value becomes visible. -/
  | wordValueVisible (j : Fin 288)
  /-- R133: An on-demand sample request returns one token carrying the visible value. -/
  | wordSampleRequest (j : Fin 288)
  /-- R134: A value token arrives at a word hinge out of the fabric and waits for the period's permit. -/
  | wordOutToken (j : Fin 288)
  /-- R134: At a permit the hinge writes the token's value to the Gray register and acknowledges the token. -/
  | wordOutWrite (j : Fin 288)
  /-- R134: n + 1 periods after a step fault, valid rises and the endpoint takes the new value. -/
  | wordValidRestore (j : Fin 288)
  /-- R135: The control hinge captures a read request (op = 0). -/
  | ctlhRead
  /-- R135: The control hinge captures a write request (op = 1). -/
  | ctlhWrite
  /-- R136: The control hinge captures a masked write request (op = 2), an indivisible read-modify-write of the bits that the mask sets. -/
  | ctlhMaskedWrite
  /-- R136: The control hinge receives a request with op = 3 and answers it with status 3. -/
  | ctlhReservedOp
  /-- R137: The control-space bus performs the fabric's access at its access edge. -/
  | ctlhAccessEdge
  /-- R137: The control hinge presents the response bundle 8 to 12 CK400 periods after the access edge. -/
  | ctlhResponse
  /-- R140: The surviving side sees SX, goes SEALED, discards the items in flight and raises SY. -/
  | reseatSxSeen (g : HingeId)
  /-- R141: The reset side leaves reset, sees SY high, waits its periods and lowers SX. -/
  | reseatXRelease (g : HingeId)
  /-- R141: The surviving side sees SX low, zeroes its pointers, lowers SY and opens. -/
  | reseatYOpen (g : HingeId)
  /-- R141: The reset side sees SY low and opens; the hinge reads OPEN and HNG_SEAL_CNT counts the re-seat. -/
  | reseatXOpen (g : HingeId)
  /-- R138: A 1 written to HNG_SIDE_RST.go resets the clocked side of the hinge it names. -/
  | hingeSideReset (w : W36)
  /-- R138: The clocked side leaves a firmware side reset 16 clocked periods after the write. -/
  | hingeSideResetEnd (g : HingeId)
  /-- R124: A write of HNG_UCLK_k enables a user clock on a pin, or refuses it, or changes its pin. -/
  | userClockEnable (k : Fin 8) (w : W36)
  /-- R124: A user clock shows no rising edge for 80 ns; it is declared lost, its hinges reset and 2104h is raised. -/
  | userClockLost (k : Fin 8)
  /-- R124: After 64 edges the user clock is present again and its hinges re-seat. -/
  | userClockPresent (k : Fin 8)
  /-- R143: The stall watch of a hinge passes its limit; the hinge is recorded in HNG_STALL_LAST and 2101h is raised. -/
  | hingeStall (g : HingeId)
  /-- R144: A 1 written to HNG_EV_STAT_i.clr sets mcount, disc and refused to 0. -/
  | evStatClear (i : Fin 1152)
  /-- R144: A 1 written to HNG_WD_STAT_j.clr sets jcount and disc to 0. -/
  | wdStatClear (j : Fin 288)
  /-- R144: A 1 written to HNG_STALL_LAST.clr sets every field of the register to 0. -/
  | stallLastClear
  /-- R144: A 1 written to HNG_CTLH_STAT.clr sets last_addr to 0. -/
  | ctlhStatClear
  /-- R153: The writer pushes an entry into the fill bank, or is refused because its side is full. -/
  | fifoPush (f : Fin 128) (e : Entry)
  /-- R155: The seal timer expires and the fill bank seals. -/
  | fifoSealTimeout (f : Fin 128)
  /-- R157: One crossing after a seal, the reader learns of it; rdepth rises and rempty clears. -/
  | fifoSealCrossing (f : Fin 128)
  /-- R158: The reader takes an entry, or is refused and becomes idle. -/
  | fifoPop (f : Fin 128)
  /-- R153: The writer side learns that the drain bank is empty; the banks swap and wfull clears. -/
  | fifoBankSwap (f : Fin 128)
  /-- R152: A pointer or bank-state parity check fails; the clocked sides are reset, the FIFO re-seats and 2106h is raised. -/
  | fifoParityError (f : Fin 128) (readerSide : Bool)
  /-- R161: A 1 written to HNG_FIFO_CTL_f.flush_pkt requests a packet-boundary flush. -/
  | fifoFlushPkt (f : Fin 128)
  /-- R161: The writer side fixes the flush point after its last entry with E or A. -/
  | fifoFlushPoint (f : Fin 128)
  /-- R161: The reader side learns the flush point and discards the unbegun packets before it. -/
  | fifoFlushReader (f : Fin 128)
  /-- R162: A 1 written to HNG_FIFO_CTL_f.clear_now requests an immediate clear. -/
  | fifoClearNow (f : Fin 128)
  /-- R162: The writer side fixes the clear point, empties its fill bank and may start dropping the rest of its packet. -/
  | fifoClearPoint (f : Fin 128)
  /-- R162: The reader side discards every entry before the clear point and may take one abort entry. -/
  | fifoClearReader (f : Fin 128)
  /-- R168: A 1 written to HNG_FIFO_CTL_f.cnt_clr sets both fields of HNG_FIFO_CNT_f to 0. -/
  | fifoCntClear (f : Fin 128)
  /-- R155: A write that changes seal_to or seal_pre restarts the seal timer. -/
  | fifoSealToWrite (f : Fin 128) (sealPre : Bool) (sealTo : BitVec 24)
  /-- R167: Firmware writes push = 1 and pushes MBD with e and a into a mailbox FIFO. -/
  | mailboxPush (g : Fin 48) (e : Bool) (a : Bool)
  /-- R167: Firmware writes pop = 1 and pops the next entry into MBD, e and a. -/
  | mailboxPop (g : Fin 48)
  /-- R172: A lane reference input stops or a cord PLL loses lock; its links go OFF, its FIFOs seal and 3102h is raised. -/
  | cordRefLost (n : Fin 6) (refStopped : Bool)
  /-- R172: A cord PLL relocks and each lane whose mode is not OFF starts training. -/
  | cordPllLock (n : Fin 6)
  /-- R171: A write of LNE_CORD_CFG_n.rate changes the cord rate while every lane of the cord is OFF. -/
  | cordRateWrite (n : Fin 6) (rate : BitVec 2)
  /-- R194: A write of the cord lane map remaps logical lanes, and each remapped lane retrains. -/
  | cordMapWrite (n : Fin 6) (map : BitVec 8)
  /-- R197: A write of LNE_CTL_l.mode turns the lane OFF, seals its FIFOs and trains it in the new mode. -/
  | laneModeWrite (l : Fin 24) (mode : BitVec 2)
  /-- R191: A 1 written to LNE_CTL_l.retrain starts a new attempt from presets. -/
  | laneRetrain (l : Fin 24)
  /-- R186: pwr_state written ACTIVE returns the lane to ACTIVE. -/
  | laneSetActive (l : Fin 24)
  /-- R187: pwr_state written IDLE-HOLD: the transmitter finishes its packet, sends 16 HOLD blocks and enters electrical idle. -/
  | laneSetIdleHold (l : Fin 24)
  /-- R189: pwr_state written BANKED sends the lane to BANKED at once; the link goes OFF and the FIFOs seal. -/
  | laneSetBanked (l : Fin 24)
  /-- R198: A 1 written to LNE_CTL_l.cnt_clr sets LNE_ERR_l and LNE_PKT_l to 0. -/
  | laneCntClear (l : Fin 24)
  /-- R182: A signal is detected on a lane that is not BANKED; the aligner goes from NOSIG to HUNT. -/
  | signalDetected (l : Fin 24)
  /-- R182: The differential amplitude stays below 60 mVppd for 1 us and the aligner goes to NOSIG. -/
  | signalLost (l : Fin 24)
  /-- R182: An invalid sync header slips the aligner in HUNT or VERIFY, or counts against the window in LOCKED. -/
  | alignInvalidHeader (l : Fin 24) (gap : Nat)
  /-- R182: 256 consecutive valid headers move the aligner from HUNT to VERIFY. -/
  | alignHuntDone (l : Fin 24)
  /-- R182: 1,024 consecutive valid headers move the aligner from VERIFY to LOCKED. -/
  | alignLocked (l : Fin 24)
  /-- R184: 65,536 consecutive idle blocks in UP freeze adaptation. -/
  | adaptFreeze (l : Fin 24)
  /-- R184: 256 data blocks since the freeze resume adaptation. -/
  | adaptResume (l : Fin 24)
  /-- R179: A native IDLE block is received and ignored. -/
  | rxIdleBlock (l : Fin 24)
  /-- R179: A native START block begins a packet, ending any packet in progress with abort. -/
  | rxStartBlock (l : Fin 24)
  /-- R179: A native data block carries stream bits into the packet, or is a block error outside one. -/
  | rxDataBlock (l : Fin 24) (bits : BitVec 64)
  /-- R179: A native END block ends the packet; the count and CRC are checked and the held word is written with E. -/
  | rxEndBlock (l : Fin 24) (content : BitVec 56)
  /-- R179: A TRAIN block is received; with ready = 0 it takes the link out of UP, and during an attempt it counts toward training. -/
  | rxTrainBlock (l : Fin 24) (content : BitVec 56)
  /-- R188: A HOLD block puts the receiver in hold. -/
  | rxHoldBlock (l : Fin 24)
  /-- R179: A block of invalid type or header is counted as a block error and offered on E(889 + 2l). -/
  | rxInvalidBlock (l : Fin 24) (blk : Block)
  /-- R188: 64 consecutive valid headers at the kept position end hold. -/
  | rxHoldExit (l : Fin 24)
  /-- R188: Hold has not ended 2 ms after the signal's return; the aligner goes to HUNT and the link leaves UP. -/
  | rxHoldTimeout (l : Fin 24)
  /-- R192: 16,384 blocks of adaptation after LOCKED end; matching TRAIN blocks let the lane send ready = 1. -/
  | trainAdaptDone (l : Fin 24)
  /-- R192: 16 TRAIN blocks with ready = 1 have been received and sent; the link goes UP. -/
  | trainSuccess (l : Fin 24) (skew : BitVec 8)
  /-- R191: tmo elapses in TRAIN; the lane goes to SEEK with the present backoff and may raise 3103h. -/
  | trainTimeout (l : Fin 24)
  /-- R191: The SEEK backoff elapses, an attempt starts and the backoff doubles. -/
  | backoffElapsed (l : Fin 24)
  /-- R195: The Ethernet BER monitor sets hi_ber and the link leaves UP. -/
  | ethHiBer (l : Fin 24) (ended : Bool)
  /-- R196: An Ethernet block is received; frame octets are written to F2l and errors set A. -/
  | ethRxBlock (l : Fin 24) (blk : Block)
  /-- R212: A write of KWR_CFG_k.role takes the engine to OFF and then to TRAIN in the new role. -/
  | kwrRoleWrite (k : Fin 6) (role : BitVec 2)
  /-- R228: A write of the width while the role is not OFF takes the engine OFF and clears its windows and replay buffer. -/
  | kwrWidthWrite (k : Fin 6) (width : BitVec 2)
  /-- R207: The head's timebase reaches a cycle boundary and it originates a frame. -/
  | kwrCycleBoundary (k : Fin 6)
  /-- R212: A CYCLE block is received; positions, counting, alignment and the insert latch proceed. -/
  | kwrRxCycle (k : Fin 6) (cycle : W36) (pos : BitVec 8) (alarm : Bool) (counting : Bool)
  /-- R214: A CYCLE END block is received; a late flag is counted in missed and ACKs may be sent. -/
  | kwrRxCycleEnd (k : Fin 6) (n : BitVec 10) (late : Bool)
  /-- R222: A TIME block is received; the node adds its delays, measures its offset and may steer the timebase. -/
  | kwrRxTime (k : Fin 6) (tb : BitVec 28) (dly : BitVec 28) (residence : BitVec 12) (frac : BitVec 4)
  /-- R223: A TIME HIGH block carries the head timebase high bits and the automatic hop delay. -/
  | kwrRxTimeHigh (k : Fin 6) (hi : BitVec 44) (hop : BitVec 12)
  /-- R224: A steering engine slews the timebase by at most one tick in every 1,024 ticks. -/
  | kwrTimebaseSlew (k : Fin 6)
  /-- R217: A superblock is received and checked; it is accepted, stomped, discarded or NAKed. -/
  | kwrRxSuperblock (k : Fin 6) (sb : BitVec 512) (err : Bool)
  /-- R219: An ACK block is consumed or forwarded; a consumed ACK moves the rewind mark, and a NAK starts a replay. -/
  | kwrRxAck (k : Fin 6) (seq : BitVec 24) (pos : BitVec 8) (nak : Bool)
  /-- R217: A REPLAY block resumes reception at E, or restarts numbering when restart = 1. -/
  | kwrRxReplay (k : Fin 6) (seq : BitVec 24) (restart : Bool)
  /-- R225: An MGMT block is consumed by its destination, resent by the head, or forwarded. -/
  | kwrRxMgmt (k : Fin 6) (m : Mgmt)
  /-- R225: A SLOT block passes, and a member with a waiting message replaces it with an MGMT block. -/
  | kwrRxSlot (k : Fin 6)
  /-- R208: A FILL block is deleted or repeated by the elastic buffer for rate matching. -/
  | kwrRxFill (k : Fin 6) (copies : Fin 3)
  /-- R210: The engine reads a complete packet from F8k + 1 into its insert buffer, or discards it. -/
  | kwrInsertPacket (k : Fin 6)
  /-- R216: A receiver sends an ACK at least every 1 us while it receives superblocks. -/
  | kwrAckTimer (k : Fin 6)
  /-- R220: The rewind mark has not moved for 100 us with words unacknowledged; the hop retrains and resends from the mark. -/
  | kwrHopReseat (k : Fin 6)
  /-- R221: The write pointer passes the rewind mark; the replay buffer is discarded, numbering restarts and 4103h is raised. -/
  | kwrBufferInvalid (k : Fin 6)
  /-- R213: A node receives no CYCLE within two periods; missed is counted and an event is offered. -/
  | kwrCycleMissed (k : Fin 6)
  /-- R213: A head frame does not return within two periods of its start and is counted in missed. -/
  | kwrFrameNotReturned (k : Fin 6)
  /-- R215: A 1 written to KWR_CTL_k.alarm sets the alarm flag. -/
  | kwrAlarmWrite (k : Fin 6)
  /-- R215: A 1 written to KWR_CTL_k.alarm_clr clears the head's alarm flag or a node's local request. -/
  | kwrAlarmClear (k : Fin 6)
  /-- R230: A 1 written to KWR_CTL_k.cnt_clr sets KWR_CNT_k and KWR_MCNT_k to 0. -/
  | kwrCntClear (k : Fin 6)
  /-- R239: A read request packet enters its port queue. -/
  | sdramRead (c : Fin 2) (p : Fin 16)
  /-- R241: A write request packet enters its port queue. -/
  | sdramWrite (c : Fin 2) (p : Fin 16)
  /-- R241: A masked write request packet enters its port queue. -/
  | sdramMaskedWrite (c : Fin 2) (p : Fin 16)
  /-- R240: A request with op = 11b, or a malformed or aborted packet, is answered with status 100b or discarded. -/
  | sdramRequestFault (c : Fin 2) (p : Fin 16)
  /-- R240: A request's access completes and the controller answers it with a response packet. -/
  | sdramAccessDone (c : Fin 2) (p : Fin 16) (idx : Nat) (flips : List DramFlip)
  /-- R244: A request exceeds its class age limit and is promoted to class 0. -/
  | sdramRequestAged (c : Fin 2) (p : Fin 16) (idx : Nat)
  /-- R244: A class 0 request exceeds the class 0 limit; it is marked late and counted. -/
  | sdramRequestLate (c : Fin 2) (p : Fin 16) (idx : Nat)
  /-- R248: A refresh of a rank falls due at tREFI and is issued, postponed or pulled in. -/
  | sdramRefreshDue (c : Fin 2) (rank : Fin 2)
  /-- R248: The refresh temperature reading is taken and may switch the channel to 2x mode. -/
  | sdramTempRead (c : Fin 2) (die : BitVec 10) (mpr : Option (BitVec 10))
  /-- R248: The reading has stayed at or below 82 C for 1 s and the channel returns to 1x refresh. -/
  | sdramRefresh1x (c : Fin 2)
  /-- R249: The patrol reads the next line, writing back corrected doubles and reporting uncorrectable ones. -/
  | sdramPatrolRead (c : Fin 2) (flips : List DramFlip)
  /-- R250: Once its queued requests complete, a channel precharges all banks and enters self-refresh. -/
  | sdramSelfRefreshEnter (c : Fin 2)
  /-- R250: A channel exits self-refresh, waits tXSDLL and runs its check before taking requests. -/
  | sdramSelfRefreshExit (c : Fin 2)
  /-- R251: A live remap copy ends; the remap entry switches and the held requests are released. -/
  | sdramLiveRemapDone (c : Fin 2)
  /-- R252: A 1 written to DRM_CFG_c.ppr_en requests hard post-package repair. -/
  | sdramPprRequest (c : Fin 2)
  /-- R252: A 0 written to ppr_en withdraws a hard-repair request that has not yet run. -/
  | sdramPprWithdraw (c : Fin 2)
  /-- R252: Within 10 ms the MGC records the hard-repair request in the repair record. -/
  | sdramPprRecorded (c : Fin 2)
  /-- R253: ALERT_N signals a command parity error and the controller stops issuing commands. -/
  | sdramParityAlert (c : Fin 2)
  /-- R253: ALERT_N is released; the controller precharges all banks and restarts the affected requests. -/
  | sdramAlertRelease (c : Fin 2)
  /-- R255: A 1 written to DRM_ECC_SYN_c.clr sets DRM_ECC_LAST_c and DRM_ECC_SYN_c to 0. -/
  | sdramEccClear (c : Fin 2)
  /-- R255: A 1 written to DRM_CNT_c.clr sets DRM_ECC_c and the counts of DRM_CNT_c to 0. -/
  | sdramCntClear (c : Fin 2)
  /-- R262: A full-sweep step completes for one byte lane, with the delays at which its test passed; the final step passes or
  fails the sweep. -/
  | sweepStepDone (c : Fin 2) (passes : BitVec 512) (ppr : List Bool)
  /-- R276: A 1 written to DRM_TRN_CFG_c.sweep requests a full sweep. -/
  | sweepRequest (c : Fin 2)
  /-- R264: The gathering period elapses and a gathering of pauses begins. -/
  | gatheringStart (c : Fin 2)
  /-- R265: A pause falls due, and starts once no refresh of its rank is in progress. -/
  | trainingPause (c : Fin 2)
  /-- R266: A pause's probes complete and request commands resume: for each byte lane the probes that passed in the windows of
  its lower and upper edge, from the lowest delay. -/
  | pauseEnd (c : Fin 2) (probes : List (BitVec 17 × BitVec 17))
  /-- R273: A write of DRM_CFG_c.rate requests a rate change, held or replacing an earlier request. -/
  | sdramRateRequest (c : Fin 2) (rate : BitVec 2)
  /-- R273: At the next pause or sweep-step boundary the rate change starts its steps. -/
  | rateChangeBegin (c : Fin 2)
  /-- R274: A check on a stored set completes; it passes and serves requests, or it fails and starts a full sweep. -/
  | sdramCheckDone (c : Fin 2) (pauses : List (List (BitVec 17 × BitVec 17)))
  /-- R281: A bank's sensed VCCIO changes and may start agreeing or disagreeing with its declared level. -/
  | bankSupplyChange (b : Fin 12) (mv : BitVec 13)
  /-- R281: The bank's supply has agreed for 1 ms and the bank leaves SUPPLY WAIT through a function switch. -/
  | bankSupplyAgreed (b : Fin 12)
  /-- R281: The bank's supply has disagreed for 1 us; its pins take the hot-socket state and 6102h is raised. -/
  | bankSupplyLost (b : Fin 12)
  /-- R285: The level at a user pin's ball changes. -/
  | pinLevelChange (b : Fin 12) (p : Fin 36) (level : Option Bool)
  /-- R288: A masked write to the bank data register arrives through object 2600h. -/
  | pinMaskedWrite (b : Fin 12) (mask : W36) (v : W36)
  /-- R288: A plain write to PIN_DOUT_b acts as a masked write with every mask bit set. -/
  | pinDoutWrite (fabric : Bool) (b : Fin 12) (v : W36)
  /-- R289: At the next CK100 edge the data register applies the period's writes, the fabric's first, then the event actions. -/
  | pinDoutApply (b : Fin 12)
  /-- R290: A PULSE lasting PIN_BANK_b.pulse ticks ends and the ball shows the register bit again. -/
  | pinPulseEnd (b : Fin 12) (p : Fin 36)
  /-- R292: A write to PIN_CFG_b_p stages a configuration without changing the pin. -/
  | pinCfgStage (b : Fin 12) (p : Fin 36) (w : W36)
  /-- R292: A write to PIN_APPLY_b or object 2601h applies the staged configurations of a group; each pin parks or is refused. -/
  | pinApply (b : Fin 12) (mask : W36)
  /-- R293: At the second CK100 edge after the park, the new function takes the pin. -/
  | pinSwitchTake (b : Fin 12)
  /-- R295: A GPEV output pulse ends after PIN_BANK_b.pulse ticks. -/
  | gpevPulseEnd (b : Fin 12) (p : Fin 36)
  /-- R296: An input pin port pushes one entry when its strobe becomes active, dropping it when the FIFO is full. -/
  | portInputStrobe (g : Fin 48)
  /-- R296: An output pin port takes an entry, drives the data and E pins and holds the strobe active for one period. -/
  | portOutputEntry (g : Fin 48)
  /-- R298: A pattern's raw run lasts filt ticks and its filtered value changes. -/
  | tumblerFilterExpiry (t : Fin 24) (pat : Fin 4)
  /-- R300: The sequence window elapses before firing; the tumbler returns to step 0 and counts a timeout. -/
  | tumblerWindowTimeout (t : Fin 24)
  /-- R300: With strict set, the previous and present patterns have been raw false for filt ticks and the tumbler returns to step 0. -/
  | tumblerStrictReturn (t : Fin 24)
  /-- R303: A write to a tumbler register restarts its sequence, filters and window from the next sample. -/
  | tumblerConfigWrite (t : Fin 24) (r : Fin 9) (w : W36)
  /-- R306: A 1 written to PIN_TMB_STAT_t.clr sets matches and timeouts to 0. -/
  | tumblerStatClear (t : Fin 24)
  /-- R304: A selected edge on a wake pin holds for two samples and raises a wake event. -/
  | wakePinEdge (b : Fin 12) (slot : Fin 4)
  /-- R312: Flash discovery ends after reset and the SFDP reads, setting single or dual mode and the read mode. -/
  | discoveryDone (a : FlashInfo) (b : FlashInfo)
  /-- R324: A chunk read completes; its CRC and number are checked, it is retried once, then decrypted and written. -/
  | chunkRead (errs : List (Fin 4096 × Octet))
  /-- R323: The whole-stream ward checks and the tag compare finish after the last chunk. -/
  | wardCheckDone
  /-- R325: Configuration memory is cleared after a failed image and the other image is tried from discovery. -/
  | configClearDone
  /-- R327: A 1 written to CFG_CTL.recommit seals the hinges, makes the fabric inert and runs a load from discovery. -/
  | warmRecommit
  /-- R330: The engine starts to read a hearth stream through the directory. -/
  | hearthStreamRead
  /-- R330: A hearth stream's tag and ward checks complete; the reload proceeds, or it fails and 7103h is raised. -/
  | hearthStreamCheckDone
  /-- R335: A 32-octet key is written to 2710h:01. -/
  | keyStage (t : Transport) (key : BitVec 256)
  /-- R335: An expected KCV is written to 2710h:02. -/
  | keyExpectedKcv (t : Transport) (kcv : BitVec 18)
  /-- R335: Keyring command 1 programs and verifies the eFuse key, then blows key_lock. -/
  | keyringProgramEfuse (t : Transport) (inRange : Bool)
  /-- R335: Keyring command 2 writes the battery-backed key and clears the VBAT detector. -/
  | keyringWriteBbram (t : Transport) (vbat : Bool)
  /-- R335: Keyring command 3 zeroizes the battery-backed key. -/
  | keyringZeroize (t : Transport)
  /-- R335: Keyring command 4 blows key_src. -/
  | keyringBlowKeySrc (t : Transport) (inRange : Bool)
  /-- R335: Keyring command 5 blows bbram_off. -/
  | keyringBlowBbramOff (t : Transport) (inRange : Bool)
  /-- R335: Keyring command 6 blows rb_off. -/
  | keyringBlowRbOff (t : Transport) (inRange : Bool)
  /-- R335: Keyring command 7 blows the next min_ver bit. -/
  | keyringBlowMinVer (t : Transport) (inRange : Bool)
  /-- R335: Keyring command 8 programs kind_base with the argument. -/
  | keyringProgramKindBase (t : Transport) (inRange : Bool) (arg : BitVec 8)
  /-- R335: A keyring command ends; the status is set and a failed fuse program raises 7107h. -/
  | keyringCommandDone (ok : Bool)
  /-- R334: VBAT falls below 1.0 V, the sticky detector is set and the battery-backed key is no longer valid. -/
  | vbatLow
  /-- R336: A write to CFG_RB_IDX names a frame for readback and clears refused. -/
  | readbackIndexWrite (w : W36)
  /-- R336: A read of CFG_RB_DAT returns the next frame word and advances the word, or returns 0 when readback is refused. -/
  | readbackRead
  /-- R338: Flash service command 1 erases a 4 KiB sector. -/
  | flashEraseSector
  /-- R338: Flash service command 2 erases a 64 KiB block. -/
  | flashEraseBlock
  /-- R338: Flash service command 3 programs the data buffer at the address. -/
  | flashProgram
  /-- R338: Flash service command 4 compares the buffer with the flash. -/
  | flashCompare
  /-- R338: Flash service command 5 reads the flash into the buffer. -/
  | flashRead
  /-- R338: A flash service command ends and its status is set. -/
  | flashServiceDone (ok : Bool)
  /-- R345: A peat pass starts at its period, or as soon as the previous pass ends. -/
  | peatPassStart
  /-- R346: The scrubber reads a frame and corrects it, reloads or isolates its hearth, or lists it as pending. -/
  | frameRead (votes : BitVec 8) (mapBad : Bool) (romBad : Bool)
  /-- R347: A fault report queues its frame address for a priority read. -/
  | scrubPriorityReport (frame : FrameAddr)
  /-- R351: Every 1 ms the MGC checks the scrubber heartbeat and restarts the scrubber, or holds it DEAD. -/
  | scrubHeartbeatCheck
  /-- R376: A 1 written to SCB_CNT.clr sets SCB_CNT and SCB_LAST to 0. -/
  | scrubCntClear
  /-- R354: A 1 written to bit h of SCB_ISO isolates the hearth: the gates take over, the hinges seal and the hearth drains. -/
  | hearthIsolate (h : Fin 36)
  /-- R354: A 0 written to bit h of SCB_ISO reinserts the initial tokens and wakes the hearth. -/
  | hearthIsolateRelease (h : Fin 36)
  /-- R355: A hearth reload is requested; it isolates the hearth, drains it and queues its stream read. -/
  | hearthReloadRequest (h : Fin 36) (cause : ReloadCause)
  /-- R356: 100 ms after a failed scrubber reload, the MGC requests one further reload. -/
  | hearthReloadRetry (h : Fin 36)
  /-- R360: The slice period elapses and the test engine starts the next slice of the round. -/
  | bistSliceStart
  /-- R364: Frames 0 to 8 have been copied to the spare column and the L3 crossbar holds the column's ports. -/
  | columnPrecopyDone
  /-- R364: Every channel in the column has settled and the scan copy to the spare begins. -/
  | columnQuiesced
  /-- R364: Quiescence has not ended by 1 us; the handover is abandoned and the slice is INCOMPLETE. -/
  | columnQuiesceTimeout
  /-- R364: The scan copy and the compare end; steering switches to the spare, or the handover is abandoned. -/
  | columnScanCopyDone (ok : Bool)
  /-- R366: The test of a freed column ends with PASS, FAIL or INCOMPLETE. -/
  | columnTestDone (run : TestRun)
  /-- R366: The test of a freed store block ends. -/
  | blockTestDone (run : TestRun)
  /-- R359: A lane loopback slice ends and a PLL started for the test stops. -/
  | laneTestDone (run : TestRun)
  /-- R358: A FIFO storage slice on an UNUSED FIFO ends. -/
  | fifoTestDone (run : TestRun)
  /-- R367: An MTP write of the older repair-record copy completes. -/
  | repairRecordWriteDone (ok : Bool)
  /-- R369: Writing c to 2804h:02 clears channel c's SDRAM rows in the record from the next power-on reset. -/
  | repairClearSdram (t : Transport) (c : Fin 2)
  /-- R371: A 1 written to SCB_SDT.go makes the fabric inert, puts the channels in self-refresh and starts the full test. -/
  | shutdownTest
  /-- R371: The full test ends; the repairs are applied and the shutdown test record and hours are written. -/
  | fullTestDone (fails : List TestResult) (eligible : BitVec 24) (incomplete : BitVec 24) (ms : BitVec 17)
  /-- R370: The service-hour counter counts one hour, and one hot hour above 105 C. -/
  | serviceHour (hot : Bool)
  /-- R370: Every 24 hours the MGC writes the service-hour counter to MTP. -/
  | serviceHoursSave
  /-- R374: The EXTEST instruction becomes current and takes control of the pins. -/
  | jtagExtest (en : Bool)
  /-- R373: The IDCODE instruction selects the 1243_6373h identification register. -/
  | jtagIdcode (en : Bool)
  /-- R373: The SAMPLE/PRELOAD instruction samples or preloads the boundary register. -/
  | jtagSamplePreload (en : Bool)
  /-- R374: The CLAMP instruction becomes current and takes control of the pins. -/
  | jtagClamp (en : Bool)
  /-- R374: The HIGHZ instruction becomes current and takes control of the pins. -/
  | jtagHighz (en : Bool)
  /-- R374: The IEEE 1149.6 EXTEST_PULSE instruction becomes current and takes control of the pins. -/
  | jtagExtestPulse (en : Bool)
  /-- R374: The IEEE 1149.6 EXTEST_TRAIN instruction becomes current and takes control of the pins. -/
  | jtagExtestTrain (en : Bool)
  /-- R373: BYPASS, or any opcode that acts as BYPASS, selects the bypass register. -/
  | jtagBypass (en : Bool)
  /-- R374: A pin-controlling instruction ends; the pins switch back, the lanes train and the channels exit self-refresh. -/
  | jtagInstructionEnd
  /-- R385: An expedited SDO download writes an object of at most four octets. -/
  | sdoDownloadExpedited (t : Transport) (idx : BitVec 16) (sub : BitVec 8) (data : BitVec 32) (size : Option (BitVec 2))
  /-- R380: A segmented SDO download is initiated. -/
  | sdoDownloadInitiate (t : Transport) (idx : BitVec 16) (sub : BitVec 8) (size : Option (BitVec 32))
  /-- R380: A download segment arrives; the last segment completes the write. -/
  | sdoDownloadSegment (t : Transport) (toggle : Bool) (data : List Octet) (last : Bool)
  /-- R380: An SDO upload of an object is initiated. -/
  | sdoUploadInitiate (t : Transport) (idx : BitVec 16) (sub : BitVec 8)
  /-- R380: An upload segment request returns the next segment. -/
  | sdoUploadSegment (t : Transport) (toggle : Bool)
  /-- R380: The next segment does not arrive within 1F23h:01 and the transfer aborts with 0504 0000h. -/
  | sdoSegmentTimeout (t : Transport)
  /-- R403: A design response packet ends the SDO transfer of a published object. -/
  | pubResponse
  /-- R403: A design event packet raises emergency F000h + e. -/
  | pubEvent
  /-- R403: No design response arrives within tmo; the transfer aborts with 0800 0020h and A006h is raised. -/
  | pubTimeout
  /-- R382: SPI command 01h delivers an SDO request frame, or is refused while a response is unread. -/
  | spiSdoRequest (frame : List Octet)
  /-- R382: SPI command 02h returns the waiting SDO response frame. -/
  | spiReadResponse
  /-- R382: SPI command 03h returns the next queued emergency frame. -/
  | spiReadEmergency
  /-- R382: SPI command 04h returns the status octet again. -/
  | spiReadStatus
  /-- R381: The CAN FD controller enters bus-off and CAN FD traffic waits. -/
  | canBusOff (tec : BitVec 9)
  /-- R381: The CAN FD controller recovers from bus-off and A007h is raised. -/
  | canBusOffRecovered
  /-- R393: The open code written to 1F10h:01 opens the expert hasp of the transport. -/
  | expertHaspOpen (t : Transport) (code : BitVec 18)
  /-- R393: A 0 written to 1F10h:01 closes the expert and calibration hasps of the transport. -/
  | expertHaspClose (t : Transport)
  /-- R393: The idle limit passes without an expert write and the hasp closes. -/
  | haspIdleTimeout (t : Transport)
  /-- R394: The open code written to 1F11h:01 opens the calibration hasp when its conditions hold. -/
  | calHaspOpen (t : Transport) (code : BitVec 18)
  /-- R394: A 0 written to 1F11h:01 closes the calibration hasp. -/
  | calHaspClose (t : Transport)
  /-- R396: Every 1 ms the MGC compares each commanded and actual pair and raises A003h past the settle timeout. -/
  | commandedActualCheck
  /-- R398: The MGC sends the next queued emergency on its transport. -/
  | emergencySend (t : Transport)
  /-- R391: The heartbeat period elapses and the MGC sends the heartbeat octet on CAN FD. -/
  | heartbeatTimer
  /-- R400: A 1 written to bit i of MGC_DB_OUT offers one event on E(1016 + i). -/
  | doorbellRing (i : Fin 32)
  /-- R405: A calibration section object is written with the calibration hasp open, erasing and rewriting the section in MTP. -/
  | calSectionWrite (t : Transport) (sec : Fin 6) (data : List Octet)
  /-- R405: The MTP rewrite of a calibration section ends, its factory bit clears and the MGC answers. -/
  | calWriteDone
  /-- R414: A read of CLK_TB_L returns the low bits and latches the high bits into CLK_TB_H. -/
  | timebaseRead
  /-- R415: The timebase reaches an enabled alarm's compare value; the alarm offers its event and is disabled or advanced. -/
  | alarmFire (a : Fin 16)
  /-- R415: A write to CLK_ALM_L_a loads the whole 72-bit compare value. -/
  | alarmCompareWrite (a : Fin 16) (w : W36)
  /-- R434: A 1 written to CLK_ALM_CFG_a.clr sets skipped to 0. -/
  | alarmSkippedClear (a : Fin 16)
  /-- R435: A write to 2900h:02 loads alarm 15 as a one-shot wake alarm. -/
  | wakeTimeWrite (t : Transport) (tb : W72)
  /-- R424: A staggered-wake slot begins and its hearth starts to fire. -/
  | hearthWakeSlot
  /-- R425: A hearth ends a user reset, reload or isolation and begins to fire; its hinges re-seat. -/
  | singleHearthWake (h : Fin 36)
  /-- R427: PWR_CTL.cmd written SIMMER starts entry to SIMMER. -/
  | pwrCmdSimmer
  /-- R428: PWR_CTL.cmd written RUN starts the exit from SIMMER. -/
  | pwrCmdRun
  /-- R429: PWR_CTL.cmd written BANKED starts entry to BANKED. -/
  | pwrCmdBanked
  /-- R427: The self-refresh entries end and the periphery clocks are divided by 8, and the VFAB ramp begins. -/
  | simmerClockDivide
  /-- R427: SIMMER is not confirmed within 1 ms; the device exits to RUN and 9102h is raised. -/
  | simmerConfirmTimeout
  /-- R429: The self-refresh entries and the MGC save end; the root PLL stops, PWR_RUN goes low and the state is BANKED. -/
  | bankedEntryComplete
  /-- R430: A wake event ends BANKED; PWR_RUN rises and the exit begins. -/
  | bankedWake (src : WakeSource)
  /-- R431: VPER and VFAB come into range, the root PLL locks, the MGC resumes and the retained configuration commits. -/
  | bankedSuppliesReady
  /-- R431: The supplies are not in range 1.5 ms after PWR_RUN rises and 9103h is raised. -/
  | bankedSupplyLate (supplies : BitVec 2)
  /-- R8: A write to a register field without behaviour of its own, including W1C flags, under the access codes. -/
  | registerWrite (fabric : Bool) (addr : Addr) (data : W36)
deriving DecidableEq, Repr

end Sys2Proof
end

