-- ==== Sys2Proof/Decode.lean ====
section
/-! DEFINITION. Decode: the table of commands gives no row any bits, so no word spells a command. -/
namespace Sys2Proof

/-- The command that a word spells by the table's bits: no row of the table has bits. -/
def decodeTableWord (_nbits _w : Nat) : Option Instr := none

end Sys2Proof
end

