-- ==== Sys2Proof/Config.lean ====
section
/-! DEFINITION. Config: the values that the spec leaves open, as constants with no body, so that nothing
can be proved about which value they take. Those with a numeric index are applied to the `free` counter of
State, which a step that needs a fresh value reads and advances (DESIGN CHOICE, log entry 4). -/
namespace Sys2Proof.Config

/-- A fresh word whose value the spec does not state (DESIGN CHOICE, log entry 4). -/
opaque freeWord : Nat → W36

/-- A fresh bit whose value the spec does not state (DESIGN CHOICE, log entry 4). -/
opaque freeBit : Nat → Bool

/-- A fresh number whose value the spec does not state (DESIGN CHOICE, log entry 4). -/
opaque freeNat : Nat → Nat

/-- What the eFuse key holds after a programming that failed its verify, which the spec does not state (DESIGN CHOICE, log entry 4). -/
opaque freeKey : Nat → BitVec 256

/-- What a test leaves in a frame of the column it has tested, which the spec does not state (DESIGN CHOICE, log entry 4). -/
opaque freeFrame : Nat → BitVec 1296

/-- The device's serial number, MGC_SER_L and MGC_SER_H (DESIGN CHOICE, log entry 6). -/
opaque serial : W72

/-- The ROM release number n of 100Ah and 1018h:03 (R399, DESIGN CHOICE, log entry 6). -/
opaque romRelease : BitVec 8

/-- The HNG registers and values that a belt section spells, whose layout the spec leaves to Darurn (R316,
DESIGN CHOICE, log entry 7). -/
opaque beltPairs : List Octet → List (Addr × W36)

/-- Octet `i` of calibration section `sec` as the factory wrote it (R404). -/
opaque factoryCal : Nat → Nat → Octet

/-- Octet `i` of Noriq's generic values for calibration section `sec`, from ROM (R406). -/
opaque genericCal : Nat → Nat → Octet

/-- The bit 'spare capable' of the TRAIN blocks that the device sends, to which Table 8.4 gives no value (DESIGN CHOICE, log
entry 6). -/
opaque spareCapable : Bool

/-- The octets in which 2804h:01 shows a repair record, whose layout the spec does not state: the record's numbers part
by part (DESIGN CHOICE, log entry 17). -/
opaque repairImage : List Nat → List Octet

/-- VFAB leakage at 0.80 V, in uW, at a junction temperature in degrees C between the points of Table 4.5,
for which R86 states no interpolation (DESIGN CHOICE, log entry 13). -/
opaque leakageBetween : Int → Nat

end Sys2Proof.Config
end

