-- ==== Sys2Proof/Machine/Tbl.lean ====
section
/-! DEFINITION. Tbl: a table from natural numbers to values, kept as a list of pairs in one canonical
form: keys strictly rising, and no entry equal to what an unlisted key reads as. -/
namespace Sys2Proof.Machine

/-- A table: (key, value) pairs. What an unlisted key reads as is the `d` its reader passes. -/
abbrev Tbl (α : Type) := List (Nat × α)

/-- The value at key `x`; `d x` where the table lists none. -/
def tget {α : Type} (d : Nat → α) : Tbl α → Nat → α
  | [], x => d x
  | (k, v) :: t, x => if k = x then v else tget d t x

/-- The table without key `x`. -/
def terase {α : Type} (t : Tbl α) (x : Nat) : Tbl α := t.filter (fun e => e.1 != x)

/-- Put an entry before the first greater key. -/
def tinsert {α : Type} (x : Nat) (v : α) : Tbl α → Tbl α
  | [] => [(x, v)]
  | (k, w) :: t => if x < k then (x, v) :: (k, w) :: t else (k, w) :: tinsert x v t

/-- Write `v` at key `x`, keeping the canonical form: writing `d x` removes the entry. -/
def tput {α : Type} [DecidableEq α] (d : Nat → α) (t : Tbl α) (x : Nat) (v : α) : Tbl α :=
  if v = d x then terase t x else tinsert x v (terase t x)

/-- Every key of the table is above `lo`, the keys rise strictly, and no entry holds its default. -/
def twfFrom {α : Type} [DecidableEq α] (d : Nat → α) : Nat → Tbl α → Bool
  | _, [] => true
  | lo, (k, v) :: t => decide (lo ≤ k) && decide (v ≠ d k) && twfFrom d (k + 1) t

/-- The canonical form. -/
def twf {α : Type} [DecidableEq α] (d : Nat → α) (t : Tbl α) : Bool := twfFrom d 0 t

/-- Drop every entry whose key satisfies `p`: those keys read as their default again. -/
def tdrop {α : Type} (p : Nat → Bool) (t : Tbl α) : Tbl α := t.filter (fun e => !(p e.1))

end Sys2Proof.Machine
end

