-- ==== Sys2Proof/Machine/Bits.lean ====
section
/-! DEFINITION. Bits: bit fields of words, and the shape of a register's table row (R8, Table 0.5). -/
namespace Sys2Proof.Machine
open Sys2Proof

/-- A field of a register: its word address, lowest bit and width. -/
structure Field where
  addr : Nat
  lo : Nat
  width : Nat
deriving DecidableEq, Repr

/-- Register access codes (Table 0.5). -/
inductive Access where
  | rw | ro | wo | w1c | w1s
deriving DecidableEq, Repr

/-- One field of a register's table: place, width, access code, and whether the configuration
stream sets it (reset "Stream"). -/
structure FieldInfo where
  lo : Nat
  width : Nat
  acc : Access
  stream : Bool
deriving DecidableEq, Repr

/-- One register or array of registers: the first address, `n1` groups `s1` addresses apart, `n2`
registers in each group, the reset word and the fields. -/
structure RegRange where
  base : Nat
  n1 : Nat
  s1 : Nat
  n2 : Nat
  reset : Nat
  fields : List FieldInfo
deriving DecidableEq, Repr

/-- Whether address `a` is one of the row's registers. -/
def RegRange.covers (r : RegRange) (a : Nat) : Bool :=
  decide (r.base ≤ a) && decide ((a - r.base) / r.s1 < r.n1) && decide ((a - r.base) % r.s1 < r.n2)

/-- Bits [lo + width - 1 : lo] of a word, as a number. -/
def bitsOf {n : Nat} (w : BitVec n) (lo width : Nat) : Nat := w.toNat >>> lo % 2 ^ width

/-- The word with 1 in bits [lo + width - 1 : lo] and 0 elsewhere. -/
def maskOf (lo width : Nat) : W36 := BitVec.ofNat 36 ((2 ^ width - 1) <<< lo)

/-- The word `w` with `v` (its low `width` bits) in bits [lo + width - 1 : lo]. -/
def withBits (w : W36) (lo width v : Nat) : W36 :=
  (w &&& ~~~ maskOf lo width) ||| BitVec.ofNat 36 ((v % 2 ^ width) <<< lo)

/-- Add `k` to a count of `width` bits, stopping at its greatest value. -/
def satAdd (width v k : Nat) : Nat := min (v + k) (2 ^ width - 1)

/-- Bit `i` of a number, as a Bool. -/
def bitN (n i : Nat) : Bool := n >>> i % 2 == 1

/-- 1 for true, 0 for false. -/
def b2n (b : Bool) : Nat := if b then 1 else 0

end Sys2Proof.Machine
end

