-- ==== Sys2Proof/Machine/RegMap.lean ====
section
/-! DEFINITION. RegMap: the register tables of the spec (02 to 16): the word address of every register,
its fields, their access codes and reset values. A field whose reset is "Stream" holds 0 before the first commit,
a host field 63 (R144); a field whose reset is Preset, MTP, Fuse, Strap, Device or Cause holds 0 (DESIGN CHOICE, log entry 3). -/
namespace Sys2Proof.Machine

/-- FAB_URST_REQ: Table 2.13, R45. -/
def FAB_URST_REQ : Nat := 0x100100
def FAB_URST_REQ_req : Field := ⟨0x100100, 0, 36⟩

/-- FAB_URST_STAT: Table 2.14, R45. -/
def FAB_URST_STAT : Nat := 0x100101
def FAB_URST_STAT_bwait_over : Field := ⟨0x100101, 0, 36⟩

/-- FAB_URST_LIM: Table 2.15, R45. -/
def FAB_URST_LIM : Nat := 0x100102
def FAB_URST_LIM_lim : Field := ⟨0x100102, 0, 24⟩

/-- FAB_TOK_FLT: Table 2.16, R45. -/
def FAB_TOK_FLT : Nat := 0x100103
def FAB_TOK_FLT_flt : Field := ⟨0x100103, 0, 36⟩

/-- FAB_TOK_LAST: Table 2.17, R45. -/
def FAB_TOK_LAST : Nat := 0x100104
def FAB_TOK_LAST_hearth : Field := ⟨0x100104, 30, 6⟩
def FAB_TOK_LAST_column : Field := ⟨0x100104, 23, 7⟩
def FAB_TOK_LAST_row : Field := ⟨0x100104, 18, 5⟩
def FAB_TOK_LAST_cell : Field := ⟨0x100104, 12, 6⟩
def FAB_TOK_LAST_kind : Field := ⟨0x100104, 10, 2⟩
def FAB_TOK_LAST_clr : Field := ⟨0x100104, 0, 1⟩

/-- FAB_TOK_CNT: Table 2.18, R45. -/
def FAB_TOK_CNT : Nat := 0x100105
def FAB_TOK_CNT_clr : Field := ⟨0x100105, 35, 1⟩
def FAB_TOK_CNT_cnt : Field := ⟨0x100105, 0, 35⟩

/-- FAB_XB_FLT: Table 3.11, R72. -/
def FAB_XB_FLT : Nat := 0x100110
def FAB_XB_FLT_flt : Field := ⟨0x100110, 0, 36⟩

/-- FAB_XB_LAST: Table 3.12, R72. -/
def FAB_XB_LAST : Nat := 0x100111
def FAB_XB_LAST_level : Field := ⟨0x100111, 34, 2⟩
def FAB_XB_LAST_hearth : Field := ⟨0x100111, 28, 6⟩
def FAB_XB_LAST_column : Field := ⟨0x100111, 21, 7⟩
def FAB_XB_LAST_dest : Field := ⟨0x100111, 6, 15⟩
def FAB_XB_LAST_open : Field := ⟨0x100111, 5, 1⟩
def FAB_XB_LAST_clr : Field := ⟨0x100111, 0, 1⟩

/-- FAB_XB_CNT: Table 3.13, R72. -/
def FAB_XB_CNT : Nat := 0x100112
def FAB_XB_CNT_clr : Field := ⟨0x100112, 35, 1⟩
def FAB_XB_CNT_cnt : Field := ⟨0x100112, 0, 35⟩

/-- FAB_STEER_IDX: Table 3.14, R72. -/
def FAB_STEER_IDX : Nat := 0x100120
def FAB_STEER_IDX_hearth : Field := ⟨0x100120, 7, 6⟩
def FAB_STEER_IDX_lcol : Field := ⟨0x100120, 0, 7⟩

/-- FAB_STEER_VAL: Table 3.15, R72. -/
def FAB_STEER_VAL : Nat := 0x100121
def FAB_STEER_VAL_state : Field := ⟨0x100121, 8, 2⟩
def FAB_STEER_VAL_pcol : Field := ⟨0x100121, 0, 7⟩

/-- FAB_STEER_CHG: Table 3.16, R72. -/
def FAB_STEER_CHG : Nat := 0x100122
def FAB_STEER_CHG_cnt : Field := ⟨0x100122, 0, 36⟩

/-- FAB_PRB_SEL_p: Table 3.17, R72. -/
def FAB_PRB_SEL (p : Nat) : Nat := 0x100140 + p
def FAB_PRB_SEL_level (p : Nat) : Field := ⟨0x100140 + p, 33, 3⟩
def FAB_PRB_SEL_hearth (p : Nat) : Field := ⟨0x100140 + p, 27, 6⟩
def FAB_PRB_SEL_column (p : Nat) : Field := ⟨0x100140 + p, 20, 7⟩
def FAB_PRB_SEL_row (p : Nat) : Field := ⟨0x100140 + p, 15, 5⟩
def FAB_PRB_SEL_dest (p : Nat) : Field := ⟨0x100140 + p, 0, 15⟩

/-- FAB_PRB_PIN_p: Table 3.18, R72. -/
def FAB_PRB_PIN (p : Nat) : Nat := 0x100150 + p
def FAB_PRB_PIN_en (p : Nat) : Field := ⟨0x100150 + p, 35, 1⟩
def FAB_PRB_PIN_mode (p : Nat) : Field := ⟨0x100150 + p, 34, 1⟩
def FAB_PRB_PIN_refused (p : Nat) : Field := ⟨0x100150 + p, 33, 1⟩
def FAB_PRB_PIN_sig (p : Nat) : Field := ⟨0x100150 + p, 30, 3⟩
def FAB_PRB_PIN_div (p : Nat) : Field := ⟨0x100150 + p, 27, 3⟩
def FAB_PRB_PIN_bank (p : Nat) : Field := ⟨0x100150 + p, 6, 4⟩
def FAB_PRB_PIN_pin (p : Nat) : Field := ⟨0x100150 + p, 0, 6⟩

/-- FAB_PACE_h: Table 4.8, R98. -/
def FAB_PACE (h : Nat) : Nat := 0x100200 + h
def FAB_PACE_pace (h : Nat) : Field := ⟨0x100200 + h, 24, 12⟩
def FAB_PACE_factor (h : Nat) : Field := ⟨0x100200 + h, 12, 12⟩
def FAB_PACE_status (h : Nat) : Field := ⟨0x100200 + h, 10, 2⟩

/-- FAB_PACE_CFG: Table 4.9, R98. -/
def FAB_PACE_CFG : Nat := 0x100230
def FAB_PACE_CFG_period : Field := ⟨0x100230, 0, 24⟩

/-- FAB_GOV_CFG: Table 4.10, R98. -/
def FAB_GOV_CFG : Nat := 0x100231
def FAB_GOV_CFG_en : Field := ⟨0x100231, 35, 1⟩
def FAB_GOV_CFG_max_stretch : Field := ⟨0x100231, 29, 6⟩
def FAB_GOV_CFG_budget : Field := ⟨0x100231, 17, 12⟩

/-- FAB_GOV_EXEMPT: Table 4.11, R98. -/
def FAB_GOV_EXEMPT : Nat := 0x100232
def FAB_GOV_EXEMPT_exempt : Field := ⟨0x100232, 0, 36⟩

/-- FAB_GOV_STAT: Table 4.12, R98. -/
def FAB_GOV_STAT : Nat := 0x100233
def FAB_GOV_STAT_cap : Field := ⟨0x100233, 35, 1⟩
def FAB_GOV_STAT_warm : Field := ⟨0x100233, 34, 1⟩
def FAB_GOV_STAT_stale : Field := ⟨0x100233, 33, 1⟩
def FAB_GOV_STAT_p_est : Field := ⟨0x100233, 21, 12⟩
def FAB_GOV_STAT_p_leak : Field := ⟨0x100233, 9, 12⟩

/-- FAB_VFAB_CTL: Table 4.13, R98. -/
def FAB_VFAB_CTL : Nat := 0x100234
def FAB_VFAB_CTL_target : Field := ⟨0x100234, 16, 10⟩
def FAB_VFAB_CTL_actual : Field := ⟨0x100234, 6, 10⟩
def FAB_VFAB_CTL_ramping : Field := ⟨0x100234, 5, 1⟩
def FAB_VFAB_CTL_fault : Field := ⟨0x100234, 4, 1⟩

/-- FAB_VFAB_PMB: Table 4.14, R98. -/
def FAB_VFAB_PMB : Nat := 0x100235
def FAB_VFAB_PMB_en : Field := ⟨0x100235, 7, 1⟩
def FAB_VFAB_PMB_addr : Field := ⟨0x100235, 0, 7⟩

/-- FAB_GOV_LVL_j: Table 4.15, R98. -/
def FAB_GOV_LVL (j : Nat) : Nat := 0x100240 + j
def FAB_GOV_LVL_lvl5 (j : Nat) : Field := ⟨0x100240 + j, 30, 6⟩
def FAB_GOV_LVL_lvl4 (j : Nat) : Field := ⟨0x100240 + j, 24, 6⟩
def FAB_GOV_LVL_lvl3 (j : Nat) : Field := ⟨0x100240 + j, 18, 6⟩
def FAB_GOV_LVL_lvl2 (j : Nat) : Field := ⟨0x100240 + j, 12, 6⟩
def FAB_GOV_LVL_lvl1 (j : Nat) : Field := ⟨0x100240 + j, 6, 6⟩
def FAB_GOV_LVL_lvl0 (j : Nat) : Field := ⟨0x100240 + j, 0, 6⟩

/-- FAB_GOV_PWR_h: Table 4.16, R98. -/
def FAB_GOV_PWR (h : Nat) : Nat := 0x100250 + h
def FAB_GOV_PWR_p_dyn (h : Nat) : Field := ⟨0x100250 + h, 24, 12⟩

/-- FAB_SB_IDX: Table 5.7, R116. -/
def FAB_SB_IDX : Nat := 0x100300
def FAB_SB_IDX_hearth : Field := ⟨0x100300, 7, 6⟩
def FAB_SB_IDX_slot : Field := ⟨0x100300, 0, 7⟩

/-- FAB_SB_VAL: Table 5.8, R116. -/
def FAB_SB_VAL : Nat := 0x100301
def FAB_SB_VAL_norot : Field := ⟨0x100301, 25, 1⟩
def FAB_SB_VAL_pri : Field := ⟨0x100301, 23, 2⟩
def FAB_SB_VAL_init : Field := ⟨0x100301, 21, 2⟩
def FAB_SB_VAL_wb : Field := ⟨0x100301, 19, 2⟩
def FAB_SB_VAL_wa : Field := ⟨0x100301, 17, 2⟩
def FAB_SB_VAL_rows_used : Field := ⟨0x100301, 12, 5⟩
def FAB_SB_VAL_state : Field := ⟨0x100301, 10, 2⟩
def FAB_SB_VAL_pblk : Field := ⟨0x100301, 0, 7⟩

/-- FAB_SB_FLT: Table 5.9, R116. -/
def FAB_SB_FLT : Nat := 0x100302
def FAB_SB_FLT_flt : Field := ⟨0x100302, 0, 36⟩

/-- FAB_SB_LAST: Table 5.10, R116. -/
def FAB_SB_LAST : Nat := 0x100303
def FAB_SB_LAST_hearth : Field := ⟨0x100303, 30, 6⟩
def FAB_SB_LAST_slot : Field := ⟨0x100303, 23, 7⟩
def FAB_SB_LAST_port : Field := ⟨0x100303, 22, 1⟩
def FAB_SB_LAST_kind : Field := ⟨0x100303, 20, 2⟩
def FAB_SB_LAST_clr : Field := ⟨0x100303, 0, 1⟩

/-- HNG_EV_CFG_i: Table 6.17, R144. -/
def HNG_EV_CFG (i : Nat) : Nat := 0x200000 + i
def HNG_EV_CFG_host (i : Nat) : Field := ⟨0x200000 + i, 30, 6⟩
def HNG_EV_CFG_base (i : Nat) : Field := ⟨0x200000 + i, 21, 9⟩
def HNG_EV_CFG_dir (i : Nat) : Field := ⟨0x200000 + i, 20, 1⟩
def HNG_EV_CFG_clk (i : Nat) : Field := ⟨0x200000 + i, 17, 3⟩
def HNG_EV_CFG_clk_arg (i : Nat) : Field := ⟨0x200000 + i, 12, 5⟩
def HNG_EV_CFG_sync3 (i : Nat) : Field := ⟨0x200000 + i, 11, 1⟩
def HNG_EV_CFG_stall_sel (i : Nat) : Field := ⟨0x200000 + i, 9, 2⟩
def HNG_EV_CFG_merge_em (i : Nat) : Field := ⟨0x200000 + i, 8, 1⟩

/-- HNG_EV_STAT_i: Table 6.18, R144. -/
def HNG_EV_STAT (i : Nat) : Nat := 0x200800 + i
def HNG_EV_STAT_state (i : Nat) : Field := ⟨0x200800 + i, 34, 2⟩
def HNG_EV_STAT_pending (i : Nat) : Field := ⟨0x200800 + i, 33, 1⟩
def HNG_EV_STAT_merged (i : Nat) : Field := ⟨0x200800 + i, 32, 1⟩
def HNG_EV_STAT_mcount (i : Nat) : Field := ⟨0x200800 + i, 23, 9⟩
def HNG_EV_STAT_stall (i : Nat) : Field := ⟨0x200800 + i, 22, 1⟩
def HNG_EV_STAT_stall_side (i : Nat) : Field := ⟨0x200800 + i, 21, 1⟩
def HNG_EV_STAT_disc (i : Nat) : Field := ⟨0x200800 + i, 12, 9⟩
def HNG_EV_STAT_refused (i : Nat) : Field := ⟨0x200800 + i, 3, 9⟩
def HNG_EV_STAT_clr (i : Nat) : Field := ⟨0x200800 + i, 0, 1⟩

/-- HNG_WD_CFG_j: Table 6.19, R144. -/
def HNG_WD_CFG (j : Nat) : Nat := 0x201000 + j
def HNG_WD_CFG_host (j : Nat) : Field := ⟨0x201000 + j, 30, 6⟩
def HNG_WD_CFG_base (j : Nat) : Field := ⟨0x201000 + j, 21, 9⟩
def HNG_WD_CFG_dir (j : Nat) : Field := ⟨0x201000 + j, 20, 1⟩
def HNG_WD_CFG_clk (j : Nat) : Field := ⟨0x201000 + j, 17, 3⟩
def HNG_WD_CFG_clk_arg (j : Nat) : Field := ⟨0x201000 + j, 12, 5⟩
def HNG_WD_CFG_sync3 (j : Nat) : Field := ⟨0x201000 + j, 11, 1⟩
def HNG_WD_CFG_stall_sel (j : Nat) : Field := ⟨0x201000 + j, 9, 2⟩
def HNG_WD_CFG_jump_em (j : Nat) : Field := ⟨0x201000 + j, 8, 1⟩
def HNG_WD_CFG_mode (j : Nat) : Field := ⟨0x201000 + j, 7, 1⟩
def HNG_WD_CFG_width (j : Nat) : Field := ⟨0x201000 + j, 1, 6⟩

/-- HNG_WD_STAT_j: Table 6.20, R144. -/
def HNG_WD_STAT (j : Nat) : Nat := 0x201200 + j
def HNG_WD_STAT_state (j : Nat) : Field := ⟨0x201200 + j, 34, 2⟩
def HNG_WD_STAT_jump (j : Nat) : Field := ⟨0x201200 + j, 33, 1⟩
def HNG_WD_STAT_jcount (j : Nat) : Field := ⟨0x201200 + j, 24, 9⟩
def HNG_WD_STAT_stall (j : Nat) : Field := ⟨0x201200 + j, 23, 1⟩
def HNG_WD_STAT_stall_side (j : Nat) : Field := ⟨0x201200 + j, 22, 1⟩
def HNG_WD_STAT_disc (j : Nat) : Field := ⟨0x201200 + j, 13, 9⟩
def HNG_WD_STAT_clr (j : Nat) : Field := ⟨0x201200 + j, 0, 1⟩

/-- HNG_WD_VAL_j: Table 6.21, R144. -/
def HNG_WD_VAL (j : Nat) : Nat := 0x201400 + j
def HNG_WD_VAL_val (j : Nat) : Field := ⟨0x201400 + j, 0, 36⟩

/-- HNG_WD_INIT_j: Table 6.22, R144. -/
def HNG_WD_INIT (j : Nat) : Nat := 0x201600 + j
def HNG_WD_INIT_init (j : Nat) : Field := ⟨0x201600 + j, 0, 36⟩

/-- HNG_STALL_LIM_k: Table 6.23, R144. -/
def HNG_STALL_LIM (k : Nat) : Nat := 0x202000 + k
def HNG_STALL_LIM_lim (k : Nat) : Field := ⟨0x202000 + k, 0, 10⟩

/-- HNG_STALL_LAST: Table 6.24, R144. -/
def HNG_STALL_LAST : Nat := 0x202004
def HNG_STALL_LAST_kind : Field := ⟨0x202004, 34, 2⟩
def HNG_STALL_LAST_index : Field := ⟨0x202004, 23, 11⟩
def HNG_STALL_LAST_side : Field := ⟨0x202004, 22, 1⟩
def HNG_STALL_LAST_open : Field := ⟨0x202004, 21, 1⟩
def HNG_STALL_LAST_valid : Field := ⟨0x202004, 20, 1⟩
def HNG_STALL_LAST_clr : Field := ⟨0x202004, 0, 1⟩

/-- HNG_SIDE_RST: Table 6.25, R144. -/
def HNG_SIDE_RST : Nat := 0x202005
def HNG_SIDE_RST_kind : Field := ⟨0x202005, 34, 2⟩
def HNG_SIDE_RST_index : Field := ⟨0x202005, 23, 11⟩
def HNG_SIDE_RST_go : Field := ⟨0x202005, 0, 1⟩

/-- HNG_SEAL_CNT: Table 6.26, R144. -/
def HNG_SEAL_CNT : Nat := 0x202006
def HNG_SEAL_CNT_cnt : Field := ⟨0x202006, 0, 36⟩

/-- HNG_UCLK_k: Table 6.27, R144. -/
def HNG_UCLK (k : Nat) : Nat := 0x202010 + k
def HNG_UCLK_en (k : Nat) : Field := ⟨0x202010 + k, 35, 1⟩
def HNG_UCLK_present (k : Nat) : Field := ⟨0x202010 + k, 34, 1⟩
def HNG_UCLK_lost (k : Nat) : Field := ⟨0x202010 + k, 33, 1⟩
def HNG_UCLK_refused (k : Nat) : Field := ⟨0x202010 + k, 32, 1⟩
def HNG_UCLK_bank (k : Nat) : Field := ⟨0x202010 + k, 6, 4⟩
def HNG_UCLK_pin (k : Nat) : Field := ⟨0x202010 + k, 0, 6⟩

/-- HNG_CTLH_CFG: Table 6.28, R144. -/
def HNG_CTLH_CFG : Nat := 0x202020
def HNG_CTLH_CFG_host : Field := ⟨0x202020, 30, 6⟩
def HNG_CTLH_CFG_base : Field := ⟨0x202020, 21, 9⟩
def HNG_CTLH_CFG_win : Field := ⟨0x202020, 10, 11⟩
def HNG_CTLH_CFG_stall_sel : Field := ⟨0x202020, 8, 2⟩

/-- HNG_CTLH_STAT: Table 6.29, R144. -/
def HNG_CTLH_STAT : Nat := 0x202021
def HNG_CTLH_STAT_state : Field := ⟨0x202021, 34, 2⟩
def HNG_CTLH_STAT_refused : Field := ⟨0x202021, 33, 1⟩
def HNG_CTLH_STAT_stall : Field := ⟨0x202021, 32, 1⟩
def HNG_CTLH_STAT_stall_side : Field := ⟨0x202021, 31, 1⟩
def HNG_CTLH_STAT_last_addr : Field := ⟨0x202021, 7, 24⟩
def HNG_CTLH_STAT_clr : Field := ⟨0x202021, 0, 1⟩

/-- HNG_FIFO_CFG_f: Table 7.13, R168. -/
def HNG_FIFO_CFG (f : Nat) : Nat := 0x203000 + f
def HNG_FIFO_CFG_host (f : Nat) : Field := ⟨0x203000 + f, 30, 6⟩
def HNG_FIFO_CFG_base (f : Nat) : Field := ⟨0x203000 + f, 21, 9⟩
def HNG_FIFO_CFG_wkind (f : Nat) : Field := ⟨0x203000 + f, 19, 2⟩
def HNG_FIFO_CFG_rkind (f : Nat) : Field := ⟨0x203000 + f, 17, 2⟩
def HNG_FIFO_CFG_pmode (f : Nat) : Field := ⟨0x203000 + f, 16, 1⟩
def HNG_FIFO_CFG_stall_sel (f : Nat) : Field := ⟨0x203000 + f, 14, 2⟩
def HNG_FIFO_CFG_disc_em (f : Nat) : Field := ⟨0x203000 + f, 13, 1⟩

/-- HNG_FIFO_CLK_f: Table 7.14, R168. -/
def HNG_FIFO_CLK (f : Nat) : Nat := 0x203080 + f
def HNG_FIFO_CLK_wclk (f : Nat) : Field := ⟨0x203080 + f, 33, 3⟩
def HNG_FIFO_CLK_wclk_arg (f : Nat) : Field := ⟨0x203080 + f, 28, 5⟩
def HNG_FIFO_CLK_rclk (f : Nat) : Field := ⟨0x203080 + f, 25, 3⟩
def HNG_FIFO_CLK_rclk_arg (f : Nat) : Field := ⟨0x203080 + f, 20, 5⟩
def HNG_FIFO_CLK_sync (f : Nat) : Field := ⟨0x203080 + f, 19, 1⟩

/-- HNG_FIFO_CTL_f: Table 7.15, R168. -/
def HNG_FIFO_CTL (f : Nat) : Nat := 0x203100 + f
def HNG_FIFO_CTL_flush_pkt (f : Nat) : Field := ⟨0x203100 + f, 35, 1⟩
def HNG_FIFO_CTL_clear_now (f : Nat) : Field := ⟨0x203100 + f, 34, 1⟩
def HNG_FIFO_CTL_seal_pre (f : Nat) : Field := ⟨0x203100 + f, 33, 1⟩
def HNG_FIFO_CTL_cnt_clr (f : Nat) : Field := ⟨0x203100 + f, 32, 1⟩
def HNG_FIFO_CTL_seal_to (f : Nat) : Field := ⟨0x203100 + f, 0, 24⟩

/-- HNG_FIFO_STAT_f: Table 7.16, R168. -/
def HNG_FIFO_STAT (f : Nat) : Nat := 0x203180 + f
def HNG_FIFO_STAT_state (f : Nat) : Field := ⟨0x203180 + f, 34, 2⟩
def HNG_FIFO_STAT_wfull (f : Nat) : Field := ⟨0x203180 + f, 33, 1⟩
def HNG_FIFO_STAT_rempty (f : Nat) : Field := ⟨0x203180 + f, 32, 1⟩
def HNG_FIFO_STAT_wlevel (f : Nat) : Field := ⟨0x203180 + f, 22, 10⟩
def HNG_FIFO_STAT_rdepth (f : Nat) : Field := ⟨0x203180 + f, 11, 11⟩
def HNG_FIFO_STAT_fbank (f : Nat) : Field := ⟨0x203180 + f, 10, 1⟩
def HNG_FIFO_STAT_stall (f : Nat) : Field := ⟨0x203180 + f, 9, 1⟩
def HNG_FIFO_STAT_stall_side (f : Nat) : Field := ⟨0x203180 + f, 8, 1⟩
def HNG_FIFO_STAT_wdrop (f : Nat) : Field := ⟨0x203180 + f, 7, 1⟩
def HNG_FIFO_STAT_rmid (f : Nat) : Field := ⟨0x203180 + f, 6, 1⟩

/-- HNG_FIFO_CNT_f: Table 7.17, R168. -/
def HNG_FIFO_CNT (f : Nat) : Nat := 0x203200 + f
def HNG_FIFO_CNT_disc_seal (f : Nat) : Field := ⟨0x203200 + f, 18, 18⟩
def HNG_FIFO_CNT_disc_flush (f : Nat) : Field := ⟨0x203200 + f, 0, 18⟩

/-- HNG_FIFO_MBD_g: Table 7.18, R168. -/
def HNG_FIFO_MBD (g : Nat) : Nat := 0x203280 + g
def HNG_FIFO_MBD_data (g : Nat) : Field := ⟨0x203280 + g, 0, 36⟩

/-- HNG_FIFO_MBC_g: Table 7.19, R168. -/
def HNG_FIFO_MBC (g : Nat) : Nat := 0x2032c0 + g
def HNG_FIFO_MBC_push (g : Nat) : Field := ⟨0x2032c0 + g, 35, 1⟩
def HNG_FIFO_MBC_pop (g : Nat) : Field := ⟨0x2032c0 + g, 34, 1⟩
def HNG_FIFO_MBC_e (g : Nat) : Field := ⟨0x2032c0 + g, 33, 1⟩
def HNG_FIFO_MBC_a (g : Nat) : Field := ⟨0x2032c0 + g, 32, 1⟩
def HNG_FIFO_MBC_ok (g : Nat) : Field := ⟨0x2032c0 + g, 31, 1⟩

/-- LNE_CORD_CFG_n: Table 8.16, R198. -/
def LNE_CORD_CFG (n : Nat) : Nat := 0x300000 + n
def LNE_CORD_CFG_rate (n : Nat) : Field := ⟨0x300000 + n, 34, 2⟩
def LNE_CORD_CFG_pll_lock (n : Nat) : Field := ⟨0x300000 + n, 33, 1⟩
def LNE_CORD_CFG_ref_lost (n : Nat) : Field := ⟨0x300000 + n, 32, 1⟩
def LNE_CORD_CFG_map3 (n : Nat) : Field := ⟨0x300000 + n, 30, 2⟩
def LNE_CORD_CFG_map2 (n : Nat) : Field := ⟨0x300000 + n, 28, 2⟩
def LNE_CORD_CFG_map1 (n : Nat) : Field := ⟨0x300000 + n, 26, 2⟩
def LNE_CORD_CFG_map0 (n : Nat) : Field := ⟨0x300000 + n, 24, 2⟩

/-- LNE_CTL_l: Table 8.17, R198. -/
def LNE_CTL (l : Nat) : Nat := 0x300010 + l
def LNE_CTL_mode (l : Nat) : Field := ⟨0x300010 + l, 34, 2⟩
def LNE_CTL_pwr_state (l : Nat) : Field := ⟨0x300010 + l, 32, 2⟩
def LNE_CTL_retrain (l : Nat) : Field := ⟨0x300010 + l, 31, 1⟩
def LNE_CTL_tx_down (l : Nat) : Field := ⟨0x300010 + l, 30, 1⟩
def LNE_CTL_autowake (l : Nat) : Field := ⟨0x300010 + l, 29, 1⟩
def LNE_CTL_loop (l : Nat) : Field := ⟨0x300010 + l, 27, 2⟩
def LNE_CTL_adapt_en (l : Nat) : Field := ⟨0x300010 + l, 26, 1⟩
def LNE_CTL_cnt_clr (l : Nat) : Field := ⟨0x300010 + l, 25, 1⟩

/-- LNE_STAT_l: Table 8.18, R198. -/
def LNE_STAT (l : Nat) : Nat := 0x300030 + l
def LNE_STAT_link (l : Nat) : Field := ⟨0x300030 + l, 34, 2⟩
def LNE_STAT_align (l : Nat) : Field := ⟨0x300030 + l, 32, 2⟩
def LNE_STAT_pwr_act (l : Nat) : Field := ⟨0x300030 + l, 30, 2⟩
def LNE_STAT_rx_hold (l : Nat) : Field := ⟨0x300030 + l, 29, 1⟩
def LNE_STAT_frozen (l : Nat) : Field := ⟨0x300030 + l, 28, 1⟩
def LNE_STAT_partner (l : Nat) : Field := ⟨0x300030 + l, 27, 1⟩
def LNE_STAT_spare_ref (l : Nat) : Field := ⟨0x300030 + l, 26, 1⟩
def LNE_STAT_phys (l : Nat) : Field := ⟨0x300030 + l, 24, 2⟩
def LNE_STAT_attempts (l : Nat) : Field := ⟨0x300030 + l, 14, 10⟩
def LNE_STAT_backoff (l : Nat) : Field := ⟨0x300030 + l, 4, 10⟩

/-- LNE_ERR_l: Table 8.19, R198. -/
def LNE_ERR (l : Nat) : Nat := 0x300050 + l
def LNE_ERR_hdr (l : Nat) : Field := ⟨0x300050 + l, 18, 18⟩
def LNE_ERR_blk (l : Nat) : Field := ⟨0x300050 + l, 0, 18⟩

/-- LNE_PKT_l: Table 8.20, R198. -/
def LNE_PKT (l : Nat) : Nat := 0x300070 + l
def LNE_PKT_lockloss (l : Nat) : Field := ⟨0x300070 + l, 27, 9⟩
def LNE_PKT_crc (l : Nat) : Field := ⟨0x300070 + l, 18, 9⟩
def LNE_PKT_ovf (l : Nat) : Field := ⟨0x300070 + l, 9, 9⟩
def LNE_PKT_txerr (l : Nat) : Field := ⟨0x300070 + l, 0, 9⟩

/-- LNE_EQ_p: Table 8.21, R198. -/
def LNE_EQ (p : Nat) : Nat := 0x300090 + p
def LNE_EQ_ctle (p : Nat) : Field := ⟨0x300090 + p, 31, 5⟩
def LNE_EQ_dfe1 (p : Nat) : Field := ⟨0x300090 + p, 25, 6⟩
def LNE_EQ_dfe2 (p : Nat) : Field := ⟨0x300090 + p, 19, 6⟩
def LNE_EQ_dfe3 (p : Nat) : Field := ⟨0x300090 + p, 13, 6⟩
def LNE_EQ_dfe4 (p : Nat) : Field := ⟨0x300090 + p, 7, 6⟩
def LNE_EQ_dfe5 (p : Nat) : Field := ⟨0x300090 + p, 1, 6⟩
def LNE_EQ_src (p : Nat) : Field := ⟨0x300090 + p, 0, 1⟩

/-- LNE_TXEQ_p: Table 8.22, R198. -/
def LNE_TXEQ (p : Nat) : Nat := 0x3000b0 + p
def LNE_TXEQ_pre (p : Nat) : Field := ⟨0x3000b0 + p, 31, 5⟩
def LNE_TXEQ_main (p : Nat) : Field := ⟨0x3000b0 + p, 25, 6⟩
def LNE_TXEQ_post (p : Nat) : Field := ⟨0x3000b0 + p, 19, 6⟩

/-- LNE_SEEK_CFG: Table 8.23, R198. -/
def LNE_SEEK_CFG : Nat := 0x3000d0
def LNE_SEEK_CFG_tmo : Field := ⟨0x3000d0, 24, 12⟩
def LNE_SEEK_CFG_bmin : Field := ⟨0x3000d0, 14, 10⟩
def LNE_SEEK_CFG_bmax : Field := ⟨0x3000d0, 4, 10⟩

/-- KWR_CFG_k: Table 9.8, R230. -/
def KWR_CFG (k : Nat) : Nat := 0x380000 + k
def KWR_CFG_role (k : Nat) : Field := ⟨0x380000 + k, 34, 2⟩
def KWR_CFG_width (k : Nat) : Field := ⟨0x380000 + k, 32, 2⟩
def KWR_CFG_mslots (k : Nat) : Field := ⟨0x380000 + k, 24, 8⟩
def KWR_CFG_hop_dly (k : Nat) : Field := ⟨0x380000 + k, 12, 12⟩
def KWR_CFG_tsync (k : Nat) : Field := ⟨0x380000 + k, 11, 1⟩

/-- KWR_CYC_k: Table 9.9, R230. -/
def KWR_CYC (k : Nat) : Nat := 0x380008 + k
def KWR_CYC_sb (k : Nat) : Field := ⟨0x380008 + k, 27, 9⟩
def KWR_CYC_period (k : Nat) : Field := ⟨0x380008 + k, 0, 22⟩

/-- KWR_XWIN_k: Table 9.10, R230. -/
def KWR_XWIN (k : Nat) : Nat := 0x380010 + k
def KWR_XWIN_xo (k : Nat) : Field := ⟨0x380010 + k, 23, 13⟩
def KWR_XWIN_xl (k : Nat) : Field := ⟨0x380010 + k, 12, 11⟩

/-- KWR_IWIN_k: Table 9.11, R230. -/
def KWR_IWIN (k : Nat) : Nat := 0x380018 + k
def KWR_IWIN_io (k : Nat) : Field := ⟨0x380018 + k, 23, 13⟩
def KWR_IWIN_il (k : Nat) : Field := ⟨0x380018 + k, 12, 11⟩

/-- KWR_STAT_k: Table 9.12, R230. -/
def KWR_STAT (k : Nat) : Nat := 0x380020 + k
def KWR_STAT_state (k : Nat) : Field := ⟨0x380020 + k, 33, 3⟩
def KWR_STAT_position (k : Nat) : Field := ⟨0x380020 + k, 25, 8⟩
def KWR_STAT_nodes (k : Nat) : Field := ⟨0x380020 + k, 17, 8⟩
def KWR_STAT_aligned (k : Nat) : Field := ⟨0x380020 + k, 16, 1⟩
def KWR_STAT_bp (k : Nat) : Field := ⟨0x380020 + k, 15, 1⟩
def KWR_STAT_alarm (k : Nat) : Field := ⟨0x380020 + k, 14, 1⟩
def KWR_STAT_fault (k : Nat) : Field := ⟨0x380020 + k, 12, 2⟩

/-- KWR_TIME_k: Table 9.13, R230. -/
def KWR_TIME (k : Nat) : Nat := 0x380028 + k
def KWR_TIME_offset (k : Nat) : Field := ⟨0x380028 + k, 20, 16⟩
def KWR_TIME_loop_err (k : Nat) : Field := ⟨0x380028 + k, 19, 1⟩
def KWR_TIME_stepped (k : Nat) : Field := ⟨0x380028 + k, 18, 1⟩

/-- KWR_LOOP_k: Table 9.14, R230. -/
def KWR_LOOP (k : Nat) : Nat := 0x380030 + k
def KWR_LOOP_loop (k : Nat) : Field := ⟨0x380030 + k, 12, 24⟩

/-- KWR_RPL_k: Table 9.15, R230. -/
def KWR_RPL (k : Nat) : Nat := 0x380038 + k
def KWR_RPL_mark (k : Nat) : Field := ⟨0x380038 + k, 22, 14⟩
def KWR_RPL_used (k : Nat) : Field := ⟨0x380038 + k, 7, 15⟩

/-- KWR_CNT_k: Table 9.16, R230. -/
def KWR_CNT (k : Nat) : Nat := 0x380040 + k
def KWR_CNT_replay (k : Nat) : Field := ⟨0x380040 + k, 27, 9⟩
def KWR_CNT_reseat (k : Nat) : Field := ⟨0x380040 + k, 18, 9⟩
def KWR_CNT_lost (k : Nat) : Field := ⟨0x380040 + k, 9, 9⟩
def KWR_CNT_stale (k : Nat) : Field := ⟨0x380040 + k, 0, 9⟩

/-- KWR_CTL_k: Table 9.17, R230. -/
def KWR_CTL (k : Nat) : Nat := 0x380048 + k
def KWR_CTL_cnt_clr (k : Nat) : Field := ⟨0x380048 + k, 35, 1⟩
def KWR_CTL_alarm (k : Nat) : Field := ⟨0x380048 + k, 34, 1⟩
def KWR_CTL_alarm_clr (k : Nat) : Field := ⟨0x380048 + k, 33, 1⟩

/-- KWR_MCNT_k: Table 9.18, R230. -/
def KWR_MCNT (k : Nat) : Nat := 0x380050 + k
def KWR_MCNT_missed (k : Nat) : Field := ⟨0x380050 + k, 27, 9⟩
def KWR_MCNT_bad (k : Nat) : Field := ⟨0x380050 + k, 9, 18⟩
def KWR_MCNT_ins_err (k : Nat) : Field := ⟨0x380050 + k, 0, 9⟩

/-- DRM_CFG_c: Table 10.14, R255. -/
def DRM_CFG (c : Nat) : Nat := 0x400000 + c
def DRM_CFG_en (c : Nat) : Field := ⟨0x400000 + c, 35, 1⟩
def DRM_CFG_dw (c : Nat) : Field := ⟨0x400000 + c, 34, 1⟩
def DRM_CFG_dens (c : Nat) : Field := ⟨0x400000 + c, 33, 1⟩
def DRM_CFG_ranks (c : Nat) : Field := ⟨0x400000 + c, 32, 1⟩
def DRM_CFG_rate (c : Nat) : Field := ⟨0x400000 + c, 30, 2⟩
def DRM_CFG_map (c : Nat) : Field := ⟨0x400000 + c, 28, 2⟩
def DRM_CFG_rsv (c : Nat) : Field := ⟨0x400000 + c, 27, 1⟩
def DRM_CFG_wb (c : Nat) : Field := ⟨0x400000 + c, 26, 1⟩
def DRM_CFG_simmer_sr (c : Nat) : Field := ⟨0x400000 + c, 25, 1⟩
def DRM_CFG_ppr_en (c : Nat) : Field := ⟨0x400000 + c, 24, 1⟩
def DRM_CFG_rthr (c : Nat) : Field := ⟨0x400000 + c, 16, 8⟩

/-- DRM_TIMA_c_r: Table 10.15, R255. -/
def DRM_TIMA (c : Nat) (r : Nat) : Nat := 0x400010 + 4 * c + r
def DRM_TIMA_cl (c : Nat) (r : Nat) : Field := ⟨0x400010 + 4 * c + r, 30, 6⟩
def DRM_TIMA_cwl (c : Nat) (r : Nat) : Field := ⟨0x400010 + 4 * c + r, 24, 6⟩
def DRM_TIMA_trcd (c : Nat) (r : Nat) : Field := ⟨0x400010 + 4 * c + r, 18, 6⟩
def DRM_TIMA_trp (c : Nat) (r : Nat) : Field := ⟨0x400010 + 4 * c + r, 12, 6⟩
def DRM_TIMA_tras (c : Nat) (r : Nat) : Field := ⟨0x400010 + 4 * c + r, 4, 8⟩

/-- DRM_TIMB_c_r: Table 10.16, R255. -/
def DRM_TIMB (c : Nat) (r : Nat) : Nat := 0x400018 + 4 * c + r
def DRM_TIMB_trrd_s (c : Nat) (r : Nat) : Field := ⟨0x400018 + 4 * c + r, 30, 6⟩
def DRM_TIMB_trrd_l (c : Nat) (r : Nat) : Field := ⟨0x400018 + 4 * c + r, 24, 6⟩
def DRM_TIMB_tfaw (c : Nat) (r : Nat) : Field := ⟨0x400018 + 4 * c + r, 16, 8⟩
def DRM_TIMB_twr (c : Nat) (r : Nat) : Field := ⟨0x400018 + 4 * c + r, 10, 6⟩
def DRM_TIMB_twtr_s (c : Nat) (r : Nat) : Field := ⟨0x400018 + 4 * c + r, 6, 4⟩
def DRM_TIMB_twtr_l (c : Nat) (r : Nat) : Field := ⟨0x400018 + 4 * c + r, 0, 6⟩

/-- DRM_PORT_c_p: Table 10.17, R255. -/
def DRM_PORT (c : Nat) (p : Nat) : Nat := 0x400020 + 16 * c + p
def DRM_PORT_cls (c : Nat) (p : Nat) : Field := ⟨0x400020 + 16 * c + p, 34, 2⟩
def DRM_PORT_ord (c : Nat) (p : Nat) : Field := ⟨0x400020 + 16 * c + p, 33, 1⟩
def DRM_PORT_wack (c : Nat) (p : Nat) : Field := ⟨0x400020 + 16 * c + p, 32, 1⟩
def DRM_PORT_qlvl (c : Nat) (p : Nat) : Field := ⟨0x400020 + 16 * c + p, 28, 4⟩

/-- DRM_AGE_c_k: Table 10.18, R255. -/
def DRM_AGE (c : Nat) (k : Nat) : Nat := 0x400040 + 4 * c + k
def DRM_AGE_lim (c : Nat) (k : Nat) : Field := ⟨0x400040 + 4 * c + k, 0, 24⟩

/-- DRM_REF_c: Table 10.19, R255. -/
def DRM_REF (c : Nat) : Nat := 0x400048 + c
def DRM_REF_tsrc (c : Nat) : Field := ⟨0x400048 + c, 34, 2⟩
def DRM_REF_mode2x (c : Nat) : Field := ⟨0x400048 + c, 33, 1⟩
def DRM_REF_postponed (c : Nat) : Field := ⟨0x400048 + c, 29, 4⟩
def DRM_REF_toff (c : Nat) : Field := ⟨0x400048 + c, 22, 7⟩
def DRM_REF_temp (c : Nat) : Field := ⟨0x400048 + c, 12, 10⟩

/-- DRM_STAT_c: Table 10.20, R255. -/
def DRM_STAT (c : Nat) : Nat := 0x40004a + c
def DRM_STAT_state (c : Nat) : Field := ⟨0x40004a + c, 33, 3⟩
def DRM_STAT_queued (c : Nat) : Field := ⟨0x40004a + c, 24, 9⟩

/-- DRM_ECC_c: Table 10.21, R255. -/
def DRM_ECC (c : Nat) : Nat := 0x40004c + c
def DRM_ECC_ce (c : Nat) : Field := ⟨0x40004c + c, 18, 18⟩
def DRM_ECC_ue (c : Nat) : Field := ⟨0x40004c + c, 0, 18⟩

/-- DRM_ECC_LAST_c: Table 10.22, R255. -/
def DRM_ECC_LAST (c : Nat) : Nat := 0x40004e + c
def DRM_ECC_LAST_kind (c : Nat) : Field := ⟨0x40004e + c, 34, 2⟩
def DRM_ECC_LAST_patrol (c : Nat) : Field := ⟨0x40004e + c, 33, 1⟩
def DRM_ECC_LAST_addr (c : Nat) : Field := ⟨0x40004e + c, 0, 33⟩

/-- DRM_ECC_SYN_c: Table 10.23, R255. -/
def DRM_ECC_SYN (c : Nat) : Nat := 0x400050 + c
def DRM_ECC_SYN_syn (c : Nat) : Field := ⟨0x400050 + c, 28, 8⟩
def DRM_ECC_SYN_dbl (c : Nat) : Field := ⟨0x400050 + c, 25, 3⟩
def DRM_ECC_SYN_clr (c : Nat) : Field := ⟨0x400050 + c, 0, 1⟩

/-- DRM_CNT_c: Table 10.24, R255. -/
def DRM_CNT (c : Nat) : Nat := 0x400052 + c
def DRM_CNT_clr (c : Nat) : Field := ⟨0x400052 + c, 35, 1⟩
def DRM_CNT_late (c : Nat) : Field := ⟨0x400052 + c, 23, 12⟩
def DRM_CNT_req_err (c : Nat) : Field := ⟨0x400052 + c, 11, 12⟩
def DRM_CNT_ca_alert (c : Nat) : Field := ⟨0x400052 + c, 0, 11⟩

/-- DRM_PATROL_c: Table 10.25, R255. -/
def DRM_PATROL (c : Nat) : Nat := 0x400054 + c
def DRM_PATROL_period (c : Nat) : Field := ⟨0x400054 + c, 18, 18⟩
def DRM_PATROL_progress (c : Nat) : Field := ⟨0x400054 + c, 10, 8⟩

/-- DRM_RMP_c_i: Table 10.25, R255. -/
def DRM_RMP (c : Nat) (i : Nat) : Nat := 0x400060 + 32 * c + i
def DRM_RMP_valid (c : Nat) (i : Nat) : Field := ⟨0x400060 + 32 * c + i, 35, 1⟩
def DRM_RMP_ppr (c : Nat) (i : Nat) : Field := ⟨0x400060 + 32 * c + i, 34, 1⟩
def DRM_RMP_rank (c : Nat) (i : Nat) : Field := ⟨0x400060 + 32 * c + i, 33, 1⟩
def DRM_RMP_bg (c : Nat) (i : Nat) : Field := ⟨0x400060 + 32 * c + i, 31, 2⟩
def DRM_RMP_bank (c : Nat) (i : Nat) : Field := ⟨0x400060 + 32 * c + i, 29, 2⟩
def DRM_RMP_row (c : Nat) (i : Nat) : Field := ⟨0x400060 + 32 * c + i, 12, 17⟩
def DRM_RMP_sbg (c : Nat) (i : Nat) : Field := ⟨0x400060 + 32 * c + i, 10, 2⟩
def DRM_RMP_sbank (c : Nat) (i : Nat) : Field := ⟨0x400060 + 32 * c + i, 8, 2⟩

/-- DRM_TRN_CFG_c: Table 11.9, R277. -/
def DRM_TRN_CFG (c : Nat) : Nat := 0x400100 + c
def DRM_TRN_CFG_period (c : Nat) : Field := ⟨0x400100 + c, 22, 14⟩
def DRM_TRN_CFG_move_max (c : Nat) : Field := ⟨0x400100 + c, 18, 4⟩
def DRM_TRN_CFG_sweep (c : Nat) : Field := ⟨0x400100 + c, 17, 1⟩

/-- DRM_TRN_STAT_c: Table 11.10, R277. -/
def DRM_TRN_STAT (c : Nat) : Nat := 0x400102 + c
def DRM_TRN_STAT_phase (c : Nat) : Field := ⟨0x400102 + c, 33, 3⟩
def DRM_TRN_STAT_step (c : Nat) : Field := ⟨0x400102 + c, 26, 7⟩
def DRM_TRN_STAT_held (c : Nat) : Field := ⟨0x400102 + c, 25, 1⟩
def DRM_TRN_STAT_min_eye (c : Nat) : Field := ⟨0x400102 + c, 16, 9⟩
def DRM_TRN_STAT_gathers (c : Nat) : Field := ⟨0x400102 + c, 6, 10⟩

/-- DRM_TRN_FLAG_c: Table 11.11, R277. -/
def DRM_TRN_FLAG (c : Nat) : Nat := 0x400104 + c
def DRM_TRN_FLAG_flag (c : Nat) : Field := ⟨0x400104 + c, 16, 20⟩
def DRM_TRN_FLAG_run (c : Nat) : Field := ⟨0x400104 + c, 14, 2⟩

/-- DRM_TRN_SET_c_r: Table 11.12, R277. -/
def DRM_TRN_SET (c : Nat) (r : Nat) : Nat := 0x400108 + 4 * c + r
def DRM_TRN_SET_valid (c : Nat) (r : Nat) : Field := ⟨0x400108 + 4 * c + r, 35, 1⟩
def DRM_TRN_SET_samples (c : Nat) (r : Nat) : Field := ⟨0x400108 + 4 * c + r, 32, 3⟩
def DRM_TRN_SET_min_eye (c : Nat) (r : Nat) : Field := ⟨0x400108 + 4 * c + r, 23, 9⟩
def DRM_TRN_SET_temp (c : Nat) (r : Nat) : Field := ⟨0x400108 + 4 * c + r, 13, 10⟩

/-- DRM_DLY_IDX_c: Table 11.13, R277. -/
def DRM_DLY_IDX (c : Nat) : Nat := 0x400110 + c
def DRM_DLY_IDX_set (c : Nat) : Field := ⟨0x400110 + c, 5, 2⟩
def DRM_DLY_IDX_rank (c : Nat) : Field := ⟨0x400110 + c, 4, 1⟩
def DRM_DLY_IDX_lane (c : Nat) : Field := ⟨0x400110 + c, 0, 4⟩

/-- DRM_DLY_VAL_c: Table 11.14, R277. -/
def DRM_DLY_VAL (c : Nat) : Nat := 0x400112 + c
def DRM_DLY_VAL_wlvl (c : Nat) : Field := ⟨0x400112 + c, 27, 9⟩
def DRM_DLY_VAL_gate (c : Nat) : Field := ⟨0x400112 + c, 18, 9⟩
def DRM_DLY_VAL_rd (c : Nat) : Field := ⟨0x400112 + c, 9, 9⟩
def DRM_DLY_VAL_wr (c : Nat) : Field := ⟨0x400112 + c, 0, 9⟩

/-- DRM_DLY_DRF_c: Table 11.15, R277. -/
def DRM_DLY_DRF (c : Nat) : Nat := 0x400114 + c
def DRM_DLY_DRF_rd_eye (c : Nat) : Field := ⟨0x400114 + c, 27, 9⟩
def DRM_DLY_DRF_wr_eye (c : Nat) : Field := ⟨0x400114 + c, 18, 9⟩
def DRM_DLY_DRF_rd_drift (c : Nat) : Field := ⟨0x400114 + c, 9, 9⟩
def DRM_DLY_DRF_wr_drift (c : Nat) : Field := ⟨0x400114 + c, 0, 9⟩

/-- PIN_CFG_b_p: Table 12.13, R306. -/
def PIN_CFG (b : Nat) (p : Nat) : Nat := 0x500000 + 36 * b + p
def PIN_CFG_fn (b : Nat) (p : Nat) : Field := ⟨0x500000 + 36 * b + p, 33, 3⟩
def PIN_CFG_park (b : Nat) (p : Nat) : Field := ⟨0x500000 + 36 * b + p, 32, 1⟩
def PIN_CFG_drive (b : Nat) (p : Nat) : Field := ⟨0x500000 + 36 * b + p, 30, 2⟩
def PIN_CFG_slew (b : Nat) (p : Nat) : Field := ⟨0x500000 + 36 * b + p, 29, 1⟩
def PIN_CFG_pull (b : Nat) (p : Nat) : Field := ⟨0x500000 + 36 * b + p, 27, 2⟩
def PIN_CFG_schmitt (b : Nat) (p : Nat) : Field := ⟨0x500000 + 36 * b + p, 26, 1⟩
def PIN_CFG_eva (b : Nat) (p : Nat) : Field := ⟨0x500000 + 36 * b + p, 23, 3⟩
def PIN_CFG_evb (b : Nat) (p : Nat) : Field := ⟨0x500000 + 36 * b + p, 20, 3⟩
def PIN_CFG_arg (b : Nat) (p : Nat) : Field := ⟨0x500000 + 36 * b + p, 6, 14⟩
def PIN_CFG_stg (b : Nat) (p : Nat) : Field := ⟨0x500000 + 36 * b + p, 5, 1⟩

/-- PIN_APPLY_b: Table 12.14, R306. -/
def PIN_APPLY (b : Nat) : Nat := 0x500200 + b
def PIN_APPLY_apply (b : Nat) : Field := ⟨0x500200 + b, 0, 36⟩

/-- PIN_DOUT_b: Table 12.14, R306. -/
def PIN_DOUT (b : Nat) : Nat := 0x500210 + b
def PIN_DOUT_dout (b : Nat) : Field := ⟨0x500210 + b, 0, 36⟩

/-- PIN_DIN_b: Table 12.14, R306. -/
def PIN_DIN (b : Nat) : Nat := 0x500220 + b
def PIN_DIN_din (b : Nat) : Field := ⟨0x500220 + b, 0, 36⟩

/-- PIN_BANK_b: Table 12.15, R306. -/
def PIN_BANK (b : Nat) : Nat := 0x500230 + b
def PIN_BANK_vdecl (b : Nat) : Field := ⟨0x500230 + b, 34, 2⟩
def PIN_BANK_vsense (b : Nat) : Field := ⟨0x500230 + b, 32, 2⟩
def PIN_BANK_state (b : Nat) : Field := ⟨0x500230 + b, 30, 2⟩
def PIN_BANK_bk_hold (b : Nat) : Field := ⟨0x500230 + b, 29, 1⟩
def PIN_BANK_pdc (b : Nat) : Field := ⟨0x500230 + b, 28, 1⟩
def PIN_BANK_arefused (b : Nat) : Field := ⟨0x500230 + b, 27, 1⟩
def PIN_BANK_pulse (b : Nat) : Field := ⟨0x500230 + b, 17, 10⟩

/-- PIN_WAKE_b: Table 12.16, R306. -/
def PIN_WAKE (b : Nat) : Nat := 0x500240 + b
def PIN_WAKE_en0 (b : Nat) : Field := ⟨0x500240 + b, 8, 1⟩
def PIN_WAKE_en1 (b : Nat) : Field := ⟨0x500240 + b, 17, 1⟩
def PIN_WAKE_en2 (b : Nat) : Field := ⟨0x500240 + b, 26, 1⟩
def PIN_WAKE_en3 (b : Nat) : Field := ⟨0x500240 + b, 35, 1⟩
def PIN_WAKE_pin0 (b : Nat) : Field := ⟨0x500240 + b, 2, 6⟩
def PIN_WAKE_pin1 (b : Nat) : Field := ⟨0x500240 + b, 11, 6⟩
def PIN_WAKE_pin2 (b : Nat) : Field := ⟨0x500240 + b, 20, 6⟩
def PIN_WAKE_pin3 (b : Nat) : Field := ⟨0x500240 + b, 29, 6⟩
def PIN_WAKE_edge0 (b : Nat) : Field := ⟨0x500240 + b, 0, 2⟩
def PIN_WAKE_edge1 (b : Nat) : Field := ⟨0x500240 + b, 9, 2⟩
def PIN_WAKE_edge2 (b : Nat) : Field := ⟨0x500240 + b, 18, 2⟩
def PIN_WAKE_edge3 (b : Nat) : Field := ⟨0x500240 + b, 27, 2⟩

/-- PIN_TMB_CFG_t: Table 12.17, R306. -/
def PIN_TMB_CFG (t : Nat) : Nat := 0x500300 + t
def PIN_TMB_CFG_en (t : Nat) : Field := ⟨0x500300 + t, 35, 1⟩
def PIN_TMB_CFG_bank (t : Nat) : Field := ⟨0x500300 + t, 31, 4⟩
def PIN_TMB_CFG_mode (t : Nat) : Field := ⟨0x500300 + t, 29, 2⟩
def PIN_TMB_CFG_chain (t : Nat) : Field := ⟨0x500300 + t, 28, 1⟩
def PIN_TMB_CFG_nseq (t : Nat) : Field := ⟨0x500300 + t, 26, 2⟩
def PIN_TMB_CFG_strict (t : Nat) : Field := ⟨0x500300 + t, 25, 1⟩
def PIN_TMB_CFG_tok (t : Nat) : Field := ⟨0x500300 + t, 24, 1⟩
def PIN_TMB_CFG_irq (t : Nat) : Field := ⟨0x500300 + t, 23, 1⟩
def PIN_TMB_CFG_wake (t : Nat) : Field := ⟨0x500300 + t, 22, 1⟩
def PIN_TMB_CFG_irq_em (t : Nat) : Field := ⟨0x500300 + t, 21, 1⟩
def PIN_TMB_CFG_filt (t : Nat) : Field := ⟨0x500300 + t, 5, 16⟩

/-- PIN_TMB_POL_t: Table 12.18, R306. -/
def PIN_TMB_POL (t : Nat) : Nat := 0x500320 + t
def PIN_TMB_POL_pol (t : Nat) : Field := ⟨0x500320 + t, 0, 36⟩

/-- PIN_TMB_MSK_t: Table 12.18, R306. -/
def PIN_TMB_MSK (t : Nat) : Nat := 0x500340 + t
def PIN_TMB_MSK_msk (t : Nat) : Field := ⟨0x500340 + t, 0, 36⟩

/-- PIN_TMB_EMSK_t: Table 12.18, R306. -/
def PIN_TMB_EMSK (t : Nat) : Nat := 0x500360 + t
def PIN_TMB_EMSK_emsk (t : Nat) : Field := ⟨0x500360 + t, 0, 36⟩

/-- PIN_TMB_PAT_t_s: Table 12.18, R306. -/
def PIN_TMB_PAT (t : Nat) (s : Nat) : Nat := 0x500380 + 4 * t + s
def PIN_TMB_PAT_pat (t : Nat) (s : Nat) : Field := ⟨0x500380 + 4 * t + s, 0, 36⟩

/-- PIN_TMB_WIN_t: Table 12.18, R306. -/
def PIN_TMB_WIN (t : Nat) : Nat := 0x500400 + t
def PIN_TMB_WIN_win (t : Nat) : Field := ⟨0x500400 + t, 0, 24⟩

/-- PIN_TMB_STAT_t: Table 12.19, R306. -/
def PIN_TMB_STAT (t : Nat) : Nat := 0x500420 + t
def PIN_TMB_STAT_step (t : Nat) : Field := ⟨0x500420 + t, 34, 2⟩
def PIN_TMB_STAT_cond (t : Nat) : Field := ⟨0x500420 + t, 33, 1⟩
def PIN_TMB_STAT_bank_off (t : Nat) : Field := ⟨0x500420 + t, 32, 1⟩
def PIN_TMB_STAT_matches (t : Nat) : Field := ⟨0x500420 + t, 14, 18⟩
def PIN_TMB_STAT_timeouts (t : Nat) : Field := ⟨0x500420 + t, 5, 9⟩
def PIN_TMB_STAT_clr (t : Nat) : Field := ⟨0x500420 + t, 0, 1⟩

/-- PIN_PORT_g: Table 12.20, R306. -/
def PIN_PORT (g : Nat) : Nat := 0x500500 + g
def PIN_PORT_en (g : Nat) : Field := ⟨0x500500 + g, 35, 1⟩
def PIN_PORT_dir (g : Nat) : Field := ⟨0x500500 + g, 34, 1⟩
def PIN_PORT_bank (g : Nat) : Field := ⟨0x500500 + g, 30, 4⟩
def PIN_PORT_stb (g : Nat) : Field := ⟨0x500500 + g, 24, 6⟩
def PIN_PORT_stb_pol (g : Nat) : Field := ⟨0x500500 + g, 23, 1⟩
def PIN_PORT_rdy_use (g : Nat) : Field := ⟨0x500500 + g, 22, 1⟩
def PIN_PORT_rdy (g : Nat) : Field := ⟨0x500500 + g, 16, 6⟩
def PIN_PORT_e_use (g : Nat) : Field := ⟨0x500500 + g, 15, 1⟩
def PIN_PORT_epin (g : Nat) : Field := ⟨0x500500 + g, 9, 6⟩
def PIN_PORT_ovf (g : Nat) : Field := ⟨0x500500 + g, 0, 9⟩

/-- PIN_PMSK_g: Table 12.20, R306. -/
def PIN_PMSK (g : Nat) : Nat := 0x500540 + g
def PIN_PMSK_dmask (g : Nat) : Field := ⟨0x500540 + g, 0, 36⟩

/-- CFG_KEY: Table 13.11, R339. -/
def CFG_KEY : Nat := 0x600007
def CFG_KEY_key_lock : Field := ⟨0x600007, 35, 1⟩
def CFG_KEY_key_src : Field := ⟨0x600007, 34, 1⟩
def CFG_KEY_bbram_off : Field := ⟨0x600007, 33, 1⟩
def CFG_KEY_rb_off : Field := ⟨0x600007, 32, 1⟩
def CFG_KEY_bb_valid : Field := ⟨0x600007, 31, 1⟩
def CFG_KEY_in_use : Field := ⟨0x600007, 30, 1⟩
def CFG_KEY_kind_base : Field := ⟨0x600007, 22, 8⟩
def CFG_KEY_min_ver : Field := ⟨0x600007, 15, 7⟩

/-- CFG_KCV: Table 13.11, R339. -/
def CFG_KCV : Nat := 0x600008
def CFG_KCV_kcv_e : Field := ⟨0x600008, 18, 18⟩
def CFG_KCV_kcv_b : Field := ⟨0x600008, 0, 18⟩

/-- CFG_STAT: Table 13.13, R339. -/
def CFG_STAT : Nat := 0x600000
def CFG_STAT_phase : Field := ⟨0x600000, 33, 3⟩
def CFG_STAT_img : Field := ⟨0x600000, 32, 1⟩
def CFG_STAT_dual : Field := ⟨0x600000, 31, 1⟩
def CFG_STAT_clk : Field := ⟨0x600000, 29, 2⟩
def CFG_STAT_forcekind : Field := ⟨0x600000, 28, 1⟩
def CFG_STAT_hsrc_ok : Field := ⟨0x600000, 27, 1⟩
def CFG_STAT_main_cause : Field := ⟨0x600000, 23, 4⟩
def CFG_STAT_kind_cause : Field := ⟨0x600000, 19, 4⟩

/-- CFG_CTL: Table 13.13, R339. -/
def CFG_CTL : Nat := 0x600001
def CFG_CTL_recommit : Field := ⟨0x600001, 35, 1⟩
def CFG_CTL_next : Field := ⟨0x600001, 34, 1⟩

/-- CFG_FAULT_LOC: Table 13.13, R339. -/
def CFG_FAULT_LOC : Nat := 0x600002
def CFG_FAULT_LOC_img : Field := ⟨0x600002, 35, 1⟩
def CFG_FAULT_LOC_cause : Field := ⟨0x600002, 31, 4⟩
def CFG_FAULT_LOC_chunk : Field := ⟨0x600002, 8, 23⟩

/-- CFG_IMG: Table 13.13, R339. -/
def CFG_IMG : Nat := 0x600003
def CFG_IMG_design_id : Field := ⟨0x600003, 4, 32⟩

/-- CFG_VER: Table 13.13, R339. -/
def CFG_VER : Nat := 0x600004
def CFG_VER_version : Field := ⟨0x600004, 20, 16⟩

/-- CFG_CNT: Table 13.13, R339. -/
def CFG_CNT : Nat := 0x600005
def CFG_CNT_retry : Field := ⟨0x600005, 27, 9⟩
def CFG_CNT_loads : Field := ⟨0x600005, 18, 9⟩
def CFG_CNT_hreads : Field := ⟨0x600005, 9, 9⟩
def CFG_CNT_hfail : Field := ⟨0x600005, 0, 9⟩

/-- CFG_LTIME: Table 13.13, R339. -/
def CFG_LTIME : Nat := 0x600006
def CFG_LTIME_ltime : Field := ⟨0x600006, 12, 24⟩

/-- CFG_WARD_LOC: Table 13.13, R339. -/
def CFG_WARD_LOC : Nat := 0x600009
def CFG_WARD_LOC_hearth : Field := ⟨0x600009, 30, 6⟩
def CFG_WARD_LOC_column : Field := ⟨0x600009, 23, 7⟩
def CFG_WARD_LOC_row : Field := ⟨0x600009, 18, 5⟩
def CFG_WARD_LOC_frame : Field := ⟨0x600009, 14, 4⟩
def CFG_WARD_LOC_class : Field := ⟨0x600009, 6, 8⟩

/-- CFG_RB_IDX: Table 13.13, R339. -/
def CFG_RB_IDX : Nat := 0x600010
def CFG_RB_IDX_hearth : Field := ⟨0x600010, 30, 6⟩
def CFG_RB_IDX_column : Field := ⟨0x600010, 23, 7⟩
def CFG_RB_IDX_row : Field := ⟨0x600010, 18, 5⟩
def CFG_RB_IDX_frame : Field := ⟨0x600010, 14, 4⟩
def CFG_RB_IDX_word : Field := ⟨0x600010, 8, 6⟩
def CFG_RB_IDX_refused : Field := ⟨0x600010, 7, 1⟩

/-- CFG_RB_DAT: Table 13.13, R339. -/
def CFG_RB_DAT : Nat := 0x600011
def CFG_RB_DAT_data : Field := ⟨0x600011, 0, 36⟩

/-- CFG_FL_ADDR: Table 13.13, R339. -/
def CFG_FL_ADDR : Nat := 0x600020
def CFG_FL_ADDR_target : Field := ⟨0x600020, 34, 2⟩
def CFG_FL_ADDR_addr : Field := ⟨0x600020, 0, 32⟩

/-- CFG_FL_CMD: Table 13.13, R339. -/
def CFG_FL_CMD : Nat := 0x600021
def CFG_FL_CMD_cmd : Field := ⟨0x600021, 32, 4⟩
def CFG_FL_CMD_status : Field := ⟨0x600021, 29, 3⟩
def CFG_FL_CMD_len : Field := ⟨0x600021, 16, 13⟩

/-- SCB_CFG: Table 14.12, R376. -/
def SCB_CFG : Nat := 0x680000
def SCB_CFG_en : Field := ⟨0x680000, 35, 1⟩
def SCB_CFG_auto : Field := ⟨0x680000, 34, 1⟩
def SCB_CFG_period : Field := ⟨0x680000, 18, 16⟩

/-- SCB_STAT: Table 14.12, R376. -/
def SCB_STAT : Nat := 0x680001
def SCB_STAT_state : Field := ⟨0x680001, 34, 2⟩
def SCB_STAT_passes : Field := ⟨0x680001, 16, 18⟩
def SCB_STAT_votes : Field := ⟨0x680001, 8, 8⟩
def SCB_STAT_restarts : Field := ⟨0x680001, 4, 4⟩

/-- SCB_POS: Table 14.12, R376. -/
def SCB_POS : Nat := 0x680002
def SCB_POS_frame : Field := ⟨0x680002, 14, 22⟩

/-- SCB_CNT: Table 14.12, R376. -/
def SCB_CNT : Nat := 0x680003
def SCB_CNT_clr : Field := ⟨0x680003, 35, 1⟩
def SCB_CNT_ce : Field := ⟨0x680003, 17, 18⟩
def SCB_CNT_ue_ess : Field := ⟨0x680003, 8, 9⟩
def SCB_CNT_ue_non : Field := ⟨0x680003, 0, 8⟩

/-- SCB_RATE: Table 14.12, R376. -/
def SCB_RATE : Nat := 0x680004
def SCB_RATE_hist : Field := ⟨0x680004, 35, 1⟩
def SCB_RATE_est : Field := ⟨0x680004, 18, 17⟩
def SCB_RATE_pend : Field := ⟨0x680004, 9, 9⟩

/-- SCB_LAST: Table 14.12, R376. -/
def SCB_LAST : Nat := 0x680005
def SCB_LAST_frame : Field := ⟨0x680005, 14, 22⟩
def SCB_LAST_kind : Field := ⟨0x680005, 12, 2⟩
def SCB_LAST_syn : Field := ⟨0x680005, 0, 12⟩

/-- SCB_HRL_REQ: Table 14.13, R376. -/
def SCB_HRL_REQ : Nat := 0x680010
def SCB_HRL_REQ_req : Field := ⟨0x680010, 0, 36⟩

/-- SCB_ISO: Table 14.13, R376. -/
def SCB_ISO : Nat := 0x680011
def SCB_ISO_iso : Field := ⟨0x680011, 0, 36⟩

/-- SCB_HRL_STAT: Table 14.13, R376. -/
def SCB_HRL_STAT : Nat := 0x680012
def SCB_HRL_STAT_isolated : Field := ⟨0x680012, 0, 36⟩

/-- SCB_HRL_BAD: Table 14.13, R376. -/
def SCB_HRL_BAD : Nat := 0x680013
def SCB_HRL_BAD_bad : Field := ⟨0x680013, 0, 36⟩

/-- SCB_HRL_LAST: Table 14.13, R376. -/
def SCB_HRL_LAST : Nat := 0x680014
def SCB_HRL_LAST_hearth : Field := ⟨0x680014, 30, 6⟩
def SCB_HRL_LAST_cause : Field := ⟨0x680014, 28, 2⟩
def SCB_HRL_LAST_result : Field := ⟨0x680014, 26, 2⟩
def SCB_HRL_LAST_dur : Field := ⟨0x680014, 4, 22⟩

/-- SCB_ISO_IDX: Table 14.13, R376. -/
def SCB_ISO_IDX : Nat := 0x680015
def SCB_ISO_IDX_hearth : Field := ⟨0x680015, 30, 6⟩
def SCB_ISO_IDX_kind : Field := ⟨0x680015, 28, 2⟩
def SCB_ISO_IDX_index : Field := ⟨0x680015, 17, 11⟩
def SCB_ISO_IDX_hclass : Field := ⟨0x680015, 15, 2⟩

/-- SCB_ISO_VAL: Table 14.13, R376. -/
def SCB_ISO_VAL : Nat := 0x680016
def SCB_ISO_VAL_set : Field := ⟨0x680016, 34, 2⟩

/-- SCB_BIST_CFG: Table 14.14, R376. -/
def SCB_BIST_CFG : Nat := 0x680020
def SCB_BIST_CFG_en : Field := ⟨0x680020, 35, 1⟩
def SCB_BIST_CFG_form : Field := ⟨0x680020, 34, 1⟩
def SCB_BIST_CFG_period : Field := ⟨0x680020, 18, 16⟩
def SCB_BIST_CFG_col : Field := ⟨0x680020, 17, 1⟩
def SCB_BIST_CFG_blk : Field := ⟨0x680020, 16, 1⟩
def SCB_BIST_CFG_lane : Field := ⟨0x680020, 15, 1⟩
def SCB_BIST_CFG_fifo : Field := ⟨0x680020, 14, 1⟩

/-- SCB_BIST_STAT: Table 14.14, R376. -/
def SCB_BIST_STAT : Nat := 0x680021
def SCB_BIST_STAT_kind : Field := ⟨0x680021, 33, 3⟩
def SCB_BIST_STAT_hearth : Field := ⟨0x680021, 27, 6⟩
def SCB_BIST_STAT_unit : Field := ⟨0x680021, 20, 7⟩
def SCB_BIST_STAT_last : Field := ⟨0x680021, 18, 2⟩
def SCB_BIST_STAT_progress : Field := ⟨0x680021, 11, 7⟩
def SCB_BIST_STAT_rounds : Field := ⟨0x680021, 0, 11⟩

/-- SCB_BIST_SUM: Table 14.14, R376. -/
def SCB_BIST_SUM : Nat := 0x680022
def SCB_BIST_SUM_cover : Field := ⟨0x680022, 29, 7⟩
def SCB_BIST_SUM_full_ms : Field := ⟨0x680022, 12, 17⟩
def SCB_BIST_SUM_round_h : Field := ⟨0x680022, 0, 12⟩

/-- SCB_RES_IDX: Table 14.14, R376. -/
def SCB_RES_IDX : Nat := 0x680023
def SCB_RES_IDX_idx : Field := ⟨0x680023, 30, 6⟩
def SCB_RES_IDX_count : Field := ⟨0x680023, 23, 7⟩
def SCB_RES_IDX_ovf : Field := ⟨0x680023, 14, 9⟩

/-- SCB_RES_VAL: Table 14.14, R376. -/
def SCB_RES_VAL : Nat := 0x680024
def SCB_RES_VAL_kind : Field := ⟨0x680024, 33, 3⟩
def SCB_RES_VAL_hearth : Field := ⟨0x680024, 27, 6⟩
def SCB_RES_VAL_unit : Field := ⟨0x680024, 20, 7⟩
def SCB_RES_VAL_addr : Field := ⟨0x680024, 6, 14⟩
def SCB_RES_VAL_bit : Field := ⟨0x680024, 0, 6⟩

/-- SCB_ROT_HOLD: Table 14.14, R376. -/
def SCB_ROT_HOLD : Nat := 0x680025
def SCB_ROT_HOLD_hold : Field := ⟨0x680025, 0, 36⟩

/-- SCB_SDT: Table 14.15, R376. -/
def SCB_SDT : Nat := 0x680030
def SCB_SDT_go : Field := ⟨0x680030, 35, 1⟩
def SCB_SDT_status : Field := ⟨0x680030, 32, 3⟩
def SCB_SDT_rec_valid : Field := ⟨0x680030, 31, 1⟩
def SCB_SDT_quick : Field := ⟨0x680030, 30, 1⟩

/-- SCB_REP: Table 14.15, R376. -/
def SCB_REP : Nat := 0x680031
def SCB_REP_copies : Field := ⟨0x680031, 34, 2⟩
def SCB_REP_cols : Field := ⟨0x680031, 26, 8⟩
def SCB_REP_blks : Field := ⟨0x680031, 18, 8⟩
def SCB_REP_rows : Field := ⟨0x680031, 7, 11⟩
def SCB_REP_wear : Field := ⟨0x680031, 0, 7⟩

/-- SCB_SVC: Table 14.15, R376. -/
def SCB_SVC : Nat := 0x680032
def SCB_SVC_hours : Field := ⟨0x680032, 16, 20⟩
def SCB_SVC_hot : Field := ⟨0x680032, 0, 16⟩

/-- SCB_JTAG: Table 14.15, R376. -/
def SCB_JTAG : Nat := 0x680033
def SCB_JTAG_en_pin : Field := ⟨0x680033, 35, 1⟩
def SCB_JTAG_ext : Field := ⟨0x680033, 34, 1⟩

/-- MGC_ID: Table 15.16, R408. -/
def MGC_ID : Nat := 0x0
def MGC_ID_part : Field := ⟨0x0, 20, 16⟩
def MGC_ID_ver : Field := ⟨0x0, 16, 4⟩

/-- MGC_SER_L: Table 15.16, R408. -/
def MGC_SER_L : Nat := 0x1
def MGC_SER_L_ser : Field := ⟨0x1, 0, 36⟩

/-- MGC_SER_H: Table 15.16, R408. -/
def MGC_SER_H : Nat := 0x2
def MGC_SER_H_ser : Field := ⟨0x2, 0, 36⟩

/-- MGC_STAT: Table 15.16, R408. -/
def MGC_STAT : Nat := 0x3
def MGC_STAT_state : Field := ⟨0x3, 34, 2⟩
def MGC_STAT_restarts : Field := ⟨0x3, 28, 6⟩
def MGC_STAT_xhasp : Field := ⟨0x3, 25, 3⟩
def MGC_STAT_chasp : Field := ⟨0x3, 22, 3⟩
def MGC_STAT_busoff : Field := ⟨0x3, 21, 1⟩

/-- MGC_DB_OUT: Table 15.16, R408. -/
def MGC_DB_OUT : Nat := 0x10
def MGC_DB_OUT_ring : Field := ⟨0x10, 0, 32⟩

/-- MGC_DB_IN: Table 15.16, R408. -/
def MGC_DB_IN : Nat := 0x11
def MGC_DB_IN_rcvd : Field := ⟨0x11, 0, 32⟩

/-- MGC_DB_EM: Table 15.16, R408. -/
def MGC_DB_EM : Nat := 0x12
def MGC_DB_EM_em : Field := ⟨0x12, 0, 32⟩

/-- MGC_EM_MASK: Table 15.16, R408. -/
def MGC_EM_MASK : Nat := 0x13
def MGC_EM_MASK_mask : Field := ⟨0x13, 0, 16⟩

/-- MGC_EM_CNT: Table 15.16, R408. -/
def MGC_EM_CNT : Nat := 0x14
def MGC_EM_CNT_sent : Field := ⟨0x14, 18, 18⟩
def MGC_EM_CNT_dropped : Field := ⟨0x14, 0, 18⟩

/-- MGC_PUB_PORT: Table 15.16, R408. -/
def MGC_PUB_PORT : Nat := 0x20
def MGC_PUB_PORT_en : Field := ⟨0x20, 35, 1⟩
def MGC_PUB_PORT_g_req : Field := ⟨0x20, 29, 6⟩
def MGC_PUB_PORT_g_rsp : Field := ⟨0x20, 23, 6⟩
def MGC_PUB_PORT_tmo : Field := ⟨0x20, 9, 14⟩

/-- MGC_PUB_CFG_i: Table 15.16, R408. -/
def MGC_PUB_CFG (i : Nat) : Nat := 0x100 + i
def MGC_PUB_CFG_valid (i : Nat) : Field := ⟨0x100 + i, 35, 1⟩
def MGC_PUB_CFG_offset (i : Nat) : Field := ⟨0x100 + i, 23, 12⟩
def MGC_PUB_CFG_sub (i : Nat) : Field := ⟨0x100 + i, 15, 8⟩
def MGC_PUB_CFG_type (i : Nat) : Field := ⟨0x100 + i, 11, 4⟩
def MGC_PUB_CFG_acc (i : Nat) : Field := ⟨0x100 + i, 9, 2⟩

/-- CLK_STAT: Table 16.11, R434. -/
def CLK_STAT : Nat := 0x700000
def CLK_STAT_ref_ok : Field := ⟨0x700000, 35, 1⟩
def CLK_STAT_lock : Field := ⟨0x700000, 34, 1⟩
def CLK_STAT_div : Field := ⟨0x700000, 33, 1⟩
def CLK_STAT_cause : Field := ⟨0x700000, 30, 3⟩
def CLK_STAT_stepped : Field := ⟨0x700000, 29, 1⟩

/-- CLK_TB_L: Table 16.11, R434. -/
def CLK_TB_L : Nat := 0x700001
def CLK_TB_L_tb_l : Field := ⟨0x700001, 0, 36⟩

/-- CLK_TB_H: Table 16.11, R434. -/
def CLK_TB_H : Nat := 0x700002
def CLK_TB_H_tb_h : Field := ⟨0x700002, 0, 36⟩

/-- CLK_ALM_CFG_a: Table 16.11, R434. -/
def CLK_ALM_CFG (a : Nat) : Nat := 0x700010 + a
def CLK_ALM_CFG_en (a : Nat) : Field := ⟨0x700010 + a, 35, 1⟩
def CLK_ALM_CFG_per (a : Nat) : Field := ⟨0x700010 + a, 34, 1⟩
def CLK_ALM_CFG_wake (a : Nat) : Field := ⟨0x700010 + a, 33, 1⟩
def CLK_ALM_CFG_fired (a : Nat) : Field := ⟨0x700010 + a, 32, 1⟩
def CLK_ALM_CFG_skipped (a : Nat) : Field := ⟨0x700010 + a, 23, 9⟩
def CLK_ALM_CFG_clr (a : Nat) : Field := ⟨0x700010 + a, 22, 1⟩

/-- CLK_ALM_L_a: Table 16.11, R434. -/
def CLK_ALM_L (a : Nat) : Nat := 0x700020 + a
def CLK_ALM_L_cmp_l (a : Nat) : Field := ⟨0x700020 + a, 0, 36⟩

/-- CLK_ALM_H_a: Table 16.11, R434. -/
def CLK_ALM_H (a : Nat) : Nat := 0x700030 + a
def CLK_ALM_H_cmp_h (a : Nat) : Field := ⟨0x700030 + a, 0, 36⟩

/-- CLK_ALM_PER_a: Table 16.11, R434. -/
def CLK_ALM_PER (a : Nat) : Nat := 0x700040 + a
def CLK_ALM_PER_plen (a : Nat) : Field := ⟨0x700040 + a, 0, 36⟩

/-- PWR_CTL: Table 16.12, R434. -/
def PWR_CTL : Nat := 0x780000
def PWR_CTL_cmd : Field := ⟨0x780000, 34, 2⟩

/-- PWR_STAT: Table 16.12, R434. -/
def PWR_STAT : Nat := 0x780001
def PWR_STAT_state : Field := ⟨0x780001, 33, 3⟩
def PWR_STAT_refused : Field := ⟨0x780001, 32, 1⟩
def PWR_STAT_wkind : Field := ⟨0x780001, 29, 3⟩
def PWR_STAT_wsrc : Field := ⟨0x780001, 23, 6⟩

/-- PWR_SUP: Table 16.12, R434. -/
def PWR_SUP : Nat := 0x780002
def PWR_SUP_sup : Field := ⟨0x780002, 28, 8⟩

/-- The registers of the FAB block. -/
def regsFab : List RegRange :=
[ ⟨0x100100, 1, 1, 1, 0x0, [⟨0, 36, .w1s, false⟩]⟩,
    ⟨0x100101, 1, 1, 1, 0x0, [⟨0, 36, .w1c, false⟩]⟩,
    ⟨0x100102, 1, 1, 1, 0x61a8, [⟨0, 24, .rw, false⟩]⟩,
    ⟨0x100103, 1, 1, 1, 0x0, [⟨0, 36, .w1c, false⟩]⟩,
    ⟨0x100104, 1, 1, 1, 0x0, [⟨30, 6, .ro, false⟩, ⟨23, 7, .ro, false⟩, ⟨18, 5, .ro, false⟩, ⟨12, 6, .ro, false⟩, ⟨10, 2, .ro, false⟩, ⟨0, 1, .w1s, false⟩]⟩,
    ⟨0x100105, 1, 1, 1, 0x0, [⟨35, 1, .w1s, false⟩, ⟨0, 35, .ro, false⟩]⟩,
    ⟨0x100110, 1, 1, 1, 0x0, [⟨0, 36, .w1c, false⟩]⟩,
    ⟨0x100111, 1, 1, 1, 0x0, [⟨34, 2, .ro, false⟩, ⟨28, 6, .ro, false⟩, ⟨21, 7, .ro, false⟩, ⟨6, 15, .ro, false⟩, ⟨5, 1, .ro, false⟩, ⟨0, 1, .w1s, false⟩]⟩,
    ⟨0x100112, 1, 1, 1, 0x0, [⟨35, 1, .w1s, false⟩, ⟨0, 35, .ro, false⟩]⟩,
    ⟨0x100120, 1, 1, 1, 0x0, [⟨7, 6, .rw, false⟩, ⟨0, 7, .rw, false⟩]⟩,
    ⟨0x100121, 1, 1, 1, 0x0, [⟨8, 2, .ro, false⟩, ⟨0, 7, .ro, false⟩]⟩,
    ⟨0x100122, 1, 1, 1, 0x0, [⟨0, 36, .ro, false⟩]⟩,
    ⟨0x100140, 16, 1, 1, 0x0, [⟨33, 3, .rw, false⟩, ⟨27, 6, .rw, false⟩, ⟨20, 7, .rw, false⟩, ⟨15, 5, .rw, false⟩, ⟨0, 15, .rw, false⟩]⟩,
    ⟨0x100150, 16, 1, 1, 0x0, [⟨35, 1, .rw, false⟩, ⟨34, 1, .rw, false⟩, ⟨33, 1, .ro, false⟩, ⟨30, 3, .rw, false⟩, ⟨27, 3, .rw, false⟩, ⟨6, 4, .rw, false⟩, ⟨0, 6, .rw, false⟩]⟩,
    ⟨0x100200, 36, 1, 1, 0x0, [⟨24, 12, .ro, false⟩, ⟨12, 12, .ro, false⟩, ⟨10, 2, .ro, false⟩]⟩,
    ⟨0x100230, 1, 1, 1, 0x61a8, [⟨0, 24, .rw, false⟩]⟩,
    ⟨0x100231, 1, 1, 1, 0xc02d00000, [⟨35, 1, .rw, false⟩, ⟨29, 6, .rw, false⟩, ⟨17, 12, .rw, false⟩]⟩,
    ⟨0x100232, 1, 1, 1, 0x0, [⟨0, 36, .rw, false⟩]⟩,
    ⟨0x100233, 1, 1, 1, 0x0, [⟨35, 1, .w1c, false⟩, ⟨34, 1, .ro, false⟩, ⟨33, 1, .ro, false⟩, ⟨21, 12, .ro, false⟩, ⟨9, 12, .ro, false⟩]⟩,
    ⟨0x100234, 1, 1, 1, 0x3200000, [⟨16, 10, .rw, false⟩, ⟨6, 10, .ro, false⟩, ⟨5, 1, .ro, false⟩, ⟨4, 1, .w1c, false⟩]⟩ ]
  ++ [ ⟨0x100235, 1, 1, 1, 0xa0, [⟨7, 1, .rw, false⟩, ⟨0, 7, .rw, false⟩]⟩,
    ⟨0x100240, 6, 1, 1, 0x0, [⟨30, 6, .ro, false⟩, ⟨24, 6, .ro, false⟩, ⟨18, 6, .ro, false⟩, ⟨12, 6, .ro, false⟩, ⟨6, 6, .ro, false⟩, ⟨0, 6, .ro, false⟩]⟩,
    ⟨0x100250, 36, 1, 1, 0x0, [⟨24, 12, .ro, false⟩]⟩,
    ⟨0x100300, 1, 1, 1, 0x0, [⟨7, 6, .rw, false⟩, ⟨0, 7, .rw, false⟩]⟩,
    ⟨0x100301, 1, 1, 1, 0x0, [⟨25, 1, .ro, false⟩, ⟨23, 2, .ro, false⟩, ⟨21, 2, .ro, false⟩, ⟨19, 2, .ro, false⟩, ⟨17, 2, .ro, false⟩, ⟨12, 5, .ro, false⟩, ⟨10, 2, .ro, false⟩, ⟨0, 7, .ro, false⟩]⟩,
    ⟨0x100302, 1, 1, 1, 0x0, [⟨0, 36, .w1c, false⟩]⟩,
    ⟨0x100303, 1, 1, 1, 0x0, [⟨30, 6, .ro, false⟩, ⟨23, 7, .ro, false⟩, ⟨22, 1, .ro, false⟩, ⟨20, 2, .ro, false⟩, ⟨0, 1, .w1s, false⟩]⟩ ]

/-- The registers of the HNG block. -/
def regsHng : List RegRange :=
[ ⟨0x200000, 1152, 1, 1, 0xfc0000000, [⟨30, 6, .ro, true⟩, ⟨21, 9, .ro, true⟩, ⟨20, 1, .ro, true⟩, ⟨17, 3, .ro, true⟩, ⟨12, 5, .ro, true⟩, ⟨11, 1, .ro, true⟩, ⟨9, 2, .rw, true⟩, ⟨8, 1, .rw, true⟩]⟩,
    ⟨0x200800, 1152, 1, 1, 0x800000000, [⟨34, 2, .ro, false⟩, ⟨33, 1, .ro, false⟩, ⟨32, 1, .w1c, false⟩, ⟨23, 9, .ro, false⟩, ⟨22, 1, .w1c, false⟩, ⟨21, 1, .ro, false⟩, ⟨12, 9, .ro, false⟩, ⟨3, 9, .ro, false⟩, ⟨0, 1, .w1s, false⟩]⟩,
    ⟨0x201000, 288, 1, 1, 0xfc0000000, [⟨30, 6, .ro, true⟩, ⟨21, 9, .ro, true⟩, ⟨20, 1, .ro, true⟩, ⟨17, 3, .ro, true⟩, ⟨12, 5, .ro, true⟩, ⟨11, 1, .ro, true⟩, ⟨9, 2, .rw, true⟩, ⟨8, 1, .rw, true⟩, ⟨7, 1, .ro, true⟩, ⟨1, 6, .ro, true⟩]⟩,
    ⟨0x201200, 288, 1, 1, 0x800000000, [⟨34, 2, .ro, false⟩, ⟨33, 1, .w1c, false⟩, ⟨24, 9, .ro, false⟩, ⟨23, 1, .w1c, false⟩, ⟨22, 1, .ro, false⟩, ⟨13, 9, .ro, false⟩, ⟨0, 1, .w1s, false⟩]⟩,
    ⟨0x201400, 288, 1, 1, 0x0, [⟨0, 36, .ro, false⟩]⟩,
    ⟨0x201600, 288, 1, 1, 0x0, [⟨0, 36, .ro, true⟩]⟩,
    ⟨0x202000, 1, 1, 1, 0xa, [⟨0, 10, .rw, false⟩]⟩,
    ⟨0x202001, 1, 1, 1, 0x64, [⟨0, 10, .rw, false⟩]⟩,
    ⟨0x202002, 1, 1, 1, 0x3e8, [⟨0, 10, .rw, false⟩]⟩,
    ⟨0x202003, 1, 1, 1, 0x0, [⟨0, 10, .rw, false⟩]⟩,
    ⟨0x202004, 1, 1, 1, 0x0, [⟨34, 2, .ro, false⟩, ⟨23, 11, .ro, false⟩, ⟨22, 1, .ro, false⟩, ⟨21, 1, .ro, false⟩, ⟨20, 1, .ro, false⟩, ⟨0, 1, .w1s, false⟩]⟩,
    ⟨0x202005, 1, 1, 1, 0x0, [⟨34, 2, .rw, false⟩, ⟨23, 11, .rw, false⟩, ⟨0, 1, .w1s, false⟩]⟩,
    ⟨0x202006, 1, 1, 1, 0x0, [⟨0, 36, .ro, false⟩]⟩,
    ⟨0x202010, 8, 1, 1, 0x0, [⟨35, 1, .rw, true⟩, ⟨34, 1, .ro, false⟩, ⟨33, 1, .w1c, false⟩, ⟨32, 1, .ro, false⟩, ⟨6, 4, .rw, true⟩, ⟨0, 6, .rw, true⟩]⟩,
    ⟨0x202020, 1, 1, 1, 0xfc0000000, [⟨30, 6, .ro, true⟩, ⟨21, 9, .ro, true⟩, ⟨10, 11, .rw, true⟩, ⟨8, 2, .rw, true⟩]⟩,
    ⟨0x202021, 1, 1, 1, 0x800000000, [⟨34, 2, .ro, false⟩, ⟨33, 1, .w1c, false⟩, ⟨32, 1, .w1c, false⟩, ⟨31, 1, .ro, false⟩, ⟨7, 24, .ro, false⟩, ⟨0, 1, .w1s, false⟩]⟩,
    ⟨0x203000, 128, 1, 1, 0xfc0000000, [⟨30, 6, .ro, true⟩, ⟨21, 9, .ro, true⟩, ⟨19, 2, .ro, true⟩, ⟨17, 2, .ro, true⟩, ⟨16, 1, .ro, true⟩, ⟨14, 2, .rw, true⟩, ⟨13, 1, .rw, true⟩]⟩,
    ⟨0x203080, 128, 1, 1, 0x0, [⟨33, 3, .ro, true⟩, ⟨28, 5, .ro, true⟩, ⟨25, 3, .ro, true⟩, ⟨20, 5, .ro, true⟩, ⟨19, 1, .ro, true⟩]⟩,
    ⟨0x203100, 128, 1, 1, 0x0, [⟨35, 1, .w1s, false⟩, ⟨34, 1, .w1s, false⟩, ⟨33, 1, .rw, true⟩, ⟨32, 1, .w1s, false⟩, ⟨0, 24, .rw, true⟩]⟩,
    ⟨0x203180, 128, 1, 1, 0xb00000000, [⟨34, 2, .ro, false⟩, ⟨33, 1, .ro, false⟩, ⟨32, 1, .ro, false⟩, ⟨22, 10, .ro, false⟩, ⟨11, 11, .ro, false⟩, ⟨10, 1, .ro, false⟩, ⟨9, 1, .w1c, false⟩, ⟨8, 1, .ro, false⟩, ⟨7, 1, .ro, false⟩, ⟨6, 1, .ro, false⟩]⟩ ]
  ++ [ ⟨0x203200, 128, 1, 1, 0x0, [⟨18, 18, .ro, false⟩, ⟨0, 18, .ro, false⟩]⟩,
    ⟨0x203280, 48, 1, 1, 0x0, [⟨0, 36, .rw, false⟩]⟩,
    ⟨0x2032c0, 48, 1, 1, 0x0, [⟨35, 1, .w1s, false⟩, ⟨34, 1, .w1s, false⟩, ⟨33, 1, .rw, false⟩, ⟨32, 1, .rw, false⟩, ⟨31, 1, .ro, false⟩]⟩ ]

/-- The registers of the LNE block. -/
def regsLne : List RegRange :=
[ ⟨0x300000, 6, 1, 1, 0xe4000000, [⟨34, 2, .rw, true⟩, ⟨33, 1, .ro, false⟩, ⟨32, 1, .w1c, false⟩, ⟨30, 2, .rw, false⟩, ⟨28, 2, .rw, false⟩, ⟨26, 2, .rw, false⟩, ⟨24, 2, .rw, false⟩]⟩,
    ⟨0x300010, 24, 1, 1, 0x4000000, [⟨34, 2, .rw, true⟩, ⟨32, 2, .rw, false⟩, ⟨31, 1, .w1s, false⟩, ⟨30, 1, .rw, false⟩, ⟨29, 1, .rw, false⟩, ⟨27, 2, .rw, false⟩, ⟨26, 1, .rw, false⟩, ⟨25, 1, .w1s, false⟩]⟩,
    ⟨0x300030, 24, 1, 1, 0x80000000, [⟨34, 2, .ro, false⟩, ⟨32, 2, .ro, false⟩, ⟨30, 2, .ro, false⟩, ⟨29, 1, .ro, false⟩, ⟨28, 1, .ro, false⟩, ⟨27, 1, .ro, false⟩, ⟨26, 1, .w1c, false⟩, ⟨24, 2, .ro, false⟩, ⟨14, 10, .ro, false⟩, ⟨4, 10, .ro, false⟩]⟩,
    ⟨0x300050, 24, 1, 1, 0x0, [⟨18, 18, .ro, false⟩, ⟨0, 18, .ro, false⟩]⟩,
    ⟨0x300070, 24, 1, 1, 0x0, [⟨27, 9, .ro, false⟩, ⟨18, 9, .ro, false⟩, ⟨9, 9, .ro, false⟩, ⟨0, 9, .ro, false⟩]⟩,
    ⟨0x300090, 24, 1, 1, 0x0, [⟨31, 5, .rw, false⟩, ⟨25, 6, .rw, false⟩, ⟨19, 6, .rw, false⟩, ⟨13, 6, .rw, false⟩, ⟨7, 6, .rw, false⟩, ⟨1, 6, .rw, false⟩, ⟨0, 1, .ro, false⟩]⟩,
    ⟨0x3000b0, 24, 1, 1, 0x0, [⟨31, 5, .rw, false⟩, ⟨25, 6, .rw, false⟩, ⟨19, 6, .rw, false⟩]⟩,
    ⟨0x3000d0, 1, 1, 1, 0x7d0007e80, [⟨24, 12, .rw, false⟩, ⟨14, 10, .rw, false⟩, ⟨4, 10, .rw, false⟩]⟩ ]

/-- The registers of the KWR block. -/
def regsKwr : List RegRange :=
[ ⟨0x380000, 6, 1, 1, 0x0, [⟨34, 2, .rw, true⟩, ⟨32, 2, .rw, true⟩, ⟨24, 8, .rw, true⟩, ⟨12, 12, .rw, false⟩, ⟨11, 1, .rw, false⟩]⟩,
    ⟨0x380008, 6, 1, 1, 0x0, [⟨27, 9, .rw, true⟩, ⟨0, 22, .rw, true⟩]⟩,
    ⟨0x380010, 6, 1, 1, 0x0, [⟨23, 13, .rw, true⟩, ⟨12, 11, .rw, true⟩]⟩,
    ⟨0x380018, 6, 1, 1, 0x0, [⟨23, 13, .rw, true⟩, ⟨12, 11, .rw, true⟩]⟩,
    ⟨0x380020, 6, 1, 1, 0x0, [⟨33, 3, .ro, false⟩, ⟨25, 8, .ro, false⟩, ⟨17, 8, .ro, false⟩, ⟨16, 1, .ro, false⟩, ⟨15, 1, .ro, false⟩, ⟨14, 1, .ro, false⟩, ⟨12, 2, .ro, false⟩]⟩,
    ⟨0x380028, 6, 1, 1, 0x0, [⟨20, 16, .ro, false⟩, ⟨19, 1, .w1c, false⟩, ⟨18, 1, .ro, false⟩]⟩,
    ⟨0x380030, 6, 1, 1, 0x0, [⟨12, 24, .ro, false⟩]⟩,
    ⟨0x380038, 6, 1, 1, 0x0, [⟨22, 14, .ro, false⟩, ⟨7, 15, .ro, false⟩]⟩,
    ⟨0x380040, 6, 1, 1, 0x0, [⟨27, 9, .ro, false⟩, ⟨18, 9, .ro, false⟩, ⟨9, 9, .ro, false⟩, ⟨0, 9, .ro, false⟩]⟩,
    ⟨0x380048, 6, 1, 1, 0x0, [⟨35, 1, .w1s, false⟩, ⟨34, 1, .w1s, false⟩, ⟨33, 1, .w1s, false⟩]⟩,
    ⟨0x380050, 6, 1, 1, 0x0, [⟨27, 9, .ro, false⟩, ⟨9, 18, .ro, false⟩, ⟨0, 9, .ro, false⟩]⟩ ]

/-- The registers of the DRM block. -/
def regsDrm : List RegRange :=
[ ⟨0x400000, 2, 1, 1, 0x4100000, [⟨35, 1, .ro, true⟩, ⟨34, 1, .ro, true⟩, ⟨33, 1, .ro, true⟩, ⟨32, 1, .ro, true⟩, ⟨30, 2, .rw, true⟩, ⟨28, 2, .ro, true⟩, ⟨27, 1, .ro, true⟩, ⟨26, 1, .rw, false⟩, ⟨25, 1, .rw, true⟩, ⟨24, 1, .rw, false⟩, ⟨16, 8, .rw, false⟩]⟩,
    ⟨0x400010, 2, 4, 3, 0x0, [⟨30, 6, .ro, true⟩, ⟨24, 6, .ro, true⟩, ⟨18, 6, .ro, true⟩, ⟨12, 6, .ro, true⟩, ⟨4, 8, .ro, true⟩]⟩,
    ⟨0x400018, 2, 4, 3, 0x0, [⟨30, 6, .ro, true⟩, ⟨24, 6, .ro, true⟩, ⟨16, 8, .ro, true⟩, ⟨10, 6, .ro, true⟩, ⟨6, 4, .ro, true⟩, ⟨0, 6, .ro, true⟩]⟩,
    ⟨0x400020, 2, 16, 16, 0x100000000, [⟨34, 2, .rw, true⟩, ⟨33, 1, .rw, true⟩, ⟨32, 1, .rw, false⟩, ⟨28, 4, .ro, false⟩]⟩,
    ⟨0x400040, 2, 4, 1, 0x500, [⟨0, 24, .rw, false⟩]⟩,
    ⟨0x400041, 2, 4, 1, 0x1900, [⟨0, 24, .rw, false⟩]⟩,
    ⟨0x400042, 2, 4, 1, 0x6400, [⟨0, 24, .rw, false⟩]⟩,
    ⟨0x400043, 2, 4, 1, 0x1f400, [⟨0, 24, .rw, false⟩]⟩,
    ⟨0x400048, 2, 1, 1, 0x0, [⟨34, 2, .rw, false⟩, ⟨33, 1, .ro, false⟩, ⟨29, 4, .ro, false⟩, ⟨22, 7, .rw, false⟩, ⟨12, 10, .ro, false⟩]⟩,
    ⟨0x40004a, 2, 1, 1, 0x0, [⟨33, 3, .ro, false⟩, ⟨24, 9, .ro, false⟩]⟩,
    ⟨0x40004c, 2, 1, 1, 0x0, [⟨18, 18, .ro, false⟩, ⟨0, 18, .ro, false⟩]⟩,
    ⟨0x40004e, 2, 1, 1, 0x0, [⟨34, 2, .ro, false⟩, ⟨33, 1, .ro, false⟩, ⟨0, 33, .ro, false⟩]⟩,
    ⟨0x400050, 2, 1, 1, 0x0, [⟨28, 8, .ro, false⟩, ⟨25, 3, .ro, false⟩, ⟨0, 1, .w1s, false⟩]⟩,
    ⟨0x400052, 2, 1, 1, 0x0, [⟨35, 1, .w1s, false⟩, ⟨23, 12, .ro, false⟩, ⟨11, 12, .ro, false⟩, ⟨0, 11, .ro, false⟩]⟩,
    ⟨0x400054, 2, 1, 1, 0x546000000, [⟨18, 18, .rw, false⟩, ⟨10, 8, .ro, false⟩]⟩,
    ⟨0x400060, 2, 32, 32, 0x0, [⟨35, 1, .ro, false⟩, ⟨34, 1, .ro, false⟩, ⟨33, 1, .ro, false⟩, ⟨31, 2, .ro, false⟩, ⟨29, 2, .ro, false⟩, ⟨12, 17, .ro, false⟩, ⟨10, 2, .ro, false⟩, ⟨8, 2, .ro, false⟩]⟩,
    ⟨0x400100, 2, 1, 1, 0x19200000, [⟨22, 14, .rw, false⟩, ⟨18, 4, .rw, false⟩, ⟨17, 1, .w1s, false⟩]⟩,
    ⟨0x400102, 2, 1, 1, 0x0, [⟨33, 3, .ro, false⟩, ⟨26, 7, .ro, false⟩, ⟨25, 1, .ro, false⟩, ⟨16, 9, .ro, false⟩, ⟨6, 10, .ro, false⟩]⟩,
    ⟨0x400104, 2, 1, 1, 0x0, [⟨16, 20, .w1c, false⟩, ⟨14, 2, .ro, false⟩]⟩,
    ⟨0x400108, 2, 4, 3, 0x0, [⟨35, 1, .ro, false⟩, ⟨32, 3, .ro, false⟩, ⟨23, 9, .ro, false⟩, ⟨13, 10, .ro, false⟩]⟩ ]
  ++ [ ⟨0x400110, 2, 1, 1, 0x0, [⟨5, 2, .rw, false⟩, ⟨4, 1, .rw, false⟩, ⟨0, 4, .rw, false⟩]⟩,
    ⟨0x400112, 2, 1, 1, 0x0, [⟨27, 9, .ro, false⟩, ⟨18, 9, .ro, false⟩, ⟨9, 9, .ro, false⟩, ⟨0, 9, .ro, false⟩]⟩,
    ⟨0x400114, 2, 1, 1, 0x0, [⟨27, 9, .ro, false⟩, ⟨18, 9, .ro, false⟩, ⟨9, 9, .ro, false⟩, ⟨0, 9, .ro, false⟩]⟩ ]

/-- The registers of the PIN block. -/
def regsPin : List RegRange :=
[ ⟨0x500000, 12, 36, 36, 0x0, [⟨33, 3, .rw, true⟩, ⟨32, 1, .rw, true⟩, ⟨30, 2, .rw, true⟩, ⟨29, 1, .rw, true⟩, ⟨27, 2, .rw, true⟩, ⟨26, 1, .rw, true⟩, ⟨23, 3, .rw, true⟩, ⟨20, 3, .rw, true⟩, ⟨6, 14, .rw, true⟩, ⟨5, 1, .ro, false⟩]⟩,
    ⟨0x500200, 12, 1, 1, 0x0, [⟨0, 36, .w1s, false⟩]⟩,
    ⟨0x500210, 12, 1, 1, 0x0, [⟨0, 36, .rw, true⟩]⟩,
    ⟨0x500220, 12, 1, 1, 0x0, [⟨0, 36, .ro, false⟩]⟩,
    ⟨0x500230, 12, 1, 1, 0x0, [⟨34, 2, .ro, true⟩, ⟨32, 2, .ro, false⟩, ⟨30, 2, .ro, false⟩, ⟨29, 1, .rw, true⟩, ⟨28, 1, .ro, false⟩, ⟨27, 1, .w1c, false⟩, ⟨17, 10, .rw, true⟩]⟩,
    ⟨0x500240, 12, 1, 1, 0x0, [⟨8, 1, .rw, true⟩, ⟨17, 1, .rw, true⟩, ⟨26, 1, .rw, true⟩, ⟨35, 1, .rw, true⟩, ⟨2, 6, .rw, true⟩, ⟨11, 6, .rw, true⟩, ⟨20, 6, .rw, true⟩, ⟨29, 6, .rw, true⟩, ⟨0, 2, .rw, true⟩, ⟨9, 2, .rw, true⟩, ⟨18, 2, .rw, true⟩, ⟨27, 2, .rw, true⟩]⟩,
    ⟨0x500300, 24, 1, 1, 0x0, [⟨35, 1, .rw, true⟩, ⟨31, 4, .rw, true⟩, ⟨29, 2, .rw, true⟩, ⟨28, 1, .rw, true⟩, ⟨26, 2, .rw, true⟩, ⟨25, 1, .rw, true⟩, ⟨24, 1, .rw, true⟩, ⟨23, 1, .rw, true⟩, ⟨22, 1, .rw, true⟩, ⟨21, 1, .rw, true⟩, ⟨5, 16, .rw, true⟩]⟩,
    ⟨0x500320, 24, 1, 1, 0x0, [⟨0, 36, .rw, true⟩]⟩,
    ⟨0x500340, 24, 1, 1, 0x0, [⟨0, 36, .rw, true⟩]⟩,
    ⟨0x500360, 24, 1, 1, 0x0, [⟨0, 36, .rw, true⟩]⟩,
    ⟨0x500380, 24, 4, 4, 0x0, [⟨0, 36, .rw, true⟩]⟩,
    ⟨0x500400, 24, 1, 1, 0x0, [⟨0, 24, .rw, true⟩]⟩,
    ⟨0x500420, 24, 1, 1, 0x0, [⟨34, 2, .ro, false⟩, ⟨33, 1, .ro, false⟩, ⟨32, 1, .ro, false⟩, ⟨14, 18, .ro, false⟩, ⟨5, 9, .ro, false⟩, ⟨0, 1, .w1s, false⟩]⟩,
    ⟨0x500500, 48, 1, 1, 0x0, [⟨35, 1, .rw, true⟩, ⟨34, 1, .ro, true⟩, ⟨30, 4, .ro, true⟩, ⟨24, 6, .ro, true⟩, ⟨23, 1, .rw, true⟩, ⟨22, 1, .ro, true⟩, ⟨16, 6, .ro, true⟩, ⟨15, 1, .ro, true⟩, ⟨9, 6, .ro, true⟩, ⟨0, 9, .ro, false⟩]⟩,
    ⟨0x500540, 48, 1, 1, 0x0, [⟨0, 36, .ro, true⟩]⟩ ]

/-- The registers of the CFG block. -/
def regsCfg : List RegRange :=
[ ⟨0x600007, 1, 1, 1, 0x0, [⟨35, 1, .ro, false⟩, ⟨34, 1, .ro, false⟩, ⟨33, 1, .ro, false⟩, ⟨32, 1, .ro, false⟩, ⟨31, 1, .ro, false⟩, ⟨30, 1, .ro, false⟩, ⟨22, 8, .ro, false⟩, ⟨15, 7, .ro, false⟩]⟩,
    ⟨0x600008, 1, 1, 1, 0x0, [⟨18, 18, .ro, false⟩, ⟨0, 18, .ro, false⟩]⟩,
    ⟨0x600000, 1, 1, 1, 0x0, [⟨33, 3, .ro, false⟩, ⟨32, 1, .ro, false⟩, ⟨31, 1, .ro, false⟩, ⟨29, 2, .ro, false⟩, ⟨28, 1, .ro, false⟩, ⟨27, 1, .ro, false⟩, ⟨23, 4, .ro, false⟩, ⟨19, 4, .ro, false⟩]⟩,
    ⟨0x600001, 1, 1, 1, 0x0, [⟨35, 1, .w1s, false⟩, ⟨34, 1, .rw, false⟩]⟩,
    ⟨0x600002, 1, 1, 1, 0x0, [⟨35, 1, .ro, false⟩, ⟨31, 4, .ro, false⟩, ⟨8, 23, .ro, false⟩]⟩,
    ⟨0x600003, 1, 1, 1, 0x0, [⟨4, 32, .ro, false⟩]⟩,
    ⟨0x600004, 1, 1, 1, 0x0, [⟨20, 16, .ro, false⟩]⟩,
    ⟨0x600005, 1, 1, 1, 0x0, [⟨27, 9, .ro, false⟩, ⟨18, 9, .ro, false⟩, ⟨9, 9, .ro, false⟩, ⟨0, 9, .ro, false⟩]⟩,
    ⟨0x600006, 1, 1, 1, 0x0, [⟨12, 24, .ro, false⟩]⟩,
    ⟨0x600009, 1, 1, 1, 0x0, [⟨30, 6, .ro, false⟩, ⟨23, 7, .ro, false⟩, ⟨18, 5, .ro, false⟩, ⟨14, 4, .ro, false⟩, ⟨6, 8, .ro, false⟩]⟩,
    ⟨0x600010, 1, 1, 1, 0x0, [⟨30, 6, .rw, false⟩, ⟨23, 7, .rw, false⟩, ⟨18, 5, .rw, false⟩, ⟨14, 4, .rw, false⟩, ⟨8, 6, .rw, false⟩, ⟨7, 1, .ro, false⟩]⟩,
    ⟨0x600011, 1, 1, 1, 0x0, [⟨0, 36, .ro, false⟩]⟩,
    ⟨0x600020, 1, 1, 1, 0x800000000, [⟨34, 2, .rw, false⟩, ⟨0, 32, .rw, false⟩]⟩,
    ⟨0x600021, 1, 1, 1, 0x0, [⟨32, 4, .rw, false⟩, ⟨29, 3, .ro, false⟩, ⟨16, 13, .rw, false⟩]⟩ ]

/-- The registers of the SCB block. -/
def regsScb : List RegRange :=
[ ⟨0x680000, 1, 1, 1, 0xc03e80000, [⟨35, 1, .rw, false⟩, ⟨34, 1, .rw, false⟩, ⟨18, 16, .rw, false⟩]⟩,
    ⟨0x680001, 1, 1, 1, 0x800000000, [⟨34, 2, .ro, false⟩, ⟨16, 18, .ro, false⟩, ⟨8, 8, .ro, false⟩, ⟨4, 4, .ro, false⟩]⟩,
    ⟨0x680002, 1, 1, 1, 0x0, [⟨14, 22, .ro, false⟩]⟩,
    ⟨0x680003, 1, 1, 1, 0x0, [⟨35, 1, .w1s, false⟩, ⟨17, 18, .ro, false⟩, ⟨8, 9, .ro, false⟩, ⟨0, 8, .ro, false⟩]⟩,
    ⟨0x680004, 1, 1, 1, 0x0, [⟨35, 1, .ro, false⟩, ⟨18, 17, .ro, false⟩, ⟨9, 9, .ro, false⟩]⟩,
    ⟨0x680005, 1, 1, 1, 0x0, [⟨14, 22, .ro, false⟩, ⟨12, 2, .ro, false⟩, ⟨0, 12, .ro, false⟩]⟩,
    ⟨0x680010, 1, 1, 1, 0x0, [⟨0, 36, .w1s, false⟩]⟩,
    ⟨0x680011, 1, 1, 1, 0x0, [⟨0, 36, .rw, false⟩]⟩,
    ⟨0x680012, 1, 1, 1, 0x0, [⟨0, 36, .ro, false⟩]⟩,
    ⟨0x680013, 1, 1, 1, 0x0, [⟨0, 36, .ro, false⟩]⟩,
    ⟨0x680014, 1, 1, 1, 0x0, [⟨30, 6, .ro, false⟩, ⟨28, 2, .ro, false⟩, ⟨26, 2, .ro, false⟩, ⟨4, 22, .ro, false⟩]⟩,
    ⟨0x680015, 1, 1, 1, 0x0, [⟨30, 6, .rw, false⟩, ⟨28, 2, .rw, false⟩, ⟨17, 11, .rw, false⟩, ⟨15, 2, .rw, false⟩]⟩,
    ⟨0x680016, 1, 1, 1, 0x0, [⟨34, 2, .rw, true⟩]⟩,
    ⟨0x680020, 1, 1, 1, 0x80053c000, [⟨35, 1, .rw, false⟩, ⟨34, 1, .ro, true⟩, ⟨18, 16, .rw, false⟩, ⟨17, 1, .rw, false⟩, ⟨16, 1, .rw, false⟩, ⟨15, 1, .rw, false⟩, ⟨14, 1, .rw, false⟩]⟩,
    ⟨0x680021, 1, 1, 1, 0xc0000, [⟨33, 3, .ro, false⟩, ⟨27, 6, .ro, false⟩, ⟨20, 7, .ro, false⟩, ⟨18, 2, .ro, false⟩, ⟨11, 7, .ro, false⟩, ⟨0, 11, .ro, false⟩]⟩,
    ⟨0x680022, 1, 1, 1, 0x0, [⟨29, 7, .ro, false⟩, ⟨12, 17, .ro, false⟩, ⟨0, 12, .ro, false⟩]⟩,
    ⟨0x680023, 1, 1, 1, 0x0, [⟨30, 6, .rw, false⟩, ⟨23, 7, .ro, false⟩, ⟨14, 9, .ro, false⟩]⟩,
    ⟨0x680024, 1, 1, 1, 0x0, [⟨33, 3, .ro, false⟩, ⟨27, 6, .ro, false⟩, ⟨20, 7, .ro, false⟩, ⟨6, 14, .ro, false⟩, ⟨0, 6, .ro, false⟩]⟩,
    ⟨0x680025, 1, 1, 1, 0x0, [⟨0, 36, .rw, false⟩]⟩,
    ⟨0x680030, 1, 1, 1, 0x0, [⟨35, 1, .w1s, false⟩, ⟨32, 3, .ro, false⟩, ⟨31, 1, .ro, false⟩, ⟨30, 1, .ro, false⟩]⟩ ]
  ++ [ ⟨0x680031, 1, 1, 1, 0x0, [⟨34, 2, .ro, false⟩, ⟨26, 8, .ro, false⟩, ⟨18, 8, .ro, false⟩, ⟨7, 11, .ro, false⟩, ⟨0, 7, .ro, false⟩]⟩,
    ⟨0x680032, 1, 1, 1, 0x0, [⟨16, 20, .ro, false⟩, ⟨0, 16, .ro, false⟩]⟩,
    ⟨0x680033, 1, 1, 1, 0x0, [⟨35, 1, .ro, false⟩, ⟨34, 1, .ro, false⟩]⟩ ]

/-- The registers of the MGC block. -/
def regsMgc : List RegRange :=
[ ⟨0x0, 1, 1, 1, 0x243610000, [⟨20, 16, .ro, false⟩, ⟨16, 4, .ro, false⟩]⟩,
    ⟨0x1, 1, 1, 1, 0x0, [⟨0, 36, .ro, false⟩]⟩,
    ⟨0x2, 1, 1, 1, 0x0, [⟨0, 36, .ro, false⟩]⟩,
    ⟨0x3, 1, 1, 1, 0x0, [⟨34, 2, .ro, false⟩, ⟨28, 6, .ro, false⟩, ⟨25, 3, .ro, false⟩, ⟨22, 3, .ro, false⟩, ⟨21, 1, .ro, false⟩]⟩,
    ⟨0x10, 1, 1, 1, 0x0, [⟨0, 32, .w1s, false⟩]⟩,
    ⟨0x11, 1, 1, 1, 0x0, [⟨0, 32, .w1c, false⟩]⟩,
    ⟨0x12, 1, 1, 1, 0x0, [⟨0, 32, .rw, false⟩]⟩,
    ⟨0x13, 1, 1, 1, 0xffff, [⟨0, 16, .rw, false⟩]⟩,
    ⟨0x14, 1, 1, 1, 0x0, [⟨18, 18, .ro, false⟩, ⟨0, 18, .ro, false⟩]⟩,
    ⟨0x20, 1, 1, 1, 0x1400, [⟨35, 1, .ro, true⟩, ⟨29, 6, .ro, true⟩, ⟨23, 6, .ro, true⟩, ⟨9, 14, .rw, false⟩]⟩,
    ⟨0x100, 256, 1, 1, 0x0, [⟨35, 1, .ro, true⟩, ⟨23, 12, .ro, true⟩, ⟨15, 8, .ro, true⟩, ⟨11, 4, .ro, true⟩, ⟨9, 2, .ro, true⟩]⟩ ]

/-- The registers of the CLK block. -/
def regsClk : List RegRange :=
[ ⟨0x700000, 1, 1, 1, 0x0, [⟨35, 1, .ro, false⟩, ⟨34, 1, .ro, false⟩, ⟨33, 1, .ro, false⟩, ⟨30, 3, .ro, false⟩, ⟨29, 1, .w1c, false⟩]⟩,
    ⟨0x700001, 1, 1, 1, 0x0, [⟨0, 36, .ro, false⟩]⟩,
    ⟨0x700002, 1, 1, 1, 0x0, [⟨0, 36, .ro, false⟩]⟩,
    ⟨0x700010, 16, 1, 1, 0x0, [⟨35, 1, .rw, false⟩, ⟨34, 1, .rw, false⟩, ⟨33, 1, .rw, false⟩, ⟨32, 1, .w1c, false⟩, ⟨23, 9, .ro, false⟩, ⟨22, 1, .w1s, false⟩]⟩,
    ⟨0x700020, 16, 1, 1, 0x0, [⟨0, 36, .rw, false⟩]⟩,
    ⟨0x700030, 16, 1, 1, 0x0, [⟨0, 36, .rw, false⟩]⟩,
    ⟨0x700040, 16, 1, 1, 0x0, [⟨0, 36, .rw, false⟩]⟩ ]

/-- The registers of the PWR block. -/
def regsPwr : List RegRange :=
[ ⟨0x780000, 1, 1, 1, 0x0, [⟨34, 2, .rw, false⟩]⟩,
    ⟨0x780001, 1, 1, 1, 0x0, [⟨33, 3, .ro, false⟩, ⟨32, 1, .w1c, false⟩, ⟨29, 3, .ro, false⟩, ⟨23, 6, .ro, false⟩]⟩,
    ⟨0x780002, 1, 1, 1, 0x0, [⟨28, 8, .ro, false⟩]⟩ ]

/-- The registers of the block that holds word address `a` (each block spans 80000h words). -/
def blockRegs (a : Nat) : List RegRange :=
  match a / 0x80000 with
  | 2 => regsFab
  | 4 => regsHng
  | 6 => regsLne
  | 7 => regsKwr
  | 8 => regsDrm
  | 10 => regsPin
  | 12 => regsCfg
  | 13 => regsScb
  | 0 => regsMgc
  | 14 => regsClk
  | 15 => regsPwr
  | _ => []

/-- The table row that covers word address `a`, if a register lies there. -/
def regRange? (a : Nat) : Option RegRange :=
  (blockRegs a).find? (fun r => r.covers a)

/-- The word a register holds at reset; 0 where no register lies. -/
def resetWord (a : Nat) : W36 :=
  match regRange? a with
  | some r => BitVec.ofNat 36 r.reset
  | none => 0

/-- The fields of the register at word address `a`. -/
def fieldsAt (a : Nat) : List FieldInfo :=
  match regRange? a with
  | some r => r.fields
  | none => []

end Sys2Proof.Machine
end

