-- ==== Sys2Proof/Machine/State.lean ====
section
/-! DEFINITION. State: everything the spec gives the TKA2436, as plain data, and its value at reset. The
registers of the control space are the one home of every register field; the structures below hold what
the spec names and no register holds. Tables are keyed by unit number; an unlisted unit is at its initial value. -/
namespace Sys2Proof.Machine
open Sys2Proof

/-! ## The fabric (02, 03) -/

/-- Where a hearth stands between commit, waking, user reset and isolation (R40, R41, R354). -/
inductive HearthSt where
  /-- Before commit: every cell acts as mode OFF (R60, R319). -/
  | inert
  /-- Initial tokens inserted; no cell fires until the hearth wakes (R40, Table 2.10 step 5). -/
  | waiting
  /-- The cells fire. -/
  | awake
  /-- User reset, drained, in its boundary wait (Table 2.10 step 3). -/
  | boundary
  /-- Drained and held by its isolation gates (R352 to R356). -/
  | isolated
  /-- Drained, its initial tokens reinserted, waiting for its single-hearth wake (Table 2.10 step 5). -/
  | rejoin
deriving DecidableEq, Repr

/-- A one-hot row at L2, L3 or L4 (R56): its level (1, 2 or 3), the hearth that holds it, the physical
column of an L2 row, and its destination index (Table 3.2). -/
structure RowId where
  level : Nat
  h : Nat
  col : Nat
  dest : Nat
deriving DecidableEq, Repr

/-- What the keepers of an invalid row hold: the destination's rails and its acknowledge (R58). -/
structure Keeper where
  rails : Rails
  ack : Bool
  /-- The source index the row selected before it became invalid. -/
  src : Option Nat
deriving DecidableEq, Repr

/-- The clockless fabric. Producers, consumers, cells, rows and frames are keyed by the functions of
Machine/Ops.lean. -/
structure Fab where
  /-- Crossbars conduct and cells act: true from commit to the next load (R60). -/
  committed : Bool
  /-- Stored frames: data bits [1295:0], check bits [1307:1296] (R342, R344). -/
  frames : Tbl (BitVec 1308)
  /-- The rails each producer drives. -/
  rails : Tbl Rails
  /-- Rails of a producer that a wire failure inverts (R25, R344). -/
  wires : Tbl Rails
  /-- The acknowledge each producer sees: the join of its consumers (R24). -/
  join : Tbl Bool
  /-- The acknowledge each consumer raises. -/
  acks : Tbl Bool
  /-- The token each cell's token stage holds (R27). -/
  stage : Tbl (Option Digit)
  /-- Cell inputs stalled by a rail fault (R25). -/
  stalled : Tbl Bool
  /-- Multiplexer roots stalled by a select fault (R34). -/
  muxStalled : Tbl Bool
  /-- Rows that their checker holds invalid, with what the keepers hold (R58). -/
  keepers : Tbl (Option Keeper)
  /-- What the L3 crossbar holds at the 192 ports of a column in handover: down-port p at key p, up-port p at
  key 96 + p (R64). -/
  holds : Tbl Keeper
  /-- Steering: the state code and physical column of each logical column, keyed 66h + c (R62). -/
  steer : Tbl (Nat × Nat)
  hearths : Tbl HearthSt
  /-- Rising edges of each probe's signal since it was enabled (R70). -/
  edges : Tbl Nat
deriving DecidableEq, Repr

/-! ## Hinges (06) -/

/-- The two sides of a re-seat (Table 6.15). Side 0 is the fabric side of an event, word or control
hinge and the writer side of a FIFO; side 1 is the clocked side or the reader side. -/
structure Seal where
  rst0 : Bool
  rst1 : Bool
  line0 : Bool
  line1 : Bool
  open0 : Bool
  open1 : Bool
  /-- The side is the one that reset (X of Table 6.15) in the present exchange. -/
  x0 : Bool
  x1 : Bool
  /-- The hinge has not opened since the last commit, warm re-commit or exit from BANKED. -/
  first : Bool
deriving DecidableEq, Repr

/-- Both sides in reset with their seal lines raised (Table 6.13, power-on reset). -/
def Seal.closed : Seal := ⟨true, true, true, true, false, false, true, true, true⟩

/-- Sender states (Table 6.6). -/
inductive Sender where
  | idle | request | release
deriving DecidableEq, Repr

/-- Receiver states (Table 6.7). -/
inductive Receiver where
  | wait | deliver | held
deriving DecidableEq, Repr

/-- One event hinge (R125): its seal, the REQ and ACK levels, and its two state machines. -/
structure EvHinge where
  sl : Seal
  req : Bool
  ack : Bool
  snd : Sender
  rcv : Receiver
deriving DecidableEq, Repr

def EvHinge.init : EvHinge := ⟨Seal.closed, false, false, .idle, .wait⟩

/-- One word hinge (R131 to R134): its seal, the Gray register, JUMP HOLD or valid low, the change
notice of on-change mode, the last value delivered, a token waiting for its permit, and the value the
endpoint holds. -/
structure WdHinge where
  sl : Seal
  gray : W36
  hold : Bool
  notice : Bool
  last : Option W36
  waiting : Option W36
  endpoint : W36
deriving DecidableEq, Repr

def WdHinge.init : WdHinge := ⟨Seal.closed, 0, false, false, none, none, 0⟩

/-- A request that the control hinge has captured (Table 6.11). -/
structure CtlRequest where
  op : BitVec 2
  addr : Addr
  data : W36
  mask : W36
deriving DecidableEq, Repr

/-- A response of the control hinge: read data and status (Tables 6.11, 6.12). -/
structure CtlResponse where
  data : W36
  status : BitVec 2
deriving DecidableEq, Repr

/-- The hinge belt. -/
structure Hng where
  ev : Tbl EvHinge
  wd : Tbl WdHinge
  ctlSeal : Seal
  /-- The request captured and not yet performed (R137). -/
  ctlReq : Option CtlRequest
  /-- The response of the access performed, not yet presented. -/
  ctlDone : Option CtlResponse
  /-- The response presented at the hinge port and not yet taken. -/
  ctlResp : Option CtlResponse
  /-- Hinges whose clocked sides a side reset holds (HNG_SIDE_RST, R152). -/
  sideRst : List HingeId
  /-- Stalls that still hold: kind and index of the hinge (R143, 6210h:04). -/
  stalls : List (Nat × Nat)
  /-- User clocks whose present absence has been declared (R124, R146). -/
  gone : Tbl Bool
  /-- Hinges whose presented token a drain has removed, until their seal counts it (R140). -/
  removed : List HingeId
deriving DecidableEq, Repr

/-! ## Pace, governor and VFAB (04) -/

/-- Pace windows, the governor's own counters and the VFAB ramp. -/
structure Pace where
  /-- Hearths whose pace window is running (R80). -/
  windows : Tbl Bool
  /-- Consecutive windows in which counters A and B disagreed (R81). -/
  bad : Tbl Nat
  /-- Whether 1107h stands reported for a hearth's present disagreement. -/
  reported : Tbl Bool
  /-- Whether a hearth has woken since commit or the exit from BANKED (Table 4.2). -/
  woken : Tbl Bool
  /-- Governor periods in which a hearth's estimator has delivered no count (Table 4.7). -/
  silent : Tbl Nat
  /-- Completed handshakes of hearth h by kind k since its estimator last delivered, keyed 9h + k, the kinds in the
  row order of Table 4.4. -/
  counts : Tbl Nat
  /-- The latest p_dyn of a hearth, in the unit of `microwatt` (R88). -/
  pdyn : Tbl Nat
  /-- 1105h stands raised for the present episode (R91). -/
  capped : Bool
  /-- Consecutive periods with p_est at or below the limit (R91). -/
  calm : Nat
  /-- The commanded VFAB, mV; 0 before the MGC first commands it (R94). -/
  commanded : Nat
  /-- A regulator fault holds the commanded value until the target is written (R96). -/
  stopped : Bool
  /-- The latest STATUS_WORD read (Table 4.18). -/
  statusWord : BitVec 16
  /-- The regulator's PMBus address in force (R94, Table 4.14). -/
  addr : BitVec 7
deriving DecidableEq, Repr

/-! ## Store blocks (05) -/

/-- One port of a store block: the old value read and not yet presented, a fault that stalls it, and whether a
request waits at it for the end of a handover. -/
structure StorePort where
  read : Option W36
  faulted : Bool
  held : Bool
deriving DecidableEq, Repr

def StorePort.init : StorePort := ⟨none, false, false⟩

/-- The store blocks: content by physical block and row, block steering, spare rows in use, and ports. -/
structure Store where
  content : Tbl W36
  /-- State code and physical block of each slot, keyed 102h + b (R103). -/
  steer : Tbl (Nat × Nat)
  rowsUsed : Tbl Nat
  ports : Tbl StorePort
deriving DecidableEq, Repr

/-! ## Hinge FIFOs (07) -/

/-- One hinge FIFO. The drain bank and a sealed fill bank hold the entries not yet read; the fill bank
holds the entries written since it became the fill bank, with the place of its open length slot. -/
structure Fifo where
  sl : Seal
  drain : List Entry
  /-- The reader knows the drain bank is sealed (R157). -/
  drainSeen : Bool
  /-- The fill bank, once sealed while the drain bank was not known empty: the writer side is full. -/
  full : Option (List Entry)
  /-- The entries it held as it sealed, which wlevel shows until the banks swap. -/
  level : Nat
  fullSeen : Bool
  fill : List Entry
  /-- Place of the length slot of the part being written (R159). -/
  slot : Option Nat
  inPkt : Bool
  later : Bool
  /-- Sequence number of the next packet, and of the packet in progress (Table 7.6). -/
  seqNext : BitVec 9
  seqCur : BitVec 9
  /-- The writer side knows the drain bank is empty. -/
  knowsEmpty : Bool
  /-- The reader has asked for an entry since the bank emptied (R154). -/
  asked : Bool
  fbank : Bool
  /-- Entries before the flush point not yet taken, once the writer side has fixed it (R161). -/
  flushAt : Option Nat
  /-- Entries before the clear point not yet taken, once the writer side has fixed it (R162). -/
  clearAt : Option Nat
  /-- The reader side has acted on the flush point. -/
  cleared : Bool
  /-- The reader is owed the abort entry that ends its packet (R162). -/
  abortOwed : Bool
deriving DecidableEq, Repr

def Fifo.init : Fifo :=
  ⟨Seal.closed, [], false, none, 0, false, [], none, false, false, 0, 0, true, false, false, none, none, false, false⟩

/-! ## Scrubbing, test and repair (14) -/

/-- The slice in progress and where its handover stands (Tables 5.5 and 14.8). -/
inductive Handover where
  | idle
  /-- Frames 0 to 8 are copied to the spare with the design running; then the L3 ports are held, then the
  scan copy runs; then the freed physical column is tested. -/
  | colCopy (h : Fin 36) (c : Fin 66)
  | colWait (h : Fin 36) (c : Fin 66)
  | colScan (h : Fin 36) (c : Fin 66)
  | colTest (h : Fin 36) (p : Fin 66)
  | blockWait (h : Fin 36) (b : Fin 96)
  | blockCopy (h : Fin 36) (b : Fin 96)
  | blockTest (h : Fin 36) (p : Fin 102)
  | laneTest (l : Fin 24)
  | fifoTest (f : Fin 128)
deriving DecidableEq, Repr

/-- A hearth reload: who asked for it, and whether it is the retry of a failed one (R355, R356). -/
structure Reload where
  h : Fin 36
  cause : ReloadCause
  retry : Bool
  /-- The timebase at its request. -/
  start : W72
deriving DecidableEq, Repr

/-- An SDRAM row of the repair record (R251, Table 10.25). -/
structure DramRow where
  ppr : Bool
  rank : BitVec 1
  bg : BitVec 2
  bank : BitVec 2
  row : BitVec 17
  sbg : BitVec 2
  sbank : BitVec 2
deriving DecidableEq, Repr

/-- The parts of the repair record (Table 14.9). -/
structure RepairRecord where
  cols : List (Fin 36 × Fin 66)
  blks : List (Fin 36 × Fin 102)
  rows : List (Fin 36 × Fin 102 × Fin 1024)
  dram0 : List DramRow
  dram1 : List DramRow
  /-- Cord maps, keyed by cord; the identity map E4h where none is recorded (R193). -/
  maps : Tbl (BitVec 8)
  ppr0 : Bool
  ppr1 : Bool
deriving DecidableEq, Repr

def RepairRecord.empty : RepairRecord := ⟨[], [], [], [], [], [], false, false⟩

/-- The shutdown test record (R371, R372). -/
structure ShutdownRecord where
  consumed : Bool
  incomplete : Bool
  unrepaired : Bool
  designId : BitVec 64
deriving DecidableEq, Repr

/-- Scrubber and test engine. -/
structure Scb where
  /-- Frame addresses reported for a priority read (R347). -/
  prio : List FrameAddr
  /-- The pending list (R348). -/
  pendList : List FrameAddr
  /-- Place of the walk among the 905,472 frames (R345). -/
  pos : Nat
  /-- The next pass is due as soon as the running one ends (R345). -/
  passDue : Bool
  /-- Corrections in the present pass (R349). -/
  corrections : Nat
  /-- Heartbeat count, and the count at the MGC's last check (R351). -/
  beat : Nat
  beatSeen : Nat
  /-- Timebase of the latest heartbeat restarts, newest first (R351). -/
  restartTimes : List W72
  /-- Essential-bit maps by frame key (R346). -/
  essential : Tbl W36
  /-- 8109h stands raised until the list has room again (R348). -/
  fullRaised : Bool
  /-- The scrubber has been stopped for good; an uncorrectable ROM word has halted its walk (R350, R351). -/
  dead : Bool
  halted : Bool
  /-- Settings of SCB_ISO_VAL; and those in force, a gate's since its hearth's last isolation, a hinge's since it last
  sealed (R352, R353). -/
  isoVal : Tbl Nat
  isoNow : Tbl Nat
  /-- Reloads requested or running, in request order (R330, R355). -/
  reloads : List Reload
  /-- Hearths whose reload has ended at step 5 and that wait for SCB_ISO to be written 0 (R355). -/
  written : List (Fin 36)
  /-- Hearths that wait for the retry of a failed scrubber reload (R356). -/
  retryDue : List (Fin 36 × ReloadCause)
  /-- User resets that wait for a handover in their hearth to complete (Table 2.12). -/
  waiting : List (Fin 36)
  /-- Reloads that wait for a handover in their hearth to complete (Table 14.5). -/
  held : List Reload
  handover : Handover
  /-- The spare logical column or slot that the handover uses. -/
  spare : Nat
  /-- Spare physical columns to be tested next, by hearth (R346, R364). -/
  testNext : List (Fin 36 × Fin 66)
  /-- The round's place: hearth, next logical column, next slot, and whether a block slice is next (R360). -/
  roundHearth : Nat
  roundCol : Nat
  roundSlot : Nat
  roundBlockNext : Bool
  roundPhase : Nat
  /-- Units of the round with a result, and units eligible (R362). -/
  tested : Nat
  eligible : Nat
  /-- A round is open; the test in progress is of a spare column marked to be tested next, outside the round. -/
  roundOpen : Bool
  extra : Bool
  /-- The unit at the round's place has been counted as eligible; the next lane and FIFO that a round tests. -/
  counted : Bool
  laneNext : Nat
  fifoNext : Nat
  roundStart : W72
  /-- The result list of the present run (R362). -/
  results : List W36
deriving DecidableEq, Repr

/-- Where a calibration section's running values come from (R404 to R406): the factory's, Noriq's generic
values from ROM, octets written through the calibration hasp, or what a write cut by a cold reset left, its CRC in
the last four octets: that section is invalid. -/
inductive CalSource where
  | factory
  | generic
  | written (octets : List Octet)
  | cut (octets : List Octet)
deriving DecidableEq, Repr

/-- What the MTP memory keeps through every reset. -/
structure Mtp where
  /-- The repair record as the device works with it, and as its newer valid copy holds it (R367). -/
  repair : RepairRecord
  newer : RepairRecord
  /-- Copies A and B are valid; copy B is the newer; writes so far; a write is in progress. -/
  copyA : Bool
  copyB : Bool
  newB : Bool
  writes : Nat
  writing : Bool
  /-- SDRAM rows of these channels are cleared at the next power-on reset (R369). -/
  clearRows : List (Fin 2)
  shutdown : Option ShutdownRecord
  hours : BitVec 20
  hot : BitVec 16
  /-- 1F20h to 1F23h: node-ID, bit rates, SPI enable, engine and position for emergencies, segment timeout (R391). -/
  nodeId : BitVec 9
  bitRate : BitVec 9
  dataRate : BitVec 9
  spiEnable : Bool
  emEngine : BitVec 9
  emPosition : BitVec 9
  segTimeout : BitVec 18
  /-- Calibration sections as MTP holds them (R404 to R406). -/
  cal : Tbl CalSource
  /-- The section whose write is in progress, with its new octets (R405). -/
  calWrite : Option (Nat × List Octet)
deriving DecidableEq, Repr

/-! ## Lanes (08) -/

/-- What an Ethernet transmitter sends outside frames (Table 8.14). -/
inductive EthFault where
  | none | localFault | remoteFault
deriving DecidableEq, Repr

/-- A character between MAC and PCS: data, idle, start, terminate, error, or the sequence character that opens an ordered
set, whose three octets follow as data (R195). -/
inductive EthChar where
  | data (o : Octet)
  | idle
  | start
  | term
  | error
  | seq
deriving DecidableEq, Repr

/-- One logical lane. -/
structure Lane where
  /-- A signal is detected (R182). -/
  signal : Bool
  /-- The candidate position of the block aligner, 0 to 65 (R182). -/
  slip : Nat
  /-- Ages, in blocks, of the invalid headers within the latest 1,024 blocks (Table 8.6). -/
  window : List Nat
  /-- Adaptation is frozen by idle blocks, apart from hold (R184, R188). -/
  iced : Bool
  /-- The next attempt starts from the coefficients in use, since the link has left UP (Table 8.8). -/
  keepEq : Bool
  /-- Receive path: inside a packet or frame, its complete words not yet written, stream bits short of a word,
  words and bits seen, running CRC, and whether a block error lies in it (R176 to R179). -/
  rxIn : Bool
  rxHeld : List W36
  rxAcc : Nat
  rxAccLen : Nat
  rxWords : Nat
  rxCrc : BitVec 32
  /-- The CRC after each word of `rxHeld`. -/
  rxCrcs : List (BitVec 32)
  rxBad : Bool
  /-- Some word of the packet stands in the FIFO; the rest is dropped; an abort entry is owed (R181). -/
  rxWrote : Bool
  rxDrop : Bool
  rxOwed : Bool
  /-- Ethernet receive: preamble octets still to come and octets of the frame (R196). -/
  rxPre : Nat
  rxOctets : Nat
  /-- Transmit path: inside a packet, its words and stream bits not yet sent, its CRC, and whether entries
  are dropped up to E (R178). -/
  txIn : Bool
  txWords : Nat
  txAcc : Nat
  txAccLen : Nat
  txCrc : BitVec 32
  txDrop : Bool
  /-- Blocks sent since the latest IDLE block (R173). -/
  txRun : Nat
  /-- The blocks that the latest command sent, before the scrambler and as they leave the lane; the scrambler's state
  (R175). -/
  out : List Block
  line : List Block
  scr : BitVec 58
  /-- Blocks in flight in near-end loopback (R197). -/
  back : List Block
  /-- Ethernet transmit: characters short of a block, and the deficit idle count (Table 8.14). -/
  chars : List EthChar
  deficit : Nat
  /-- Electrical idle: IDLE-HOLD in force at the transmitter; a command to enter it waits for UP or for the
  end of the packet (R187). -/
  txIdle : Bool
  /-- Training: step 2 is done, the lane sends ready = 1, consecutive TRAIN blocks with ready = 1 received, those sent, the
  partner's rate and lane match (Table 8.12). -/
  adapted : Bool
  ready : Bool
  trainCount : Nat
  trainSent : Nat
  partnerOk : Bool
  /-- The present backoff in ms; 3103h and 3104h stand raised in this attempt sequence (R191, R192). -/
  backoff : Nat
  maxRaised : Bool
  spareRaised : Bool
  /-- Ethernet: hi_ber, the invalid headers of the BER monitor's window, the fault that the partner signals, and the octets of
  an ordered set in hand (R195). -/
  hiBer : Bool
  berCount : Nat
  ethFault : EthFault
  ethSeq : Option (List Octet)
deriving DecidableEq, Repr

def Lane.init : Lane :=
  { signal := false, slip := 0, window := [], iced := false, keepEq := false, rxIn := false, rxHeld := [], rxAcc := 0, rxAccLen := 0, rxWords := 0,
    rxCrc := 0, rxCrcs := [], rxBad := false, rxWrote := false, rxDrop := false, rxOwed := false, rxPre := 0,
    rxOctets := 0, txIn := false, txWords := 0, txAcc := 0, txAccLen := 0, txCrc := 0, txDrop := false, txRun := 0,
    out := [], line := [], scr := 0, back := [], chars := [], deficit := 0, txIdle := false, adapted := false,
    ready := false, trainCount := 0, trainSent := 0, partnerOk := false, backoff := 0, maxRaised := false, spareRaised := false,
    hiBer := false, berCount := 0, ethFault := .none, ethSeq := none }

/-! ## The Kwasia ring (09) -/

/-- A block that a KWR engine sends (Table 9.2), or a superblock of 14 words, stomped or not (R205). -/
inductive KwrBlock where
  | cycle (n : W36) (pos : BitVec 8) (alarm counting : Bool)
  | cycleEnd (n : Nat) (late : Bool)
  | fill
  | time (tb : BitVec 28) (dly : BitVec 28)
  | timeHigh (hi : BitVec 44) (hop : BitVec 12)
  | ack (seq : BitVec 24) (pos : BitVec 8) (nak : Bool)
  | replay (seq : BitVec 24) (restart : Bool)
  | mgmt (m : Mgmt)
  | slot
  | super (words : List W36) (stomped : Bool)
deriving DecidableEq, Repr

/-- A frame that a head has sent: its cycle number, the timebase at its transmit reference moment, whether it left late, and
the automatic hop delay that the nodes add to its TIME block, which the frame before it carried (R214, R222, R223). -/
structure Flight where
  n : W36
  sent : W72
  late : Bool
  hop : BitVec 12
deriving DecidableEq, Repr

/-- One KWR engine. -/
structure Kwr where
  /-- Blocks that wait to be sent, and those that the latest command sent. -/
  queue : List KwrBlock
  out : List KwrBlock
  /-- The cycle number of the latest CYCLE, and the head's next one (R204, R227). -/
  cycleNo : W36
  /-- Head: count phase; the period in force, which a node learns from the CYCLE blocks; and the cycle boundaries whose frames
  wait for the end of the previous one (R207, R212 to R214). -/
  counting : Bool
  period : Nat
  due : Nat
  /-- Head: frames in flight, and those counted as not returned, which may still return (R212, R213, R223). -/
  flight : List Flight
  overdue : List Flight
  /-- The timebase at the latest receive and transmit reference moments; a gap after the latest CYCLE received has been
  counted in missed (R213, R222). -/
  refTime : W72
  sentAt : W72
  gapSeen : Bool
  /-- Head: ticks from transmit to return of the latest CYCLE that returned, and the hop delay in its TIME block (R223). -/
  loopTicks : Nat
  loopHop : BitVec 12
  /-- The first TIME in ALIGN is yet to be acted on; the timebase at the latest slew (R224). -/
  stepDue : Bool
  lastSlew : Option W72
  /-- The latest TIME's head time bits and accumulated delay as received. -/
  rxTb : BitVec 28
  rxDly : BitVec 28
  /-- Automatic hop delay, 1/4 tick, and the one in the latest TIME HIGH that a head sent (R223). -/
  autoHop : BitVec 12
  hopSent : BitVec 12
  /-- 4105h stands raised. -/
  loopRaised : Bool
  /-- Cycles in ALIGN counted toward CYCLING; consecutive unaligned cycles in CYCLING. -/
  alignRun : Nat
  offRun : Nat
  /-- Head: consecutive frames not returned (R212). -/
  lostRun : Nat
  /-- The sticky alarm flag of a head, the local request of a node (R215). -/
  alarm : Bool
  /-- Windows on, and the windows in force since the latest latch (R209). -/
  windows : Bool
  xo : Nat
  xl : Nat
  io : Nat
  il : Nat
  /-- Insert: words of the packet being read, the newest complete packet, whether it
  arrived since the previous latch, and the words latched for this cycle (R210). -/
  reading : List W36
  buffer : Option (List W36)
  fresh : Bool
  latched : Option (List W36)
  /-- Extract: words collected, and whether the cycle's packet has been written (R209). -/
  extract : List W36
  extracted : Bool
  /-- Receive side: next expected number, good superblocks since the last ACK, waiting for a replay, good
  words of the present frame, held blocks, and discarding up to the next CYCLE (R216 to R221). -/
  expect : BitVec 24
  sinceAck : Nat
  waiting : Bool
  frameWords : Nat
  held : List KwrBlock
  skipFrame : Bool
  /-- The CYCLE of this frame left late; the latest CYCLE received waits. On a head: it has counted the frame that returns as
  late itself (R214). -/
  late : Bool
  lateDue : Bool
  /-- The number of the first word of the next superblock to arrive (R216, R217). -/
  rxSeq : BitVec 24
  /-- Transmit side: next sequence number, unacknowledged words from the mark, how many of them each frame sent
  holds, oldest first, and a REPLAY with restart = 1 is owed before the next superblock (R216, R219). -/
  nextSeq : BitVec 24
  replay : List W36
  frames : List Nat
  restartOwed : Bool
  /-- Returning to TRAIN from a cycling state: on return it resends from its mark (R220, R228). -/
  resendDue : Bool
  /-- Management: blocks to be sent in free slots, blocks the head resends, and first parts whose last part is to come (R225, R226). -/
  mgmtOut : List Mgmt
  mgmtAgain : List Mgmt
  mgmtIn : List Mgmt
  /-- The group is deskewed (R206). -/
  deskewed : Bool
deriving DecidableEq, Repr

def Kwr.init : Kwr :=
  { queue := [], out := [], cycleNo := 0, counting := false, period := 0, due := 0, flight := [], overdue := [],
    refTime := 0, sentAt := 0, gapSeen := false, loopTicks := 0, loopHop := 0, stepDue := false, lastSlew := none, rxTb := 0, rxDly := 0,
    autoHop := 0, hopSent := 0, loopRaised := false, alignRun := 0, offRun := 0, lostRun := 0, alarm := false,
    windows := false, xo := 0, xl := 0, io := 0, il := 0, reading := [], buffer := none, fresh := false, latched := none,
    extract := [], extracted := false, expect := 0, sinceAck := 0, waiting := false, frameWords := 0, held := [],
    skipFrame := false, late := false, lateDue := false, nextSeq := 0, replay := [], rxSeq := 0, frames := [],
    restartOwed := true, resendDue := false, mgmtOut := [], mgmtAgain := [], mgmtIn := [], deskewed := false }

/-! ## SDRAM channels (10, 11) -/

/-- A request in a channel, in arrival order (R238, R242). -/
structure DramReq where
  port : Nat
  /-- 0 read, 1 write, 2 masked write. -/
  op : Nat
  addr : Nat
  n : Nat
  tag : BitVec 9
  /-- Nonets written, 4 for each word of the line. -/
  mask : BitVec 64
  /-- Words of the line, by place in the line; 0 where the request carries none. -/
  line : List W36
  cls : Nat
  arrival : W72
  aged : Bool
  late : Bool
  /-- The response, once the access is complete and the response has not left (R243). -/
  resp : Option (List Entry)
deriving DecidableEq, Repr

/-- A place in the memory: rank, bank group, bank, row, column high (R247). -/
structure DramLoc where
  rank : Nat
  bg : Nat
  bank : Nat
  row : Nat
  col : Nat
deriving DecidableEq, Repr

/-- The training of one byte lane of one rank in one stored set (R258, R269). -/
structure LaneSet where
  wlvl : Nat
  gate : Nat
  rd : Nat
  wr : Nat
  rdEye : Nat
  wrEye : Nat
  rdD : Int
  wrD : Int
  rdN : Nat
  wrN : Nat
  /-- The recorded eyes: the lowest delay of each (R266). -/
  rdLo : Nat
  wrLo : Nat
deriving DecidableEq, Repr

def LaneSet.init : LaneSet := ⟨0, 0, 0, 0, 0, 0, 0, 0, 0, 0, 0, 0⟩

/-- What a sweep step found: whether it completed, the lowest passing delay or the eye's lower end, and the eye's width
(R259, R262). -/
structure SweepResult where
  ok : Bool
  low : Nat
  width : Nat
deriving DecidableEq, Repr

/-- One sample of a pause: rank, byte lane, direction (true for write), the eye's lower end and the delay after its upper
end (R266). -/
structure PauseSample where
  rank : Nat
  lane : Nat
  write : Bool
  lo : Nat
  stop : Nat
deriving DecidableEq, Repr

/-- The modes that the controller has set in the SDRAM (Table 10.4, R250). -/
structure DramModes where
  rate : Nat
  cl : Nat
  cwl : Nat
  burst : Nat
  preamble : Nat
  refreshGrain : Nat
  dll : Bool
  parity : Bool
  writeCrc : Bool
  dataMask : Bool
  writeDbi : Bool
  readDbi : Bool
  gearDown : Bool
  tempRefresh : Bool
  maxSaving : Bool
  extendedTemp : Bool
deriving DecidableEq, Repr

/-- Why a full sweep runs (Table 11.5). -/
inductive SweepKind where
  | startUp
  | fromRefresh
  /-- A rate change: the rate and the state before it. -/
  | newRate (rate state : Nat)
  /-- Requested by DRM_TRN_CFG_c.sweep, and the state left. -/
  | requested (state : Nat)
deriving DecidableEq, Repr

/-- One SDRAM channel. -/
structure Dram where
  /-- Stored doubles with their check bytes, by line and beat (R235). -/
  mem : Tbl (BitVec 80)
  reqs : List DramReq
  /-- The entries of the request packet being joined, by pair of ports (R238). -/
  inbox : Tbl (List Entry)
  /-- Response packets that wait for their FIFO, by pair of ports: whether each holds a read line, and what is left
  of it (R243). -/
  out : Tbl (List (Bool × List Entry))
  /-- The open row of each bank, and the row tracker, latest first (R245, R251). -/
  openRows : Tbl (Option Nat)
  tracker : List (Nat × Nat)
  /-- Rows that wait for a live remap, and the one in progress: entry, faulty row, reserved row (R251). -/
  cands : List DramLoc
  remap : Option (Nat × DramLoc × DramLoc)
  /-- Rows that stay in service for want of an entry or a reserved row: 5103h is raised once for each (R257). -/
  stuck : List Nat
  patrolPos : Nat
  /-- ALERT_N stands, and the timebase of recent alerts and of the latest 5104h (R253, Table 10.27). -/
  alert : Bool
  alerts : List W72
  alertRaised : Option W72
  /-- The state before self-refresh or a sweep, and whether the exit is running (R250, R274). -/
  before : Nat
  exiting : Bool
  /-- Hard-repair request not yet recorded, and whether a start-up sweep has ended since power-on reset (R252). -/
  pprPending : Bool
  swept : Bool
  /-- The SDRAM's modes, and the interface settings of Table 11.1 in row order (R234, R261). -/
  modes : Option DramModes
  iface : List Nat
  /-- The latest die reading, (T + 64 C) x 4 (Table 11.12). -/
  die : Nat
  /-- Stored sets, by rate, rank and lane (R269). -/
  sets : Tbl LaneSet
  /-- The sweep in progress: its kind, rate and results so far (R262). -/
  sweepKind : SweepKind
  sweepRate : Nat
  sweepResults : List SweepResult
  sweepDue : Bool
  /-- A gathering: in a pause, pauses done, samples so far, abandoned at the pause's end (R264 to R266). -/
  pausing : Bool
  pauses : Nat
  samples : List PauseSample
  abandoned : Bool
  /-- Consecutive failures by rank and lane (R270). -/
  runs : Tbl Nat
  /-- A rate request that waits, and the rate that a change in progress leads to (R272, R273). -/
  rateReq : Option Nat
  rateTo : Option Nat
deriving DecidableEq, Repr

def Dram.init : Dram :=
  { mem := [], reqs := [], inbox := [], out := [], openRows := [], tracker := [], cands := [], remap := none,
    stuck := [], patrolPos := 0, alert := false, alerts := [], alertRaised := none, before := 2, exiting := false,
    pprPending := false, swept := false, modes := none, iface := [], die := 0, sets := [], sweepKind := .startUp, sweepRate := 0, sweepResults := [], sweepDue := false, pausing := false,
    pauses := 0, samples := [], abandoned := false, runs := [], rateReq := none, rateTo := none }

/-! ## Pins, banks and tumblers (12) -/

/-- A pin port's outputs: the data pins' levels, the E pin and whether the strobe is active (R296). -/
structure PortOut where
  data : W36
  e : Bool
  strobe : Bool
deriving DecidableEq, Repr

def PortOut.init : PortOut := ⟨0, false, false⟩

/-- One tumbler: the filtered value of each pattern, whether an edge began PAT_0's present run, its window, firings
since the latest 6103h and when that was raised (R297 to R302). -/
structure Tumbler where
  filtered : BitVec 4
  edgeSeen : Bool
  window : Bool
  sinceEm : Nat
  lastEm : Option W72
deriving DecidableEq, Repr

def Tumbler.init : Tumbler := ⟨0, false, false, 0, none⟩

/-- The pins. Pins are keyed 36 b + p; masks by bank. -/
structure Pins where
  /-- Ball levels of each bank, and its VCCIO in mV (R281, R285). -/
  ball : Tbl W36
  vccio : Tbl Nat
  /-- Configurations in force, and those that the stream gave (R292). -/
  inForce : Tbl W36
  streamCfg : Tbl W36
  /-- Pins with a PULSE, and GPEV outputs with a pulse, in progress (R290, R295). -/
  pulse : Tbl W36
  gpev : Tbl W36
  /-- Masked writes of this CK100 period, mask and value: the fabric's and the MGC's (R289). -/
  fabWrites : Tbl (List (W36 × W36))
  mgcWrites : Tbl (List (W36 × W36))
  /-- Pins that switch, the configurations they switch to, a held apply, pins of an abandoned switch, and a bank
  that returns to CONFIGURED through the switch (R292 to R294, Table 12.2). -/
  switching : Tbl W36
  target : Tbl W36
  heldApply : Tbl W36
  abandoned : Tbl W36
  returning : Tbl Bool
  /-- The last levels that PORT inputs received on pins that have left them (Table 12.6 step 1), and the levels that pins of
  a bank with bk_hold keep driving in BANKED (Table 12.12). -/
  left : Tbl W36
  kept : Tbl W36
  portOut : Tbl PortOut
  /-- An input port has dropped an entry since its last accepted push (R296). -/
  portDropped : Tbl Bool
  tumbler : Tbl Tumbler
deriving DecidableEq, Repr

/-! ## Management (15): emergencies, log and queues -/

/-- An emergency (R397). -/
structure Emergency where
  code : BitVec 16
  detail : W36
deriving DecidableEq, Repr

/-- An entry of the event log (R399): a state entry has `emergency` false. -/
structure LogEntry where
  time : W72
  emergency : Bool
  code : BitVec 16
  detail : W36
deriving DecidableEq, Repr

/-- One transport's emergency queue, and whether an A002h is owed (R398). -/
structure EmQueue where
  items : List Emergency
  owed : Bool
deriving DecidableEq, Repr

def EmQueue.init : EmQueue := ⟨[], false⟩

/-- A segmented transfer in progress (R380, R388): the object, the octets so far or still to go, the
size announced, and the toggle bit expected next. -/
inductive Session where
  | idle
  | down (idx : BitVec 16) (sub : BitVec 8) (octets : List Octet) (size : Option Nat) (toggle : Bool)
  | up (idx : BitVec 16) (sub : BitVec 8) (octets : List Octet) (toggle : Bool)
deriving DecidableEq, Repr

/-- An answer that a server owes: the object, and the frame that reports success (R380). -/
structure Owed where
  idx : BitVec 16
  sub : BitVec 8
  answer : List Octet
deriving DecidableEq, Repr

/-- An access to a published object (R402): its transport, entry, and the octets of a write. -/
structure PubAccess where
  t : Transport
  i : Nat
  write : Option (List Octet)
deriving DecidableEq, Repr

/-- A frame that the MGC has sent on a transport: the CAN identifier, or the ring position, and 8 octets. -/
structure Frame where
  id : Nat
  octets : List Octet
deriving DecidableEq, Repr

/-- The management controller. -/
structure Mgc where
  log : List LogEntry
  written : Nat
  hold : List LogEntry
  queues : Tbl EmQueue
  /-- Calibration sections in use since step 2 of the last power-on reset, by section (R405). -/
  cal : Tbl CalSource
  /-- SDO servers by transport: the transfer, whether an answer is owed, and the latest answer; on SPI the
  answer stands until it is read (R380, R382). -/
  session : Tbl Session
  owed : Tbl (Option Owed)
  answer : Tbl (Option Frame)
  /-- The last SPI request was refused; the octets that the latest SPI transaction returned. -/
  spiRefused : Bool
  spiOut : List Octet
  /-- The engine, source position and message number of the latest request on the ring (R383). -/
  ringFrom : Nat × Nat × Nat
  /-- The latest emergency frame sent on each transport, and the latest heartbeat octet. -/
  emSent : Tbl (Option Frame)
  heartbeat : Option Octet
  /-- The timebase at the latest emergency (1001h), and the settings 1017h, 1F10h:03, 7001h:01. -/
  lastEm : Option W72
  hbPeriod : BitVec 18
  idleLimit : BitVec 9
  logIndex : W36
  /-- Transports that have read 2A00h:01 in full since power-on reset (R394). -/
  bankRead : Tbl Bool
  /-- Transmit error count at the latest bus-off. -/
  tec : BitVec 9
  /-- Published objects: the next tag, the access in progress, those that wait, and request entries that the
  FIFO has not yet accepted (R402). -/
  pubTag : Nat
  pubNow : Option PubAccess
  pubWait : List PubAccess
  pubOut : List Entry
  /-- Commanded values by pair of Table 15.9, the moment by which each that disagrees has to agree, A003h raised, and an
  agreement due in the log (R395, R396). -/
  commanded : Tbl Nat
  settleBy : Tbl (Option W72)
  disagreed : Tbl Bool
  agreeDue : Tbl Bool
  /-- Bus-off, restart and reset causes whose emergency is raised once the MGC serves (9101h). -/
  refCause : Option Bool
deriving DecidableEq, Repr

/-! ## Loading (13) -/

/-- A section of a stream: type, hearth and slot octets, and data length (R316). -/
structure Section where
  typ : Nat
  hearth : Nat
  slot : Nat
  len : Nat
deriving DecidableEq, Repr

/-- The engine's read of one stream (R310, R313 to R316, R324). -/
structure Reader where
  /-- The hearth of a hearth stream; none for a full-device stream. -/
  hearth : Option (Fin 36)
  /-- The image: false main, true kindling; and the mode of the read. -/
  img : Bool
  dual : Bool
  /-- Failed reads of the present chunk. -/
  tries : Nat
  /-- The chunk that begins the stream, the next chunk, and the chunks that the directory gives. -/
  first : Nat
  chunk : Nat
  count : Option Nat
  /-- Header octets; the GCM counter, hash and octets short of a block; body octets and tag octets so far. -/
  hdr : List Octet
  ctr : Nat
  hash : BitVec 128
  rest : List Octet
  body : Nat
  tag : List Octet
  /-- Deciphered octets not yet taken, the section in hand with its octets still to come, and sections seen. -/
  plain : List Octet
  sect : Option (Section × Nat)
  seen : List Section
  /-- Periphery pairs in order, belt octets, and the first ward failure as CFG_WARD_LOC shows it. -/
  pairs : List (Addr × W36)
  belt : List Octet
  failure : Option W36
  /-- The SDRAM fields have been applied (R322); the whole stream has been read. -/
  early : Bool
  complete : Bool
deriving DecidableEq, Repr

/-- A full load (R320, R325, R327). -/
structure Load where
  /-- A warm re-commit or a load that firmware requested. -/
  firmware : Bool
  /-- The first image has failed. -/
  fallback : Bool
  /-- The image being tried. -/
  img : Bool
  /-- Configuration memory is being cleared after a failed image. -/
  clearing : Bool
  /-- The timebase at the start of discovery (CFG_LTIME). -/
  start : W72
deriving DecidableEq, Repr

/-- A flash service command that runs (R338). -/
structure FlashJob where
  cmd : Nat
  target : Nat
  addr : Nat
  len : Nat
deriving DecidableEq, Repr

/-- A keyring command that runs (R335). -/
structure KeyJob where
  cmd : Nat
  arg : BitVec 8
  key : BitVec 256
deriving DecidableEq, Repr

structure Cfg where
  /-- A commit has happened since power-on reset: Stream fields hold the stream's values (R144). -/
  everCommitted : Bool
  load : Option Load
  reader : Option Reader
  /-- The flashes as discovery found them, and their octets (R312). -/
  foundA : FlashInfo
  foundB : FlashInfo
  flashA : Tbl Octet
  flashB : Tbl Octet
  /-- Header of the full-device stream in force, the chunks of its image, and the mode it was read in. -/
  inForce : List Octet
  chunks : Nat
  inForceDual : Bool
  /-- The periphery pairs of the PIN block of the stream in force, which an exit from BANKED takes again (Tables 12.7, 12.10,
  12.12). -/
  pinPairs : List (Addr × W36)
  /-- The key latched at the latest full load (R333). -/
  key : BitVec 256
  /-- The keyring: eFuse key, battery-backed key, its integrity word holds, VBAT has fallen (R332, R334). -/
  efuse : BitVec 256
  bbKey : BitVec 256
  bbIntact : Bool
  vbatLow : Bool
  staged : Option (BitVec 256)
  expected : Option (BitVec 18)
  keyArg : BitVec 8
  keyJob : Option KeyJob
  /-- 2710h:05. -/
  keyStatus : Nat
  /-- CFG_DONE is released; CFG_FAULT_N is driven low (Table 13.1). -/
  done : Bool
  faultLow : Bool
  /-- The flash service: its buffer, a command held by a hearth read, and the one that runs. -/
  flashBuf : List Octet
  flashHeld : Option Nat
  flashJob : Option FlashJob
  /-- Ward classes of the latest main and kindling failures (7102h). -/
  mainClass : Nat
  kindClass : Nat
deriving DecidableEq, Repr

/-! ## Power (16) -/

/-- Where the device stands from supplies to RUN and through the power states (Tables 1.4, 16.4, R426). -/
inductive Phase where
  | cold | supplies | released | locked | bist | discovery | loading | waking | run
  | simmerEntry | simmer | simmerExit | bankedEntry | banked | bankedExit | fault | shutdown
deriving DecidableEq, Repr

structure Pwr where
  phase : Phase
  /-- The clocked domains are out of reset (Table 16.2). -/
  clocked : Bool
  wakeSlot : Option Nat
  /-- The output PWR_RUN (R429). -/
  pwrRun : Bool
  /-- A wake event latched during the entry to BANKED: wkind and wsrc (R304). -/
  wakeLatched : Option (Nat × Nat)
  /-- Compare values of the timebase alarms (R415). -/
  almCmp : Tbl W72
  /-- Alarm 15 fired in BANKED and has not yet offered its event (R417). -/
  alm15Owed : Bool
  /-- A power-state request that waits: 1 SIMMER, 2 BANKED (Table 16.10). -/
  held : Option Nat
  /-- SIMMER: VFAB has reached its value, and consecutive agreeing windows by hearth (Table 16.6). -/
  rampDone : Bool
  agree : Tbl Nat
  /-- The periphery clocks are divided at entry to BANKED from SIMMER. -/
  lateSup : Option (BitVec 8)
deriving DecidableEq, Repr

/-! ## JTAG (14) -/

/-- The data register that the current instruction selects (R373). -/
inductive JtagReg where
  | bypass | idcode | boundary
deriving DecidableEq, Repr

/-- The TAP: the opcode of the instruction that acts, and the data register it selects (R373). -/
structure Jtag where
  opcode : BitVec 8
  reg : JtagReg
deriving DecidableEq, Repr

/-! ## The whole -/

/-- What stops the machine. The spec's block has no fault that stops it; nothing raises this one. -/
inductive Fault where
  /-- Raised by no command: every command of the table has an effect. Safe. -/
  | unreachable
deriving DecidableEq, Repr

/-- Why a command has no meaning. -/
inductive Refusal where
  /-- An arm of `exec` whose command is not modelled. Safe. -/
  | notModelled (mnemonic : String)
deriving DecidableEq, Repr

/-- The TKA2436. -/
structure State where
  /-- The commands that wait, first in, first out (the model's own). -/
  pending : List Instr
  /-- Free values taken so far (the model's own, DESIGN CHOICE, log entry 4). -/
  free : Nat
  /-- The 72-bit timebase, in ticks (R7). -/
  timebase : W72
  /-- The registers of the control space by word address. -/
  regs : Tbl W36
  fab : Fab
  hng : Hng
  pace : Pace
  store : Store
  fifo : Tbl Fifo
  lane : Tbl Lane
  kwr : Tbl Kwr
  dram : Tbl Dram
  pins : Pins
  scb : Scb
  mtp : Mtp
  mgc : Mgc
  cfg : Cfg
  pwr : Pwr
  jtag : Jtag
deriving DecidableEq, Repr

/-! ## Reset: before the supplies rise, every register at its reset value (R8, R419) -/

def Fab.reset : Fab :=
  { committed := false, frames := [], rails := [], wires := [], join := [], acks := [], stage := [],
    stalled := [], muxStalled := [], keepers := [], holds := [], steer := [], hearths := [], edges := [] }

def Hng.reset : Hng :=
  { ev := [], wd := [], ctlSeal := Seal.closed, ctlReq := none, ctlDone := none, ctlResp := none, sideRst := [], stalls := [],
    gone := [], removed := [] }

def Pace.reset : Pace :=
  { windows := [], bad := [], reported := [], woken := [], silent := [], counts := [], pdyn := [], capped := false, calm := 0,
    commanded := 0, stopped := false, statusWord := 0, addr := 0x20 }

def Store.reset : Store := { content := [], steer := [], rowsUsed := [], ports := [] }

def Pins.reset : Pins :=
  { ball := [], vccio := [], inForce := [], streamCfg := [], pulse := [], gpev := [], fabWrites := [], mgcWrites := [],
    switching := [], target := [], heldApply := [], abandoned := [], returning := [], left := [], kept := [], portOut := [],
    portDropped := [],
    tumbler := [] }

def Scb.reset : Scb :=
  { prio := [], pendList := [], pos := 0, passDue := false, corrections := 0, beat := 0, beatSeen := 0, restartTimes := [],
    essential := [], fullRaised := false, dead := false, halted := false, isoVal := [], isoNow := [], reloads := [],
    written := [], retryDue := [], waiting := [], held := [], handover := .idle, spare := 0, testNext := [],
    roundHearth := 0, roundCol := 0, roundSlot := 0, roundBlockNext := false, roundPhase := 0, tested := 0,
    eligible := 0, roundOpen := false, extra := false, counted := false, laneNext := 0, fifoNext := 0,
    roundStart := 0, results := [] }

/-- MTP as the factory delivers it: an empty repair record in two valid copies, no shutdown test record, the settings of
1F20h to 1F23h at their defaults, and the factory's calibration (PRESUMED, log entry 3). -/
def Mtp.reset : Mtp :=
  { repair := RepairRecord.empty, newer := RepairRecord.empty, copyA := true, copyB := true, newB := false, writes := 0,
    writing := false, clearRows := [], shutdown := none, hours := 0, hot := 0, nodeId := 127, bitRate := 2,
    dataRate := 0, spiEnable := true, emEngine := 7, emPosition := 0, segTimeout := 1000, cal := [],
    calWrite := none }

def Mgc.reset : Mgc :=
  { log := [], written := 0, hold := [], queues := [], cal := [], session := [], owed := [], answer := [],
    spiRefused := false, spiOut := [], ringFrom := (0, 0, 0), emSent := [], heartbeat := none, lastEm := none,
    hbPeriod := 0, idleLimit := 10, logIndex := 0, bankRead := [], tec := 0, pubTag := 0, pubNow := none,
    pubWait := [], pubOut := [], commanded := [], settleBy := [], disagreed := [], agreeDue := [], refCause := none }

def FlashInfo.none : FlashInfo := ⟨false, false, 0, 0⟩

def Cfg.reset : Cfg :=
  { everCommitted := false, load := none, reader := none, foundA := FlashInfo.none, foundB := FlashInfo.none,
    flashA := [], flashB := [], inForce := [], chunks := 0, inForceDual := false, pinPairs := [], key := 0, efuse := 0, bbKey := 0,
    bbIntact := false, vbatLow := false, staged := none, expected := none, keyArg := 0, keyJob := none, keyStatus := 0,
    done := false, faultLow := false, flashBuf := [], flashHeld := none, flashJob := none, mainClass := 0,
    kindClass := 0 }

def Pwr.reset : Pwr :=
  { phase := .cold, clocked := false, wakeSlot := none, pwrRun := false, wakeLatched := none, almCmp := [],
    alm15Owed := false, held := none, rampDone := false, agree := [], lateSup := none }

/-- The TKA2436 at power-on reset, before its supplies have risen. -/
def State.reset : State :=
  { pending := [], free := 0, timebase := 0, regs := [], fab := Fab.reset, hng := Hng.reset, pace := Pace.reset,
    store := Store.reset, fifo := [], lane := [], kwr := [], dram := [], pins := Pins.reset, scb := Scb.reset,
    mtp := Mtp.reset, mgc := Mgc.reset, cfg := Cfg.reset, pwr := Pwr.reset, jtag := ⟨0x01, .idcode⟩ }

end Sys2Proof.Machine
end

