-- ==== Sys2Proof/Machine/Ops.lean ====
section
/-! DEFINITION. Ops: the named operations over registers, counts, the free counter, emergencies and the
event log, and the keys under which the fabric's tables are held. -/
namespace Sys2Proof.Machine
open Sys2Proof

/-! ## Registers (R8) -/

/-- The word held at word address `a`. -/
def State.word (s : State) (a : Nat) : W36 := tget resetWord s.regs a

/-- Hold `w` at word address `a`. -/
def State.setWord (s : State) (a : Nat) (w : W36) : State :=
  { s with regs := tput resetWord s.regs a w }

/-- The value of a register field. -/
def State.get (s : State) (f : Field) : Nat := bitsOf (s.word f.addr) f.lo f.width

/-- Set a register field, leaving the register's other bits. -/
def State.put (s : State) (f : Field) (v : Nat) : State :=
  s.setWord f.addr (withBits (s.word f.addr) f.lo f.width v)

/-- Whether a field reads 1. -/
def State.flag (s : State) (f : Field) : Bool := s.get f == 1

/-- Add to a saturating count. -/
def State.bump (s : State) (f : Field) (k : Nat) : State := s.put f (satAdd f.width (s.get f) k)

/-- Bit `i` of a field. -/
def State.bit (s : State) (f : Field) (i : Nat) : Bool := bitN (s.get f) i

/-- Set bit `i` of a field to `b`. -/
def State.putBit (s : State) (f : Field) (i : Nat) (b : Bool) : State :=
  s.put ⟨f.addr, f.lo + i, 1⟩ (b2n b)

/-- A word made of fields: each pair is a lowest bit and a value. -/
def packWord (l : List (Nat × Nat)) : W36 :=
  BitVec.ofNat 36 (l.foldl (fun acc e => acc ||| e.2 <<< e.1) 0)

/-! ## Free values (DESIGN CHOICE, log entry 4) -/

/-- Advance the free counter; the value taken is `Config.free… s.free` of the state before. -/
def State.tookFree (s : State) : State := { s with free := s.free + 1 }

/-! ## Emergencies and the event log (R397 to R399, R449) -/

/-- The MGC serves: it is neither in its boot nor in a restart (R449). -/
def State.mgcServing (s : State) : Bool := s.get MGC_STAT_state == 1 || s.get MGC_STAT_state == 3

/-- The MGC serves the whole dictionary: its state is SERVING (R17, Table 15.15). -/
def State.mgcFull (s : State) : Bool := s.get MGC_STAT_state == 1

/-- Write one entry to the event log, which keeps the latest 1,024 (R399). -/
def logWrite (s : State) (e : LogEntry) : State :=
  { s with mgc := { s.mgc with log := (e :: s.mgc.log).take 1024, written := s.mgc.written + 1 } }

/-- Hold `q` as a transport's emergency queue. -/
def setQueue (s : State) (t : Transport) (q : EmQueue) : State :=
  { s with mgc := { s.mgc with queues := tput (fun _ => EmQueue.init) s.mgc.queues t.idx q } }

/-- One transport's queue takes an emergency, or is full: then the emergency is dropped from that
queue, counted, and an A002h is owed (R398). -/
def enqueueOn (s : State) (t : Transport) (e : Emergency) : State :=
  let q := tget (fun _ => EmQueue.init) s.mgc.queues t.idx
  if q.items.length < 32 then setQueue s t { q with items := q.items ++ [e] }
  else (setQueue s t { q with owed := true }).bump MGC_EM_CNT_dropped 1

/-- An emergency reaches the transports: counted, and queued to each while its subsystem's bit of
MGC_EM_MASK is set (R397, R398). -/
def sendEmergency (s : State) (code : BitVec 16) (detail : W36) : State :=
  let s := s.bump MGC_EM_CNT_sent 1
  let s := { s with mgc := { s.mgc with lastEm := some s.timebase } }
  if s.bit MGC_EM_MASK_mask (code.toNat / 4096) then
    let e : Emergency := ⟨code, detail⟩
    enqueueOn (enqueueOn (enqueueOn s .can e) .spi e) .kwr e
  else s

/-- Hold a cause while the MGC does not serve: at most 256 entries; a further one is dropped and
counted (R449). -/
def holdEntry (s : State) (e : LogEntry) : State :=
  if s.mgc.hold.length < 256 then { s with mgc := { s.mgc with hold := s.mgc.hold ++ [e] } }
  else s.bump MGC_EM_CNT_dropped 1

/-- Raise emergency `code` (R397, R449). -/
def raise (s : State) (code : Nat) (detail : W36) : State :=
  let c := BitVec.ofNat 16 code
  let e : LogEntry := ⟨s.timebase, true, c, detail⟩
  if s.mgcServing then sendEmergency (logWrite s e) c detail else holdEntry s e

/-- Log a state change: subsystem digit, the live object's index and subindex, and the new value's low
12 bits (R399). -/
def logState (s : State) (sub idx subidx v : Nat) : State :=
  let e : LogEntry := ⟨s.timebase, false, BitVec.ofNat 16 (sub * 4096),
    packWord [(20, idx), (12, subidx), (0, v % 4096)]⟩
  if s.mgcServing then logWrite s e else holdEntry s e

/-- The MGC works through the held entries in order, each with its captured timebase (R449). -/
def replayHeld (s : State) : State :=
  let l := s.mgc.hold
  l.foldl (fun s e => let s := logWrite s e
                      if e.emergency then sendEmergency s e.code e.detail else s)
    { s with mgc := { s.mgc with hold := [] } }

/-- A stall report closes when the handshake completes (R143). -/
def stallDone (s : State) (kind idx : Nat) : State :=
  let s := { s with hng := { s.hng with stalls := s.hng.stalls.filter (fun e => e != (kind, idx)) } }
  if s.flag HNG_STALL_LAST_valid && s.get HNG_STALL_LAST_kind == kind && s.get HNG_STALL_LAST_index == idx then
    s.put HNG_STALL_LAST_open 0
  else s

/-! ## Commanded values (R395, R396) -/

/-- What a commanded object holds before any write: the VFAB target of 800 mV, else 0. The pairs of Table 15.9 are
numbered: 0 VFAB, 1 to 24 the lanes' power states, 25 to 30 the KWR roles, 31 and 32 the SDRAM rates, 33 isolation and
34 the power state. -/
def commandDefault : Nat → Nat
  | 0 => 800
  | _ => 0

/-- The value that a commanded object holds. -/
def commandedOf (s : State) (pair : Nat) : Nat := tget commandDefault s.mgc.commanded pair

/-- A transport writes a commanded object; its settle timeout starts anew (R395, R396). -/
def setCommanded (s : State) (pair v : Nat) : State :=
  { s with mgc := { s.mgc with
    commanded := tput commandDefault s.mgc.commanded pair v
    settleBy := tput (fun _ => none) s.mgc.settleBy pair none
    disagreed := tput (fun _ => false) s.mgc.disagreed pair false } }

/-- A commanded object takes a value that a transport writes through its register (R395). -/
def commandIf (s : State) (fabric b : Bool) (pair v : Nat) : State := if b && !fabric then setCommanded s pair v else s

/-- The commanded isolation is SCB_ISO as it stands after a transport's write (R377, R395). -/
def isoCommanded (s : State) : State := setCommanded s 33 (s.word SCB_ISO).toNat

/-- A change of SCB_ISO by the device itself counts as a commanded value (R377); `s0` is the state before. -/
def isoByDevice (s0 s : State) : State := if s.word SCB_ISO = s0.word SCB_ISO then s else isoCommanded s

/-! ## Keys of the fabric's tables -/

/-- The span of keys of one hearth. -/
def hearthSpan : Nat := 2 ^ 20

/-- A cell's number within its hearth, by column, row and cell. -/
def cellLocal (col row k : Nat) : Nat := (col * 32 + row) * 36 + k

/-- The key of a cell. -/
def cellKey (c : Cell) : Nat := c.h.val * hearthSpan + cellLocal c.col.val c.row.val c.k.val

/-- The key of a producer. -/
def srcKey : Src → Nat
  | .cell c => cellKey c
  | .side h col p => h.val * hearthSpan + 76032 + col.val * 128 + p.val
  | .hinge h p => h.val * hearthSpan + 84480 + p.val
  | .gate h u => h.val * hearthSpan + 84992 + u.val
  | .carry c => c.h.val * hearthSpan + 86016 + cellLocal c.col.val c.row.val c.k.val

/-- The key of a consumer. -/
def dstKey : Dst → Nat
  | .slot c i => c.h.val * hearthSpan + cellLocal c.col.val c.row.val c.k.val * 8 + i.val
  | .side h col p => h.val * hearthSpan + 608256 + col.val * 128 + p.val
  | .hinge h p => h.val * hearthSpan + 616704 + p.val
  | .gate h g => h.val * hearthSpan + 617216 + g.val
  | .carry c => c.h.val * hearthSpan + 618496 + cellLocal c.col.val c.row.val c.k.val

/-- The cell of hearth `h` with local number `i`. -/
def cellAt (h i : Nat) : Cell :=
  ⟨Fin.ofNat _ h, Fin.ofNat _ (i / 36 / 32), Fin.ofNat _ (i / 36 % 32), Fin.ofNat _ (i % 36)⟩

/-- The producer of a key. -/
def srcOfKey (key : Nat) : Src :=
  let h := key / hearthSpan
  let i := key % hearthSpan
  if i < 76032 then .cell (cellAt h i)
  else if i < 84480 then .side (Fin.ofNat _ h) (Fin.ofNat _ ((i - 76032) / 128)) (Fin.ofNat _ ((i - 76032) % 128))
  else if i < 84992 then .hinge (Fin.ofNat _ h) (Fin.ofNat _ (i - 84480))
  else if i < 86016 then .gate (Fin.ofNat _ h) (Fin.ofNat _ (i - 84992))
  else .carry (cellAt h (i - 86016))

/-- The consumer of a key. -/
def dstOfKey (key : Nat) : Dst :=
  let h := key / hearthSpan
  let i := key % hearthSpan
  if i < 608256 then .slot (cellAt h (i / 8)) (Fin.ofNat _ (i % 8))
  else if i < 616704 then .side (Fin.ofNat _ h) (Fin.ofNat _ ((i - 608256) / 128)) (Fin.ofNat _ ((i - 608256) % 128))
  else if i < 617216 then .hinge (Fin.ofNat _ h) (Fin.ofNat _ (i - 616704))
  else if i < 618496 then .gate (Fin.ofNat _ h) (Fin.ofNat _ (i - 617216))
  else .carry (cellAt h (i - 618496))

/-- The key of a one-hot row, under the hearth that holds it (R57). -/
def rowKey (r : RowId) : Nat :=
  r.h * hearthSpan + (match r.level with
    | 1 => r.col * 992 + r.dest
    | 2 => 65472 + r.dest
    | _ => 73088 + r.dest)

/-- Whether a key lies in hearth `h`. -/
def keyIn (h key : Nat) : Bool := key / hearthSpan == h

/-- The key of a frame: columns are physical for frames 0 to 8 and logical for frames 9 to 11 (R342). -/
def frameKey (h col row f : Nat) : Nat := ((h * 66 + col) * 32 + row) * 12 + f

end Sys2Proof.Machine
end

