-- ==== Sys2Proof/Machine/Cal.lean ====
section
/-! DEFINITION. Cal: the calibration bank as the running device uses it (15 R404 to R406; Tables 4.4, 11.1, 15.13). -/
namespace Sys2Proof.Machine
open Sys2Proof

/-- Table 4.4 in units of 0.001 pJ, in the table's row order. -/
def energyTable : List Nat := [120, 20, 30, 100, 350, 1100, 1400, 1000, 150]

/-- Table 11.1 in its row order, in ohms, references in units of 0.1 % of VDDQ. RTT_NOM and RTT_PARK are the values with
two ranks; with one rank they are off (DEDUCED, log entry 70). -/
def interfaceTable : List Nat := [40, 60, 700, 34, 120, 60, 48, 720]

/-- Octet `i` of a calibration section that holds the values the spec states: trims and gains of 1.0, no offset, and the
defaults of Tables 4.4 and 11.1 (R406, Table 15.13). -/
def tableOctet (sec i : Nat) : Octet :=
  match sec with
  | 1 => BitVec.ofNat 8 (65536 / 256 ^ (i % 3))
  | 2 => BitVec.ofNat 8 (energyTable.getD (i / 3 % 9) 0 / 256 ^ (i % 3))
  | 4 => BitVec.ofNat 8 (interfaceTable.getD (i / 2 % 8) 0 / 256 ^ (i % 2))
  | 5 => if i % 6 < 3 then 0 else BitVec.ofNat 8 (65536 / 256 ^ (i % 3))
  | _ => 0

/-- Octet `i` of a section as the factory wrote it: the factory defaults of Tables 4.4 and 11.1; the other sections differ
from die to die. -/
def factoryOctet (sec i : Nat) : Octet := if sec = 2 ∨ sec = 4 then tableOctet sec i else Config.factoryCal sec i

/-- Octet `i` of Noriq's generic values for a section; the lane presets in ROM are not stated (R406). -/
def genericOctet (sec i : Nat) : Octet := if sec = 0 ∨ sec = 3 then Config.genericCal sec i else tableOctet sec i

/-- Octet `i` of calibration section `sec` as the running device uses it. -/
def calOctet (s : State) (sec i : Nat) : Octet :=
  match tget (fun _ => CalSource.factory) s.mgc.cal sec with
  | .factory => factoryOctet sec i
  | .generic => genericOctet sec i
  | .written l | .cut l => l.getD i 0

/-- The number in `n` octets of a section from octet `i`, least significant first. -/
def calNat (s : State) (sec i n : Nat) : Nat :=
  (List.range n).foldl (fun a k => a + (calOctet s sec (i + k)).toNat * 256 ^ k) 0

/-- A word of a calibration section: five octets from octet `i`. -/
def calWord (s : State) (sec i : Nat) : W36 := BitVec.ofNat 36 (calNat s sec i 5)

/-- The energy weight of event kind `k` in hearth `h`, in units of 0.001 pJ (R87, Table 15.13). -/
def energyWeight (s : State) (h k : Nat) : Nat := calNat s 2 (3 * (9 * h + k)) 3

/-- The trim of pace counter A or B of hearth `h`, in units of 1/65,536 (R79, Table 15.13). -/
def paceTrim (s : State) (h : Nat) (b : Bool) : Nat := calNat s 1 (6 * h + 3 * b2n b) 3

end Sys2Proof.Machine
end

