-- ==== Sys2Proof/Machine/Fabric.lean ====
section
/-! DEFINITION. Fabric: configuration frames as cells, codes and rows; routes through the four crossbar
levels; the rails and acknowledges of every channel; faults, keepers and gates (02, 03). -/
namespace Sys2Proof.Machine
open Sys2Proof

/-! ## Frames and strings (R342, R343) -/

/-- A stored frame, its 12 check bits above its 1,296 data bits. -/
def frameOf (s : State) (h col row f : Nat) : BitVec 1308 :=
  tget (fun _ => 0) s.fab.frames (frameKey h col row f)

/-- Bits [lo + width - 1 : lo] of the string that starts at frame `f0` of a tile. -/
def strBits (s : State) (h col row f0 lo width : Nat) : Nat :=
  let a := (frameOf s h col row (f0 + lo / 1296)).toNat % 2 ^ 1296
  let b := (frameOf s h col row (f0 + lo / 1296 + 1)).toNat % 2 ^ 1296
  ((a >>> (lo % 1296)) ||| (b <<< (1296 - lo % 1296))) % 2 ^ width

/-- A field of a cell's configuration record (R36, Table 2.8). -/
def recBits (s : State) (c : Cell) (lo width : Nat) : Nat :=
  strBits s c.h.val c.col.val c.row.val 0 (180 * c.k.val + lo) width

/-- The L1 select code of destination `d` of a tile (R55). -/
def l1Code (s : State) (h col row d : Nat) : Nat := strBits s h col row 5 (6 * d) 6

/-- Members per group of a row's one-hot fields (Table 3.6). -/
def rowMembers : Nat → Nat
  | 1 => 32
  | 2 => 72
  | _ => 288

/-- The bits of a row, from the frames of the hearth that holds it (Table 14.1). -/
def rowBits (s : State) (r : RowId) : Nat :=
  match r.level with
  | 1 => strBits s r.h r.col (r.dest / 31) 7 (63 * (r.dest % 31)) 63
  | 2 => strBits s r.h (r.dest / 4 / 32) (r.dest / 4 % 32) 9 (178 * (r.dest % 4)) 178
  | _ => strBits s r.h (r.dest / 32) (r.dest % 32) 9 712 384

/-- The one bit that is set in a field, if exactly one is. -/
def onlyBit (v : Nat) : Option Nat := if v ≠ 0 ∧ v = 2 ^ Nat.log2 v then some (Nat.log2 v) else none

/-- What a row selects (R56, R58): `none` when its checker finds it invalid, `some none` when it
selects no source, else the source index. The group field lies above the member field (DEDUCED, log entry 12). -/
def rowPick (m v : Nat) : Option (Option Nat) :=
  if v = 0 then some none
  else match onlyBit (v >>> m), onlyBit (v % 2 ^ m) with
    | some g, some k => some (some (g * m + k))
    | _, _ => none

/-- What row `r` selects now. -/
def rowSource (s : State) (r : RowId) : Option (Option Nat) := rowPick (rowMembers r.level) (rowBits s r)

/-- Whether a row's gate bits for source `i` are both set, valid or not (R58). -/
def rowGates (s : State) (r : RowId) (i : Nat) : Bool :=
  let m := rowMembers r.level
  bitN (rowBits s r >>> m) (i / m) && bitN (rowBits s r % 2 ^ m) (i % m)

/-- The keeper of a row, while its checker holds it invalid. -/
def keeperOf (s : State) (r : RowId) : Option Keeper := tget (fun _ => none) s.fab.keepers (rowKey r)

/-! ## Steering (R62, R63) -/

/-- Steering at power-on reset: logical column c to physical column c (R62). -/
def steerDefault (key : Nat) : Nat × Nat := if key % 66 < 64 then (0, key % 66) else (1, key % 66)

/-- The steering entry of a logical column: state code and physical column. -/
def steerOf (s : State) (h c : Nat) : Nat × Nat := tget steerDefault s.fab.steer (66 * h + c)

/-- The physical column that serves a logical column, if any. -/
def pcolOf (s : State) (h c : Nat) : Option Nat :=
  let e := steerOf s h c
  if e.1 = 3 then none else some e.2

/-- The logical column that a physical column serves, if any. -/
def lcolOf (s : State) (h p : Nat) : Option Nat := (List.range 66).find? (fun c => pcolOf s h c == some p)

/-! ## Hearths -/

/-- Where hearth `h` stands. -/
def hearthSt (s : State) (h : Nat) : HearthSt := tget (fun _ => .inert) s.fab.hearths h

/-- Put hearth `h` in a state. -/
def setHearth (s : State) (h : Nat) (x : HearthSt) : State :=
  { s with fab := { s.fab with hearths := tput (fun _ => .inert) s.fab.hearths h x } }

/-- Whether the boundary gates answer for hearth `h` (Tables 2.11 and 14.3). -/
def gated (s : State) (h : Nat) : Bool :=
  match hearthSt s h with
  | .boundary | .isolated | .rejoin => true
  | .inert | .waiting | .awake => false

/-- The gate of up-port `u` stands for hearth `h`: the hearth is gated, or the gate still completes the handshake that it
took over (Tables 2.11 and 14.3). -/
def outGated (s : State) (h u : Nat) : Bool :=
  gated s h || tget (fun _ => 0) s.fab.rails (srcKey (.gate (Fin.ofNat _ h) (Fin.ofNat _ u))) != 0 ||
  tget (fun _ => false) s.fab.join (srcKey (.gate (Fin.ofNat _ h) (Fin.ofNat _ u)))

/-- The gate of down-port or broadcast entry `g` stands for hearth `h`: the hearth is gated, or the gate still completes
the handshake that it took over. -/
def inGated (s : State) (h g : Nat) : Bool :=
  gated s h || tget (fun _ => false) s.fab.acks (dstKey (.gate (Fin.ofNat _ h) (Fin.ofNat _ g)))

/-! ## Routes (R49 to R52) -/

/-- A crossbar destination: L1 by tile, L2 by band, L3 by hearth, the L4 down-ports of a hearth, and the
broadcast drivers; and the carry in of a cell, which a wire of its tile feeds (R31). -/
inductive XDst where
  | l1 (h col row d : Nat)
  | l2 (h col d : Nat)
  | l3 (h d : Nat)
  | l4 (h d : Nat)
  | bc (b : Nat)
  | carry (c : Cell)
deriving DecidableEq, Repr

/-- What drives a destination: nothing, a producer, or the keeper of an invalid row. -/
inductive Feed where
  | off
  | src (x : Src)
  | kept (k : Keeper)
deriving DecidableEq, Repr

/-- What stands one level up a route: the source's own end, or the destination of the next crossbar. -/
inductive Hop where
  | ends (f : Feed)
  | from_ (y : XDst)
deriving DecidableEq, Repr

/-- A row's keeper, or the source that the row selects taken up the route by `go`. -/
def rowHop (s : State) (r : RowId) (go : Nat → Hop) : Hop :=
  match keeperOf s r, rowSource s r with
  | some k, _ => .ends (.kept k)
  | none, some (some i) => go i
  | none, _ => .ends .off

/-- What the L3 crossbar holds at a port of the logical column in handover (R64): down-ports at 0 to 95, up-ports at 96
to 191. -/
def heldPort (s : State) (h lc p : Nat) : Option Keeper :=
  match s.scb.handover with
  | .colWait g c | .colScan g c =>
    if g.val = h ∧ c.val = lc then some (tget (fun _ => ⟨0, false, none⟩) s.fab.holds p) else none
  | .idle | .colCopy _ _ | .colTest _ _ | .blockWait _ _ | .blockCopy _ _ | .blockTest _ _ | .laneTest _ | .fifoTest _ => none

/-- The hearth whose row drives broadcast `b`: the one that holds the driver's source (R57). -/
def driverHearth (s : State) (b : Nat) : Option Nat :=
  (List.range 36).find? (fun m => match rowSource s ⟨3, m, 0, 768 + b⟩ with
    | some (some i) => i / 768 == m
    | some none => false
    | none => (keeperOf s ⟨3, m, 0, 768 + b⟩).isSome)

/-- The mode field of a cell (Table 2.8). -/
def cellMode (s : State) (c : Cell) : Nat := recBits s c 176 4

/-- A cell takes its carry in from the chain (Table 2.6). -/
def takesCarry (s : State) (c : Cell) : Bool := cellMode s c == 4 && recBits s c 164 2 == 3

/-- The cell that follows in the carry chain: cell 35 is followed by cell 0 of the tile one row up (R31). -/
def nextCell (c : Cell) : Option Cell :=
  if h : c.k.val + 1 < 36 then some { c with k := ⟨c.k.val + 1, h⟩ }
  else if h : c.row.val + 1 < 32 then some { c with row := ⟨c.row.val + 1, h⟩, k := 0 }
  else none

/-- The cell before it in the carry chain. -/
def prevCell (c : Cell) : Option Cell :=
  if 0 < c.k.val then some { c with k := Fin.ofNat _ (c.k.val - 1) }
  else if 0 < c.row.val then some { c with row := Fin.ofNat _ (c.row.val - 1), k := 35 }
  else none

/-- One step from a destination toward its producer. -/
def stepBack (s : State) : XDst → Hop
  | .l1 h col row d =>
    let code := l1Code s h col row d
    if code < 36 then .ends (.src (.cell ⟨Fin.ofNat _ h, Fin.ofNat _ col, Fin.ofNat _ row, Fin.ofNat _ code⟩))
    else if code < 60 then .from_ (.l2 h col (24 * row + (code - 36)))
    else .ends .off
  | .l2 h col d => rowHop s ⟨1, h, col, d⟩ (fun i =>
    if i < 768 then .from_ (.l1 h col (i / 24) (288 + i % 24))
    else if i < 864 then
      match lcolOf s h col with
      | some lc =>
        match heldPort s h lc (i - 768) with
        | some k => .ends (.kept k)
        | none => .from_ (.l3 h (96 * lc + (i - 768)))
      | none => .ends .off
    else .ends (.src (.side (Fin.ofNat _ h) (Fin.ofNat _ col) (Fin.ofNat _ (i - 864)))))
  | .l3 h d =>
    if 6336 ≤ d ∧ d < 7104 ∧ outGated s h (d - 6336) = true then
      .ends (.src (.gate (Fin.ofNat _ h) (Fin.ofNat _ (d - 6336))))
    else rowHop s ⟨2, h, 0, d⟩ (fun i =>
      if i < 6336 then
        match heldPort s h (i / 96) (96 + i % 96), pcolOf s h (i / 96) with
        | some k, _ => .ends (.kept k)
        | none, some pc => .from_ (.l2 h pc (768 + i % 96))
        | none, none => .ends .off
      else if i < 7104 then (if inGated s h (i - 6336) then .ends .off else .from_ (.l4 h (i - 6336)))
      else if i < 7616 then .ends (.src (.hinge (Fin.ofNat _ h) (Fin.ofNat _ (i - 7104))))
      else if inGated s h (768 + (i - 7616)) then .ends .off else .from_ (.bc (i - 7616)))
  | .l4 h d => rowHop s ⟨3, h, 0, d⟩ (fun i =>
    if i / 768 = h ∧ outGated s h (i % 768) = true then .ends .off else .from_ (.l3 (i / 768) (6336 + i % 768)))
  | .bc b =>
    match driverHearth s b with
    | none => .ends .off
    | some m => rowHop s ⟨3, m, 0, 768 + b⟩ (fun i => .from_ (.l3 (i / 768) (6336 + i % 768)))
  | .carry c =>
    match takesCarry s c, prevCell c with
    | true, some p => .ends (.src (.carry p))
    | true, none | false, _ => .ends .off

/-- Follow a destination back to its producer; the first argument bounds the levels crossed. -/
def feedOf (s : State) : Nat → XDst → Feed
  | 0, _ => .off
  | n + 1, x =>
    match stepBack s x with
    | .ends f => f
    | .from_ y => feedOf s n y

/-- The crossbar destination that feeds a consumer. -/
def xdstOf : Dst → XDst
  | .slot c i => .l1 c.h.val c.col.val c.row.val (8 * c.k.val + i.val)
  | .side h col p => .l2 h.val col.val (864 + p.val)
  | .hinge h p => .l3 h.val (7104 + p.val)
  | .gate h g => if g.val < 768 then .l4 h.val g.val else .bc (g.val - 768)
  | .carry c => .carry c

/-- What feeds a crossbar destination; nothing before commit (R60). -/
def feed (s : State) (x : XDst) : Feed := if s.fab.committed then feedOf s 12 x else .off

/-- The rails on a producer's wires: what it drives, as any wire failure changes it (R25, R344). -/
def wireRails (s : State) (x : Src) : Rails :=
  tget (fun _ => 0) s.fab.rails (srcKey x) ^^^ tget (fun _ => 0) s.fab.wires (srcKey x)

/-- The rails that a crossbar destination shows. -/
def railsAt (s : State) (x : XDst) : Rails :=
  match feed s x with
  | .off => 0
  | .src y => wireRails s y
  | .kept k => k.rails

/-- The rails that a consumer sees. -/
def seen (s : State) (d : Dst) : Rails := railsAt s (xdstOf d)

/-- The acknowledge that a consumer raises. -/
def ackOf (s : State) (d : Dst) : Bool := tget (fun _ => false) s.fab.acks (dstKey d)

/-- The rails that a producer drives. -/
def drivenBy (s : State) (x : Src) : Rails := tget (fun _ => 0) s.fab.rails (srcKey x)

/-- The acknowledge that a producer sees (R24). -/
def joinOf (s : State) (x : Src) : Bool := tget (fun _ => false) s.fab.join (srcKey x)

/-- One consumer in a producer's join: a consumer, or a row's keeper. -/
inductive Leaf where
  | dst (d : Dst)
  | kept (k : Keeper)
deriving DecidableEq, Repr

/-- A crossbar source, by level; and the carry out of a cell. -/
inductive XSrc where
  | l1 (h col row i : Nat)
  | l2 (h col i : Nat)
  | l3 (h i : Nat)
  | l4 (i : Nat)
  | carry (c : Cell)
deriving DecidableEq, Repr

/-- The address of a frame key. -/
def frameAddrOf (key : Nat) : FrameAddr :=
  ⟨Fin.ofNat _ (key / 12 / 32 / 66), Fin.ofNat _ (key / 12 / 32 % 66), Fin.ofNat _ (key / 12 % 32),
    Fin.ofNat _ (key % 12)⟩

/-- The addresses of the frames that hold anything but zeros. -/
def storedFrames (s : State) : List FrameAddr := s.fab.frames.map (fun e => frameAddrOf e.1)

/-- The rows that lie in a frame (Table 14.1). -/
def rowsIn (a : FrameAddr) : List RowId :=
  if a.f.val = 7 ∨ a.f.val = 8 then
    (List.range 31).map (fun k => ⟨1, a.h.val, a.col.val, 31 * a.row.val + k⟩)
  else if a.f.val = 9 then
    let i := 32 * a.col.val + a.row.val
    (if i ≤ 1903 then (List.range 4).map (fun k => ⟨2, a.h.val, 0, 4 * i + k⟩) else []) ++
    (if i ≤ 783 then [⟨3, a.h.val, 0, i⟩] else [])
  else []

/-- The rows that may select a source: those of the stored frames. A row whose frames are all zeros
selects no source (R56). -/
def storedRows (s : State) : List RowId :=
  ((storedFrames s).filter (fun a => a.f.val != 8 ||
    frameOf s a.h.val a.col.val a.row.val 7 == 0)).flatMap rowsIn

/-- The crossbar destination of a row. -/
def rowDst (r : RowId) : XDst :=
  match r.level with
  | 1 => .l2 r.h r.col r.dest
  | 2 => .l3 r.h r.dest
  | _ => if r.dest < 768 then .l4 r.h r.dest else .bc (r.dest - 768)

/-- How one row treats a source: not at all, as its selected source, or frozen by its keeper. -/
def rowTakes (s : State) (r : RowId) (i : Nat) (go : List Leaf) : List Leaf :=
  match keeperOf s r with
  | some k => if rowGates s r i || k.src == some i then [.kept k] else []
  | none => if rowSource s r == some (some i) then go else []

/-- Some destination of hearth `m` selects broadcast `b` (R66). -/
def hears (s : State) (m b : Nat) : Bool :=
  (storedRows s).any (fun q => q.level == 2 && q.h == m && rowSource s q == some (some (7616 + b)))

/-- A channel from up-port `i` of the device to its own hearth, whose drained share counts as acknowledged (R42). -/
def drainedSelf (s : State) (i h : Nat) : Bool := i / 768 == h && outGated s h (i % 768)

/-- What hearth `m` adds to the join of broadcast `b`, driven by up-port `i`: its gate, or its own destinations (R67). -/
def broadcastShare (s : State) (go : XSrc → List Leaf) (b i m : Nat) : List Leaf :=
  if drainedSelf s i m then []
  else if inGated s m (768 + b) then
    (if hears s m b then [.dst (.gate (Fin.ofNat _ m) (Fin.ofNat _ (768 + b)))] else [])
  else go (.l3 m (7616 + b))

/-- The consumers below a crossbar destination that up-port `i` of the device feeds, if it lies at L4; `go` gives those
of a source of the next level. -/
def belowOf (s : State) (go : XSrc → List Leaf) (i : Nat) : XDst → List Leaf
  | .l1 h col row d =>
    if d < 288 then
      [.dst (.slot ⟨Fin.ofNat _ h, Fin.ofNat _ col, Fin.ofNat _ row, Fin.ofNat _ (d / 8)⟩ (Fin.ofNat _ d))]
    else go (.l2 h col (24 * row + (d - 288)))
  | .l2 h col d =>
    if d < 768 then go (.l1 h col (d / 24) (36 + d % 24))
    else if d < 864 then
      match lcolOf s h col with
      | some lc =>
        match heldPort s h lc (96 + (d - 768)) with
        | some k => [.kept k]
        | none => go (.l3 h (96 * lc + (d - 768)))
      | none => []
    else [.dst (.side (Fin.ofNat _ h) (Fin.ofNat _ col) (Fin.ofNat _ (d - 864)))]
  | .l3 h d =>
    if d < 6336 then
      match heldPort s h (d / 96) (d % 96), pcolOf s h (d / 96) with
      | some k, _ => [.kept k]
      | none, some pc => go (.l2 h pc (768 + d % 96))
      | none, none => []
    else if d < 7104 then
      (if outGated s h (d - 6336) then [] else go (.l4 (768 * h + (d - 6336))))
    else [.dst (.hinge (Fin.ofNat _ h) (Fin.ofNat _ (d - 7104)))]
  | .l4 h d =>
    if drainedSelf s i h then []
    else if inGated s h d then [.dst (.gate (Fin.ofNat _ h) (Fin.ofNat _ d))]
    else go (.l3 h (6336 + d))
  | .bc b => (List.range 36).flatMap (broadcastShare s go b i)
  | .carry c => [.dst (.carry c)]

/-- Every consumer that a crossbar source reaches; the first argument bounds the levels crossed. -/
def fanOut (s : State) : Nat → XSrc → List Leaf
  | 0, _ => []
  | n + 1, .l1 h col row i =>
    (List.range 312).flatMap (fun d =>
      if l1Code s h col row d = i then belowOf s (fun y => fanOut s n y) 0 (.l1 h col row d) else [])
  | n + 1, .l2 h col i =>
    ((storedRows s).filter (fun r => r.level == 1 && r.h == h && r.col == col)).flatMap (fun r =>
      rowTakes s r i (belowOf s (fun y => fanOut s n y) 0 (rowDst r)))
  | n + 1, .l3 h i =>
    ((storedRows s).filter (fun r => r.level == 2 && r.h == h)).flatMap (fun r =>
      rowTakes s r i (belowOf s (fun y => fanOut s n y) 0 (rowDst r)))
  | n + 1, .l4 i =>
    ((storedRows s).filter (fun r => r.level == 3 && (decide (r.dest < 768) || r.h == i / 768))).flatMap (fun r =>
      rowTakes s r i (belowOf s (fun y => fanOut s n y) i (rowDst r)))
  | _ + 1, .carry c =>
    match nextCell c with
    | some n => if takesCarry s n then [.dst (.carry n)] else []
    | none => []

/-- The crossbar source that a producer drives. -/
def xsrcOf : Src → XSrc
  | .cell c => .l1 c.h.val c.col.val c.row.val c.k.val
  | .side h col p => .l2 h.val col.val (864 + p.val)
  | .hinge h p => .l3 h.val (7104 + p.val)
  | .gate h u => .l4 (768 * h.val + u.val)
  | .carry c => .carry c

/-- Every consumer of a producer; none before commit (R60). -/
def consumers (s : State) (x : Src) : List Leaf := if s.fab.committed then fanOut s 12 (xsrcOf x) else []

/-- The acknowledge of one member of a join. -/
def leafAck (s : State) : Leaf → Bool
  | .dst d => ackOf s d
  | .kept k => k.ack

/-- The consumers below a crossbar destination. -/
def leavesBelow (s : State) (x : XDst) : List Leaf :=
  if s.fab.committed then
    belowOf s (fanOut s 12) (match x with
      | .l4 h d => match rowSource s ⟨3, h, 0, d⟩ with
        | some (some i) => i
        | some none | none => 27648
      | .bc b => match driverHearth s b with
        | some m => (match rowSource s ⟨3, m, 0, 768 + b⟩ with
          | some (some i) => i
          | some none | none => 27648)
        | none => 27648
      | .l1 _ _ _ _ | .l2 _ _ _ | .l3 _ _ | .carry _ => 27648) x
  else []

/-- The acknowledge at a crossbar destination: the join of the consumers below it alone. While its rails are up it rises
with the last of them; once they are neutral it falls with the last of them (R24). -/
def destAck (s : State) (x : XDst) : Bool :=
  let ls := leavesBelow s x
  if railsAt s x != 0 then !ls.isEmpty && ls.all (leafAck s) else ls.any (leafAck s)

/-! ## Codes of a position (R20, R21) -/

/-- The kinds of position: a digit, a bit position (rails 0 and 1 only), an event (rail 0 only) (R21, Table 2.2). -/
inductive PosKind where
  | digit | bit | event
deriving DecidableEq, Repr

/-- The rails that a position of a kind uses. -/
def PosKind.rails : PosKind → Rails
  | .digit => 15
  | .bit => 3
  | .event => 1

/-- Exactly one rail is high (R20). -/
def oneHot (r : Rails) : Bool := (onlyBit r.toNat).isSome

/-- A rail fault at a position: two or more rails are high, or one that its kind does not use (R20, R21, Table 2.2). -/
def railFault (k : PosKind) (r : Rails) : Bool := (r != 0 && !oneHot r) || r &&& ~~~ k.rails != 0

/-- The digit that raised rails carry (Table 2.1). -/
def digitOf (r : Rails) : Digit := BitVec.ofNat 2 (Nat.log2 r.toNat)

/-- The rails that carry a digit (Table 2.1). -/
def railsOf (v : Digit) : Rails := BitVec.ofNat 4 (2 ^ v.toNat)

/-- A position of kind `k` is valid and not yet acknowledged: phase 1 (R22). -/
def validAs (s : State) (k : PosKind) (d : Dst) : Bool := oneHot (seen s d) && !railFault k (seen s d) && !ackOf s d

/-- The kind of a cell's input: a carry is a bit channel (R31), and a slot takes a digit. No field of the cell record gives
a slot another kind (DEDUCED, log entry 63). -/
def inputKind : Dst → PosKind
  | .carry _ => .bit
  | .slot _ _ | .side _ _ _ | .hinge _ _ | .gate _ _ => .digit

/-- A cell input, or a gate, is valid and not yet acknowledged. -/
def validAt (s : State) (d : Dst) : Bool := validAs s (inputKind d) d

/-- A producer's position is in phase 0: neutral, with its acknowledge low (Table 2.3). -/
def phase0 (s : State) (x : Src) : Bool := drivenBy s x == 0 && !joinOf s x

/-- A producer presents a token that its consumers have not all acknowledged: phase 1 (R22). -/
def presents (s : State) (x : Src) : Bool := drivenBy s x != 0 && !joinOf s x

/-! ## Probes (R68, R70) -/

/-- The destination that probe `p` watches (Table 3.8). -/
def probeDst (s : State) (p : Nat) : XDst :=
  let h := s.get (FAB_PRB_SEL_hearth p)
  let col := s.get (FAB_PRB_SEL_column p)
  let d := s.get (FAB_PRB_SEL_dest p)
  match s.get (FAB_PRB_SEL_level p) with
  | 0 => .l1 h col (s.get (FAB_PRB_SEL_row p)) d
  | 1 => .l2 h col d
  | 2 => .l3 h d
  | _ => if d < 27648 then .l4 (d / 768) (d % 768) else .bc (d - 27648)

/-- The signal of probe `p` (Table 3.9). -/
def probeSignal (s : State) (p : Nat) : Bool :=
  let x := probeDst s p
  match s.get (FAB_PRB_PIN_sig p) with
  | 4 => railsAt s x != 0
  | 5 => match feed s x with
    | .kept k => k.ack
    | .off | .src _ => destAck s x
  | n => bitN (railsAt s x).toNat n

/-- Some probe register has been written. -/
def probing (s : State) : Bool := s.regs.any (fun e => FAB_PRB_PIN 0 ≤ e.1 && e.1 ≤ FAB_PRB_PIN 15)

/-- The edge counts after the rising edges of the enabled TOGGLE probes between two states (R70). -/
def edgesSince (s0 s : State) : Tbl Nat :=
  if probing s then
    (List.range 16).foldl (fun t p =>
      if s.flag (FAB_PRB_PIN_en p) && s.flag (FAB_PRB_PIN_mode p) && !probeSignal s0 p && probeSignal s p then
        tput (fun _ => 0) t p (tget (fun _ => 0) t p + 1)
      else t) s.fab.edges
  else s.fab.edges

/-- The state with the probes' edges since `s0` counted. -/
def watched (s0 s : State) : State := { s with fab := { s.fab with edges := edgesSince s0 s } }

/-- The level that an enabled probe puts on its pin: the signal, or in TOGGLE mode a change at every 2^div-th rising
edge (R70). -/
def probeLevel (s : State) (p : Nat) : Bool :=
  if s.flag (FAB_PRB_PIN_mode p) then
    tget (fun _ => 0) s.fab.edges p / 2 ^ s.get (FAB_PRB_PIN_div p) % 2 == 1
  else probeSignal s p

/-! ## Completed handshakes, by kind (R85, Table 4.4) -/

/-- Count `n` events of kind `k` in hearth `h`. -/
def countEvent (s : State) (h k n : Nat) : State :=
  let t := s.pace.counts
  { s with pace := { s.pace with counts := tput (fun _ => 0) t (9 * h + k) (tget (fun _ => 0) t (9 * h + k) + n) } }

/-- The kind of event that a hop is: L1 to L4, the broadcast spine, or a carry step (Table 4.4). -/
def hopKind : XDst → Nat
  | .l1 _ _ _ _ => 2
  | .l2 _ _ _ => 3
  | .l3 _ _ => 4
  | .l4 _ _ => 5
  | .bc _ => 6
  | .carry _ => 1

/-- The kinds of the hops that a position takes to a destination, and of the hinge crossing at its source. -/
def routeKinds (s : State) : Nat → XDst → List Nat
  | 0, _ => []
  | n + 1, x =>
    match stepBack s x with
    | .ends (.src (.hinge _ _)) => [hopKind x, 8]
    | .ends _ => [hopKind x]
    | .from_ y => hopKind x :: routeKinds s n y

/-- The hearth of a consumer. -/
def dstHearth : Dst → Nat
  | .slot c _ | .carry c => c.h.val
  | .side h _ _ | .hinge h _ | .gate h _ => h.val

/-- A handshake completes at a consumer: its hops count in the consumer's hearth (R85). A fork counts each destination's
whole route (DEDUCED, log entry 64). -/
def countRoute (s : State) (d : Dst) : State :=
  let ks := routeKinds s 12 (xdstOf d) ++ (match d with
    | .hinge _ _ => [8]
    | .slot _ _ | .carry _ | .side _ _ _ | .gate _ _ => [])
  ks.foldl (fun s k => countEvent s (dstHearth d) k 1) s

/-! ## Writing wires -/

/-- Drive a producer's rails. -/
def drive (s : State) (x : Src) (r : Rails) : State :=
  watched s { s with fab := { s.fab with rails := tput (fun _ => 0) s.fab.rails (srcKey x) r } }

/-- Set a consumer's acknowledge. -/
def setAck (s : State) (d : Dst) (b : Bool) : State :=
  watched s { s with fab := { s.fab with acks := tput (fun _ => false) s.fab.acks (dstKey d) b } }

/-- The acknowledge that a producer sees next: the join of its consumers rises when every one has raised its acknowledge
and falls when every one has lowered it (R24). -/
def joinNext (s : State) (x : Src) : Bool :=
  let ls := consumers s x
  if !ls.isEmpty && ls.all (leafAck s) then true
  else if ls.all (fun l => !leafAck s l) then false
  else joinOf s x

/-- Bring the join of a producer up to date. -/
def rejoin (s : State) (x : Src) : State :=
  { s with fab := { s.fab with join := tput (fun _ => false) s.fab.join (srcKey x) (joinNext s x) } }

/-- A consumer's acknowledge changes, and its producer's join with it; its fall completes the handshake. -/
def moveAck (s : State) (d : Dst) (b : Bool) : State :=
  let s := if ackOf s d && !b then countRoute s d else s
  let s := setAck s d b
  match feed s (xdstOf d) with
  | .src x => rejoin s x
  | .off => s
  | .kept _ => s

/-- The producers whose joins or consumers a change of routes may touch: those that drive rails or see an acknowledge,
and those of consumers that acknowledge. -/
def liveSrcs (s : State) : List Src :=
  (s.fab.rails.map (fun e => srcOfKey e.1)) ++ (s.fab.wires.map (fun e => srcOfKey e.1)) ++
  (s.fab.join.map (fun e => srcOfKey e.1)) ++
  (s.fab.acks.filterMap (fun e => match feed s (xdstOf (dstOfKey e.1)) with
    | .src x => some x
    | .off | .kept _ => none))

/-- Every join follows its consumers, after routes have changed (R24, R59). -/
def rejoinAll (s : State) : State := (liveSrcs s).foldl rejoin s

/-! ## Faults (R25, R34, R58) -/

/-- A report of a frame address to the scrubber: queued unless 16 already wait (R347). -/
def scrubReport (s : State) (a : FrameAddr) : State :=
  if s.scb.prio.length < 16 then { s with scb := { s.scb with prio := s.scb.prio ++ [a] } } else s

/-- The layout of FAB_TOK_LAST for a fault at a cell (Table 2.17). -/
def tokWord (c : Cell) (kind : Nat) : W36 :=
  packWord [(30, c.h.val), (23, c.col.val), (18, c.row.val), (12, c.k.val), (10, kind)]

/-- The frame that holds the first bit of a cell's record (Table 14.1). -/
def cellFrame (c : Cell) : FrameAddr := ⟨c.h, c.col, c.row, Fin.ofNat _ (180 * c.k.val / 1296)⟩

/-- A token fault of kind 01b (rail) or 10b (select): the hearth's bit, the location and the count, a
report to the scrubber for a rail fault, and emergency 1101h or 1102h (R25, R34, R47). -/
def tokenFault (s : State) (c : Cell) (kind : Nat) : State :=
  let s := s.putBit FAB_TOK_FLT_flt c.h.val true
  let s := s.setWord FAB_TOK_LAST (tokWord c kind)
  let s := s.bump FAB_TOK_CNT_cnt 1
  let s := if kind = 1 then scrubReport s (cellFrame c) else s
  raise s (0x1100 + kind) (tokWord c kind)

/-- Whether a cell input is stalled by a rail fault. -/
def stalledAt (s : State) (d : Dst) : Bool := tget (fun _ => false) s.fab.stalled (dstKey d)

/-- The layout of FAB_XB_LAST for a row (Table 3.12): the physical column for an L2 row, and the
destination index of Table 3.2. -/
def rowWord (s : State) (r : RowId) (isOpen : Bool) : W36 :=
  let dest := if r.level = 3 then (if r.dest < 768 then 768 * r.h + r.dest else 27648 + (r.dest - 768)) else r.dest
  let _ := s
  packWord [(34, r.level), (28, r.h), (21, if r.level = 1 then r.col else 0), (6, dest), (5, b2n isOpen)]

/-- The frame that holds a row (Table 14.1): for an L2 row whose bits span frames 7 and 8, the frame of its first bit
(DESIGN CHOICE, log entry 66). -/
def rowFrame (r : RowId) : FrameAddr :=
  match r.level with
  | 1 => ⟨Fin.ofNat _ r.h, Fin.ofNat _ r.col, Fin.ofNat _ (r.dest / 31),
      Fin.ofNat _ (7 + 63 * (r.dest % 31) / 1296)⟩
  | 2 => ⟨Fin.ofNat _ r.h, Fin.ofNat _ (r.dest / 4 / 32), Fin.ofNat _ (r.dest / 4 % 32), Fin.ofNat _ 9⟩
  | _ => ⟨Fin.ofNat _ r.h, Fin.ofNat _ (r.dest / 32), Fin.ofNat _ (r.dest % 32), Fin.ofNat _ 9⟩

end Sys2Proof.Machine
end

