-- ==== Sys2Proof/Machine/Store.lean ====
section
/-! DEFINITION. Store: store blocks: steering, rows, ports and their requests, collisions, and block handover (05). -/
namespace Sys2Proof.Machine
open Sys2Proof

/-- Block steering at power-on reset: slot b to physical block b (R103). -/
def blockDefault (key : Nat) : Nat × Nat := if key % 102 < 96 then (0, key % 102) else (1, key % 102)

/-- The block steering entry of a slot: state code and physical block. -/
def blockOf (s : State) (h b : Nat) : Nat × Nat := tget blockDefault s.store.steer (102 * h + b)

/-- Set a block steering entry. -/
def setBlock (s : State) (h b : Nat) (e : Nat × Nat) : State :=
  { s with store := { s.store with steer := tput blockDefault s.store.steer (102 * h + b) e } }

/-- The configuration bits of a slot: norot, pri, init, wb, wa (Table 14.1, frame 10). -/
def slotConfig (s : State) (h b lo width : Nat) : Nat := strBits s h (b / 32) (b % 32) 10 lo width

/-- The width code of a port (Table 5.1): port A is false. -/
def portWidth (s : State) (h b : Nat) (port : Bool) : Nat := slotConfig s h b (if port then 2 else 0) 2

/-- A row of a physical block. -/
def blockRow (s : State) (h pb row : Nat) : W36 := tget (fun _ => 0) s.store.content ((h * 102 + pb) * 1024 + row)

/-- Write a row of a physical block. -/
def setRow (s : State) (h pb row : Nat) (v : W36) : State :=
  { s with store := { s.store with content := tput (fun _ => 0) s.store.content ((h * 102 + pb) * 1024 + row) v } }

/-- The row and the first nonet that an address names at a width, and the nonets of the item (R104). -/
def itemOf (width addr : Nat) : Nat × Nat × Nat :=
  match width with
  | 0 => (addr % 4096 / 4, addr % 4, 1)
  | 1 => (addr % 2048 / 2, 2 * (addr % 2), 2)
  | _ => (addr % 1024, 0, 4)

/-- The nonets that a request writes: at x9 the item always; else those of its mask (Table 5.2). -/
def writesNonet (width mask k : Nat) : Bool := width == 0 || bitN mask k

/-- A row with the masked nonets of an item written. -/
def mergeItem (row data : W36) (width addr mask : Nat) : W36 :=
  let it := itemOf width addr
  (List.range it.2.2).foldl (fun r k =>
    if writesNonet width mask k then withBits r (9 * (it.2.1 + k)) 9 (bitsOf data (9 * k) 9) else r) row

/-- The item of a row, in the low bits. -/
def itemValue (row : W36) (width addr : Nat) : W36 :=
  let it := itemOf width addr
  BitVec.ofNat 36 (bitsOf row (9 * it.2.1) (9 * it.2.2))

/-- Port state. -/
def portKey (h b : Nat) (port : Bool) : Nat := (h * 96 + b) * 2 + b2n port

def portOf (s : State) (h b : Nat) (port : Bool) : StorePort :=
  tget (fun _ => StorePort.init) s.store.ports (portKey h b port)

def setPort (s : State) (h b : Nat) (port : Bool) (p : StorePort) : State :=
  { s with store := { s.store with ports := tput (fun _ => StorePort.init) s.store.ports (portKey h b port) p } }

/-- The physical column of the band that a port's side ports lie in (R101). -/
def portColumn (s : State) (h b : Nat) (port : Bool) : Nat := (pcolOf s h (2 * (b / 3) + b2n port)).getD 0

/-- The response producers of a port: side sources 26j upward, 5, 9 or 18 positions (R101, Table 5.2). -/
def responseSrcs (s : State) (h b : Nat) (port : Bool) : List Src :=
  let n := match portWidth s h b port with
    | 0 => 5
    | 1 => 9
    | _ => 18
  (List.range n).map (fun d => Src.side (Fin.ofNat _ h) (Fin.ofNat _ (portColumn s h b port)) (Fin.ofNat _ (26 * (b % 3) + d)))

/-- The request consumers of a port: side destinations 26j upward, 12, 17 or 26 positions. -/
def requestDsts (s : State) (h b : Nat) (port : Bool) : List Dst :=
  let n := match portWidth s h b port with
    | 0 => 12
    | 1 => 17
    | _ => 26
  (List.range n).map (fun d => Dst.side (Fin.ofNat _ h) (Fin.ofNat _ (portColumn s h b port)) (Fin.ofNat _ (26 * (b % 3) + d)))

/-- The kinds of a port's request positions (Table 5.2). -/
def requestKinds : Nat → List PosKind
  | 0 => List.replicate 11 .digit ++ [.bit]
  | 1 => List.replicate 6 .digit ++ [.bit] ++ List.replicate 10 .digit
  | _ => List.replicate 26 .digit

/-- The value of digits, least significant first (R21). -/
def digitsNat (l : List Digit) : Nat := l.foldr (fun d acc => d.toNat + 4 * acc) 0

/-- A request as a port takes it: op, address, nonet mask and write data (Table 5.2). -/
structure StoreCall where
  op : Nat
  addr : Nat
  mask : Nat
  data : W36
deriving DecidableEq, Repr

/-- The request that digits spell at a width (Table 5.2). -/
def callOf (width : Nat) (l : List Digit) : StoreCall :=
  match width with
  | 0 => ⟨digitsNat (l.take 1), digitsNat ((l.drop 1).take 6), 0, BitVec.ofNat 36 (digitsNat (l.drop 7))⟩
  | 1 => ⟨digitsNat (l.take 1), digitsNat ((l.drop 1).take 6), digitsNat ((l.drop 7).take 1),
      BitVec.ofNat 36 (digitsNat (l.drop 8))⟩
  | _ => ⟨digitsNat (l.take 1), digitsNat ((l.drop 1).take 5), digitsNat ((l.drop 6).take 2),
      BitVec.ofNat 36 (digitsNat (l.drop 8))⟩

/-- The digits of a bundle once every position of it is valid (R23). -/
def bundleDigits (s : State) (l : List (Dst × PosKind)) : Option (List Digit) :=
  l.mapM (fun e => if validAs s e.2 e.1 && !stalledAt s e.1 then some (digitOf (seen s e.1)) else none)

/-- The valid request that waits at a port (R105). -/
def requestOf (s : State) (h b : Nat) (port : Bool) : Option StoreCall :=
  let w := portWidth s h b port
  (bundleDigits s ((requestDsts s h b port).zip (requestKinds w))).map (callOf w)

/-- A port takes no request until its last response has completed phase 2 (R107). -/
def portBusy (s : State) (h b : Nat) (port : Bool) : Bool :=
  (portOf s h b port).read.isSome || (responseSrcs s h b port).any (presents s)

/-- The nonets that an access reads or writes (R108). -/
def nonetsOf (width : Nat) (r : StoreCall) : Nat :=
  let n := (itemOf width r.addr).2.2
  if r.op = 1 then ((List.range n).filter (writesNonet width r.mask)).length else n

/-- One access: op 0 reads the item, 1 writes the masked nonets, 2 reads then writes (R106). Every position of the
request is acknowledged. -/
def storeAccess (s : State) (h b : Nat) (port : Bool) (r : StoreCall) : State :=
  let w := portWidth s h b port
  let pb := (blockOf s h b).2
  let row := (itemOf w r.addr).1
  let old := blockRow s h pb row
  let s := if r.op = 0 then s else setRow s h pb row (mergeItem old r.data w r.addr r.mask)
  let s := if r.op = 1 then s else setPort s h b port { portOf s h b port with read := some (itemValue old w r.addr) }
  let s := countEvent s h 7 (nonetsOf w r)
  (requestDsts s h b port).foldl (fun s d => moveAck s d true) s

/-- Whether the port can serve a request: its hearth is awake, the port is free and not stalled by a
fault (R106, R107). -/
def portFree (s : State) (h b : Nat) (port : Bool) : Bool :=
  hearthSt s h == .awake && !portBusy s h b port && !(portOf s h b port).faulted

/-- A column handover holds the side-port requests of the logical column's band (R364). -/
def bandHeld (s : State) (h b : Nat) (port : Bool) : Bool :=
  match s.scb.handover with
  | .colWait g c | .colScan g c => g.val == h && c.val == 2 * (b / 3) + b2n port
  | .idle | .colCopy _ _ | .colTest _ _ | .blockWait _ _ | .blockCopy _ _ | .blockTest _ _ | .laneTest _ | .fifoTest _ => false

/-- New requests at the port wait: its slot is in HANDOVER, or its column is (R114, R364). -/
def portHeld (s : State) (h b : Nat) (port : Bool) : Bool := (blockOf s h b).1 == 2 || bandHeld s h b port

/-- Serve the valid request of a port, if it names an operation and the port can take it (R106). -/
def storeServe (s : State) (h b : Nat) (port : Bool) : State :=
  match requestOf s h b port with
  | none => s
  | some r => if r.op < 3 ∧ portFree s h b port = true ∧ portHeld s h b port = false then storeAccess s h b port r else s

/-- The request of the other port that a request of `port` collides with: valid at the same time, on the same row, and
ready to be served (R109). -/
def rivalOf (s : State) (h b : Nat) (port : Bool) (r : StoreCall) : Option StoreCall :=
  match requestOf s h b (!port) with
  | none => none
  | some q =>
    if q.op < 3 ∧ portFree s h b (!port) = true ∧ portHeld s h b (!port) = false ∧
      (itemOf (portWidth s h b port) r.addr).1 = (itemOf (portWidth s h b (!port)) q.addr).1 then some q else none

/-- Whether `port` goes first of two colliding requests that are both valid when the element resolves (Table 5.3): by pri;
with pri = 00b the element admits either, a free choice. -/
def firstGoes (s : State) (h b : Nat) (port : Bool) : Bool :=
  match slotConfig s h b 6 2 with
  | 1 => !port
  | 2 => port
  | _ => Config.freeBit s.free

/-- A port's request is served, whole, before or after a request that collides with it (R109, R110). -/
def storeOrdered (s : State) (h b : Nat) (port : Bool) (r : StoreCall) : State :=
  match rivalOf s h b port r with
  | none => storeServe s h b port
  | some _ =>
    if firstGoes s h b port then storeServe s.tookFree h b port
    else storeServe (storeServe s.tookFree h b (!port)) h b port

/-- A request with op `op` has arrived at a port: served, or held while the slot or the column is in handover (R106, R114,
R364). -/
def storeRequest (s : State) (h b : Nat) (port : Bool) (op : Nat) : State :=
  match requestOf s h b port with
  | none => s
  | some r =>
    if r.op ≠ op ∨ portFree s h b port = false then s
    else if portHeld s h b port then setPort s h b port { portOf s h b port with held := true }
    else storeOrdered s h b port r

/-- The requests held at the ports of a slot proceed, colliding ones in the order of Table 5.3 (R114). -/
def storeResume (s : State) (h b : Nat) : State :=
  [false, true].foldl (fun s port =>
    let p := portOf s h b port
    if p.held then
      let s := setPort s h b port { p with held := false }
      match requestOf s h b port with
      | some r => storeOrdered s h b port r
      | none => s
    else s) s

/-- The requests held at the slots of a logical column's pair proceed (Table 14.8 step 6). -/
def columnResume (s : State) (h c : Nat) : State :=
  if c < 64 then [0, 1, 2].foldl (fun s j => storeResume s h (3 * (c / 2) + j)) s else s

/-- A spare physical column is to be tested next. -/
def markSpare (s : State) (h : Fin 36) (p : Fin 66) : State :=
  if s.scb.testNext.contains (h, p) then s
  else { s with scb := { s.scb with testNext := s.scb.testNext ++ [(h, p)] } }

/-- A slice ends with a result: 0 PASS, 1 FAIL, 2 INCOMPLETE (Table 14.14). The INCOMPLETE test of a spare column that was
marked is run again at the next slice start (R361). -/
def sliceEnd (s : State) (result : Nat) : State :=
  let s := match s.scb.handover, s.scb.extra && result == 2 with
    | .colTest h p, true => markSpare s h p
    | _, _ => s
  let s := (s.put SCB_BIST_STAT_kind 0).put SCB_BIST_STAT_last result
  { s with scb := { s.scb with handover := .idle } }

/-- A block handover is abandoned: steering stays, both ports resume on the original block, and the slice
is INCOMPLETE (R114). -/
def blockAbandon (s : State) (h b : Nat) : State :=
  storeResume (sliceEnd (setBlock s h b (0, (blockOf s h b).2)) 2) h b

/-- A fault on a port: its hearth's bit, FAB_SB_LAST, a report to the scrubber and 1108h (R106, R118). The port stalls.
The frame reported is frame 10 of the slot's tile, which holds the slot's configuration; and the fault enters FAB_SB_FLT
and FAB_SB_LAST alone, not FAB_TOK_FLT or FAB_TOK_CNT (DESIGN CHOICE, log entry 65). -/
def storeFault (s : State) (h : Fin 36) (b : Fin 96) (port : Bool) (kind : Nat) : State :=
  let s := setPort s h.val b.val port { portOf s h.val b.val port with faulted := true }
  let w := packWord [(30, h.val), (23, b.val), (22, b2n port), (20, kind)]
  let s := (s.putBit FAB_SB_FLT_flt h.val true).setWord FAB_SB_LAST w
  let s := scrubReport s ⟨h, Fin.ofNat _ (b.val / 32), Fin.ofNat _ (b.val % 32), 10⟩
  raise s 0x1108 w

/-- Where a side destination lies: its slot, its port and its place in the port's bundle (R101). -/
def sidePort (s : State) (h col p : Nat) : Option (Nat × Bool × Nat) :=
  match lcolOf s h col with
  | some lc => if p < 78 ∧ lc < 64 then some (3 * (lc / 2) + p / 26, lc % 2 == 1, p % 26) else none
  | none => none

/-! ## Block handover (R114, Table 5.5); BIST_SLICE_START begins it -/

/-- Both ports hold no access whose response is still to be delivered (Table 5.5 step 2). -/
def portsQuiet (s : State) (h b : Nat) : Bool := !portBusy s h b false && !portBusy s h b true

/-- Step 2 ends and the copy of all 1,024 rows to the spare begins. -/
def blockQuiesced (s : State) (h : Fin 36) (b : Fin 96) : State :=
  if s.scb.handover = .blockWait h b ∧ portsQuiet s h.val b.val = true then
    { s with scb := { s.scb with handover := .blockCopy h b } }
  else s

/-- The rows of one physical block copied to another. -/
def copyBlock (s : State) (h a b : Nat) : State :=
  (List.range 1024).foldl (fun s r => setRow s h b r (blockRow s h a r)) s

/-- The copy ends: steering maps the slot to the spare, the spare's slot to the freed block, and the held
requests proceed (Table 5.5 steps 4 and 5). -/
def blockSwitch (s : State) (h b : Nat) : State :=
  let spare := s.scb.spare
  let old := (blockOf s h b).2
  let new := (blockOf s h spare).2
  let s := copyBlock s h old new
  let s := setBlock (setBlock s h b (0, new)) h spare (1, old)
  storeResume { s with scb := { s.scb with handover := .blockTest (Fin.ofNat _ h) (Fin.ofNat _ old) } } h b

/-- FAB_SB_VAL for the slot that FAB_SB_IDX names (Table 5.8). In state NONE, which names no physical block, rows_used
reads 0, and the configuration fields of a spare slot, which no stream sets, read 0 (DESIGN CHOICE, log entry 65). -/
def storeValWord (s : State) : W36 :=
  let h := s.get FAB_SB_IDX_hearth
  let b := s.get FAB_SB_IDX_slot
  if 36 ≤ h ∨ 102 ≤ b then 0
  else
    let e := blockOf s h b
    let cfg := if b < 96 then slotConfig s h b 0 9 else 0
    packWord [(25, cfg / 256), (23, cfg / 64 % 4), (21, cfg / 16 % 4), (19, cfg / 4 % 4), (17, cfg % 4),
      (12, if e.1 = 3 then 0 else tget (fun _ => 0) s.store.rowsUsed (102 * h + e.2)), (10, e.1),
      (0, if e.1 = 3 then 127 else e.2)]

end Sys2Proof.Machine
end

