-- ==== Sys2Proof/Machine/Wires.lean ====
section
/-! DEFINITION. Wires: what a change of rails, acknowledges or routes brings about: rail faults at inputs, joins, the
checkers of rows and their keepers, bundles at hinge ports, and the drain of a hearth (02 R22 to R25, R41, R42; 03 R58 to
R60, R64). -/
namespace Sys2Proof.Machine
open Sys2Proof

/-! ## Rail faults at inputs (R25, R106) -/

/-- A rail fault has been seen at a consumer: its channel stalls in phase 1 until a drain. -/
def markStalled (s : State) (d : Dst) : State :=
  { s with fab := { s.fab with stalled := tput (fun _ => false) s.fab.stalled (dstKey d) true } }

/-- A consumer of kind `k` sees a rail fault in phase 1 that it has not reported. -/
def faultAt (s : State) (k : PosKind) (d : Dst) : Bool := railFault k (seen s d) && !ackOf s d && !stalledAt s d

/-- A rail fault on a request position of a store-block port: the port stalls and reports it (R106); in step 2 of a
handover of its slot it abandons that handover (Table 5.6). -/
def sideFault (s : State) (h : Fin 36) (b : Fin 96) (port : Bool) (d : Dst) : State :=
  let s := storeFault (markStalled s d) h b port 1
  if s.scb.handover = .blockWait h b then blockAbandon s h.val b.val else s

/-- A consumer checks the rails that it receives: a cell input as R25 states, a store-block port as R106 does. It stalls
its channel and reports the fault once. -/
def checkInput (s : State) (d : Dst) : State :=
  match d with
  | .slot c _ | .carry c => if faultAt s (inputKind d) d then tokenFault (markStalled s d) c 1 else s
  | .side h col p =>
    match sidePort s h.val col.val p.val with
    | some (b, port, i) =>
      match (requestKinds (portWidth s h.val b port))[i]? with
      | some k => if faultAt s k d then sideFault s h (Fin.ofNat _ b) port d else s
      | none => s
    | none => s
  | .hinge _ _ | .gate _ _ => s

/-- Check every consumer that a producer reaches. -/
def checkInputs (s : State) (x : Src) : State :=
  (consumers s x).foldl (fun s l => match l with
    | .dst d => checkInput s d
    | .kept _ => s) s

/-- Producers raise their rails, and every consumer that they reach checks what it sees. -/
def raiseRails (s : State) (l : List (Src × Rails)) : State :=
  let s := l.foldl (fun s e => drive s e.1 e.2) s
  l.foldl (fun s e => checkInputs s e.1) s

/-- Routes have changed since `s0`: every join follows its consumers, every consumer checks what it sees, and the probes'
edges count. -/
def rerouted (s0 s : State) : State :=
  let s := rejoinAll (watched s0 s)
  (liveSrcs s).foldl checkInputs s

/-! ## Bundles at hinge ports and store-block ports (R21 to R23) -/

/-- The producers and the consumers of `n` hinge ports from port `p` of hearth `h`. -/
def hingeSrcs (h p n : Nat) : List Src := (List.range n).map (fun d => .hinge (Fin.ofNat _ h) (Fin.ofNat _ (p + d)))
def hingeDsts (h p n : Nat) : List Dst := (List.range n).map (fun d => .hinge (Fin.ofNat _ h) (Fin.ofNat _ (p + d)))

/-- The kinds of the positions of a value of `w` bits (R21). -/
def valueKinds (w : Nat) : List PosKind := List.replicate (w / 2) .digit ++ List.replicate (w % 2) .bit

/-- The digits that carry the low bits of a value on `n` positions (R21). -/
def valueRails (n v : Nat) : List Rails := (List.range n).map (fun d => railsOf (BitVec.ofNat 2 (v >>> (2 * d))))

/-- Every one of `n` hinge ports from port `p` is in phase 0. -/
def portsIdle (s : State) (h p n : Nat) : Bool := (hingeSrcs h p n).all (phase0 s)

/-- Present a value at `n` hinge ports from port `p` of hearth `h`, digit by digit, where every port is in
phase 0 (R21, R22). -/
def presentAt (s : State) (h p n : Nat) (v : Nat) : State :=
  if portsIdle s h p n then raiseRails s ((hingeSrcs h p n).zip (valueRails n v)) else s

/-- One of `n` hinge ports from port `p` presents a token that is not taken. -/
def presentsAt (s : State) (h p n : Nat) : Bool := (hingeSrcs h p n).any (presents s)

/-- The digits of the token at the hinge ports from port `p` of hearth `h`, whose positions have the kinds `ks`; none while
a position is not valid (R23). -/
def tokenAt (s : State) (h p : Nat) (ks : List PosKind) : Option (List Digit) :=
  bundleDigits s ((hingeDsts h p ks.length).zip ks)

/-- The hinge acknowledges the token at its ports, every position of which is valid (R23). -/
def takeAt (s : State) (h p : Nat) (ks : List PosKind) : State :=
  if (tokenAt s h p ks).isSome then (hingeDsts h p ks.length).foldl (fun s d => moveAck s d true) s else s

/-- A read access completes: the block presents its response, digit by digit (R107). -/
def storeRespond (s : State) (h b : Nat) (port : Bool) : State :=
  let p := portOf s h b port
  let srcs := responseSrcs s h b port
  match p.read with
  | none => s
  | some v =>
    if srcs.all (phase0 s) then
      raiseRails (setPort s h b port { p with read := none }) (srcs.zip (valueRails srcs.length v.toNat))
    else s

/-! ## Rows and their checkers (R58, R59, R74) -/

/-- A row's checker acts on a change of its bits, `s0` being the state before (R58, R59): a row that becomes invalid is
frozen by its keepers and reported; a row that becomes valid is released, and the event log records it: R74 does not say
how, and the model logs object 6111h:01 of subsystem 1 with value 0 (DESIGN CHOICE, log entry 66). -/
def checkRow (s0 s : State) (r : RowId) : State :=
  match rowSource s0 r, rowSource s r with
  | some src0, none =>
    let k : Keeper := ⟨railsAt s0 (rowDst r), destAck s0 (rowDst r), src0⟩
    let s := { s with fab := { s.fab with keepers := tput (fun _ => none) s.fab.keepers (rowKey r) (some k) } }
    let s := s.putBit FAB_XB_FLT_flt r.h true
    let s := s.setWord FAB_XB_LAST (rowWord s r true)
    let s := s.bump FAB_XB_CNT_cnt 1
    let s := scrubReport s (rowFrame r)
    raise s 0x1104 (rowWord s r true)
  | none, some _ =>
    let s := { s with fab := { s.fab with keepers := tput (fun _ => none) s.fab.keepers (rowKey r) none } }
    let s := if s.word FAB_XB_LAST == rowWord s r true then s.put FAB_XB_LAST_open 0 else s
    logState s 1 0x6111 1 0
  | some _, some _ => s
  | none, none => s

/-- Frames have changed since `s0`: the checkers of these rows act and the routes follow, while the fabric is committed. -/
def checkRows (s0 s : State) (rows : List RowId) : State :=
  if s0.fab.committed then rerouted s0 (rows.foldl (checkRow s0) s) else s

/-- Put a value in a frame. -/
def putFrame (s : State) (h col row f : Nat) (v : BitVec 1308) : State :=
  { s with fab := { s.fab with frames := tput (fun _ => 0) s.fab.frames (frameKey h col row f) v } }

/-- Store a frame; every row it holds is checked while the fabric is committed (R58). -/
def writeFrame (s : State) (a : FrameAddr) (v : BitVec 1308) : State :=
  checkRows s (putFrame s a.h.val a.col.val a.row.val a.f.val v) (rowsIn a)

/-- The L2 rows of a physical column. -/
def columnRows (h col : Nat) : List RowId := (List.range 992).map (fun d => ⟨1, h, col, d⟩)

/-- The rows that a hearth holds in its stored frames. -/
def hearthRows (s : State) (h : Nat) : List RowId := (storedRows s).filter (fun r => r.h == h)

/-! ## The ports of a column in handover (R64) -/

/-- What the L3 crossbar holds at a destination: its rails and its acknowledge as they stand. -/
def holdAt (s : State) (x : XDst) : Keeper := ⟨railsAt s x, destAck s x, none⟩

/-- The L3 crossbar holds all 192 ports of logical column `c`, served by physical column `p`, and the handover enters `g`
(R64, Table 14.8 step 1). -/
def holdPorts (s : State) (h c p : Nat) (g : Handover) : State :=
  let down := (List.range 96).foldl (fun t i => tput (fun _ => ⟨0, false, none⟩) t i (holdAt s (.l3 h (96 * c + i)))) []
  let all := (List.range 96).foldl (fun t i =>
    tput (fun _ => ⟨0, false, none⟩) t (96 + i) (holdAt s (.l2 h p (768 + i)))) down
  { s with fab := { s.fab with holds := all }, scb := { s.scb with handover := g } }

/-- The ports have been released since `s0`: what they held is forgotten and every channel through them goes on. -/
def portsReleased (s0 s : State) : State := rerouted s0 { s with fab := { s.fab with holds := [] } }

/-! ## Draining a hearth (R41, R42, R352) -/

/-- The hearth of a producer. -/
def srcHearth : Src → Nat
  | .cell c | .carry c => c.h.val
  | .side h _ _ | .hinge h _ | .gate h _ => h.val

/-- What the gates of hearth `h` must still finish when the hearth drains into state `x` (Tables 2.11 and 14.3). Out of the
hearth: each channel whose rails are up, or that an outside consumer still acknowledges. Into the hearth: each channel in
phase 2 or 3 that a consumer inside still acknowledges. -/
def gateLevels (s : State) (h : Nat) (x : HearthSt) : List (Src × Rails × Bool) × List Dst :=
  let s1 := setHearth s h x
  let outs := (List.range 768).filterMap (fun u =>
    let ls := fanOut s1 12 (.l4 (768 * h + u))
    let r := railsAt s (.l3 h (6336 + u))
    let j := if r != 0 then ls.all (leafAck s) else ls.any (leafAck s)
    if !ls.isEmpty && (r != 0 || j) then some (Src.gate (Fin.ofNat _ h) (Fin.ofNat _ u), r, j) else none)
  let ins := (List.range 784).filterMap (fun g =>
    let d := Dst.gate (Fin.ofNat _ h) (Fin.ofNat _ g)
    match feed s (xdstOf d) with
    | .src y =>
      let ls := fanOut s 12 (.l3 h (if g < 768 then 6336 + g else 7616 + (g - 768)))
      if srcHearth y != h && joinOf s y && (ackOf s d || ls.any (leafAck s)) then some d else none
    | .off | .kept _ => none)
  (outs, ins)

/-- Drain hearth `h`: every token stage empties, every channel inside it goes to phase 0, keepers release,
and its gates take over the boundary in the state `x`. -/
def drainHearth (s : State) (h : Nat) (x : HearthSt) : State :=
  let g := if s.fab.committed then gateLevels s h x else ([], [])
  let p := keyIn h
  let f := { s.fab with
    rails := tdrop p s.fab.rails, join := tdrop p s.fab.join, acks := tdrop p s.fab.acks,
    stage := tdrop p s.fab.stage, stalled := tdrop p s.fab.stalled,
    muxStalled := tdrop p s.fab.muxStalled, keepers := tdrop p s.fab.keepers }
  let f := g.1.foldl (fun (f : Fab) e => { f with
    rails := tput (fun _ => 0) f.rails (srcKey e.1) e.2.1,
    join := tput (fun _ => false) f.join (srcKey e.1) e.2.2 }) f
  let f := g.2.foldl (fun (f : Fab) d => { f with acks := tput (fun _ => false) f.acks (dstKey d) true }) f
  rerouted s (setHearth { s with fab := f } h x)

/-- Boundary channels whose handshake the gates of hearth `h` must still complete (Table 2.20, 1103h). -/
def boundaryCount (s : State) (h : Nat) : Nat :=
  ((List.range 768).filter (fun u => !phase0 s (.gate (Fin.ofNat _ h) (Fin.ofNat _ u)))).length +
  ((List.range 784).filter (fun g => ackOf s (.gate (Fin.ofNat _ h) (Fin.ofNat _ g)))).length

/-- The initial-token stages of a tile's 36 cells receive their init_val (R35). -/
def insertTile (s : State) (h col row : Nat) : State :=
  (List.range 36).foldl (fun s k =>
    let c : Cell := ⟨Fin.ofNat _ h, Fin.ofNat _ col, Fin.ofNat _ row, Fin.ofNat _ k⟩
    if recBits s c 176 4 = 7 then
      let v : Option Digit := some (BitVec.ofNat 2 (recBits s c 171 2))
      { s with fab := { s.fab with stage := tput (fun _ => none) s.fab.stage (cellKey c) v } }
    else s) s

/-- Every initial-token stage of hearth `h` receives its init_val (R35, R40); a tile whose frames are all
zeros holds no such stage. -/
def insertTokens (s : State) (h : Nat) : State :=
  ((storedFrames s).filter (fun a => a.h.val == h && decide (a.f.val < 5))).foldl
    (fun s a => insertTile s h a.col.val a.row.val) s

end Sys2Proof.Machine
end

