-- ==== Sys2Proof/Machine/Fifo.lean ====
section
/-! DEFINITION. Fifo: the hinge FIFOs: push and pop, packet mode, bank seals, flush, clear and mailboxes (07). -/
namespace Sys2Proof.Machine
open Sys2Proof

/-! ## Access -/

/-- Hinge FIFO `f`. -/
def fifoOf (s : State) (f : Nat) : Fifo := tget (fun _ => Fifo.init) s.fifo f

/-- Set hinge FIFO `f`. -/
def setFifo (s : State) (f : Nat) (x : Fifo) : State :=
  { s with fifo := tput (fun _ => Fifo.init) s.fifo f x }

/-- The stream assigns FIFO `f` (Table 7.13). -/
def fifoUsed (s : State) (f : Nat) : Bool := s.get (HNG_FIFO_CFG_host f) != 63

/-- FIFO `f` runs in packet mode. -/
def pmode (s : State) (f : Nat) : Bool := s.flag (HNG_FIFO_CFG_pmode f)

/-- A disabled SDRAM channel seals its 16 FIFOs until the next commit (Table 7.12). -/
def dramFifoSealed (s : State) (f : Nat) : Bool :=
  decide (48 ≤ f ∧ f < 80) && s.get (DRM_STAT_state ((f - 48) / 16)) == 5

/-- Both sides are open. -/
def fifoOpen (x : Fifo) : Bool := x.sl.open0 && x.sl.open1

/-- The reader's depth (R156). -/
def rdepth (x : Fifo) : Nat :=
  (if x.drainSeen then x.drain.length else 0) +
  (match x.full with
   | some l => if x.fullSeen then l.length else 0
   | none => 0)

/-- The writer side is full: its fill bank is sealed, or the hinge is SEALED (R153, Table 6.14). -/
def wfull (x : Fifo) : Bool := x.full.isSome || !x.sl.open0

/-- The reader sees empty (Tables 6.14, 7.4). -/
def rempty (x : Fifo) : Bool := rdepth x == 0 || !x.sl.open1

/-- HNG_FIFO_STAT_f.state as it reads (Table 7.16). -/
def fifoState (s : State) (f : Nat) : Nat :=
  let x := fifoOf s f
  if s.cfg.everCommitted && !fifoUsed s f then 3
  else if !fifoOpen x then 2
  else if s.flag (HNG_FIFO_CTL_flush_pkt f) || s.flag (HNG_FIFO_CTL_clear_now f) then 1 else 0

/-- wlevel: the entries written into the fill bank, which keeps them until the banks swap; a length slot alone, reserved for
a packet that goes on, is no entry yet (Table 7.4; DEDUCED, log entry 67). -/
def wlevel (x : Fifo) : Nat :=
  match x.full with
  | some _ => x.level
  | none => if x.slot = some 0 ∧ x.fill.length = 1 then 0 else x.fill.length

/-- HNG_FIFO_STAT_f as it reads (Table 7.16): the live fields over the stored ones. -/
def fifoStatWord (s : State) (f : Nat) : W36 :=
  let x := fifoOf s f
  let w := s.word (HNG_FIFO_STAT f)
  let w := withBits w 34 2 (fifoState s f)
  let w := withBits w 33 1 (b2n (wfull x))
  let w := withBits w 32 1 (b2n (rempty x))
  let w := withBits w 22 10 (wlevel x)
  let w := withBits w 11 11 (rdepth x)
  withBits w 10 1 (b2n x.fbank)

/-! ## Bank seals and packets (R153, R159, R160) -/

/-- The length word of a part (Table 7.6), as the reader receives it: E = 0, A = 1. -/
def lengthEntry (cont later abort : Bool) (seq : BitVec 9) (len : Nat) : Entry :=
  ⟨packWord [(35, b2n cont), (34, b2n later), (33, b2n abort), (24, seq.toNat), (0, len % 512)], false, true⟩

/-- A length slot before its word is written. -/
def emptySlot : Entry := ⟨0, false, true⟩

/-- Write the length word of the part being written. -/
def closePart (x : Fifo) (cont abort : Bool) : Fifo :=
  match x.slot with
  | none => x
  | some p =>
    { x with fill := x.fill.set p (lengthEntry cont x.later abort x.seqCur (x.fill.length - p - 1)),
             slot := none, later := x.later || cont }

/-- The new fill bank: in packet mode a packet that goes on reserves its length slot there (R160). -/
def newFill (pm : Bool) (x : Fifo) : Fifo :=
  if pm && x.inPkt then { x with fill := [emptySlot], slot := some 0, later := true, fbank := !x.fbank }
  else { x with fill := [], slot := none, fbank := !x.fbank }

/-- The fill bank seals: every part in it has its length word; it becomes the drain bank if the writer
side knows the drain bank is empty, else the writer side is full (R153). -/
def sealBank (pm : Bool) (x : Fifo) : Fifo :=
  let x := closePart x true false
  if x.knowsEmpty then
    newFill pm { x with drain := x.fill, drainSeen := false, knowsEmpty := false, asked := false }
  else { x with full := some x.fill, level := x.fill.length, fullSeen := false }

/-- Put one entry in the fill bank; in packet mode the first outside a packet reserves a length slot, and
an entry with A set is stored with E set as well (R159). -/
def storeEntry (pm : Bool) (x : Fifo) (e : Entry) : Fifo :=
  let x := if pm && !x.inPkt then
      { x with slot := some x.fill.length, fill := x.fill ++ [emptySlot], later := false,
               seqCur := x.seqNext, seqNext := x.seqNext + 1 }
    else x
  let x := { x with fill := x.fill ++ [if pm && e.a then { e with e := true } else e], inPkt := true }
  if e.e || e.a then { closePart x false e.a with inPkt := false } else x

/-- The writer side knows the reader is idle: it knows the drain bank empty, and the reader asks, as a
fabric reader and a hard endpoint do at all times (R154). -/
def knowsIdle (s : State) (f : Nat) (x : Fifo) : Bool :=
  x.knowsEmpty && (decide (s.get (HNG_FIFO_CFG_rkind f) < 2) || x.asked)

/-- One entry written and the seal causes that follow it (Table 7.2). -/
def writeEntry (s : State) (f : Nat) (x : Fifo) (e : Entry) : Fifo :=
  let pm := pmode s f
  let x := storeEntry pm x e
  if 512 ≤ x.fill.length then sealBank pm x
  else if (e.e || e.a) && x.knowsEmpty then sealBank pm x
  else if !pm && knowsIdle s f x then sealBank pm x
  else x

/-- Whether the writer side would accept an entry now, after the full cause of a packet start that finds
one free entry (Table 7.2). -/
def beforePush (s : State) (f : Nat) (x : Fifo) : Fifo :=
  if pmode s f && !x.inPkt && x.full.isNone && decide (511 ≤ x.fill.length) then sealBank true x else x

/-- The 19 positions of an entry channel are digits (R150). -/
def entryKinds : List PosKind := List.replicate 19 .digit

/-- The entry that the digits of an entry channel carry: 18 of data, then E and A (R150). -/
def entryOf (l : List Digit) : Entry :=
  let x := digitsNat (l.drop 18)
  ⟨BitVec.ofNat 36 (digitsNat (l.take 18)), bitN x 0, bitN x 1⟩

/-- The entry that a fabric writer offers to FIFO `f`: the token at its entry channel. -/
def offeredEntry (s : State) (f : Nat) : Option Entry :=
  (tokenAt s (s.get (HNG_FIFO_CFG_host f)) (s.get (HNG_FIFO_CFG_base f)) entryKinds).map entryOf

/-- A writer's entry waits at a full writer side: a fabric token at the entry channel, or a hard endpoint's (R165). -/
def writerWaits (s : State) (f : Nat) : Bool :=
  wfull (fifoOf s f) &&
  (match s.get (HNG_FIFO_CFG_wkind f) with
   | 0 => (offeredEntry s f).isSome
   | 1 => true
   | _ => false)

/-- The reader side still holds a stall: an entry presented to the fabric and not taken, or entries that a clocked reader
has not taken (Table 7.11). -/
def readerWaits (s : State) (f : Nat) : Bool :=
  if s.get (HNG_FIFO_CFG_rkind f) = 0 then
    presentsAt s (s.get (HNG_FIFO_CFG_host f)) (s.get (HNG_FIFO_CFG_base f)) 19
  else rdepth (fifoOf s f) != 0

/-- The FIFO at `f` after the writer pushes `e`, and whether it accepted: refused while full or SEALED;
accepted and dropped after a clear point inside a packet (R158, R162). -/
def fifoPush (s : State) (f : Nat) (e : Entry) : State × Bool :=
  let x0 := fifoOf s f
  if !fifoUsed s f || !x0.sl.open0 then (s, false)
  else if s.flag (HNG_FIFO_STAT_wdrop f) then
    let s := s.bump (HNG_FIFO_CNT_disc_flush f) 1
    (if e.e || e.a then s.put (HNG_FIFO_STAT_wdrop f) 0 else s, true)
  else
    let x := beforePush s f x0
    if x.full.isSome then (setFifo s f x, false)
    else
      let s := setFifo s f (writeEntry s f x e)
      (if readerWaits s f then s else stallDone s 2 f, true)

/-- The writer pushes an entry. A fabric writer's is the token at its entry channel, which is acknowledged when the entry
is accepted (R150, R158); a clocked writer brings `e`. -/
def writerPush (s : State) (f : Nat) (e : Entry) : State :=
  if s.get (HNG_FIFO_CFG_wkind f) = 0 then
    match offeredEntry s f with
    | none => s
    | some e =>
      let r := fifoPush s f e
      if r.2 then takeAt r.1 (s.get (HNG_FIFO_CFG_host f)) (s.get (HNG_FIFO_CFG_base f)) entryKinds else r.1
  else (fifoPush s f e).1

/-! ## The reader (R156 to R158) -/

/-- An entry ends its packet: E in packet mode, E or A in stream mode (R161). -/
def endsPacket (pm : Bool) (e : Entry) : Bool := if pm then e.e else e.e || e.a

/-- The entry at the head of what the reader can read, and the FIFO without it. -/
def takeHead (x : Fifo) : Option (Entry × Fifo) :=
  if x.drainSeen && !x.drain.isEmpty then
    match x.drain with
    | [] => none
    | e :: r => some (e, { x with drain := r })
  else if x.drain.isEmpty && x.fullSeen then
    match x.full with
    | some (e :: r) => some (e, { x with full := some r })
    | some [] | none => none
  else none

/-- The entries that the reader can read, in order. -/
def readable (x : Fifo) : List Entry :=
  (if x.drainSeen then x.drain else []) ++ (if x.fullSeen then x.full.getD [] else [])

/-- A length word as the reader receives it (R159). -/
def lengthWord (e : Entry) : Bool := e.a && !e.e

/-- One entry fewer lies before a point. -/
def stepPoint : Option Nat → Option Nat
  | some n => some (n - 1)
  | none => none

/-- A flush ends when the reader has passed its point; a clear when both sides have acted and no abort
entry is owed (R161, R162). -/
def endFlushes (s : State) (f : Nat) : State :=
  let x := fifoOf s f
  let s := if x.flushAt = some 0 ∧ s.flag (HNG_FIFO_CTL_flush_pkt f) = true ∧ x.cleared = true then
      setFifo (s.put (HNG_FIFO_CTL_flush_pkt f) 0) f { fifoOf s f with flushAt := none, cleared := false } else s
  s

/-- The reader takes the next entry, if it can: the abort entry owed by a clear first (R162), else the head
of the banks it knows to be sealed. A refused reader becomes idle (R158). -/
def fifoPop (s : State) (f : Nat) : State × Option Entry :=
  let x := fifoOf s f
  if !fifoUsed s f || !x.sl.open1 then (s, none)
  else if x.abortOwed then
    let s := setFifo s f { x with abortOwed := false }
    let s := s.put (HNG_FIFO_STAT_rmid f) 0
    ((s.put (HNG_FIFO_CTL_clear_now f) 0).put (HNG_FIFO_CTL_flush_pkt f) 0, some ⟨0, true, true⟩)
  else
    match takeHead x with
    | none => (setFifo s f { x with asked := true }, none)
    | some (e, y) =>
      let s := setFifo s f { y with asked := false, flushAt := stepPoint y.flushAt, clearAt := stepPoint y.clearAt }
      let s := s.put (HNG_FIFO_STAT_rmid f) (b2n (!endsPacket (pmode s f) e))
      (endFlushes (if writerWaits s f then s else stallDone s 2 f) f, some e)

/-- One crossing after a seal the reader learns of it (R157). -/
def sealCrossing (x : Fifo) : Fifo :=
  if !x.drainSeen && !x.drain.isEmpty then { x with drainSeen := true }
  else if x.full.isSome then { x with fullSeen := true }
  else x

/-- The writer side learns that the drain bank is empty: a sealed fill bank becomes the drain bank and the
emptied bank the new fill bank; a fill bank that ends with a whole packet seals by the packet-end cause (R153, Tables 7.2
and 7.4, the example of Table 7.7). -/
def bankSwap (pm : Bool) (x : Fifo) : Fifo :=
  if x.drain.isEmpty && !x.knowsEmpty then
    match x.full with
    | some l => newFill pm { x with drain := l, drainSeen := x.fullSeen, full := none, fullSeen := false }
    | none =>
      let x := { x with knowsEmpty := true }
      if !x.fill.isEmpty && !x.inPkt then sealBank pm x else x
  else x

/-- The reader side of FIFO `f` learns of a seal. -/
def fifoSealCrossing (s : State) (f : Nat) : State :=
  let x := fifoOf s f
  if x.sl.open1 then setFifo s f (sealCrossing x) else s

/-- The seal timer expires: the fill bank holds a data entry and the drain bank is known empty (R155). -/
def execFifoSealTimeout (f : Fin 128) (s : State) : Host.Outcome State Fault Refusal :=
  let x := fifoOf s f.val
  let held := match x.slot with
    | some p => decide (p + 1 < x.fill.length) || decide (0 < p)
    | none => !x.fill.isEmpty
  .next (if x.sl.open0 && held && x.knowsEmpty && x.full.isNone && s.get (HNG_FIFO_CTL_seal_to f.val) != 0 then
    setFifo s f.val (sealBank (pmode s f.val) x) else s)

/-! ## Flush and clear (R161 to R163) -/

/-- A write of 1 to flush_pkt: ignored while SEALED, while a clear runs, or merged while one runs. -/
def flushWrite (s : State) (f : Nat) : State :=
  let x := fifoOf s f
  if !fifoOpen x || s.flag (HNG_FIFO_CTL_clear_now f) || !fifoUsed s f then s
  else s.put (HNG_FIFO_CTL_flush_pkt f) 1

/-- A write of 1 to clear_now: ignored while SEALED, merged while one runs (Table 7.8). -/
def clearWrite (s : State) (f : Nat) : State :=
  if !fifoOpen (fifoOf s f) || !fifoUsed s f then s else s.put (HNG_FIFO_CTL_clear_now f) 1

/-- The entries before the point that lies directly after the last entry that ends a packet. -/
def pointIn (pm : Bool) (l : List Entry) : Nat :=
  l.length - (l.reverse.takeWhile (fun e => !endsPacket pm e)).length

/-- The entries not yet read, sealed banks first. -/
def unread (x : Fifo) : List Entry := x.drain ++ x.full.getD [] ++ (if x.full.isSome then [] else x.fill)

/-- The writer side fixes the flush point (R161 step 1). -/
def flushPoint (s : State) (f : Nat) : State :=
  let x := fifoOf s f
  if s.flag (HNG_FIFO_CTL_flush_pkt f) && x.flushAt.isNone && fifoOpen x then
    setFifo s f { x with flushAt := some (pointIn (pmode s f) (unread x)), cleared := false }
  else s

/-- Keep entries `[a, b)` out of the unread entries, bank by bank. -/
def cutRange (x : Fifo) (a b : Nat) : Fifo :=
  let cut := fun (off : Nat) (l : List Entry) => l.take (a - off) ++ l.drop (max (a - off) (b - off))
  let n1 := x.drain.length
  match x.full with
  | some l => { x with drain := cut 0 x.drain, full := some (cut n1 l) }
  | none =>
    let fill := cut n1 x.fill
    { x with drain := cut 0 x.drain, fill := fill,
             slot := x.slot.map (fun p => p - (x.fill.length - fill.length)) }

/-- The reader side learns the flush point: it discards every packet wholly before it that the reader has
not begun, and finishes the one it is inside (R161 steps 2 and 3). -/
def flushReader (s : State) (f : Nat) : State :=
  let x := fifoOf s f
  match x.flushAt with
  | none => s
  | some n =>
    if x.cleared then s
    else
      let l := (unread x).take n
      let keep := if s.flag (HNG_FIFO_STAT_rmid f) then
          min n ((l.takeWhile (fun e => !endsPacket (pmode s f) e)).length + 1) else 0
      let s := s.bump (HNG_FIFO_CNT_disc_flush f) (n - keep)
      endFlushes (setFifo s f { cutRange x keep n with flushAt := some keep, cleared := true }) f

/-- The writer side fixes the clear point and empties its fill bank; inside a packet it drops the rest of
that packet (R162). -/
def clearPoint (s : State) (f : Nat) : State :=
  let x := fifoOf s f
  if s.flag (HNG_FIFO_CTL_clear_now f) && x.clearAt.isNone && !x.abortOwed && fifoOpen x then
    let s := s.bump (HNG_FIFO_CNT_disc_flush f) (if x.full.isSome then 0 else x.fill.length)
    let s := s.put (HNG_FIFO_STAT_wdrop f) (b2n (x.inPkt || s.flag (HNG_FIFO_STAT_wdrop f)))
    setFifo s f { x with fill := [], slot := none, inPkt := false, later := false, flushAt := none,
                         clearAt := some (x.drain.length + (x.full.getD []).length) }
  else s

/-- The reader side discards every entry before the clear point; inside a packet it is owed one abort
entry; otherwise the clear is complete (R162). -/
def clearReader (s : State) (f : Nat) : State :=
  let x := fifoOf s f
  match x.clearAt with
  | none => s
  | some n =>
    let s := s.bump (HNG_FIFO_CNT_disc_flush f) n
    let y := { cutRange x 0 n with clearAt := none, abortOwed := s.flag (HNG_FIFO_STAT_rmid f) }
    let s := setFifo s f y
    if y.abortOwed then s
    else (s.put (HNG_FIFO_CTL_clear_now f) 0).put (HNG_FIFO_CTL_flush_pkt f) 0

def execFifoFlushPkt (f : Fin 128) (s : State) : Host.Outcome State Fault Refusal := .next (flushWrite s f.val)

def execFifoFlushPoint (f : Fin 128) (s : State) : Host.Outcome State Fault Refusal := .next (flushPoint s f.val)

def execFifoFlushReader (f : Fin 128) (s : State) : Host.Outcome State Fault Refusal := .next (flushReader s f.val)

def execFifoClearNow (f : Fin 128) (s : State) : Host.Outcome State Fault Refusal := .next (clearWrite s f.val)

def execFifoClearPoint (f : Fin 128) (s : State) : Host.Outcome State Fault Refusal := .next (clearPoint s f.val)

def execFifoClearReader (f : Fin 128) (s : State) : Host.Outcome State Fault Refusal := .next (clearReader s f.val)

def execFifoCntClear (f : Fin 128) (s : State) : Host.Outcome State Fault Refusal :=
  .next (s.setWord (HNG_FIFO_CNT f.val) 0)

/-- A write that changes seal_to or seal_pre restarts the seal timer, which this model does not count
(R155, DESIGN CHOICE, log entry 2). -/
def execFifoSealToWrite (f : Fin 128) (sealPre : Bool) (sealTo : BitVec 24) (s : State) :
    Host.Outcome State Fault Refusal :=
  .next ((s.put (HNG_FIFO_CTL_seal_pre f.val) (b2n sealPre)).put (HNG_FIFO_CTL_seal_to f.val) sealTo.toNat)

/-! ## Seals (R164) -/

/-- Data entries in a bank: in packet mode length words and slots do not count. -/
def dataCount (pm : Bool) (l : List Entry) : Nat :=
  if pm then (l.filter (fun e => !(e.a && !e.e))).length else l.length

/-- The entries that an SDRAM channel waits to hand to response FIFO `f` go to the sealed FIFO, which counts them
(Table 10.12): their number. -/
def dramWaiting (s : State) (f : Nat) : Nat :=
  if 48 ≤ f ∧ f < 80 ∧ 8 ≤ f % 16 then
    ((tget (fun _ => []) (tget (fun _ => Dram.init) s.dram ((f - 48) / 16)).out (f % 16 - 8)).flatMap (·.2)).length
  else 0

/-- R129, R263: those waiting entries are removed with the rest. -/
def dropWaiting (s : State) (f : Nat) : State :=
  if 48 ≤ f ∧ f < 80 ∧ 8 ≤ f % 16 then
    let c := (f - 48) / 16
    let x := tget (fun _ => Dram.init) s.dram c
    { s with dram := tput (fun _ => Dram.init) s.dram c { x with out := tput (fun _ => []) x.out (f % 16 - 8) [] } }
  else s

/-- A seal discards every stored entry, its length slots and any writer drop, and ends a flush or clear;
bank 0 is the fill bank and seq restarts at 0 (R163, R164). A data entry that a resetting fabric reader presented counts
with them (R140). What the MGC had still to push of a request goes with it. -/
def fifoDiscard (s : State) (f : Nat) : State :=
  let x := fifoOf s f
  let pm := pmode s f
  let n := dataCount pm (unread x) + dramWaiting s f + b2n (s.hng.removed.contains (.fifo (Fin.ofNat _ f)))
  let s := dropWaiting s f
  let s := s.bump (HNG_FIFO_CNT_disc_seal f) n
  let s := (s.put (HNG_FIFO_CTL_flush_pkt f) 0).put (HNG_FIFO_CTL_clear_now f) 0
  let s := (s.put (HNG_FIFO_STAT_wdrop f) 0).put (HNG_FIFO_STAT_rmid f) 0
  let s := setFifo s f { Fifo.init with sl := x.sl }
  let s := if s.flag MGC_PUB_PORT_en ∧ f = 80 + s.get MGC_PUB_PORT_g_req then
      { s with mgc := { s.mgc with pubOut := [] } } else s
  if 0 < n ∧ s.flag (HNG_FIFO_CFG_disc_em f) = true then
    raise s 0x2105 (packWord [(34, 2), (23, f), (5, n)])
  else s

/-! ## Mailboxes (R167) -/

/-- Mailbox `g` is an end of the publication port, where firmware's pushes and pops have no effect (R401). -/
def publication (s : State) (g : Nat) : Bool :=
  s.flag MGC_PUB_PORT_en && (s.get MGC_PUB_PORT_g_req == g || s.get MGC_PUB_PORT_g_rsp == g)

/-- Firmware pushes MBD with e and a into a mailbox writer FIFO; ok tells whether it was accepted. -/
def mailboxPush (s : State) (g : Nat) (e a : Bool) : State :=
  let s := (s.put (HNG_FIFO_MBC_e g) (b2n e)).put (HNG_FIFO_MBC_a g) (b2n a)
  if fifoUsed s (80 + g) && s.get (HNG_FIFO_CFG_wkind (80 + g)) == 3 && !publication s g then
    let r := fifoPush s (80 + g) ⟨s.word (HNG_FIFO_MBD g), e, a⟩
    r.1.put (HNG_FIFO_MBC_ok g) (b2n r.2)
  else s.put (HNG_FIFO_MBC_ok g) 0

/-- Firmware pops the next entry of a mailbox reader FIFO into MBD, e and a. -/
def mailboxPop (s : State) (g : Nat) : State :=
  if fifoUsed s (80 + g) && s.get (HNG_FIFO_CFG_rkind (80 + g)) == 3 && !publication s g then
    match fifoPop s (80 + g) with
    | (s, none) => s.put (HNG_FIFO_MBC_ok g) 0
    | (s, some e) =>
      (((s.setWord (HNG_FIFO_MBD g) e.data).put (HNG_FIFO_MBC_e g) (b2n e.e)).put
        (HNG_FIFO_MBC_a g) (b2n e.a)).put (HNG_FIFO_MBC_ok g) 1
  else s.put (HNG_FIFO_MBC_ok g) 0

def execMailboxPush (g : Fin 48) (e a : Bool) (s : State) : Host.Outcome State Fault Refusal :=
  .next (mailboxPush s g.val e a)

def execMailboxPop (g : Fin 48) (s : State) : Host.Outcome State Fault Refusal := .next (mailboxPop s g.val)

end Sys2Proof.Machine
end

