-- ==== Sys2Proof/Machine/Hinge.lean ====
section
/-! DEFINITION. Hinge: event, word and control hinges, sealing and re-seat, side resets, user clocks and
the stall watch (06). -/
namespace Sys2Proof.Machine
open Sys2Proof

/-! ## Access -/

/-- Event hinge `i`. -/
def evOf (s : State) (i : Nat) : EvHinge := tget (fun _ => EvHinge.init) s.hng.ev i

/-- Set event hinge `i`. -/
def setEv (s : State) (i : Nat) (e : EvHinge) : State :=
  { s with hng := { s.hng with ev := tput (fun _ => EvHinge.init) s.hng.ev i e } }

/-- Word hinge `j`. -/
def wdOf (s : State) (j : Nat) : WdHinge := tget (fun _ => WdHinge.init) s.hng.wd j

/-- Set word hinge `j`. -/
def setWd (s : State) (j : Nat) (w : WdHinge) : State :=
  { s with hng := { s.hng with wd := tput (fun _ => WdHinge.init) s.hng.wd j w } }

/-- Event hinge `i` is assigned by the stream (R120). -/
def evUsed (s : State) (i : Nat) : Bool := s.get (HNG_EV_CFG_host i) != 63

/-- Word hinge `j` is assigned by the stream. -/
def wdUsed (s : State) (j : Nat) : Bool := s.get (HNG_WD_CFG_host j) != 63

/-- Event hinge `i` carries events out of the fabric: those of Table 6.1 as it states, a general-purpose one as the stream
sets. -/
def evOut (s : State) (i : Nat) : Bool :=
  if i < 864 then true
  else if 936 ≤ i ∧ i < 984 then decide (6 ≤ i % 8)
  else if 1048 ≤ i ∧ i < 1080 then true
  else if i < 1080 then false
  else s.flag (HNG_EV_CFG_dir i)

/-- The clocked side of event hinge `i`: clk and clk_arg of Table 6.4, from Table 6.1 or, of a general-purpose hinge, from
the stream. Cord k's lane clock is that of its lane 4k (DEDUCED, log entry 68). -/
def evClock (s : State) (i : Nat) : Nat × Nat :=
  if i < 888 then (0, 0)
  else if i < 936 then (5, (i - 888) / 2)
  else if i < 984 then (5, 4 * ((i - 936) / 8))
  else if i < 1000 then (1, 0)
  else if i < 1016 then (4, 0)
  else if i < 1080 then (3, 0)
  else (s.get (HNG_EV_CFG_clk i), s.get (HNG_EV_CFG_clk_arg i))

/-- Word hinge `j` carries its value out of the fabric (Table 6.2). -/
def wdOut (s : State) (j : Nat) : Bool := decide (54 ≤ j) && s.flag (HNG_WD_CFG_dir j)

/-- The clocked side of word hinge `j` (Tables 6.2 and 6.4). -/
def wdClock (s : State) (j : Nat) : Nat × Nat :=
  if j < 8 then (0, 0)
  else if j < 14 then (5, 4 * (j - 8))
  else if j < 54 then (4, 0)
  else (s.get (HNG_WD_CFG_clk j), s.get (HNG_WD_CFG_clk_arg j))

/-- The clock of a clocked side of FIFO `f`, the reader's where `side` is true (Tables 6.4 and 7.1). -/
def fifoClock (s : State) (f : Nat) (side : Bool) : Nat × Nat :=
  if f < 48 then (5, f / 2)
  else if f < 80 then (2, 0)
  else if side then (s.get (HNG_FIFO_CLK_rclk f), s.get (HNG_FIFO_CLK_rclk_arg f))
  else (s.get (HNG_FIFO_CLK_wclk f), s.get (HNG_FIFO_CLK_wclk_arg f))

/-- The hinge port producer of event hinge `i` (into the fabric). -/
def evSrc (s : State) (i : Nat) : Src :=
  .hinge (Fin.ofNat _ (s.get (HNG_EV_CFG_host i))) (Fin.ofNat _ (s.get (HNG_EV_CFG_base i)))

/-- HNG_EV_STAT_i.state as it reads (Table 6.18). -/
def evState (s : State) (i : Nat) : Nat :=
  let e := evOf s i
  if s.cfg.everCommitted && !evUsed s i then 3
  else if !(e.sl.open0 && e.sl.open1) then 2
  else if e.snd != .idle then 1 else 0

/-- HNG_WD_STAT_j.state as it reads (Table 6.20). -/
def wdState (s : State) (j : Nat) : Nat :=
  let w := wdOf s j
  if s.cfg.everCommitted && !wdUsed s j then 3
  else if !(w.sl.open0 && w.sl.open1) then 2
  else if w.hold then 1 else 0

/-- HNG_CTLH_STAT.state as it reads (Table 6.29). -/
def ctlState (s : State) : Nat :=
  if s.cfg.everCommitted && s.get HNG_CTLH_CFG_host == 63 then 3
  else if !(s.hng.ctlSeal.open0 && s.hng.ctlSeal.open1) then 2
  else if s.hng.ctlReq.isSome || s.hng.ctlDone.isSome || s.hng.ctlResp.isSome then 1 else 0

/-! ## Event hinges (R125 to R128) -/

/-- A doorbell's bit of MGC_DB_OUT falls once its hinge holds no crossing (R400). -/
def doorbellDone (s : State) (i : Nat) : State :=
  if 1016 ≤ i ∧ i < 1048 then s.putBit MGC_DB_OUT_ring (i - 1016) false else s

/-- An event merges into a set pending slot: counted, MERGED set, and 2102h when the flag rises with
merge_em = 1 (R127, R146). -/
def mergeEvent (s : State) (i : Nat) : State :=
  let was := s.flag (HNG_EV_STAT_merged i)
  let s := s.bump (HNG_EV_STAT_mcount i) 1
  let s := s.put (HNG_EV_STAT_merged i) 1
  if !was && s.flag (HNG_EV_CFG_merge_em i) then raise s 0x2102 (packWord [(23, i)]) else s

/-- A valid token stands at the port of event hinge `i` out of the fabric. -/
def eventToken (s : State) (i : Nat) : Bool :=
  (tokenAt s (s.get (HNG_EV_CFG_host i)) (s.get (HNG_EV_CFG_base i)) [.event]).isSome

/-- The fabric token at an event hinge out of the fabric is acknowledged (R125). -/
def takeEvent (s : State) (i : Nat) : State :=
  if evOut s i then takeAt s (s.get (HNG_EV_CFG_host i)) (s.get (HNG_EV_CFG_base i)) [.event] else s

/-- The side that sends on event hinge `i` is open. -/
def senderOpen (s : State) (i : Nat) : Bool :=
  let e := evOf s i
  if evOut s i then e.sl.open0 else e.sl.open1

/-- An event reaches the sender of event hinge `i` (Table 6.6): at a fabric sender it is the valid token at its port. While
SEALED a clocked sender refuses and counts it, and a fabric sender leaves the token unacknowledged. -/
def offerEvent (s : State) (i : Nat) : State :=
  if !evUsed s i then doorbellDone s i
  else if evOut s i && !eventToken s i then s
  else if !senderOpen s i then
    if evOut s i then s else doorbellDone (s.bump (HNG_EV_STAT_refused i) 1) i
  else
    let e := evOf s i
    let s := takeEvent s i
    match e.snd with
    | .idle => setEv s i { e with req := true, snd := .request }
    | .request | .release =>
      if s.flag (HNG_EV_STAT_pending i) then mergeEvent s i else s.put (HNG_EV_STAT_pending i) 1

/-- The sender sees ACK high and lowers REQ (Table 6.6). -/
def eventAckSeen (s : State) (i : Nat) : State :=
  let e := evOf s i
  if e.snd = .request ∧ e.ack = true then setEv s i { e with req := false, snd := .release } else s

/-- The event is taken: the receiver raises ACK, on the fabric side once the fabric consumer has acknowledged the token
(R125, Table 6.7). -/
def eventTaken (s : State) (i : Nat) : State :=
  let e := evOf s i
  if e.rcv = .deliver ∧ (evOut s i || joinOf s (evSrc s i)) = true then setEv s i { e with ack := true, rcv := .held } else s

/-- The receiver sees REQ low, with its fabric channel in phase 0, and lowers ACK (Table 6.7). -/
def eventReqLow (s : State) (i : Nat) : State :=
  let e := evOf s i
  if e.rcv = .held ∧ e.req = false ∧ (evOut s i || phase0 s (evSrc s i)) = true then
    setEv s i { e with ack := false, rcv := .wait }
  else s

/-- The sender sees ACK low: the crossing completes, and a set pending slot starts the next (R127). -/
def eventComplete (s : State) (i : Nat) : State :=
  let e := evOf s i
  if e.snd = .release ∧ e.ack = false then
    let s := stallDone s 0 i
    if s.flag (HNG_EV_STAT_pending i) then
      setEv (s.put (HNG_EV_STAT_pending i) 0) i { e with req := true, snd := .request }
    else doorbellDone (setEv s i { e with snd := .idle }) i
  else s

def execEventTaken (i : Fin 1152) (s : State) : Host.Outcome State Fault Refusal := .next (eventTaken s i.val)

def execEventAckSeen (i : Fin 1152) (s : State) : Host.Outcome State Fault Refusal := .next (eventAckSeen s i.val)

def execEventReqLowSeen (i : Fin 1152) (s : State) : Host.Outcome State Fault Refusal :=
  .next (eventReqLow s i.val)

def execEventCrossingComplete (i : Fin 1152) (s : State) : Host.Outcome State Fault Refusal :=
  .next (eventComplete s i.val)

/-! ## Word hinges (R130 to R134) -/

/-- The width w of word hinge `j`; hard sources have the width of Table 6.2. -/
def wdWidth (s : State) (j : Nat) : Nat :=
  if j < 14 then 36 else if j < 50 then 6 else if j < 54 then 10 else s.get (HNG_WD_CFG_width j)

/-- The Gray code of a binary value (R130). -/
def grayOf (v : W36) : W36 := v ^^^ (v >>> 1)

/-- The binary value of a Gray code. -/
def binOf (g : W36) : W36 :=
  let g := g ^^^ (g >>> 1)
  let g := g ^^^ (g >>> 2)
  let g := g ^^^ (g >>> 4)
  let g := g ^^^ (g >>> 8)
  let g := g ^^^ (g >>> 16)
  g ^^^ (g >>> 32)

/-- The low `w` bits of a value. -/
def lowBits (w : Nat) (v : W36) : W36 := BitVec.ofNat 36 (v.toNat % 2 ^ w)

/-- Two values differ by at most one step modulo 2^w (R130). -/
def oneStep (w : Nat) (a b : W36) : Bool :=
  let d := (a.toNat + 2 ^ w - b.toNat % 2 ^ w) % 2 ^ w
  d == 0 || d == 1 || d + 1 == 2 ^ w

/-- A jump or a step fault: counted, its flag set, and 2103h with jump_em = 1 (R132, R134, R146). -/
def countJump (s : State) (j : Nat) : State :=
  let s := s.bump (HNG_WD_STAT_jcount j) 1
  let s := s.put (HNG_WD_STAT_jump j) 1
  if s.flag (HNG_WD_CFG_jump_em j) then
    raise s 0x2103 (packWord [(34, 1), (23, j), (22, b2n (wdOut s j))])
  else s

/-- The first port and the number of ports of a word hinge's value channel (Table 6.3). -/
def wdPorts (s : State) (j : Nat) : Nat × Nat :=
  let b := s.get (HNG_WD_CFG_base j)
  let n := (wdWidth s j + 1) / 2
  if !wdOut s j && !s.flag (HNG_WD_CFG_mode j) then (b + 1, n) else (b, n)

/-- The hinge presents its visible value at its host's ports (R133). -/
def wdPresent (s : State) (j : Nat) : State :=
  let p := wdPorts s j
  let v := s.word (HNG_WD_VAL j)
  let s := presentAt s (s.get (HNG_WD_CFG_host j)) p.1 p.2 v.toNat
  setWd s j { wdOf s j with last := some v, notice := false }

/-- An on-change hinge presents its visible value if its channel is free and the value differs from the
last one delivered; otherwise the notice waits (R133). -/
def wdNotify (s : State) (j : Nat) : State :=
  let w := wdOf s j
  let p := wdPorts s j
  if !(w.sl.open0 && w.sl.open1) then s
  else if w.last = some (s.word (HNG_WD_VAL j)) then setWd s j { w with notice := false }
  else if portsIdle s (s.get (HNG_WD_CFG_host j)) p.1 p.2 then wdPresent s j
  else setWd s j { w with notice := true }

/-- The change notices that wait for a channel to return to phase 0 (R133). -/
def wdNotices (s : State) : State :=
  s.hng.wd.foldl (fun s e => if (wdOf s e.1).notice then wdNotify s e.1 else s) s

/-- What the source of word hinge `j` holds (Table 6.2): bits [4j + 35 : 4j] of the timebase, the ring-cycle count of an
engine, or the stretch level of a hearth. The sensors' and the pins' value comes from outside. -/
def wordSource (s : State) (j : Nat) (v : W36) : W36 :=
  if j < 8 then BitVec.ofNat 36 (s.timebase.toNat >>> (4 * j))
  else if j < 14 then (tget (fun _ => Kwr.init) s.kwr (j - 8)).cycleNo
  else if j < 50 then BitVec.ofNat 36 (bitsOf (s.word (FAB_GOV_LVL ((j - 14) / 6))) (6 * ((j - 14) % 6)) 6)
  else v

/-- The clocked source writes its value into the Gray register (R131, R132). W0 to W7 take it whole and
show it at once; every other hinge holds the visible value while a jump stands. -/
def wordWrite (s : State) (j : Nat) (v : W36) : State :=
  let w := wdOf s j
  let wid := wdWidth s j
  let v := lowBits wid (wordSource s j v)
  if wdOut s j || !wdUsed s j then s
  else if j < 8 then
    let changed := v != s.word (HNG_WD_VAL j)
    let s := (setWd s j { w with gray := grayOf v }).setWord (HNG_WD_VAL j) v
    if changed && s.flag (HNG_WD_CFG_mode j) then wdNotify s j else s
  else if oneStep wid v (binOf w.gray) then setWd s j { w with gray := grayOf v }
  else countJump (setWd s j { w with gray := grayOf v, hold := true }) j

/-- The timebase writes the register of each of its views (R131). -/
def timebaseViews (s : State) : State := (List.range 8).foldl (fun s j => wordWrite s j 0) s

/-- A step of the timebase is written to its views, and each counts it once (R131). -/
def timebaseJump (s : State) : State :=
  (List.range 8).foldl (fun s j =>
    if wdUsed s j && !wdOut s j then countJump s j else s) (timebaseViews s)

/-- The register has held its value for two periods: it becomes visible, and an on-change hinge sends a
change notice when the visible value changes (R132, R133). -/
def wordVisible (s : State) (j : Nat) : State :=
  let w := wdOf s j
  if wdOut s j || !wdUsed s j then s
  else
    let v := binOf w.gray
    let changed := v != s.word (HNG_WD_VAL j)
    let s := (setWd s j { w with hold := false }).setWord (HNG_WD_VAL j) v
    if changed && s.flag (HNG_WD_CFG_mode j) then wdNotify s j else s

/-- A sample request, the valid token at its channel, returns one token with the visible value, once the value channel is
free; a sealed hinge leaves the request waiting (R133, Table 6.14). -/
def wordSample (s : State) (j : Nat) : State :=
  let w := wdOf s j
  let h := s.get (HNG_WD_CFG_host j)
  let p := wdPorts s j
  if wdUsed s j && !wdOut s j && !s.flag (HNG_WD_CFG_mode j) && w.sl.open0 && w.sl.open1
      && portsIdle s h p.1 p.2 && (tokenAt s h (s.get (HNG_WD_CFG_base j)) [.event]).isSome then
    takeAt (wdPresent s j) h (s.get (HNG_WD_CFG_base j)) [.event]
  else s

/-- The digits of the valid value token at the ports of word hinge `j` out of the fabric. -/
def valueToken (s : State) (j : Nat) : Option (List Digit) :=
  tokenAt s (s.get (HNG_WD_CFG_host j)) (s.get (HNG_WD_CFG_base j)) (valueKinds (wdWidth s j))

/-- A value token arrives at a word hinge out of the fabric and waits for the permit; while SEALED it
waits unacknowledged (R134, Table 6.14). -/
def wordToken (s : State) (j : Nat) : State :=
  let w := wdOf s j
  if wdUsed s j && wdOut s j && w.waiting.isNone then
    match valueToken s j with
    | some l => setWd s j { w with waiting := some (lowBits (wdWidth s j) (BitVec.ofNat 36 (digitsNat l))) }
    | none => s
  else s

/-- At a permit the hinge writes the waiting token's value and acknowledges the token; a token more than
one step away lowers valid and counts a jump, and the endpoint holds its last value (R134). -/
def wordOutWrite (s : State) (j : Nat) : State :=
  let w := wdOf s j
  match w.waiting with
  | none => s
  | some v =>
    if !(w.sl.open0 && w.sl.open1) then s
    else
      let s := takeAt s (s.get (HNG_WD_CFG_host j)) (s.get (HNG_WD_CFG_base j)) (valueKinds (wdWidth s j))
      let s := stallDone s 1 j
      let w := { w with waiting := none }
      if v = binOf w.gray then setWd s j w
      else if oneStep (wdWidth s j) v (binOf w.gray) then
        (setWd s j { w with gray := grayOf v, endpoint := if w.hold then w.endpoint else v }).setWord
          (HNG_WD_VAL j) v
      else
        countJump ((setWd s j { w with gray := grayOf v, hold := true }).setWord (HNG_WD_VAL j) v) j

/-- n + 1 periods after a step fault valid rises and the endpoint takes the new value, unless the clocked side is SEALED,
where valid stays low (R134, Table 6.14). -/
def wordValid (s : State) (j : Nat) : State :=
  let w := wdOf s j
  if wdOut s j && w.hold && w.sl.open1 then setWd s j { w with hold := false, endpoint := binOf w.gray } else s

def execWordValueWrite (j : Fin 288) (v : W36) (s : State) : Host.Outcome State Fault Refusal :=
  .next (wordWrite s j.val v)

def execWordValueVisible (j : Fin 288) (s : State) : Host.Outcome State Fault Refusal := .next (wordVisible s j.val)

def execWordOutToken (j : Fin 288) (s : State) : Host.Outcome State Fault Refusal := .next (wordToken s j.val)

def execWordValidRestore (j : Fin 288) (s : State) : Host.Outcome State Fault Refusal := .next (wordValid s j.val)

/-! ## Control hinge requests (R135, R136); the access itself is in RegWrite -/

/-- The stream assigns the control hinge. -/
def hingeHosted (s : State) : Bool := s.get HNG_CTLH_CFG_host != 63

/-- The control hinge is assigned and OPEN (Table 6.29). -/
def ctlOpen (s : State) : Bool := hingeHosted s && s.hng.ctlSeal.open0 && s.hng.ctlSeal.open1

/-- Once the response has completed phase 2 the hinge takes the next request (R135). -/
def ctlRelease (s : State) : State :=
  let h := s.get HNG_CTLH_CFG_host
  let b := s.get HNG_CTLH_CFG_base + 49
  if s.hng.ctlResp.isSome && (hingeSrcs h b 19).all (joinOf s) then
    stallDone { s with hng := { s.hng with ctlResp := none } } 3 0
  else s

/-- The request that the digits of the control hinge's 49 positions spell (Table 6.11). -/
def ctlRequestOf (l : List Digit) : CtlRequest :=
  ⟨BitVec.ofNat 2 (digitsNat (l.take 1)), BitVec.ofNat 24 (digitsNat ((l.drop 1).take 12)),
    BitVec.ofNat 36 (digitsNat ((l.drop 13).take 18)), BitVec.ofNat 36 (digitsNat (l.drop 31))⟩

/-- The valid request at the control hinge's port. -/
def ctlToken (s : State) : Option CtlRequest :=
  (tokenAt s (s.get HNG_CTLH_CFG_host) (s.get HNG_CTLH_CFG_base) (List.replicate 49 .digit)).map ctlRequestOf

/-- The control hinge captures the request with op `op` that is valid at its port and acknowledges its 49 positions, one
request at a time; while SEALED or busy the request waits (R135, Table 6.14). -/
def ctlCapture (s : State) (op : BitVec 2) : State :=
  match ctlToken s with
  | none => s
  | some r =>
    if r.op = op ∧ (hingeHosted s && s.hng.ctlSeal.open0 && s.hng.ctlReq.isNone && s.hng.ctlDone.isNone &&
        s.hng.ctlResp.isNone) = true then
      takeAt { s with hng := { s.hng with ctlReq := some r } } (s.get HNG_CTLH_CFG_host) (s.get HNG_CTLH_CFG_base)
        (List.replicate 49 .digit)
    else s

/-- The open hinge presents the response of the access performed, on 19 positions after the 49 of the request, once they
are free (Tables 6.3, 6.14). -/
def ctlRespond (s : State) : State :=
  match s.hng.ctlDone with
  | none => s
  | some r =>
    let h := s.get HNG_CTLH_CFG_host
    let b := s.get HNG_CTLH_CFG_base + 49
    if s.hng.ctlSeal.open0 && portsIdle s h b 19 then
      presentAt { s with hng := { s.hng with ctlDone := none, ctlResp := some r } } h b 19
        (r.data.toNat + r.status.toNat * 2 ^ 36)
    else s

def execCtlhResponse (s : State) : Host.Outcome State Fault Refusal := .next (ctlRespond s)

/-- A stalled word hinge or FIFO whose token at the fabric has been taken stalls no longer (R143, R165). -/
def stallsTaken (s : State) : State :=
  s.hng.stalls.foldl (fun s e =>
    if e.1 = 1 then
      let p := wdPorts s e.2
      if !wdOut s e.2 && (wdOf s e.2).sl.open0 && (wdOf s e.2).sl.open1 && !presentsAt s (s.get (HNG_WD_CFG_host e.2)) p.1 p.2 then stallDone s 1 e.2 else s
    else if e.1 = 2 ∧ s.get (HNG_FIFO_CFG_rkind e.2) = 0 ∧ writerWaits s e.2 = false ∧
        presentsAt s (s.get (HNG_FIFO_CFG_host e.2)) (s.get (HNG_FIFO_CFG_base e.2)) 19 = false then stallDone s 2 e.2
    else s) s

/-- Consumers have acknowledged: a response taken frees the control hinge, and stalls whose tokens are taken close. -/
def tokensTaken (s : State) : State := stallsTaken (ctlRelease s)

/-! ## Commands that acknowledge fabric tokens -/

def execEventOffered (i : Fin 1152) (s : State) : Host.Outcome State Fault Refusal :=
  .next (tokensTaken (offerEvent s i.val))

def execWordSampleRequest (j : Fin 288) (s : State) : Host.Outcome State Fault Refusal :=
  .next (tokensTaken (wordSample s j.val))

def execWordOutWrite (j : Fin 288) (s : State) : Host.Outcome State Fault Refusal :=
  .next (tokensTaken (wordOutWrite s j.val))

def execFifoPush (f : Fin 128) (e : Entry) (s : State) : Host.Outcome State Fault Refusal :=
  .next (tokensTaken (writerPush s f.val e))

def execCtlhRead (s : State) : Host.Outcome State Fault Refusal := .next (tokensTaken (ctlCapture s 0))

def execCtlhWrite (s : State) : Host.Outcome State Fault Refusal := .next (tokensTaken (ctlCapture s 1))

def execCtlhMaskedWrite (s : State) : Host.Outcome State Fault Refusal := .next (tokensTaken (ctlCapture s 2))

def execCtlhReservedOp (s : State) : Host.Outcome State Fault Refusal := .next (tokensTaken (ctlCapture s 3))

/-! ## Seals (R138 to R142) -/

/-- Every hinge of the belt. -/
def allHinges : List HingeId :=
  (List.finRange 1152).map .ev ++ (List.finRange 288).map .wd ++ (List.finRange 128).map .fifo ++ [.ctl]

/-- The seal of a hinge. -/
def sealOf (s : State) : HingeId → Seal
  | .ev i => (evOf s i.val).sl
  | .wd j => (wdOf s j.val).sl
  | .fifo f => (fifoOf s f.val).sl
  | .ctl => s.hng.ctlSeal

/-- Set the seal of a hinge. -/
def setSeal (s : State) (g : HingeId) (x : Seal) : State :=
  match g with
  | .ev i => setEv s i.val { evOf s i.val with sl := x }
  | .wd j => setWd s j.val { wdOf s j.val with sl := x }
  | .fifo f => setFifo s f.val { fifoOf s f.val with sl := x }
  | .ctl => { s with hng := { s.hng with ctlSeal := x } }

/-- The stream assigns the hinge. -/
def hingeUsed (s : State) : HingeId → Bool
  | .ev i => evUsed s i.val
  | .wd j => wdUsed s j.val
  | .fifo f => fifoUsed s f.val
  | .ctl => hingeHosted s

/-- kind and index of a hinge as HNG_STALL_LAST gives them (Table 6.24). -/
def hingeKind : HingeId → Nat × Nat
  | .ev i => (0, i.val)
  | .wd j => (1, j.val)
  | .fifo f => (2, f.val)
  | .ctl => (3, 0)

/-- The clock of a side is in reset: a clocked domain before its release, a lane that is BANKED or whose
cord PLL is unlocked, a user clock that is not present (Table 6.13). -/
def clockReset (s : State) (clk arg : Nat) : Bool :=
  if clk < 5 then !s.pwr.clocked
  else if clk = 5 then
    !s.pwr.clocked || s.flag SCB_JTAG_ext || s.get (LNE_STAT_pwr_act arg) == 2 || !s.flag (LNE_CORD_CFG_pll_lock (arg / 4))
  else if clk = 6 then !s.pwr.clocked || !s.flag (HNG_UCLK_present arg)
  else true

/-- The host hearth is not awake (Table 6.13). -/
def hostReset (s : State) (h : Nat) : Bool := hearthSt s h != .awake

/-- Whether a side of a hinge meets a seal cause now (Table 6.13). -/
def sideInReset (s : State) (g : HingeId) (side : Bool) : Bool :=
  match g with
  | .ev i =>
    if side then s.hng.sideRst.contains g || clockReset s (evClock s i.val).1 (evClock s i.val).2
    else hostReset s (s.get (HNG_EV_CFG_host i.val))
  | .wd j =>
    if side then s.hng.sideRst.contains g || clockReset s (wdClock s j.val).1 (wdClock s j.val).2
    else hostReset s (s.get (HNG_WD_CFG_host j.val))
  | .ctl =>
    if side then s.hng.sideRst.contains g || !s.pwr.clocked
    else hostReset s (s.get HNG_CTLH_CFG_host)
  | .fifo f =>
    let kind := if side then s.get (HNG_FIFO_CFG_rkind f.val) else s.get (HNG_FIFO_CFG_wkind f.val)
    if kind = 0 then hostReset s (s.get (HNG_FIFO_CFG_host f.val))
    else
      let clk := fifoClock s f.val side
      s.hng.sideRst.contains g || clockReset s clk.1 clk.2 || dramFifoSealed s f.val

/-- The fabric side of an open hinge hosted by a hearth that `p` picks presents a value token, or a FIFO's data entry, that
is not taken (R140, Table 7.6). Events in delivery show in their hinge's own state. -/
def showsToken (s : State) (p : Nat → Bool) : HingeId → Bool
  | .wd j =>
    let h := s.get (HNG_WD_CFG_host j.val)
    let q := wdPorts s j.val
    p h && !wdOut s j.val && !(wdOf s j.val).sl.line0 && presentsAt s h q.1 q.2
  | .fifo f =>
    let h := s.get (HNG_FIFO_CFG_host f.val)
    let b := s.get (HNG_FIFO_CFG_base f.val)
    p h && s.get (HNG_FIFO_CFG_rkind f.val) == 0 && !(fifoOf s f.val).sl.line1 && presentsAt s h b 19 &&
    !(pmode s f.val && drivenBy s (.hinge (Fin.ofNat _ h) (Fin.ofNat _ (b + 18))) == railsOf 2)
  | .ev _ | .ctl => false

/-- The drain of the hearths that `p` picks removes what their hinges present, which counts at the seal (R37, R140). -/
def removeShown (s : State) (p : Nat → Bool) : State :=
  { s with hng := { s.hng with removed := s.hng.removed ++ (allHinges.filter (showsToken s p)) } }

/-- A removed token has been counted. -/
def removedDone (s : State) (g : HingeId) : State :=
  { s with hng := { s.hng with removed := s.hng.removed.filter (· != g) } }

/-- What a seal discards once both sides are sealed (R140): events in flight and pending slots, what the drain has removed
from a word hinge and a value written whose endpoint has not taken it, the control hinge's request and response, and a FIFO's stored entries. -/
def sealDiscard (s : State) (g : HingeId) : State :=
  let s := stallDone s (hingeKind g).1 (hingeKind g).2
  match g with
  | .ev i =>
    let e := evOf s i.val
    let fabricReset := e.sl.rst0
    let inFlight := (e.snd = .request ∧ e.rcv = .wait) ∨ (e.rcv = .deliver ∧ (evOut s i.val || fabricReset) = true)
    let n := b2n (decide inFlight) + s.get (HNG_EV_STAT_pending i.val)
    let s := setEv s i.val { e with req := false, ack := false, snd := .idle, rcv := .wait }
    let s := s.put (HNG_EV_STAT_pending i.val) 0
    doorbellDone (s.bump (HNG_EV_STAT_disc i.val) n) i.val
  | .wd j =>
    let w := wdOf s j.val
    let s := s.bump (HNG_WD_STAT_disc j.val) (b2n (s.hng.removed.contains g) + b2n (wdOut s j.val && w.hold))
    let s := removedDone s g
    let waits := if w.sl.rst0 then none else w.waiting
    setWd s j.val { w with last := none, notice := false, hold := w.hold && !wdOut s j.val, waiting := waits }
  | .ctl => { s with hng := { s.hng with ctlReq := none, ctlDone := none, ctlResp := none } }
  | .fifo f => removedDone (fifoDiscard s f.val) g

/-- The key of an SCB_ISO_VAL entry: hearth, kind, index, hinge class. -/
def isoKey (h kind idx cls : Nat) : Nat := ((h * 4 + kind) * 2048 + idx) * 4 + cls

/-- The level setting of a hinge, hosted by hearth `h`, is read as it seals (R353). -/
def levelTake (s : State) (h cls idx : Nat) : State :=
  let k := isoKey h 2 idx cls
  { s with scb := { s.scb with
    isoNow := tput (fun _ => 0) s.scb.isoNow k (tget (fun _ => 0) s.scb.isoVal k) } }

/-- An open hinge begins to seal: its level setting is read, and a PORT output makes its strobe inactive (R353). -/
def sealLevels (s : State) (g : HingeId) : State :=
  let x := sealOf s g
  if !(x.open0 && x.open1) then s
  else match g with
  | .ev i => levelTake s (s.get (HNG_EV_CFG_host i.val)) 0 i.val
  | .wd j => levelTake s (s.get (HNG_WD_CFG_host j.val)) 1 j.val
  | .fifo f =>
    let s := levelTake s (s.get (HNG_FIFO_CFG_host f.val)) 2 f.val
    if f.val < 80 then s
    else
      let t := s.pins.portOut
      let x := tget (fun _ => PortOut.init) t (f.val - 80)
      { s with pins := { s.pins with portOut := tput (fun _ => PortOut.init) t (f.val - 80) { x with strobe := false } } }
  | .ctl => s

/-- Step 1 of Table 6.15: a side enters reset, goes SEALED and raises its seal line. When the other side
is already sealed the items are discarded at once. -/
def sealSide (s : State) (g : HingeId) (side : Bool) : State :=
  let x := sealOf s g
  let x' := if side then { x with rst1 := true, line1 := true, open1 := false, x1 := true }
            else { x with rst0 := true, line0 := true, open0 := false, x0 := true }
  let s := setSeal (sealLevels s g) g x'
  if (if side then x.line0 else x.line1) then sealDiscard s g else s

/-- A side's reset releases; its seal line stays raised until step 3 (Table 6.15). -/
def unsealSide (s : State) (g : HingeId) (side : Bool) : State :=
  let x := sealOf s g
  setSeal s g (if side then { x with rst1 := false } else { x with rst0 := false })

/-- Bring one hinge's two sides in line with the seal causes that hold now (Table 6.13). -/
def updateSeal (s : State) (g : HingeId) : State :=
  if !hingeUsed s g then s
  else
    let one := fun (s : State) (side : Bool) =>
      let x := sealOf s g
      let was := if side then x.rst1 else x.rst0
      let now := sideInReset s g side
      if now && !was then sealSide s g side else if !now && was then unsealSide s g side else s
    one (one s false) true

/-- Bring every hinge in line with the seal causes that hold now (R18, R138). -/
def updateSeals (s : State) : State := allHinges.foldl updateSeal s

/-- Step 2: the surviving side sees the seal line, goes SEALED, discards the items in flight and raises
its own (R140). -/
def reseatSx (s : State) (g : HingeId) : State :=
  let x := sealOf s g
  if x.line0 && !x.line1 then sealDiscard (setSeal s g { x with line1 := true, open1 := false }) g
  else if x.line1 && !x.line0 then sealDiscard (setSeal s g { x with line0 := true, open0 := false }) g
  else s

/-- Step 3: a side that reset and has left reset sees the other's line high and lowers its own. Side 0
moves first where both reset. -/
def reseatRelease (s : State) (g : HingeId) : State :=
  let x := sealOf s g
  if x.line0 && x.line1 && !x.rst0 && x.x0 then setSeal s g { x with line0 := false, x1 := false }
  else if x.line0 && x.line1 && !x.rst1 && x.x1 then setSeal s g { x with line1 := false, x0 := false }
  else s

/-- Step 4: the other side, out of reset, sees the line low, sets its pointers and pending slot to zero,
lowers its own and opens. -/
def reseatYOpen (s : State) (g : HingeId) : State :=
  let x := sealOf s g
  if x.line1 && !x.line0 && !x.rst1 && !x.open0 && !x.x1 then setSeal s g { x with line1 := false, open1 := true }
  else if x.line0 && !x.line1 && !x.rst0 && !x.open1 && !x.x0 then setSeal s g { x with line0 := false, open0 := true }
  else s

/-- What a word hinge does as it re-seats: into the fabric on-change it presents its value once; out of
the fabric it takes HNG_WD_INIT_j (R133, R353). -/
def reseated (s : State) (g : HingeId) : State :=
  match g with
  | .wd j =>
    if wdOut s j.val then
      let v := s.word (HNG_WD_INIT j.val)
      (setWd s j.val { wdOf s j.val with gray := grayOf v, endpoint := v, hold := false }).setWord (HNG_WD_VAL j.val) v
    else if s.flag (HNG_WD_CFG_mode j.val) then wdNotify s j.val else s
  | .ev _ | .fifo _ | .ctl => s

/-- Step 5: the side that reset sees the line low and opens; the hinge reads OPEN and HNG_SEAL_CNT counts
the re-seat, unless it is the first opening since commit, re-commit or BANKED; the log records a counted
one (R141, R146). -/
def reseatXOpen (s : State) (g : HingeId) : State :=
  let x := sealOf s g
  if !x.line0 && !x.line1 && (x.open0 != x.open1) then
    let s := setSeal s g { x with open0 := true, open1 := true, x0 := false, x1 := false, first := false }
    let s := if x.first then s else logState (s.bump HNG_SEAL_CNT_cnt 1) 2 0x6210 5 (s.get HNG_SEAL_CNT_cnt + 1)
    let s := if s.hng.sideRst.contains g = false ∧ s.flag HNG_SIDE_RST_go = true ∧
        (s.get HNG_SIDE_RST_kind, s.get HNG_SIDE_RST_index) = hingeKind g then s.put HNG_SIDE_RST_go 0 else s
    reseated (stallDone s (hingeKind g).1 (hingeKind g).2) g
  else s

def execReseatSxSeen (g : HingeId) (s : State) : Host.Outcome State Fault Refusal := .next (reseatSx s g)

def execReseatXRelease (g : HingeId) (s : State) : Host.Outcome State Fault Refusal := .next (reseatRelease s g)

def execReseatYOpen (g : HingeId) (s : State) : Host.Outcome State Fault Refusal := .next (reseatYOpen s g)

def execReseatXOpen (g : HingeId) (s : State) : Host.Outcome State Fault Refusal := .next (reseatXOpen s g)

/-! ## Side resets, user clocks, stalls, clears -/

/-- The hinge that HNG_SIDE_RST's kind and index name, if it exists (Table 6.25). -/
def namedHinge (kind idx : Nat) : Option HingeId :=
  match kind with
  | 0 => if h : idx < 1152 then some (.ev ⟨idx, h⟩) else none
  | 1 => if h : idx < 288 then some (.wd ⟨idx, h⟩) else none
  | 2 => if h : idx < 128 then some (.fifo ⟨idx, h⟩) else none
  | _ => if idx = 0 then some .ctl else none

/-- A write to HNG_SIDE_RST: no effect while go reads 1; otherwise it stores kind and index, and a 1 in
go resets the clocked side of the hinge named (Table 6.25). A hinge beyond the count has no effect. -/
def sideReset (s : State) (w : W36) : State :=
  if s.flag HNG_SIDE_RST_go then s
  else
    match namedHinge (bitsOf w 34 2) (bitsOf w 23 11) with
    | none => s
    | some g =>
      let s := (s.put HNG_SIDE_RST_kind (bitsOf w 34 2)).put HNG_SIDE_RST_index (bitsOf w 23 11)
      if bitsOf w 0 1 = 1 ∧ hingeUsed s g = true then
        updateSeal { s.put HNG_SIDE_RST_go 1 with hng := { s.hng with sideRst := g :: s.hng.sideRst } } g
      else s

/-- The clocked side leaves a firmware side reset (Table 6.13). -/
def sideResetEnd (s : State) (g : HingeId) : State :=
  updateSeal { s with hng := { s.hng with sideRst := s.hng.sideRst.filter (· != g) } } g

def execHingeSideReset (w : W36) (s : State) : Host.Outcome State Fault Refusal := .next (sideReset s w)

def execHingeSideResetEnd (g : HingeId) (s : State) : Host.Outcome State Fault Refusal := .next (sideResetEnd s g)

/-- The side whose step of Table 6.15 is next, or the side still in reset: true for side 1 (R143, R165). -/
def sealTurn (x : Seal) : Bool :=
  if x.rst1 && !x.rst0 then true
  else if x.rst0 then false
  else if x.line0 && x.line1 then !x.x0
  else if x.line0 then x.open1 || x.x0
  else if x.line1 then !(x.open0 || x.x1)
  else !x.open1

/-- The host hearth of a hinge. -/
def hostOf (s : State) : HingeId → Nat
  | .ev i => s.get (HNG_EV_CFG_host i.val)
  | .wd j => s.get (HNG_WD_CFG_host j.val)
  | .fifo f => s.get (HNG_FIFO_CFG_host f.val)
  | .ctl => s.get HNG_CTLH_CFG_host

/-- A fabric token waits at a hinge. -/
def tokenWaits (s : State) : HingeId → Bool
  | .ev i => evOut s i.val && eventToken s i.val
  | .wd j =>
    if wdOut s j.val then (valueToken s j.val).isSome
    else !s.flag (HNG_WD_CFG_mode j.val) &&
      (tokenAt s (s.get (HNG_WD_CFG_host j.val)) (s.get (HNG_WD_CFG_base j.val)) [.event]).isSome
  | .fifo f => s.get (HNG_FIFO_CFG_wkind f.val) == 0 && (offeredEntry s f.val).isSome
  | .ctl => (ctlToken s).isSome

/-- The side that must act next on a hinge that is stalled now, whatever the time it has been so: false for the fabric side
or the writer side (R143, Table 7.11). -/
def stalledSide (s : State) (g : HingeId) : Option Bool :=
  let x := sealOf s g
  if !(x.open0 && x.open1) then
    if hearthSt s (hostOf s g) == .awake && tokenWaits s g then some (sealTurn x) else none
  else match g with
    | .ev i =>
      let e := evOf s i.val
      let receiver := (e.req && !e.ack) || (!e.req && e.ack)
      if e.snd = .idle then none else some (receiver == evOut s i.val)
    | .wd j =>
      let p := wdPorts s j.val
      if wdOut s j.val then (if (valueToken s j.val).isSome then some true else none)
      else if presentsAt s (s.get (HNG_WD_CFG_host j.val)) p.1 p.2 then some false else none
    | .fifo f =>
      if writerWaits s f.val || readerWaits s f.val then some true else none
    | .ctl => if s.hng.ctlResp.isSome then some false else none

/-- The side as HNG_STALL_LAST and 2101h give it, 1 for a clocked side: a FIFO's side is that of its end (Table 6.24). -/
def stallPlace (s : State) (g : HingeId) (side : Bool) : Nat :=
  match g with
  | .fifo f => b2n (s.get (if side then HNG_FIFO_CFG_rkind f.val else HNG_FIFO_CFG_wkind f.val) != 0)
  | .ev _ | .wd _ | .ctl => b2n side

/-- The stall watch limit that a hinge selects, in us. -/
def stallLimit (s : State) (g : HingeId) : Nat :=
  s.get (HNG_STALL_LIM_lim (match g with
    | .ev i => s.get (HNG_EV_CFG_stall_sel i.val)
    | .wd j => s.get (HNG_WD_CFG_stall_sel j.val)
    | .fifo f => s.get (HNG_FIFO_CFG_stall_sel f.val)
    | .ctl => s.get HNG_CTLH_CFG_stall_sel))

/-- The stall flag and the side of a hinge's status register. -/
def setStall (s : State) (g : HingeId) (side : Bool) : State :=
  match g with
  | .ev i => (s.put (HNG_EV_STAT_stall i.val) 1).put (HNG_EV_STAT_stall_side i.val) (b2n side)
  | .wd j => (s.put (HNG_WD_STAT_stall j.val) 1).put (HNG_WD_STAT_stall_side j.val) (b2n side)
  | .fifo f => (s.put (HNG_FIFO_STAT_stall f.val) 1).put (HNG_FIFO_STAT_stall_side f.val) (b2n side)
  | .ctl => (s.put HNG_CTLH_STAT_stall 1).put HNG_CTLH_STAT_stall_side (b2n side)

/-- The stall watch of a hinge passes its limit while the hinge is stalled: recorded, and reported once until the handshake
completes (R143, R146, R165). -/
def hingeStall (s : State) (g : HingeId) : State :=
  let lim := stallLimit s g
  let k := hingeKind g
  if lim = 0 ∨ hingeUsed s g = false ∨ s.hng.stalls.contains k = true then s
  else
    match stalledSide s g with
    | none => s
    | some side =>
      let place := stallPlace s g side
      let s := setStall s g side
      let s := s.setWord HNG_STALL_LAST (packWord [(34, k.1), (23, k.2), (22, place), (21, 1), (20, 1)])
      let s := { s with hng := { s.hng with stalls := k :: s.hng.stalls } }
      logState (raise s 0x2101 (packWord [(34, k.1), (23, k.2), (22, place), (12, lim)])) 2 0x6210 4 s.hng.stalls.length

def execHingeStall (g : HingeId) (s : State) : Host.Outcome State Fault Refusal := .next (hingeStall s g)

/-- A pointer or bank-state parity error: every clocked side is reset for 16 periods, the stored entries
are discarded at the seal, and 2106h is raised; the side is the one whose check failed (R152). -/
def execFifoParityError (f : Fin 128) (readerSide : Bool) (s : State) : Host.Outcome State Fault Refusal :=
  if fifoUsed s f.val then
    .next (raise (updateSeal { s with hng := { s.hng with sideRst := .fifo f :: s.hng.sideRst } } (.fifo f))
      0x2106 (packWord [(34, 2), (23, f.val), (22, b2n readerSide)]))
  else .next s

/-- A write of 1 to a clr bit (R144). -/
def execEvStatClear (i : Fin 1152) (s : State) : Host.Outcome State Fault Refusal :=
  .next (((s.put (HNG_EV_STAT_mcount i.val) 0).put (HNG_EV_STAT_disc i.val) 0).put (HNG_EV_STAT_refused i.val) 0)

def execWdStatClear (j : Fin 288) (s : State) : Host.Outcome State Fault Refusal :=
  .next ((s.put (HNG_WD_STAT_jcount j.val) 0).put (HNG_WD_STAT_disc j.val) 0)

def execStallLastClear (s : State) : Host.Outcome State Fault Refusal := .next (s.setWord HNG_STALL_LAST 0)

def execCtlhStatClear (s : State) : Host.Outcome State Fault Refusal := .next (s.put HNG_CTLH_STAT_last_addr 0)

/-- The hinges whose clocked side runs on user clock `k` follow its loss or return (R124). -/
def userClockChanged (s : State) : State := updateSeals s

/-- Whether the present absence of user clock `k` has been declared. -/
def setGone (s : State) (k : Nat) (b : Bool) : State :=
  { s with hng := { s.hng with gone := tput (fun _ => false) s.hng.gone k b } }

/-- An enabled user clock shows no rising edge for 256 ticks: it is declared lost, once for each absence: lost set, present
cleared, 2104h, its hinges in reset (R124, R146). -/
def userClockLost (s : State) (k : Nat) : State :=
  if s.flag (HNG_UCLK_en k) && !tget (fun _ => false) s.hng.gone k then
    let s := setGone ((s.put (HNG_UCLK_lost k) 1).put (HNG_UCLK_present k) 0) k true
    logState (raise (userClockChanged s) 0x2104 (packWord [(33, k)])) 2 0x6210 1 0
  else s

/-- After 64 edges an enabled user clock is present and its hinges re-seat (R124). -/
def userClockPresent (s : State) (k : Nat) : State :=
  if s.flag (HNG_UCLK_en k) then userClockChanged (setGone (s.put (HNG_UCLK_present k) 1) k false) else s

def execUserClockLost (k : Fin 8) (s : State) : Host.Outcome State Fault Refusal := .next (userClockLost s k.val)

def execUserClockPresent (k : Fin 8) (s : State) : Host.Outcome State Fault Refusal :=
  .next (userClockPresent s k.val)

end Sys2Proof.Machine
end

