-- ==== Sys2Proof/Machine/Pace.lean ====
section
/-! DEFINITION. Pace: pace windows, the power governor and VFAB over PMBus (04). -/
namespace Sys2Proof.Machine
open Sys2Proof

/-! ## Pace windows (R79 to R81) -/

/-- Update the pace structure. -/
def State.setPace (s : State) (p : Pace) : State := { s with pace := p }

/-- FAB_PACE_h as it reads: status 11b while the counters are stopped or the hearth has not woken
(Table 4.2). -/
def paceWord (s : State) (h : Nat) : W36 :=
  let w := s.word (FAB_PACE h)
  if s.get FAB_PACE_CFG_period = 0 ∨ tget (fun _ => false) s.pace.woken h = false then withBits w 10 2 3 else w

/-- A window starts in every hearth (R80); a period of 0 stops the counters. -/
def paceStart (s : State) : State :=
  if s.get FAB_PACE_CFG_period = 0 ∨ s.fab.committed = false then s
  else
    let t := (List.range 36).foldl (fun t h => tput (fun _ => false) t h true) s.pace.windows
    s.setPace { s.pace with windows := t }

/-- Two counts differ by more than 12.5 % of the lower one (R81, DEDUCED, log entry 14). -/
def paceDiffer (a b : Nat) : Bool := decide (min a b < 8 * (max a b - min a b))

/-- The factor of a pace, 2,048,000 / pace (R79); a value that is no 12-bit number is not stated, and is free
(DESIGN CHOICE, log entry 15). -/
def paceFactor (s : State) (p : Nat) : Nat :=
  if p = 0 ∨ 4096 ≤ 2048000 / p then Config.freeNat s.free % 4096 else 2048000 / p

/-- The trimmed rate of a pace counter whose loop has passed `n` tokens in a window of 20.48 us, MT/s, rounded down (R79,
DEDUCED, log entry 69). -/
def trimmedRate (s : State) (h : Nat) (b : Bool) (n : Nat) : Nat := n * 25 * paceTrim s h b / (512 * 65536)

/-- A window of hearth `h` ends with the trimmed rates `a` and `b`, MT/s (R79, R81); a period of 0 has stopped the counters,
but for the windows that confirm SIMMER (R80, Table 16.6). -/
def paceEnd (s : State) (h a b : Nat) : State :=
  if tget (fun _ => false) s.pace.windows h = false ∨ (s.get FAB_PACE_CFG_period = 0 ∧ s.pwr.phase ≠ .simmerEntry) then s
  else
    let p := min a b
    let f := paceFactor s p
    let s := if p = 0 ∨ 4096 ≤ 2048000 / p then s.tookFree else s
    let bad := if paceDiffer a b then tget (fun _ => 0) s.pace.bad h + 1 else 0
    let rep := tget (fun _ => false) s.pace.reported h
    let st := if paceDiffer a b then (if 3 ≤ bad ∨ rep = true then 2 else 1) else 1
    let s := s.setPace { s.pace with
      windows := tput (fun _ => false) s.pace.windows h false,
      bad := tput (fun _ => 0) s.pace.bad h bad,
      reported := tput (fun _ => false) s.pace.reported h (paceDiffer a b && (rep || decide (3 ≤ bad))) }
    let s := s.setWord (FAB_PACE h) (packWord [(24, p % 4096), (12, f), (10, st)])
    if paceDiffer a b && decide (3 ≤ bad) && !rep then
      raise s 0x1107 (packWord [(30, h), (18, a % 4096), (6, b % 4096)])
    else s

def execPaceWindowStart (s : State) : Host.Outcome State Fault Refusal := .next (paceStart s)

/-! ## The governor (R85 to R92) -/

/-- VFAB leakage at 0.80 V in uW: Table 4.5 at its points (R86). -/
def leakage (t : Int) : Nat :=
  if t = -40 then 300000 else if t = 25 then 1100000 else if t = 50 then 1800000
  else if t = 85 then 3900000 else if t = 105 then 6000000 else if t = 110 then 6800000
  else Config.leakageBetween t

/-- VFAB as the governor uses it, mV: the actual value, or the commanded one after a fault and with PMBus control off,
where the board holds VFAB at the target (R96, R97, R99). -/
def governorVfab (s : State) : Nat :=
  if s.flag FAB_VFAB_PMB_en then (if s.pace.stopped then s.pace.commanded else s.get FAB_VFAB_CTL_actual)
  else s.get FAB_VFAB_CTL_target

/-- The stretch level field of hearth `h` (Table 4.15). -/
def levelField (h : Nat) : Field := ⟨FAB_GOV_LVL (h / 6), 6 * (h % 6), 6⟩

/-- The stretch level of hearth `h`. -/
def level (s : State) (h : Nat) : Nat := s.get (levelField h)

/-- Set the stretch level of hearth `h`. -/
def setLevel (s : State) (h v : Nat) : State := s.put (levelField h) v

/-- Every level goes to 0. -/
def zeroLevels (s : State) : State := (List.range 36).foldl (fun s h => setLevel s h 0) s

/-- Commit, warm re-commit, exit from BANKED or en set: every level 0 and a warm millisecond (R89, Table 4.7). -/
def governorWarm (s : State) : State := (zeroLevels s).put FAB_GOV_STAT_warm 1

/-- The governor runs: measurement has started with a commit, and CK100 runs (R89, Table 4.7). -/
def governorRuns (s : State) : Bool := s.fab.committed && s.pwr.clocked

/-- The model's unit of power: 1 uW holds this many, so that an energy in 0.001 pJ over a period of 1 or 8 us, times two
voltages in mV, is a whole number (R85, R88). -/
def microwatt : Nat := 8000 * 640000

/-- The handshakes of hearth `h` by kind since the last period. -/
def eventCount (s : State) (h k : Nat) : Nat := tget (fun _ => 0) s.pace.counts (9 * h + k)

/-- The energy counted in hearth `h` in this period, at 0.80 V, in units of 0.001 pJ (R85, R87, R88). -/
def hearthEnergy (s : State) (h : Nat) : Nat :=
  (List.range 9).foldl (fun a k => a + eventCount s h k * energyWeight s h k) 0

/-- The p_dyn of an energy in units of 0.001 pJ: over the governor period of 1 us, or of 8 us while CK100 is divided, and
at the VFAB of the period (R85, R88, Table 4.7). -/
def powerOf (s : State) (e : Nat) : Nat :=
  e * governorVfab s * governorVfab s * (if s.flag CLK_STAT_div then 1 else 8)

/-- One hearth's estimator: it delivers its count, which gives p_dyn, or none: then the hearth keeps its last p_dyn
(R88, Table 4.7). -/
def estimate (s : State) (silent : Bool) (h : Nat) : State :=
  if silent then
    s.setPace { s.pace with silent := tput (fun _ => 0) s.pace.silent h (tget (fun _ => 0) s.pace.silent h + 1) }
  else
    let p := powerOf s (hearthEnergy s h)
    let s := s.setPace { s.pace with pdyn := tput (fun _ => 0) s.pace.pdyn h p,
                                      silent := tput (fun _ => 0) s.pace.silent h 0 }
    s.setWord (FAB_GOV_PWR h) (packWord [(24, min 4095 (p * 32 / (1000000 * microwatt)))])

/-- Every estimator delivers or stays silent, and its count starts anew (R88, DEDUCED, log entry 64). -/
def estimators (s : State) (silent : List (Fin 36)) : State :=
  let s := (List.range 36).foldl (fun s h => estimate s (silent.contains (Fin.ofNat _ h)) h) s
  s.setPace { s.pace with counts := [] }

/-- Hearth `h` is exempt from stretch (R90). -/
def exempt (s : State) (h : Nat) : Bool := s.bit FAB_GOV_EXEMPT_exempt h

/-- The estimator of hearth `h` has delivered nothing for 16 periods (Table 4.7). -/
def stale (s : State) (h : Nat) : Bool := decide (16 ≤ tget (fun _ => 0) s.pace.silent h)

/-- The governor neither raises nor lowers hearth `h`: it reloads, is in user reset, or its estimator is stale
(Table 4.7). -/
def levelHolds (s : State) (h : Nat) : Bool := s.bit FAB_URST_REQ_req h || s.bit SCB_HRL_REQ_req h || stale s h

/-- Insert a hearth in an order by descending p_dyn, ties by ascending hearth (R88). -/
def insertByPower (s : State) (h : Nat) : List Nat → List Nat
  | [] => [h]
  | x :: t => if tget (fun _ => 0) s.pace.pdyn x < tget (fun _ => 0) s.pace.pdyn h then h :: x :: t
              else x :: insertByPower s h t

/-- The hearths whose level may rise, by descending p_dyn, ties by ascending hearth. -/
def byPower (s : State) : List Nat :=
  ((List.range 36).filter (fun h => !exempt s h && !levelHolds s h)).foldl (fun l h => insertByPower s h l) []

/-- A common multiple of the divisors 17 to 80 of R88, in which the excess is counted. -/
def excessScale : Nat := (List.range 64).foldl (fun a i => Nat.lcm a (17 + i)) 1

/-- Raise levels while the excess lasts, which is counted in units of 1/`excessScale` (R88). -/
def raiseLevels : List Nat → Nat → State → State
  | [], _, s => s
  | h :: t, excess, s =>
    if excess = 0 then s
    else if level s h < s.get FAB_GOV_CFG_max_stretch then
      raiseLevels t (excess - tget (fun _ => 0) s.pace.pdyn h * (excessScale / (17 + level s h)))
        (setLevel s h (level s h + 1))
    else raiseLevels t excess s

/-- Lower the highest level by one, ties by ascending hearth (R88). -/
def lowerHighest (s : State) : State :=
  match (List.range 36).foldl (fun (b : Option Nat) h =>
      if levelHolds s h then b
      else match b with
        | none => some h
        | some x => if level s x < level s h then some h else b) none with
  | some h => if 0 < level s h then setLevel s h (level s h - 1) else s
  | none => s

/-- The limit in force in uW (R88, R89). -/
def limitUw (s : State) : Nat :=
  s.get FAB_GOV_CFG_budget * (if s.flag FAB_GOV_STAT_warm then 62500 else 125000)

/-- Levels that need no power to judge: those of exempt hearths and, with en = 0, all go to 0, and none exceeds
max_stretch (R90, R91, Table 4.7). -/
def clampLevels (s : State) : State :=
  if s.flag FAB_GOV_CFG_en then
    (List.range 36).foldl (fun s h =>
      if exempt s h then setLevel s h 0 else setLevel s h (min (level s h) (s.get FAB_GOV_CFG_max_stretch))) s
  else zeroLevels s

/-- The governor is over its limit with every non-exempt hearth at max_stretch: cap is set, and 1105h is raised once for
the episode (R91). -/
def capReached (s : State) : State :=
  if (List.range 36).all (fun h => exempt s h || decide (s.get FAB_GOV_CFG_max_stretch ≤ level s h)) then
    let s := s.put FAB_GOV_STAT_cap 1
    if s.pace.capped then s
    else raise (s.setPace { s.pace with capped := true }) 0x1105
      (packWord [(24, s.get FAB_GOV_STAT_p_est), (12, limitUw s / 125000)])
  else s

/-- One governor period (R88 to R92): estimators, p_leak and p_est, then the levels. `silent` names the estimators that
deliver no count, and `tempMax` is the highest die sensor reading. -/
def governorPeriod (s : State) (silent : List (Fin 36)) (tempMax : Int) : State :=
  if governorRuns s then
    let s := estimators s silent
    let s := s.put FAB_GOV_STAT_stale (b2n ((List.range 36).any (stale s)))
    let v := governorVfab s
    let leak := leakage tempMax * v * v * v * 10
    let est := (List.range 36).foldl (fun a h => a + tget (fun _ => 0) s.pace.pdyn h) 0 + leak
    let s := s.put FAB_GOV_STAT_p_leak (min 4095 (leak / (125000 * microwatt)))
    let s := s.put FAB_GOV_STAT_p_est (min 4095 (est / (125000 * microwatt)))
    let limit := limitUw s * microwatt
    let s := clampLevels s
    let calm := if limit < est then 0 else s.pace.calm + 1
    let s := s.setPace { s.pace with calm := calm, capped := s.pace.capped && decide (calm < 1000) }
    if s.flag FAB_GOV_CFG_en = false then s
    else if limit < est then capReached (raiseLevels (byPower s) ((est - limit) * excessScale) s)
    else if est < limit - s.get FAB_GOV_CFG_budget * 125000 * microwatt / 32 then lowerHighest s
    else s
  else s

def execGovernorPeriod (silent : List (Fin 36)) (tempMax : Int) (s : State) :
    Host.Outcome State Fault Refusal := .next (governorPeriod s silent tempMax)

/-- The first 1,000 periods of measurement end (R89). -/
def execGovernorWarmEnd (s : State) : Host.Outcome State Fault Refusal :=
  .next (if governorRuns s then s.put FAB_GOV_STAT_warm 0 else s)

/-- en written from 0 to 1 starts a warm millisecond of measurement (R89). -/
def governorEnable (s : State) : State :=
  if s.flag FAB_GOV_CFG_en then s else governorWarm (s.put FAB_GOV_CFG_en 1)

/-- en written 0: every level goes to 0 at the next period, which `governorPeriod` does (Table 4.7). -/
def governorDisable (s : State) : State := s.put FAB_GOV_CFG_en 0

def execGovernorEnable (s : State) : Host.Outcome State Fault Refusal := .next (governorEnable s)

def execGovernorDisable (s : State) : Host.Outcome State Fault Refusal := .next (governorDisable s)

/-! ## VFAB (R94 to R97) -/

/-- The device enters, holds or leaves SIMMER, where its own procedure drives VFAB (R97). -/
def inSimmer (s : State) : Bool :=
  match s.pwr.phase with
  | .simmerEntry | .simmer | .simmerExit => true
  | _ => false

/-- The voltage that the ramp goes to: 650 mV in SIMMER, else the target (R97, R427). -/
def vfabGoal (s : State) : Nat :=
  match s.pwr.phase with
  | .simmerEntry | .simmer => 650
  | _ => s.get FAB_VFAB_CTL_target

/-- ramping changes; the regulator's address in force follows the register but during a ramp (Table 4.14). -/
def setRamping (s : State) (b : Bool) : State :=
  let s := s.put FAB_VFAB_CTL_ramping (b2n b)
  if b then s else s.setPace { s.pace with addr := BitVec.ofNat 7 (s.get FAB_VFAB_PMB_addr) }

/-- Start to ramp toward the goal, if PMBus control is on, no regulator fault holds and the commanded value differs
(R95 to R97); with PMBus control off, actual reads the target. -/
def vfabStart (s : State) : State :=
  if s.flag FAB_VFAB_PMB_en then setRamping s (s.pace.commanded != vfabGoal s && !s.pace.stopped)
  else s.put FAB_VFAB_CTL_actual (s.get FAB_VFAB_CTL_target)

/-- A target from 650 to 900 mV in steps of 5 is stored; it replaces an older one, ends the hold of a
regulator fault and starts a ramp, except around SIMMER, whose procedure drives VFAB (R95 to R97). Any other value has no
effect. -/
def vfabTarget (s : State) (mv : Nat) : State :=
  if 650 ≤ mv ∧ mv ≤ 900 ∧ mv % 5 = 0 then
    let s := s.put FAB_VFAB_CTL_target mv
    let s := s.setPace { s.pace with stopped := false }
    if inSimmer s && s.flag FAB_VFAB_PMB_en then s else vfabStart s
  else s

/-- A regulator fault: stepping stops at the commanded value, fault sets, and 1106h is raised once (R96). -/
def vfabFault (s : State) : State :=
  if s.pace.stopped then s
  else
    let s := (s.setPace { s.pace with stopped := true }).put FAB_VFAB_CTL_fault 1
    let s := setRamping s false
    raise s 0x1106 (packWord [(26, s.pace.commanded), (16, s.get FAB_VFAB_CTL_actual), (0, s.pace.statusWord.toNat)])

/-- One step of 5 mV toward the goal; ramping falls when the goal is reached (R95). A regulator that NACKs the step is a
regulator fault, which holds the value commanded last (R96). -/
def vfabStep (s : State) (ack : Bool) : State :=
  if s.flag FAB_VFAB_CTL_ramping && !s.pace.stopped && s.mgcServing then
    if ack then
      let c := s.pace.commanded
      let g := vfabGoal s
      let c' := if c < g then min g (c + 5) else max g (c - 5)
      setRamping (s.setPace { s.pace with commanded := c' }) (c' != g)
    else vfabFault s
  else s

/-- READ_VOUT and STATUS_WORD: none is a NACK; a STATUS_WORD that reports a fault is a fault (R96). Which of its bits report
a fault is not stated, and the model takes any (DESIGN CHOICE, log entry 69). -/
def vfabRead (s : State) (mv : Option (BitVec 10)) (status : BitVec 16) : State :=
  if s.flag FAB_VFAB_PMB_en then
    match mv with
    | none => vfabFault s
    | some v =>
      let s := (s.setPace { s.pace with statusWord := status }).put FAB_VFAB_CTL_actual v.toNat
      if status = 0 then s else vfabFault s
  else s

/-- The actual value differs from the commanded one by more than 25 mV (R96). -/
def vfabMismatch (s : State) : State :=
  let a := s.get FAB_VFAB_CTL_actual
  let c := s.pace.commanded
  if s.flag FAB_VFAB_PMB_en && decide (25 < max a c - min a c) then vfabFault s else s

/-- A transport writes the target, while the MGC serves the dictionary in full (R17, Table 15.15). -/
def execVfabTargetWrite (mv : BitVec 10) (s : State) : Host.Outcome State Fault Refusal :=
  .next (if s.mgcFull then
    vfabTarget (commandIf s false (decide (650 ≤ mv.toNat ∧ mv.toNat ≤ 900 ∧ mv.toNat % 5 = 0)) 0 mv.toNat) mv.toNat
    else s)

end Sys2Proof.Machine
end

