-- ==== Sys2Proof/Machine/Hearth.lean ====
section
/-! DEFINITION. Hearth: user reset, isolation and waking of hearths (02 R40 to R44; 14 R352 to R354; 16 R424, R425). -/
namespace Sys2Proof.Machine
open Sys2Proof

/-- A handover is under way in hearth `h` (Tables 2.12 and 14.5). -/
def handoverIn (s : State) (h : Nat) : Bool :=
  match s.scb.handover with
  | .colWait g _ | .colScan g _ | .blockWait g _ | .blockCopy g _ => g.val == h
  | .idle | .colCopy _ _ | .colTest _ _ | .blockTest _ _ | .laneTest _ | .fifoTest _ => false

/-- Drain hearth `h` with its store-block ports, and seal its hinges (R18, R41, R355). -/
def drain (s : State) (h : Nat) (x : HearthSt) : State :=
  let s := drainHearth (removeShown s (· == h)) h x
  let s := { s with store := { s.store with ports := tdrop (fun k => k / 192 == h) s.store.ports } }
  updateSeals s

/-- Reinsertion: every initial-token stage of hearth `h` receives its init_val, and the hearth waits for its
single-hearth wake (Table 2.10 steps 4 and 5). -/
def reinsert (s : State) (h : Nat) : State := setHearth (insertTokens s h) h .rejoin

/-- The boundary wait of a resetting hearth ends when no boundary channel is left (Table 2.10 step 3). -/
def boundaryEnd (s : State) (h : Nat) : State :=
  if hearthSt s h = .boundary ∧ boundaryCount s h = 0 then reinsert s h else s

/-- Every resetting hearth whose boundary wait has ended. -/
def boundaryEnds (s : State) : State := s.fab.hearths.foldl (fun s e => boundaryEnd s e.1) s

/-- Start the user reset of an awake hearth: seal, drain, and wait for the boundary (Table 2.10). -/
def startUserReset (s : State) (h : Nat) : State :=
  boundaryEnd (drain (s.putBit FAB_URST_REQ_req h true) h .boundary) h

/-- A 1 written to a hearth's bit in FAB_URST_REQ, as Table 2.12 resolves it. -/
def userReset (s : State) (h : Fin 36) : State :=
  if s.bit SCB_HRL_BAD_bad h.val then s
  else match hearthSt s h.val with
    | .inert | .waiting => s
    | .awake =>
      if handoverIn s h.val then
        { s.putBit FAB_URST_REQ_req h.val true with scb := { s.scb with
            waiting := if s.scb.waiting.contains h then s.scb.waiting else s.scb.waiting ++ [h] } }
      else startUserReset s h.val
    | .boundary | .isolated | .rejoin => s.putBit FAB_URST_REQ_req h.val true

def execUserResetRequest (h : Fin 36) (s : State) : Host.Outcome State Fault Refusal := .next (userReset s h)

def execBoundaryWaitEnd (h : Fin 36) (s : State) : Host.Outcome State Fault Refusal := .next (boundaryEnd s h.val)

/-- The boundary wait exceeds FAB_URST_LIM: the hearth's bit of FAB_URST_STAT, and 1103h; the wait goes on
(R43). A limit of 0 disables it. -/
def execBoundaryWaitTimeout (h : Fin 36) (s : State) : Host.Outcome State Fault Refusal :=
  if hearthSt s h.val = .boundary ∧ s.get FAB_URST_LIM_lim ≠ 0 then
    .next (raise (s.putBit FAB_URST_STAT_bwait_over h.val true) 0x1103
      (packWord [(30, h.val), (0, boundaryCount s h.val)]))
  else .next s

/-- Writes of 1 to clr (Tables 2.17, 2.18, 3.12, 3.13). -/
def execTokLastClear (s : State) : Host.Outcome State Fault Refusal := .next (s.setWord FAB_TOK_LAST 0)

def execTokCntClear (s : State) : Host.Outcome State Fault Refusal := .next (s.put FAB_TOK_CNT_cnt 0)

def execXbLastClear (s : State) : Host.Outcome State Fault Refusal := .next (s.setWord FAB_XB_LAST 0)

def execXbCntClear (s : State) : Host.Outcome State Fault Refusal := .next (s.put FAB_XB_CNT_cnt 0)

/-- A hearth begins to fire: a gate that still completes a handshake stands until it has, the others release the boundary,
and its hinges begin to re-seat (R41, R424). -/
def wakeHearth (s : State) (h : Nat) : State :=
  let s := rerouted s (setHearth s h .awake)
  let s := { s with pace := { s.pace with woken := tput (fun _ => false) s.pace.woken h true } }
  updateSeals s

/-- A staggered wake is in progress (R424). -/
def staggered (s : State) : Bool := s.pwr.wakeSlot.isSome

/-- A staggered-wake slot begins: hearth 7k mod 36 wakes in slot k unless it is isolated or reloading (R424). -/
def wakeSlot (s : State) : State :=
  match s.pwr.wakeSlot with
  | none => s
  | some k =>
    let h := 7 * k % 36
    let s := if hearthSt s h = .waiting then wakeHearth s h else s
    { s with pwr := { s.pwr with wakeSlot := if k < 35 then some (k + 1) else none } }

/-- A hearth whose initial tokens are reinserted wakes alone, ending its user reset, reload or isolation; during a
staggered wake it waits (R425). FAB_URST_REQ and SCB_HRL_REQ read 0 from here on. -/
def singleWake (s : State) (h : Nat) : State :=
  if hearthSt s h = .rejoin ∧ staggered s = false then
    let s := wakeHearth s h
    (s.putBit FAB_URST_REQ_req h false).putBit SCB_HRL_REQ_req h false
  else s

def execHearthWakeSlot (s : State) : Host.Outcome State Fault Refusal := .next (wakeSlot s)

def execSingleHearthWake (h : Fin 36) (s : State) : Host.Outcome State Fault Refusal := .next (singleWake s h.val)

/-! ## Isolation (R352 to R354) -/

/-- The gate settings of hearth `h`, kinds 00b and 01b, come into force at its isolation (Table 14.13). -/
def isoApply (s : State) (h : Nat) : State :=
  let gate := fun (k : Nat) => k / 32768 == h && decide (k / 8192 % 4 < 2)
  let mine := s.scb.isoVal.filter (fun e => gate e.1)
  let now := tdrop gate s.scb.isoNow
  { s with scb := { s.scb with isoNow := mine.foldl (fun t e => tput (fun _ => 0) t e.1 e.2) now } }

/-- Gate `g` of isolated hearth `h` is set to sink (Table 14.3). -/
def gateSinks (s : State) (h g : Nat) : Bool :=
  hearthSt s h == .isolated &&
  tget (fun _ => 0) s.scb.isoNow (if g < 768 then isoKey h 0 g 0 else isoKey h 1 (g - 768) 0) == 1

/-- Steps 1 and 2 of Table 14.4 for a hearth that holds tokens; a hearth already drained only changes hands. -/
def isolate (s : State) (h : Nat) : State :=
  match hearthSt s h with
  | .inert | .isolated => s
  | .waiting | .awake | .rejoin => drain (isoApply s h) h .isolated
  | .boundary => setHearth (isoApply s h) h .isolated

/-- SCB_HRL_STAT follows the isolated hearths. -/
def isoStat (s : State) (h : Nat) : State :=
  s.putBit SCB_HRL_STAT_isolated h (hearthSt s h == .isolated)

/-- A reload of hearth `h` is requested or running. -/
def reloading (s : State) (h : Nat) : Bool := s.bit SCB_HRL_REQ_req h

/-- A 1 written to bit h of SCB_ISO: stored during a reload; otherwise the hearth is isolated (R354, R355). -/
def isolateWrite (s : State) (h : Nat) : State :=
  let s := s.putBit SCB_ISO_iso h true
  if reloading s h then s else isoStat (isolate s h) h

/-- A 0 written to bit h of SCB_ISO: no effect while SCB_HRL_BAD has the bit set; during a reload it lets the
hearth wake at its end; otherwise the initial tokens are reinserted and the hearth wakes alone (R354). -/
def releaseWrite (s : State) (h : Nat) : State :=
  if s.bit SCB_HRL_BAD_bad h then s
  else
    let s := s.putBit SCB_ISO_iso h false
    if reloading s h && !s.scb.written.contains (Fin.ofNat _ h) then s
    else if hearthSt s h = .isolated then
      let s := isoStat (reinsert s h) h
      { s with scb := { s.scb with written := s.scb.written.filter (· != Fin.ofNat _ h) } }
    else s

def execHearthIsolate (h : Fin 36) (s : State) : Host.Outcome State Fault Refusal :=
  .next (if s.mgcFull then isoCommanded (isolateWrite s h.val) else s)

def execHearthIsolateRelease (h : Fin 36) (s : State) : Host.Outcome State Fault Refusal :=
  .next (if s.bit SCB_HRL_BAD_bad h.val || !s.mgcFull then s else isoCommanded (releaseWrite s h.val))

end Sys2Proof.Machine
end

