-- ==== Sys2Proof/Machine/Tokens.lean ====
section
/-! DEFINITION. Tokens: the four handshake phases, the firing of cells, and upsets (02 R20 to R39; 03 R58; 14 R344). -/
namespace Sys2Proof.Machine
open Sys2Proof

/-! ## The positions of one channel (R20, R21) -/

/-- The hinge ports of hearth `h` that share a channel with port `p`: its first port and their number. `out` asks for the
channels into the fabric, whose producer the hinge is (Table 6.3). -/
def hingeSpan (s : State) (out : Bool) (h p : Nat) : Nat × Nat :=
  let within := fun (b n : Nat) => decide (b ≤ p) && decide (p < b + n)
  let c := if out then (s.get HNG_CTLH_CFG_base + 49, 19) else (s.get HNG_CTLH_CFG_base, 49)
  if s.get HNG_CTLH_CFG_host = h ∧ within c.1 c.2 = true then c
  else match (List.range 128).find? (fun f => s.get (HNG_FIFO_CFG_host f) == h &&
      s.get (if out then HNG_FIFO_CFG_rkind f else HNG_FIFO_CFG_wkind f) == 0 && within (s.get (HNG_FIFO_CFG_base f)) 19) with
    | some f => (s.get (HNG_FIFO_CFG_base f), 19)
    | none =>
      match (List.range 288).find? (fun j => s.get (HNG_WD_CFG_host j) == h && wdOut s j != out &&
          within (wdPorts s j).1 (wdPorts s j).2) with
      | some j => wdPorts s j
      | none => (p, 1)

/-- The producers of the channel of a producer. -/
def srcMates (s : State) : Src → List Src
  | .side h col p =>
    match sidePort s h.val col.val p.val with
    | some (b, port, _) =>
      let l := responseSrcs s h.val b port
      if l.contains (.side h col p) then l else [.side h col p]
    | none => [.side h col p]
  | .hinge h p => hingeSrcs h.val (hingeSpan s true h.val p.val).1 (hingeSpan s true h.val p.val).2
  | .cell c => [.cell c]
  | .gate h u => [.gate h u]
  | .carry c => [.carry c]

/-- The select digits that a MUX ROOT marks (R33). -/
def selectTaps (s : State) (c : Cell) : List Nat := (List.range 4).filter (fun i => recBits s c (155 + i) 1 == 1)

/-- The consumers of the channel of a consumer. -/
def dstMates (s : State) : Dst → List Dst
  | .slot c i =>
    if cellMode s c = 6 ∧ (selectTaps s c).contains i.val = true then
      (selectTaps s c).map (fun k => .slot c (Fin.ofNat _ k))
    else [.slot c i]
  | .side h col p =>
    match sidePort s h.val col.val p.val with
    | some (b, port, _) =>
      let l := requestDsts s h.val b port
      if l.contains (.side h col p) then l else [.side h col p]
    | none => [.side h col p]
  | .hinge h p => hingeDsts h.val (hingeSpan s false h.val p.val).1 (hingeSpan s false h.val p.val).2
  | .gate h g => [.gate h g]
  | .carry c => [.carry c]

/-! ## The four phases (R22 to R24) -/

/-- The scan copy moves a physical column: nothing in it acts (R364). -/
def columnScans (s : State) (h col : Nat) : Bool :=
  match s.scb.handover with
  | .colScan g c => g.val == h && ((steerOf s h c.val).2 == col || (steerOf s h s.scb.spare).2 == col)
  | .idle | .colCopy _ _ | .colWait _ _ | .colTest _ _ | .blockWait _ _ | .blockCopy _ _ | .blockTest _ _ | .laneTest _
  | .fifoTest _ => false

/-- The column's cells fire and request no more: a port hold or the scan copy runs (R364, R365, log entry 21). -/
def columnHeld (s : State) (h col : Nat) : Bool :=
  match s.scb.handover with
  | .colWait g c | .colScan g c => g.val == h && (steerOf s h c.val).2 == col
  | .idle | .colCopy _ _ | .colTest _ _ | .blockWait _ _ | .blockCopy _ _ | .blockTest _ _ | .laneTest _ | .fifoTest _ => false

/-- The physical column that a producer lies in is being copied. -/
def srcScans (s : State) : Src → Bool
  | .cell c | .carry c => columnScans s c.h.val c.col.val
  | .side h col _ => columnScans s h.val col.val
  | .hinge _ _ | .gate _ _ => false

/-- The physical column that a consumer lies in is being copied. -/
def dstScans (s : State) : Dst → Bool
  | .slot c _ | .carry c => columnScans s c.h.val c.col.val
  | .side h col _ => columnScans s h.val col.val
  | .hinge _ _ | .gate _ _ => false

/-- A cell may act: the fabric is committed, its hearth awake, and its column serves a logical column and is not held. -/
def cellRuns (s : State) (c : Cell) : Bool :=
  s.fab.committed && hearthSt s c.h.val == .awake && !columnHeld s c.h.val c.col.val &&
  (lcolOf s c.h.val c.col.val).elim false (fun l => (steerOf s c.h.val l).1 != 1)

/-- The token in a cell's token stage. -/
def stageOf (s : State) (c : Cell) : Option Digit := tget (fun _ => none) s.fab.stage (cellKey c)

/-- Set a cell's token stage. -/
def setStage (s : State) (c : Cell) (v : Option Digit) : State :=
  { s with fab := { s.fab with stage := tput (fun _ => none) s.fab.stage (cellKey c) v } }

/-- A cell may raise these rails: its output is in phase 0 and they carry the digit of its token stage (R22, R26). The other
producers raise their rails with the command that gives them their token. -/
def mayRequest (s : State) (x : Src) (r : Rails) : Bool :=
  s.fab.committed && phase0 s x && oneHot r &&
  (match x with
   | .cell c => cellRuns s c && stageOf s c == some (digitOf r)
   | .side _ _ _ | .hinge _ _ | .gate _ _ | .carry _ => false)

/-- Phase 1: the producer raises one rail in every position of the channel, and each consumer that the rails reach checks
them (R22, R25). -/
def request (s : State) (l : List (Src × Rails)) : State :=
  if l.all (fun e => mayRequest s e.1 e.2) then raiseRails s l else s

/-- A gate that is set to sink acknowledges a valid position (Table 14.3). Every other consumer acknowledges with the
command by which it takes its token. -/
def mayAck (s : State) (d : Dst) : Bool :=
  validAt s d && !stalledAt s d &&
  (match d with
   | .gate h g => gateSinks s h.val g.val
   | .slot _ _ | .side _ _ _ | .hinge _ _ | .carry _ => false)

/-- Acknowledges have changed: a response that its consumers have taken frees the control hinge, stalls whose tokens are
taken close, a boundary wait that has ended is followed by reinsertion, and waiting change notices are presented (R41,
R133, R143). -/
def settled (s : State) : State := wdNotices (boundaryEnds (tokensTaken s))

/-- Phase 2: the consumer acknowledges once every position is valid (R23). -/
def acknowledge (s : State) (l : List Dst) : State :=
  if l.all (mayAck s) then settled (l.foldl (fun s d => moveAck s d true) s) else s

/-- A producer that has seen the acknowledge in every position of its channel may release it. -/
def mayRelease (s : State) (l : List Src) (x : Src) : Bool :=
  !srcScans s x && (srcMates s x).all (fun y => l.contains y && drivenBy s y != 0 && joinOf s y)

/-- Phase 3: the positions return to neutral; a cell's token stage empties (R22, R27). -/
def release (s : State) (l : List Src) : State :=
  if l.all (mayRelease s l) then
    settled (l.foldl (fun s x =>
      let s := drive s x 0
      match x with
      | .cell c => setStage s c none
      | .side _ _ _ | .hinge _ _ | .gate _ _ | .carry _ => s) s)
  else s

/-- A consumer that has seen neutral in every position of its channel may lower its acknowledge. -/
def mayReady (s : State) (l : List Dst) (d : Dst) : Bool :=
  !dstScans s d && (dstMates s d).all (fun e => l.contains e && ackOf s e && seen s e == 0)

/-- Phase 4: the acknowledge falls and the channel returns to phase 0 (R22). -/
def ready (s : State) (l : List Dst) : State :=
  if l.all (mayReady s l) then settled (l.foldl (fun s d => moveAck s d false) s) else s

def execHandshakeAck (dsts : List Dst) (s : State) : Host.Outcome State Fault Refusal := .next (acknowledge s dsts)

def execHandshakeRelease (srcs : List Src) (s : State) : Host.Outcome State Fault Refusal := .next (release s srcs)

def execHandshakeReady (dsts : List Dst) (s : State) : Host.Outcome State Fault Refusal := .next (ready s dsts)

/-! ## Cells (R26 to R36) -/

/-- Port A, B or C (slots 0 to 2) is marked in use (Table 2.8). -/
def inUse (s : State) (c : Cell) (port : Nat) : Bool := recBits s c (175 - port) 1 == 1

/-- The valid, unacknowledged digit at an input slot, if there is one. -/
def inputDigit (s : State) (c : Cell) (i : Nat) : Option Digit :=
  let d := Dst.slot c (Fin.ofNat _ i)
  if validAt s d && !stalledAt s d then some (digitOf (seen s d)) else none

/-- The digits of the ports in use; an input port not in use reads as 0 (R26). `none` while a port in use
holds no valid token. -/
def portDigits (s : State) (c : Cell) (use : List Bool) : Option (List Digit) :=
  (use.zipIdx).mapM (fun e => if e.1 then inputDigit s c e.2 else some 0)

/-- The digits of ports A, B and C once each one in use holds a valid token (R26). -/
def ports (s : State) (c : Cell) : Option (Digit × Digit × Digit) :=
  match portDigits s c [inUse s c 0, inUse s c 1, inUse s c 2] with
  | some [a, b, k] => some (a, b, k)
  | some _ | none => none

/-- The lookup result of FUNCTION mode (R29). -/
def lookup (s : State) (c : Cell) (a b k : Digit) : Digit :=
  let i := 16 * a.toNat + 4 * b.toNat + k.toNat
  BitVec.ofNat 2 (2 * recBits s c (64 + i) 1 + recBits s c i 1)

/-- The acknowledges of a cell's input slots rise. -/
def ackSlots (s : State) (c : Cell) (l : List Nat) : State :=
  l.foldl (fun s i => moveAck s (.slot c (Fin.ofNat _ i)) true) s

/-- The acknowledge on every input port in use rises (R26). -/
def ackPorts (s : State) (c : Cell) : State := ackSlots s c ((List.range 3).filter (inUse s c))

/-- The cell captures its result in the token stage: one output digit is fired (R26, R85). -/
def emit (s : State) (c : Cell) (v : Digit) : State := countEvent (setStage s c (some v)) c.h.val 0 1

/-- FUNCTION and INITIAL TOKEN (R29, R35). -/
def fireFunction (s : State) (c : Cell) : State :=
  match ports s c with
  | some (a, b, k) => ackPorts (emit s c (lookup s c a b k)) c
  | none => s

/-- PASS: the token from A unchanged. R26 holds in this mode as in every other: the ports marked in use are awaited and
acknowledged, and A reads as 0 if it is not one of them (DEDUCED, log entry 63). -/
def firePass (s : State) (c : Cell) : State :=
  match ports s c with
  | some (a, _, _) => ackPorts (emit s c a) c
  | none => s

/-- GUARDED PASS: the token from A passes when the guard bit differs from guard_pol; otherwise the ports are
acknowledged and nothing is emitted (R30). The ports marked in use take part, as in PASS (DEDUCED, log entry 63). -/
def fireGuarded (s : State) (c : Cell) : State :=
  match ports s c with
  | some (a, b, k) =>
    let guard := if recBits s c 169 1 = 0 then b else k
    ackPorts (if guard.toNat % 2 = recBits s c 168 1 then s else emit s c a) c
  | none => s

/-- The carry in of an ARITH cell (Table 2.6): from the chain, the valid bit token of its carry channel. -/
def carryIn (s : State) (c : Cell) (k : Digit) : Option Nat :=
  match recBits s c 164 2 with
  | 0 => some 0
  | 1 => some 1
  | 2 => some (k.toNat % 2)
  | _ => if validAt s (.carry c) && !stalledAt s (.carry c) then some (digitOf (seen s (.carry c))).toNat else none

/-- X of an ARITH cell (Table 2.5); with no port in use and cin_src = 11b the cell outputs its carry in, so X
is 0 (R31). -/
def arithX (s : State) (c : Cell) (b k : Digit) : Nat :=
  if (inUse s c 0 || inUse s c 1 || inUse s c 2) = false ∧ recBits s c 164 2 = 3 then 0
  else match recBits s c 166 2 with
    | 0 => b.toNat
    | 1 => 3 - b.toNat
    | _ => (lookup s c 0 b k).toNat

/-- The next cell of the chain takes the carry out: it runs in ARITH mode with cin_src = 11b (R31). -/
def carryOut (s : State) (c : Cell) : Bool := (nextCell c).any (takesCarry s)

/-- ARITH (R31): A + X + carry in; the two low bits are the output digit, and bit 2 goes to the next cell as a token of
its carry channel, or is discarded. The cell waits until that channel is in phase 0 (DEDUCED, log entry 19). -/
def fireArith (s : State) (c : Cell) : State :=
  match ports s c with
  | some (a, b, k) =>
    match carryIn s c k with
    | some ci =>
      let sum := a.toNat + arithX s c b k + ci
      if carryOut s c && !phase0 s (.carry c) then s
      else
        let s1 := ackPorts (emit s c (BitVec.ofNat 2 sum)) c
        let s1 := if recBits s c 164 2 = 3 then moveAck s1 (.carry c) true else s1
        if carryOut s c then raiseRails s1 [(.carry c, railsOf (BitVec.ofNat 2 (sum / 4)))] else s1
    | none => s
  | none => s

/-- The select value of a MUX ROOT; digits its tap_use does not mark read as 0 (R33). -/
def selectValue (s : State) (c : Cell) : Option Nat :=
  let use := (List.range 4).map (fun i => recBits s c (155 + i) 1 == 1)
  (portDigits s c use).map (fun l => l.foldr (fun d acc => d.toNat + 4 * acc) 0)

/-- A multiplexer root stalls on a select that names no configured tap. -/
def setMuxStalled (s : State) (c : Cell) (b : Bool) : State :=
  { s with fab := { s.fab with muxStalled := tput (fun _ => false) s.fab.muxStalled (cellKey c) b } }

/-- MUX ROOT (R33, R34): the token of the selected tap passes and is acknowledged with the select token; a
select that names an unconfigured tap stalls the multiplexer and is reported once. R34 gives the stall no end beside the
token's removal: the model lets the root fire once its slice names the tap again, which ends that stall, so that a later
one is reported anew (DESIGN CHOICE, log entry 71). -/
def fireRoot (s : State) (c : Cell) : State :=
  match selectValue s c with
  | none => s
  | some k =>
    let slice : Cell := { c with k := Fin.ofNat _ (k / 8) }
    if k / 8 < 32 ∧ cellMode s slice = 5 ∧ recBits s slice (155 + k % 8) 1 = 1 then
      match inputDigit s slice (k % 8) with
      | some v => ackSlots (ackSlots (emit (setMuxStalled s c false) c v) c (selectTaps s c)) slice [k % 8]
      | none => s
    else if tget (fun _ => false) s.fab.muxStalled (cellKey c) then s
    else tokenFault (setMuxStalled s c true) c 2

/-- A cell fires: it needs an empty token stage and its mode's inputs (R26 to R35). OFF and MUX SLICE cells never
fire on their own; a reserved mode acts as OFF. -/
def fire (s : State) (c : Cell) : State :=
  if !cellRuns s c || (stageOf s c).isSome then s
  else match cellMode s c with
    | 1 => fireFunction s c
    | 2 => firePass s c
    | 3 => fireGuarded s c
    | 4 => fireArith s c
    | 6 => fireRoot s c
    | 7 => fireFunction s c
    | _ => s

def execCellFire (c : Cell) (s : State) : Host.Outcome State Fault Refusal := .next (settled (fire s c))

/-! ## Store-block ports (R106, R107) -/

def execStoreRead (h : Fin 36) (slot : Fin 96) (port : Bool) (s : State) : Host.Outcome State Fault Refusal :=
  .next (settled (storeRequest s h.val slot.val port 0))

def execStoreWrite (h : Fin 36) (slot : Fin 96) (port : Bool) (s : State) : Host.Outcome State Fault Refusal :=
  .next (settled (storeRequest s h.val slot.val port 1))

def execStoreExchange (h : Fin 36) (slot : Fin 96) (port : Bool) (s : State) : Host.Outcome State Fault Refusal :=
  .next (settled (storeRequest s h.val slot.val port 2))

def execStoreResponse (h : Fin 36) (slot : Fin 96) (port : Bool) (s : State) : Host.Outcome State Fault Refusal :=
  .next (storeRespond s h.val slot.val port)

/-! ## Upsets (R344) -/

/-- An upset flips a bit of a stored frame, and the checkers of its rows see it; a wire failure inverts rails,
and the inputs that the wire reaches check them. -/
def upset (s : State) : Upset → State
  | .frameBit a bit =>
    writeFrame s a (frameOf s a.h.val a.col.val a.row.val a.f.val ^^^ BitVec.ofNat 1308 (2 ^ bit.val))
  | .wire x r =>
    checkInputs (watched s { s with fab := { s.fab with wires := tput (fun _ => 0) s.fab.wires (srcKey x) r } }) x

end Sys2Proof.Machine
end

