-- ==== Sys2Proof/Machine/Clock.lean ====
section
/-! DEFINITION. Clock: the timebase and its alarms, power-state codes and wake events (16). -/
namespace Sys2Proof.Machine
open Sys2Proof

/-! ## Power-state codes (R426, Table 16.12) -/

/-- PWR_STAT.state of a phase; the phases before RUN, FAULT and the shutdown test read RUN's reset code. -/
def phaseCode : Phase → Nat
  | .simmer => 1
  | .banked => 2
  | .simmerEntry => 4
  | .simmerExit => 5
  | .bankedEntry => 6
  | .bankedExit => 7
  | _ => 0

/-- Enter a phase; a change of the power-state code is logged (R426). -/
def setPhase (s : State) (p : Phase) : State :=
  let old := s.get PWR_STAT_state
  let s := { s with pwr := { s.pwr with phase := p } }
  if old = phaseCode p then s
  else logState (s.put PWR_STAT_state (phaseCode p)) 9 0x6900 1 (phaseCode p)

/-- A wake event of kind `kind` from `src` (R304, R430): in BANKED it starts the exit, during the entry it is
latched, the first one standing; elsewhere it has no effect. With the
reference lost in BANKED no wake is possible (R413). -/
def wakeEvent (s : State) (kind src : Nat) : State :=
  match s.pwr.phase with
  | .banked =>
    if s.flag CLK_STAT_ref_ok = false then s else
    let s := setCommanded (((s.put PWR_STAT_wkind kind).put PWR_STAT_wsrc src).put PWR_CTL_cmd 0) 34 0
    let s := { s with pwr := { s.pwr with pwrRun := true } }
    setPhase s .bankedExit
  | .bankedEntry =>
    if s.pwr.wakeLatched.isNone then { s with pwr := { s.pwr with wakeLatched := some (kind, src) } } else s
  | _ => s

/-! ## The timebase (R7, R414) -/

/-- A read of CLK_TB_L returns bits [35:0] and latches bits [71:36] into CLK_TB_H. -/
def timebaseRead (s : State) : State :=
  (s.setWord CLK_TB_L (BitVec.ofNat 36 s.timebase.toNat)).setWord CLK_TB_H
    (BitVec.ofNat 36 (s.timebase.toNat >>> 36))

def execTimebaseRead (s : State) : Host.Outcome State Fault Refusal := .next (timebaseRead s)

/-! ## Timebase alarms (R415 to R417) -/

/-- The compare value of alarm `a`. -/
def almCmp (s : State) (a : Nat) : W72 := tget (fun _ => 0) s.pwr.almCmp a

/-- Load the compare value of alarm `a`; CLK_ALM_L_a shows its low word. -/
def setAlmCmp (s : State) (a : Nat) (v : W72) : State :=
  let s := { s with pwr := { s.pwr with almCmp := tput (fun _ => 0) s.pwr.almCmp a v } }
  s.setWord (CLK_ALM_L a) (BitVec.ofNat 36 v.toNat)

/-- The period of alarm `a`: below 32 acts as 32 (Table 16.11). -/
def almPeriod (s : State) (a : Nat) : Nat := max 32 (s.get (CLK_ALM_PER_plen a))

/-- A periodic alarm adds its period as often as needed to pass the timebase, counting each addition beyond
the first in skipped (R415). -/
def almAdvance (s : State) (a : Nat) : State :=
  let p := almPeriod s a
  let n := (s.timebase.toNat - (almCmp s a).toNat) / p + 1
  (setAlmCmp s a (BitVec.ofNat 72 ((almCmp s a).toNat + n * p))).bump (CLK_ALM_CFG_skipped a) (n - 1)

/-- An enabled alarm whose compare value the timebase is at or past. -/
def almDue (s : State) (a : Nat) : Bool :=
  s.flag (CLK_ALM_CFG_en a) && decide ((almCmp s a).toNat ≤ s.timebase.toNat)

/-- What alarm `a` does to its own registers as it fires (R415). -/
def almFire (s : State) (a : Nat) : State :=
  let s := s.put (CLK_ALM_CFG_fired a) 1
  if s.flag (CLK_ALM_CFG_per a) then almAdvance s a else s.put (CLK_ALM_CFG_en a) 0

/-- Alarms 0 to 14 compare in RUN and SIMMER once their hinges have re-seated after BANKED; alarm 15 with
wake = 1 also in BANKED, where it raises a wake event and owes its event (R417). -/
def alarmFire (s : State) (a : Nat) : State :=
  let x := evOf s (1000 + a)
  if s.pwr.phase = .banked then
    if a = 15 ∧ s.flag (CLK_ALM_CFG_wake 15) = true ∧ almDue s 15 = true then
      let s := almFire s 15
      wakeEvent { s with pwr := { s.pwr with alm15Owed := true } } 3 0
    else s
  else if s.pwr.clocked = false ∨ (evUsed s (1000 + a) = true ∧ x.sl.first = true ∧ s.pwr.phase = .bankedExit) then s
  else if a = 15 ∧ s.pwr.alm15Owed = true then
    if x.sl.open0 && x.sl.open1 then
      offerEvent { s with pwr := { s.pwr with alm15Owed := false } } 1015
    else s
  else if almDue s a then offerEvent (almFire s a) (1000 + a)
  else s

def execAlarmFire (a : Fin 16) (s : State) : Host.Outcome State Fault Refusal := .next (alarmFire s a.val)

/-- A write to CLK_ALM_L_a loads the compare value from it and CLK_ALM_H_a (R415). -/
def alarmCompareWrite (s : State) (a : Nat) (w : W36) : State :=
  setAlmCmp s a (BitVec.ofNat 72 (w.toNat + s.get (CLK_ALM_H_cmp_h a) * 2 ^ 36))

def execAlarmCompareWrite (a : Fin 16) (w : W36) (s : State) : Host.Outcome State Fault Refusal :=
  .next (alarmCompareWrite s a.val w)

def execAlarmSkippedClear (a : Fin 16) (s : State) : Host.Outcome State Fault Refusal :=
  .next (s.put (CLK_ALM_CFG_skipped a.val) 0)

/-- 2900h:02 loads alarm 15 with en = 1, wake = 1, per = 0 (Table 16.13). -/
def wakeTimeWrite (s : State) (tb : W72) : State :=
  let s := setAlmCmp s 15 tb
  let s := s.setWord (CLK_ALM_H 15) (BitVec.ofNat 36 (tb.toNat >>> 36))
  ((s.put (CLK_ALM_CFG_en 15) 1).put (CLK_ALM_CFG_wake 15) 1).put (CLK_ALM_CFG_per 15) 0

/-- The timebase is stepped to `v` (R416): after a forward step each enabled alarm whose compare value the
step passes fires once. CLK_STAT.stepped is set and the step logged. -/
def timebaseStep (s : State) (v : W72) : State :=
  let old := s.timebase
  let s := ({ s with timebase := v }).put CLK_STAT_stepped 1
  let s := timebaseJump (logState s 9 0x6900 2 (v.toNat % 4096))
  (List.range 16).foldl (fun s a =>
    if s.flag (CLK_ALM_CFG_en a) && decide (old.toNat < (almCmp s a).toNat) && almDue s a then
      offerEvent (almFire s a) (1000 + a)
    else s) s

end Sys2Proof.Machine
end

