-- ==== Sys2Proof/Machine/Pcs.lean ====
section
/-! DEFINITION. Pcs: the 64b/66b coding of the lanes as functions of blocks: the scrambler, the native control blocks and
their CRC-32, and the block types of IEEE 802.3 Clause 49 (08 R175 to R177, R195). -/
namespace Sys2Proof.Machine
open Sys2Proof

/-! ## The scrambler 1 + x^39 + x^58 (R175) -/

/-- One bit through the scrambler, whose state is the 58 bits sent last, the latest lowest. -/
def scrambleBit (st : BitVec 58) (b : Bool) : Bool × BitVec 58 :=
  let o := b ^^ st.getLsbD 38 ^^ st.getLsbD 57
  (o, (st <<< 1) ||| BitVec.ofNat 58 (b2n o))

/-- One bit through the descrambler, whose state is the 58 bits received last. -/
def descrambleBit (st : BitVec 58) (b : Bool) : Bool × BitVec 58 :=
  (b ^^ st.getLsbD 38 ^^ st.getLsbD 57, (st <<< 1) ||| BitVec.ofNat 58 (b2n b))

/-- Bits through the scrambler in the order in which they are sent. -/
def scrambleBits (st : BitVec 58) : List Bool → List Bool × BitVec 58
  | [] => ([], st)
  | b :: l =>
    let r := scrambleBit st b
    let q := scrambleBits r.2 l
    (r.1 :: q.1, q.2)

/-- Bits through the descrambler. -/
def descrambleBits (st : BitVec 58) : List Bool → List Bool × BitVec 58
  | [] => ([], st)
  | b :: l =>
    let r := descrambleBit st b
    let q := descrambleBits r.2 l
    (r.1 :: q.1, q.2)

/-- The payload bits of a block, bit 0 first. -/
def payloadBits (w : BitVec 64) : List Bool := (List.range 64).map w.getLsbD

/-- A payload from its bits. -/
def payloadOf (l : List Bool) : BitVec 64 := BitVec.ofNat 64 (l.foldr (fun b a => b2n b + 2 * a) 0)

/-- A block as it leaves the lane: the header as it is, the payload scrambled. -/
def scramble (st : BitVec 58) (b : Block) : Block × BitVec 58 :=
  let r := scrambleBits st (payloadBits b.bits)
  (⟨b.header, payloadOf r.1⟩, r.2)

/-- A block of the line as the receiver takes it. -/
def descramble (st : BitVec 58) (b : Block) : Block × BitVec 58 :=
  let r := descrambleBits st (payloadBits b.bits)
  (⟨b.header, payloadOf r.1⟩, r.2)

/-- Blocks as they leave the lane one after another. -/
def scrambleAll (st : BitVec 58) : List Block → List Block × BitVec 58
  | [] => ([], st)
  | b :: l =>
    let r := scramble st b
    let q := scrambleAll r.2 l
    (r.1 :: q.1, q.2)

/-! ## Native blocks (R176, R177, Table 8.4) -/

/-- A data block. -/
def dataBlock (w : BitVec 64) : Block := ⟨1, w⟩

/-- A control block: its type in payload bits [7:0], its content above. -/
def controlBlock (type content : Nat) : Block := ⟨2, BitVec.ofNat 64 (type + content * 256)⟩

def idleBlock : Block := controlBlock 0x33 0
def startBlock : Block := controlBlock 0x55 0
def holdBlock : Block := controlBlock 0xAA 0

/-- END with abort, the number of words and the CRC-32. -/
def endBlock (abort : Bool) (n : Nat) (crc : BitVec 32) : Block :=
  controlBlock 0x66 (b2n abort + n * 2 ^ 4 + crc.toNat * 2 ^ 24)

/-- TRAIN with ready, the logical lane within the cord, the rate code, spare capable, whose meaning the spec does not give,
and the sender identity, bits [31:0] of the serial number (R177). -/
def trainBlock (ready : Bool) (lane rate : Nat) : Block :=
  controlBlock 0x99 (b2n ready + lane * 2 + rate * 2 ^ 3 + b2n Config.spareCapable * 2 ^ 5 +
    Config.serial.toNat % 2 ^ 32 * 2 ^ 8)

/-- One step of the CRC-32, generator 04C11DB7h (R177). -/
def crc32Bit (c : BitVec 32) (b : Bool) : BitVec 32 :=
  if c.getLsbD 31 != b then (c <<< 1) ^^^ 0x04C11DB7#32 else c <<< 1

/-- The CRC-32 over the 36 stream positions of a word. -/
def crc32Word (c : BitVec 32) (w : W36) : BitVec 32 :=
  (List.range 36).foldl (fun c i => crc32Bit c (w.getLsbD i)) c

/-! ## Clause 49 blocks (R195; PRESUMED from IEEE 802.3, log entry 72) -/

/-- The 7-bit code of a control character. -/
def EthChar.code : EthChar → Nat
  | .error => 0x1E
  | .data _ | .idle | .start | .term | .seq => 0

/-- The octet of a data character. -/
def EthChar.octet : EthChar → Nat
  | .data o => o.toNat
  | .idle | .start | .term | .error | .seq => 0

def EthChar.isData : EthChar → Bool
  | .data _ => true
  | .idle | .start | .term | .error | .seq => false

/-- Octets of the characters from `a` up to `b`, each `off` bits above its own place. -/
def charOctets (cs : List EthChar) (a b off : Nat) : Nat :=
  ((List.range b).drop a).foldl (fun n k => n + (cs.getD k .idle).octet * 2 ^ (8 * k + off)) 0

/-- Codes of the control characters from `a` up to `b`. -/
def charCodes (cs : List EthChar) (a b : Nat) : Nat :=
  ((List.range b).drop a).foldl (fun n k => n + (cs.getD k .idle).code * 2 ^ (8 + 7 * k)) 0

/-- The block types of a terminate character in places 0 to 7. -/
def termTypes : List Nat := [0x87, 0x99, 0xAA, 0xB4, 0xCC, 0xD2, 0xE1, 0xFF]

/-- Eight characters as a block. -/
def encode66 (cs : List EthChar) : Block :=
  match cs.findIdx? (· == .term) with
  | some k => ⟨2, BitVec.ofNat 64 (termTypes.getD k 0 + charOctets cs 0 k 8 + charCodes cs (k + 1) 8)⟩
  | none =>
    if cs.all EthChar.isData then ⟨1, BitVec.ofNat 64 (charOctets cs 0 8 0)⟩
    else
      let lo := charOctets cs 1 4 0
      let hi := charOctets cs 5 8 0
      ⟨2, BitVec.ofNat 64 (match cs.getD 0 .idle, cs.getD 4 .idle with
        | .start, _ => 0x78 + charOctets cs 1 8 0
        | .seq, .start => 0x66 + lo + hi
        | .seq, .seq => 0x55 + lo + hi
        | .seq, _ => 0x4B + lo + charCodes cs 4 8
        | _, .start => 0x33 + charCodes cs 0 4 + hi
        | _, .seq => 0x2D + charCodes cs 0 4 + hi
        | _, _ => 0x1E + charCodes cs 0 8)⟩

/-- The data characters in the places from `a` up to `b`, each `off` bits above its own place. -/
def dataChars (w a b off : Nat) : List EthChar :=
  ((List.range b).drop a).map (fun k => .data (BitVec.ofNat 8 (w / 2 ^ (8 * k + off))))

/-- The control characters in the places from `a` up to `b`: 00h is idle, every other code an error. -/
def codeChars (w a b : Nat) : List EthChar :=
  ((List.range b).drop a).map (fun k => if w / 2 ^ (8 + 7 * k) % 128 = 0 then .idle else .error)

/-- The characters of a block; those of an invalid one are errors. -/
def decode66 (b : Block) : List EthChar :=
  let w := b.bits.toNat
  if b.header = 1 then dataChars w 0 8 0
  else if b.header = 2 then
    match termTypes.findIdx? (· == w % 256) with
    | some k => dataChars w 0 k 8 ++ [.term] ++ codeChars w (k + 1) 8
    | none =>
      let lo := dataChars w 1 4 0
      let hi := dataChars w 5 8 0
      match w % 256 with
      | 0x78 => .start :: dataChars w 1 8 0
      | 0x66 => .seq :: lo ++ .start :: hi
      | 0x55 => .seq :: lo ++ .seq :: hi
      | 0x4B => .seq :: lo ++ codeChars w 4 8
      | 0x33 => codeChars w 0 4 ++ .start :: hi
      | 0x2D => codeChars w 0 4 ++ .seq :: hi
      | 0x1E => codeChars w 0 8
      | _ => List.replicate 8 .error
  else List.replicate 8 .error

/-- Complete blocks of a stream of characters, and the characters left over; the first argument bounds the blocks. -/
def cutBlocks : Nat → List EthChar → List Block × List EthChar
  | 0, l => ([], l)
  | n + 1, l =>
    if l.length < 8 then ([], l)
    else
      let r := cutBlocks n (l.drop 8)
      (encode66 (l.take 8) :: r.1, r.2)

/-- The idle characters that follow a terminate character at place `p` of a column, and the deficit after them: an average
gap of 12 characters, the terminate character among them, with the next start in place 0 (Clause 46). -/
def gapIdles (p deficit : Nat) : Nat × Nat :=
  let r := (p + 12) % 4
  if r = 0 then (11, deficit)
  else if deficit + r ≤ 3 then (11 - r, deficit + r)
  else (15 - r, deficit + r - 4)

end Sys2Proof.Machine
end

