-- ==== Sys2Proof/Machine/Line.lean ====
section
/-! DEFINITION. Line: access to the logical lanes, and blocks as they leave one (08). -/
namespace Sys2Proof.Machine
open Sys2Proof

/-- Logical lane `l`. -/
def laneOf (s : State) (l : Nat) : Lane := tget (fun _ => Lane.init) s.lane l

/-- Set logical lane `l`. -/
def setLane (s : State) (l : Nat) (x : Lane) : State := { s with lane := tput (fun _ => Lane.init) s.lane l x }

/-- The mode of lane `l`: 0 OFF, 1 NATIVE, 2 KWR, 3 ETHERNET. -/
def laneMode (s : State) (l : Nat) : Nat := s.get (LNE_CTL_mode l)

/-- The link state of lane `l`: 0 OFF, 1 TRAIN, 2 SEEK, 3 UP. -/
def link (s : State) (l : Nat) : Nat := s.get (LNE_STAT_link l)

/-- A command begins to act on lane `l`: it has sent nothing yet. -/
def fresh (s : State) (l : Nat) : State := setLane s l { laneOf s l with out := [], line := [] }

/-- Blocks leave the lane, scrambled; in near-end loopback they are on their way to the lane's own receiver (R175, R197). -/
def emitBlocks (s : State) (l : Nat) (bs : List Block) : State :=
  let x := laneOf s l
  let r := scrambleAll x.scr bs
  setLane s l { x with
    out := x.out ++ bs, line := x.line ++ r.1, scr := r.2,
    back := if s.get (LNE_CTL_loop l) = 1 then x.back ++ bs else [] }

end Sys2Proof.Machine
end

