-- ==== Sys2Proof/Machine/KwrBits.lean ====
section
/-! DEFINITION. KwrBits: the blocks of the Kwasia ring as the lanes of a bonded group carry them (09 R204 to R206). -/
namespace Sys2Proof.Machine
open Sys2Proof

/-! ## Superblocks (R205) -/

/-- One step of the CRC-8, generator 07h. -/
def crc8Bit (c : BitVec 8) (b : Bool) : BitVec 8 :=
  if c.getLsbD 7 != b then (c <<< 1) ^^^ 0x07#8 else c <<< 1

/-- The CRC-8 over stream positions 0 to 503 of a superblock. -/
def crc8 (sb : BitVec 512) : BitVec 8 := (List.range 504).foldl (fun c i => crc8Bit c (sb.getLsbD i)) 0

/-- The CRC in positions 504 to 511. -/
def superCrc (sb : BitVec 512) : BitVec 8 := BitVec.ofNat 8 (bitsOf sb 504 8)

/-- The 14 words of a superblock. -/
def superWords (sb : BitVec 512) : List W36 := (List.range 14).map (fun j => BitVec.ofNat 36 (bitsOf sb (36 * j) 36))

/-- The words in positions 0 to 503. -/
def packWords : List W36 → Nat
  | [] => 0
  | w :: t => w.toNat + packWords t * 2 ^ 36

/-- A superblock of 14 words with its CRC, complemented where it is stomped. -/
def superBits (words : List W36) (stomped : Bool) : BitVec 512 :=
  let p := packWords (words.take 14)
  let c := crc8 (BitVec.ofNat 512 p)
  BitVec.ofNat 512 (p + (if stomped then ~~~ c else c).toNat * 2 ^ 504)

/-- Data block `i` of a superblock. -/
def superBlock (sb : BitVec 512) (i : Nat) : Block := dataBlock (BitVec.ofNat 64 (bitsOf sb (64 * i) 64))

/-! ## Control blocks (Table 9.2) -/

/-- The control block of the ring; a superblock has none. -/
def kwrControl : KwrBlock → Block
  | .cycle n pos alarm counting =>
    controlBlock 0xC0 (n.toNat + pos.toNat * 2 ^ 36 + b2n alarm * 2 ^ 44 + b2n counting * 2 ^ 45)
  | .cycleEnd n late => controlBlock 0xC1 (n % 1024 + b2n late * 2 ^ 10)
  | .fill => controlBlock 0xC2 0
  | .time tb dly => controlBlock 0xC3 (tb.toNat + dly.toNat * 2 ^ 28)
  | .ack seq pos nak => controlBlock 0xC4 (seq.toNat + pos.toNat * 2 ^ 24 + b2n nak * 2 ^ 32)
  | .replay seq restart => controlBlock 0xC5 (seq.toNat + b2n restart * 2 ^ 24)
  | .mgmt m => controlBlock 0xC6 (m.dst.toNat + m.src.toNat * 2 ^ 8 + m.seg.toNat * 2 ^ 16 + m.data.toNat * 2 ^ 24)
  | .slot => controlBlock 0xC7 0
  | .timeHigh hi hop => controlBlock 0xC9 (hi.toNat + hop.toNat * 2 ^ 44)
  | .super _ _ => controlBlock 0xC2 0

/-- Data blocks `i` of a superblock on lane `j` of a group of `w`: those with i mod w = j (R206). -/
def superOn (sb : BitVec 512) (w j : Nat) : List Block :=
  ((List.range 8).filter (fun i => i % w == j)).map (superBlock sb)

/-- What lane `j` of a group of `w` carries of a block of the ring: every control block, and its share of a superblock (R204,
R206). -/
def kwrLine (w j : Nat) : KwrBlock → List Block
  | .super words stomped => superOn (superBits words stomped) w j
  | b => [kwrControl b]

end Sys2Proof.Machine
end

