-- ==== Sys2Proof/Machine/KwrCore.lean ====
section
/-! DEFINITION. KwrCore: the state machine of a KWR engine as its lanes and its role drive it, and what it sends on them
(R204, R212, R228). -/
namespace Sys2Proof.Machine
open Sys2Proof

/-- KWR engine `k`. -/
def kwrOf (s : State) (k : Nat) : Kwr := tget (fun _ => Kwr.init) s.kwr k

/-- Set KWR engine `k`. -/
def setKwr (s : State) (k : Nat) (x : Kwr) : State := { s with kwr := tput (fun _ => Kwr.init) s.kwr k x }

/-- The engine's state code (Table 9.12). -/
def kwrState (s : State) (k : Nat) : Nat := s.get (KWR_STAT_state k)

/-- The engine is set as head. -/
def isHead (s : State) (k : Nat) : Bool := s.get (KWR_CFG_role k) == 2

/-- Lanes of the bonded group (R201). -/
def kwrWidth (s : State) (k : Nat) : Nat := 2 ^ min 2 (s.get (KWR_CFG_width k))

/-- The logical lanes of the bonded group. -/
def kwrLanes (s : State) (k : Nat) : List Nat := (List.range (kwrWidth s k)).map (fun i => 4 * k + i)

/-- Every lane of the group is UP. -/
def groupUp (s : State) (k : Nat) : Bool := (kwrLanes s k).all (fun l => s.get (LNE_STAT_link l) == 3)

/-- The engine takes part in the ring: its lanes are up and it is not in FAULT. -/
def kwrOn (s : State) (k : Nat) : Bool := decide (2 ≤ kwrState s k) && decide (kwrState s k ≤ 5)

/-! ## Sending (R204 to R206) -/

/-- A new command: neither the engine nor a lane of its cord has sent anything in it yet. -/
def kwrFresh (s : State) (k : Nat) : State :=
  (List.range 4).foldl (fun s j => fresh s (4 * k + j)) (setKwr s k { kwrOf s k with out := [] })

/-- The engine sends a block: it goes out on the lanes of its group, but for a lane in far-end loopback, which sends back what
it receives (Table 8.16). -/
def kwrNow1 (s : State) (k : Nat) (b : KwrBlock) : State :=
  let s := setKwr s k { kwrOf s k with out := (kwrOf s k).out ++ [b] }
  (List.range (kwrWidth s k)).foldl (fun s j =>
    if s.get (LNE_CTL_loop (4 * k + j)) = 2 then s else emitBlocks s (4 * k + j) (kwrLine (kwrWidth s k) j b)) s

/-- Send blocks at once, in order. -/
def kwrNow (s : State) (k : Nat) (bs : List KwrBlock) : State := bs.foldl (fun s b => kwrNow1 s k b) s

/-! ## States (R212, R227, R232) -/

/-- The engine changes state: an event on E(938 + 8k), 4101h when it leaves CYCLING, windows off outside
CYCLING (R212, R227, R232). `cause` is 4101h's. -/
def kwrGo (s : State) (k st cause : Nat) : State :=
  let old := kwrState s k
  if old = st then s
  else
    let s := offerEvent (s.put (KWR_STAT_state k) st) (938 + 8 * k)
    let s := setKwr s k { kwrOf s k with windows := st == 5, alignRun := 0, offRun := 0 }
    if old = 5 then raise s 0x4101 (packWord [(33, k), (30, cause)]) else s

/-- A cause of 4101h where Table 9.20 gives none: it is free (DESIGN CHOICE, log entry 28). -/
def freeCause (s : State) : Nat := (Config.freeWord s.free).toNat % 8

/-- aligned takes a value; a change offers an event on E(941 + 8k). -/
def kwrAligned (s : State) (k : Nat) (b : Bool) : State :=
  if s.flag (KWR_STAT_aligned k) = b then s
  else offerEvent (s.put (KWR_STAT_aligned k) (b2n b)) (941 + 8 * k)

/-- The engine enters FAULT with a cause (Table 9.4). Of an engine that was CYCLING, the cause in 4101h is free. -/
def kwrFault (s : State) (k cause : Nat) : State :=
  let s := (kwrGo s.tookFree k 6 (freeCause s)).put (KWR_STAT_fault k) cause
  raise s 0x4104 (packWord [(33, k), (31, cause)])

/-- A lane of the group is not UP: the engine goes to TRAIN, its replay buffer kept, and resends from its
mark on return (R212, R228). -/
def kwrLaneDown (s : State) (k : Nat) : State :=
  let st := kwrState s k
  if 2 ≤ st ∧ st ≤ 5 ∧ groupUp s k = false then
    let s := setKwr s k { kwrOf s k with resendDue := true, queue := [], held := [], waiting := false, due := 0 }
    kwrGo s k 1 0
  else s

/-- Words in superblocks of 14 (R205). -/
def supersOf : Nat → List W36 → List KwrBlock
  | 0, _ => []
  | _, [] => []
  | n + 1, l => .super (l.take 14) false :: supersOf n (l.drop 14)

/-- The rewind mark as a sequence number (R219). -/
def kwrMark (x : Kwr) : BitVec 24 := x.nextSeq - BitVec.ofNat 24 x.replay.length

/-- REPLAY carrying the mark, and the words from the mark again (R219, R220). -/
def resend (x : Kwr) : List KwrBlock := .replay (kwrMark x) false :: supersOf 1171 x.replay

/-- Every lane of the group is UP and deskewed: the head goes to COUNT, a node to WAIT; a group that cannot
be deskewed is a FAULT (R206, R212). -/
def kwrLanesUp (s : State) (k : Nat) : State :=
  if kwrState s k = 1 ∧ groupUp s k = true then
    let x := kwrOf s k
    let s := setKwr s k { x with resendDue := false }
    let s := if x.resendDue && !x.restartOwed then kwrNow s k (resend x) else s
    if x.deskewed = false ∧ kwrWidth s k ≠ 1 then kwrFault s k 2
    else if isHead s k then kwrGo (setKwr s k { kwrOf s k with counting := true }) k 2 0
    else kwrGo s k 3 0
  else s

/-- The engine follows its lanes. -/
def kwrFollow (s : State) (k : Nat) : State := kwrLanesUp (kwrLaneDown s k) k

/-- The engine goes OFF: windows and replay buffer cleared, the state machine at rest (Table 9.7). The sticky alarm flag clears
only by its own actions (R215). -/
def kwrOff (s : State) (k cause : Nat) : State :=
  let s := kwrGo s k 0 cause
  let s := kwrAligned s k false
  let x := kwrOf s k
  let s := setKwr s k { Kwr.init with
    deskewed := x.deskewed, alarm := x.alarm, mgmtOut := x.mgmtOut, cycleNo := x.cycleNo }
  let s := ((s.put (KWR_STAT_position k) 0).put (KWR_STAT_nodes k) 0).put (KWR_STAT_bp k) 0
  s.setWord (KWR_RPL k) 0

/-- A write of role, of whatever value but 11b: OFF, then TRAIN in the new role, and on at once when the lanes are up (R212,
Table 9.7). -/
def kwrRole (s : State) (k role : Nat) : State :=
  if role = 3 then s
  else
    let s := kwrOff (kwrFresh (s.put (KWR_CFG_role k) role) k) k 3
    if role = 0 then s else kwrLanesUp (kwrGo s k 1 0) k

/-- A transport writes the role, while the MGC serves the dictionary in full (R17, Table 15.15). -/
def execKwrRoleWrite (k : Fin 6) (role : BitVec 2) (s : State) : Host.Outcome State Fault Refusal :=
  .next (if s.mgcFull then kwrRole (commandIf s false (role != 3) (25 + k.val) role.toNat) k.val role.toNat else s)

/-- A write of the width is effective only while the role is OFF (Table 9.8); while it is not, the engine goes OFF
with its windows and replay buffer cleared, and starts again from TRAIN (Table 9.7); 4101h has no cause for it. -/
def kwrWidthWrite (s : State) (k w : Nat) : State :=
  if w = 3 then s
  else if s.get (KWR_CFG_role k) = 0 then s.put (KWR_CFG_width k) w
  else kwrLanesUp (kwrGo (kwrOff (kwrFresh s k).tookFree k (freeCause s)) k 1 0) k

def execKwrWidthWrite (k : Fin 6) (w : BitVec 2) (s : State) : Host.Outcome State Fault Refusal :=
  .next (kwrWidthWrite s k.val w.toNat)

end Sys2Proof.Machine
end

