-- ==== Sys2Proof/Machine/Lane.lean ====
section
/-! DEFINITION. Lane: serial lanes and cords: alignment, adaptation, training, power states, native and
Ethernet framing (08). -/
namespace Sys2Proof.Machine
open Sys2Proof

/-! ## Access -/

/-- The aligner of lane `l`: 0 NOSIG, 1 HUNT, 2 VERIFY, 3 LOCKED. -/
def align (s : State) (l : Nat) : Nat := s.get (LNE_STAT_align l)

/-- The map entry of logical lane 4n + k (R193). -/
def mapField (n k : Nat) : Field := ⟨LNE_CORD_CFG n, 24 + 2 * k, 2⟩

/-- The physical lane that serves logical lane `l` (R193). -/
def physLane (s : State) (l : Nat) : Nat := 4 * (l / 4) + s.get (mapField (l / 4) (l % 4))

/-- The rate code of lane `l`'s cord (Table 8.1). -/
def laneRate (s : State) (l : Nat) : Nat := s.get (LNE_CORD_CFG_rate (l / 4))

/-! ## Calibration presets (R185, R404 to R406) -/

/-- Write the presets of physical lane `p` for rate `r`; src reads 0 (Table 8.21). -/
def presetEq (s : State) (p r : Nat) : State :=
  (s.setWord (LNE_EQ p) (calWord s 3 (10 * (4 * p + r)))).put (LNE_EQ_src p) 0

/-- The MGC writes the presets of a cord's physical lanes; reserved bits stay 0 (R198). -/
def presetCord (s : State) (n : Nat) : State :=
  (List.range 4).foldl (fun s k =>
    let p := 4 * n + k
    let r := s.get (LNE_CORD_CFG_rate n)
    (presetEq s p r).setWord (LNE_TXEQ p) (withBits (calWord s 3 (10 * (4 * p + r) + 5)) 0 19 0)) s

/-- The LMS loop runs on a valid block; the coefficients it reaches are not stated, so they are free (R184). -/
def adapt (s : State) (l : Nat) : State :=
  if s.flag (LNE_CTL_adapt_en l) && decide (2 ≤ align s l) && !s.flag (LNE_STAT_frozen l)
      && !s.flag (LNE_STAT_rx_hold l) then
    let p := physLane s l
    ((s.setWord (LNE_EQ p) (Config.freeWord s.free)).put (LNE_EQ_src p) 1).tookFree
  else s

/-! ## Cord PLLs (R171, R172) -/

/-- The test engine tests a lane of cord `n`: in a lane slice, or in a full test, which runs every cord PLL (R359). -/
def laneTested (s : State) (n : Nat) : Bool :=
  s.pwr.phase == .bist || (s.pwr.phase == .shutdown && s.get SCB_SDT_status == 1) ||
  (match s.scb.handover with
   | .laneTest l => l.val / 4 == n
   | _ => false)

/-- The cord PLL is needed: a lane neither OFF nor BANKED, or a lane under test (R171). -/
def pllNeeded (s : State) (n : Nat) : Bool :=
  s.pwr.clocked &&
  ((List.range 4).any (fun k => laneMode s (4 * n + k) != 0 && s.get (LNE_STAT_pwr_act (4 * n + k)) != 2) ||
    laneTested s n)

/-! ## Receive path into F2l (R179 to R181) -/

/-- The abort entry owed after an overflow is written as soon as the FIFO accepts an entry (R181). -/
def rxPayOwed (s : State) (l : Nat) : State :=
  if (laneOf s l).rxOwed then
    if !(fifoOf s (2 * l)).sl.open0 then setLane s l { laneOf s l with rxOwed := false }
    else
      let r := fifoPush s (2 * l) ⟨0, true, true⟩
      if r.2 then setLane r.1 l { laneOf r.1 l with rxOwed := false } else r.1
  else s

/-- The lane writes an entry of the packet in progress; a refusal drops the rest (R181). -/
def rxWrite (s : State) (l : Nat) (e : Entry) : State :=
  if (laneOf s l).rxDrop then s
  else
    let r := fifoPush s (2 * l) e
    if r.2 then setLane r.1 l { laneOf r.1 l with rxWrote := true }
    else
      let s := r.1.bump (LNE_PKT_ovf l) 1
      let x := laneOf s l
      setLane s l { x with rxDrop := true, rxOwed := x.rxWrote && (fifoOf s (2 * l)).sl.open0 }

/-- Write the held words; the last one ends the packet, with A as given. -/
def rxFinish (s : State) (l : Nat) (words : List W36) (a : Bool) : State :=
  let s := (words.dropLast).foldl (fun s w => rxWrite s l ⟨w, false, false⟩) s
  match words.getLast? with
  | some w => rxWrite s l ⟨w, true, a⟩
  | none => s

/-- The receive path is outside a packet. -/
def rxClear (s : State) (l : Nat) : State :=
  setLane s l { laneOf s l with
    rxIn := false, rxHeld := [], rxAcc := 0, rxAccLen := 0, rxWords := 0,
    rxCrc := 0xFFFFFFFF#32, rxCrcs := [], rxBad := false, rxWrote := false, rxDrop := false, rxPre := 0, rxOctets := 0 }

/-- The words of a packet in progress as an abort writes them: in Ethernet mode with the octets of a part
word, whose unused nonets have their valid flag clear (R6). -/
def rxRest (x : Lane) (eth : Bool) : List W36 :=
  x.rxHeld ++ (if eth && decide (0 < x.rxAccLen) then [BitVec.ofNat 36 x.rxAcc] else [])

/-- A packet in progress ends at once, its held word written with E and A; it counts in crc unless it overflows
(R179, R180, R196). -/
def rxAbort (s : State) (l : Nat) : State :=
  let x := laneOf s l
  if !x.rxIn then s
  else if x.rxDrop || !(fifoOf s (2 * l)).sl.open0 then
    rxClear (if x.rxDrop then s else s.bump (LNE_PKT_crc l) 1) l
  else
    let s := rxFinish s l (rxRest x (laneMode s l == 3)) true
    let s := if (laneOf s l).rxDrop then s else s.bump (LNE_PKT_crc l) 1
    rxClear s l

/-- A packet or frame begins; while an abort entry is owed it is dropped whole (R181). -/
def rxBegin (s : State) (l : Nat) : State :=
  let s := rxPayOwed (rxClear s l) l
  let x := laneOf s l
  if x.rxOwed then setLane (s.bump (LNE_PKT_ovf l) 1) l { x with rxIn := true, rxDrop := true }
  else setLane s l { x with rxIn := true }

/-- A block error: counted, and an event on E(889 + 2l) (R179). Inside a packet its end carries A. -/
def blockError (s : State) (l : Nat) : State :=
  let s := setLane s l { laneOf s l with rxBad := (laneOf s l).rxIn }
  offerEvent (s.bump (LNE_ERR_blk l) 1) (889 + 2 * l)

/-! ## Links (R191) -/

/-- The link takes a state: an event on E(888 + 2l); each entry to UP is logged (R191). -/
def setLink (s : State) (l v : Nat) : State :=
  if link s l = v then s
  else
    let s := offerEvent (s.put (LNE_STAT_link l) v) (888 + 2 * l)
    if v = 3 then logState s 3 0x6310 (1 + l) 3 else s

/-- LNE_STAT.frozen: adaptation is frozen by idle blocks or by hold (R184, R188). -/
def showFrozen (s : State) (l : Nat) : State :=
  s.put (LNE_STAT_frozen l) (b2n ((laneOf s l).iced || s.flag (LNE_STAT_rx_hold l)))

/-- Steps 2 to 4 of an attempt have to be done anew (Table 8.12). -/
def attemptClear (s : State) (l : Nat) : State :=
  setLane s l { laneOf s l with adapted := false, ready := false, trainCount := 0, trainSent := 0, partnerOk := false }

/-- Start a training attempt, from presets or from the coefficients in use (Table 8.8, Table 8.12); adaptation never freezes
during it (R184). -/
def startAttempt (s : State) (l : Nat) (presets : Bool) : State :=
  let s := if presets then presetEq s (physLane s l) (laneRate s l) else s
  let s := attemptClear s l
  let s := showFrozen (setLane s l { laneOf s l with iced := false, keepEq := false }) l
  setLink (s.put (LNE_STAT_backoff l) 0) l 1

/-- A new attempt sequence begins. -/
def newSequence (s : State) (l : Nat) : State :=
  let s := s.put (LNE_STAT_partner l) 0
  setLane s l { laneOf s l with backoff := s.get LNE_SEEK_CFG_bmin, spareRaised := false }

/-- The transmitter's electrical idle ends with its link's time in UP (R187). -/
def idleEnds (s : State) (l : Nat) : State :=
  let s := setLane s l { laneOf s l with txIdle := false }
  if s.get (LNE_STAT_pwr_act l) = 1 then s.put (LNE_STAT_pwr_act l) 0 else s

/-- Lanes train from RUN on (Table 1.4 step 9), and not while a JTAG instruction has the pins (R374). -/
def lanesRun (s : State) : Bool :=
  !s.flag SCB_JTAG_ext &&
  match s.pwr.phase with
  | .run | .simmerEntry | .simmer | .simmerExit => true
  | _ => false

/-- A lane with a mode, out of BANKED and with its PLL locked leaves OFF; with a signal its aligner hunts. -/
def laneKick (s : State) (l : Nat) : State :=
  if laneMode s l ≠ 0 ∧ s.get (LNE_STAT_pwr_act l) ≠ 2 ∧ lanesRun s = true then
    let s := if align s l = 0 ∧ (laneOf s l).signal = true then s.put (LNE_STAT_align l) 1 else s
    if link s l = 0 ∧ s.flag (LNE_CORD_CFG_pll_lock (l / 4)) = true then startAttempt (newSequence s l) l (!(laneOf s l).keepEq) else s
  else s

/-- The transmit path is outside a packet; what it still drops up to E it goes on dropping (R178). -/
def txClear (s : State) (l : Nat) : State :=
  setLane s l { laneOf s l with
    txIn := false, txWords := 0, txAcc := 0, txAccLen := 0, txCrc := 0xFFFFFFFF#32, chars := [], deficit := 0 }

/-- The link goes OFF, and the lane's FIFOs with it: a packet in progress ends, hold and freeze end (Tables 8.6, 8.11). A link
that leaves UP keeps its coefficients for the next attempt (Table 8.8). -/
def linkOff (s : State) (l : Nat) : State :=
  let up := link s l == 3
  let s := idleEnds (attemptClear (txClear (rxAbort s l) l) l) l
  let x := laneOf s l
  let s := setLane s l { x with txDrop := false, iced := false, keepEq := x.keepEq || up, back := [] }
  let s := ((s.put (LNE_STAT_rx_hold l) 0).put (LNE_STAT_frozen l) 0).put (LNE_STAT_backoff l) 0
  let s := s.put (LNE_STAT_partner l) 0
  kwrFollow (setLink s l 0) (l / 4)

/-- The link leaves UP for TRAIN: 3101h with its cause, and an attempt from the coefficients in use (R191). -/
def linkDown (s : State) (l cause : Nat) : State :=
  if link s l = 3 then
    let s := idleEnds (txClear (rxAbort s l) l) l
    let s := raise s 0x3101 (packWord [(31, l), (29, cause)])
    let s := startAttempt (newSequence (s.put (LNE_STAT_rx_hold l) 0) l) l false
    kwrFollow s (l / 4)
  else s

/-- The cord PLL stops when nothing needs it (R171). -/
def pllUpdate (s : State) (n : Nat) : State :=
  if pllNeeded s n then s else s.put (LNE_CORD_CFG_pll_lock n) 0

/-- The cord PLL is unlocked: the FIFOs of its lanes seal, and every link of the cord is OFF (R172, R180). -/
def pllLost (s : State) (n : Nat) : State :=
  let s := updateSeals (s.put (LNE_CORD_CFG_pll_lock n) 0)
  updateSeals ((List.range 4).foldl (fun s k => linkOff s (4 * n + k)) s)

/-- The reference of a cord stops or its PLL loses lock (R172). -/
def cordRefLost (s : State) (n : Nat) (stopped : Bool) : State :=
  let s := pllLost s n
  raise (s.put (LNE_CORD_CFG_ref_lost n) 1) 0x3102 (packWord [(33, n), (32, b2n stopped)])

/-- The PLL of cord `n` loses lock, or the reference input that feeds it stops, and with it the cords that the input feeds
(R172, Table 8.2). -/
def cordsLost (s : State) (n : Nat) (stopped : Bool) : State :=
  if stopped then (List.range 3).foldl (fun s i => cordRefLost s (3 * (n / 3) + i) true) s else cordRefLost s n false

def execCordRefLost (n : Fin 6) (stopped : Bool) (s : State) : Host.Outcome State Fault Refusal :=
  .next (cordsLost s n.val stopped)

/-- A cord PLL locks; each lane whose mode is not OFF starts training (R172, R191). -/
def cordLock (s : State) (n : Nat) : State :=
  if pllNeeded s n then
    let s := updateSeals (s.put (LNE_CORD_CFG_pll_lock n) 1)
    (List.range 4).foldl (fun s k => laneKick s (4 * n + k)) s
  else s

def execCordPllLock (n : Fin 6) (s : State) : Host.Outcome State Fault Refusal := .next (cordLock s n.val)

/-- A rate write has effect only while every lane of the cord is OFF; the MGC writes the presets of the new
rate (Table 8.16, R198). -/
def cordRate (s : State) (n rate : Nat) : State :=
  if s.get (LNE_CORD_CFG_rate n) = rate then s
  else if (List.range 4).all (fun k => laneMode s (4 * n + k) == 0) then
    (List.range 4).foldl (fun s k => setLane s (4 * n + k) { laneOf s (4 * n + k) with keepEq := false })
      (presetCord (s.put (LNE_CORD_CFG_rate n) rate) n)
  else s

def execCordRateWrite (n : Fin 6) (rate : BitVec 2) (s : State) : Host.Outcome State Fault Refusal :=
  .next (cordRate s n.val rate.toNat)

/-- A new attempt from presets: a packet in progress ends (R191, R194). -/
def retrain (s : State) (l : Nat) : State :=
  if link s l = 0 then s
  else
    let wasUp := link s l == 3
    let s := idleEnds (txClear (rxAbort s l) l) l
    let s := if wasUp then newSequence s l else s
    kwrFollow (startAttempt (s.put (LNE_STAT_rx_hold l) 0) l true) (l / 4)

def execLaneRetrain (l : Fin 24) (s : State) : Host.Outcome State Fault Refusal := .next (retrain s l.val)

/-- Offset `k` of a map. -/
def mapAt (map k : Nat) : Nat := map >>> (2 * k) % 4

/-- A write of a lane's mode or cord map abandons a test slice of lanes that `p` picks (R363). -/
def laneSliceAbandon (s : State) (p : Nat → Bool) : State :=
  match s.scb.handover with
  | .laneTest l => if p l.val then pllUpdate (sliceEnd s 2) (l.val / 4) else s
  | .idle | .colCopy _ _ | .colWait _ _ | .colScan _ _ | .colTest _ _ | .blockWait _ _ | .blockCopy _ _
  | .blockTest _ _ | .fifoTest _ => s

/-- A map that is a permutation of 0 to 3 is stored; each lane that changes place and is not OFF retrains
(R193, R194). -/
def cordMap (s : State) (n map : Nat) : State :=
  if (List.range 4).all (fun p => (List.range 4).any (fun k => mapAt map k == p)) then
    let s := laneSliceAbandon s (fun l => l / 4 == n)
    (List.range 4).foldl (fun s k =>
      if s.get (mapField n k) = mapAt map k then s
      else
        let s := (s.put (mapField n k) (mapAt map k)).put (LNE_STAT_phys (4 * n + k)) (mapAt map k)
        let s := setLane s (4 * n + k) { laneOf s (4 * n + k) with keepEq := false }
        if laneMode s (4 * n + k) = 0 then s else retrain s (4 * n + k)) s
  else s

/-- LNE_STAT.phys of every lane shows the map in force (Table 8.18). -/
def showPhys (s : State) : State :=
  (List.range 24).foldl (fun s l => s.put (LNE_STAT_phys l) (s.get (mapField (l / 4) (l % 4)))) s

def execCordMapWrite (n : Fin 6) (map : BitVec 8) (s : State) : Host.Outcome State Fault Refusal :=
  .next (cordMap s n.val map.toNat)

/-! ## Modes and power states (R186 to R189, R197) -/

/-- The clocked sides of a lane's FIFOs seal and leave reset again, to re-seat (R197). -/
def pulseSeals (s : State) (l : Nat) : State :=
  let one := fun (s : State) (f : Fin 128) (side : Bool) =>
    if fifoUsed s f.val then unsealSide (sealSide s (.fifo f) side) (.fifo f) side else s
  updateSeals (one (one s (Fin.ofNat _ (2 * l)) false) (Fin.ofNat _ (2 * l + 1)) true)

/-- A mode write: the FIFOs of a lane that is not OFF seal and it goes OFF; it then trains in the new mode (R180, R197). -/
def laneModeWrite (s : State) (l mode : Nat) : State :=
  let s := laneSliceAbandon s (fun m => m == l)
  let s := if laneMode s l = 0 then s else (linkOff (pulseSeals s l) l).put (LNE_STAT_align l) 0
  let s := s.put (LNE_CTL_mode l) mode
  let s := updateSeals (pllUpdate s (l / 4))
  kwrFollow (laneKick s l) (l / 4)

def execLaneModeWrite (l : Fin 24) (mode : BitVec 2) (s : State) : Host.Outcome State Fault Refusal :=
  .next (laneModeWrite s l.val mode.toNat)

/-- Blocks as they are sent after `run` blocks without an IDLE: one IDLE in every 2,048 (R173; its place is the model's,
DESIGN CHOICE, log entry 62). -/
def withIdles (run : Nat) : List Block → List Block × Nat
  | [] => ([], run)
  | b :: r =>
    if b = idleBlock then
      let q := withIdles 0 r
      (b :: q.1, q.2)
    else if 2047 ≤ run then
      let q := withIdles 1 r
      (idleBlock :: b :: q.1, q.2)
    else
      let q := withIdles (run + 1) r
      (b :: q.1, q.2)

/-- Blocks leave a native transmitter, with the IDLE blocks that R173 asks for. -/
def emitNative (s : State) (l : Nat) (bs : List Block) : State :=
  let o := withIdles (laneOf s l).txRun bs
  let s := emitBlocks s l o.1
  setLane s l { laneOf s l with txRun := o.2 }

/-- The transmitter of a lane commanded into IDLE-HOLD, with its link UP and no packet in hand, sends 16 HOLD blocks
and goes to electrical idle (R187). -/
def idleHold (s : State) (l : Nat) : State :=
  let x := laneOf s l
  if s.get (LNE_CTL_pwr_state l) = 1 ∧ link s l = 3 ∧ x.txIn = false ∧ x.txIdle = false ∧ laneMode s l ≠ 3 then
    let holds := List.replicate 16 holdBlock
    let s := if laneMode s l = 1 then emitNative s l holds else emitBlocks s l holds
    (setLane s l { laneOf s l with txIdle := true }).put (LNE_STAT_pwr_act l) 1
  else s

/-- The transmitter returns to ACTIVE (R187). -/
def txWake (s : State) (l : Nat) : State :=
  (setLane s l { laneOf s l with txIdle := false }).put (LNE_STAT_pwr_act l) 0

/-- A readable entry in F2l + 1 with autowake ends IDLE-HOLD (R187). -/
def autowake (s : State) (l : Nat) : State :=
  if s.flag (LNE_CTL_autowake l) && s.get (LNE_STAT_pwr_act l) == 1 && !rempty (fifoOf s (2 * l + 1)) then
    (txWake s l).put (LNE_CTL_pwr_state l) 0
  else s

/-- The lane leaves BANKED: its FIFOs' sides leave reset once its PLL is locked, and the link trains from
presets (R189). -/
def leaveBanked (s : State) (l : Nat) : State :=
  if s.get (LNE_STAT_pwr_act l) = 2 then laneKick (updateSeals (s.put (LNE_STAT_pwr_act l) 0)) l else s

/-- Every lane is BANKED while the device is (Table 8.15): a commanded power state waits for its return. -/
def deviceBanked (s : State) : Bool :=
  match s.pwr.phase with
  | .bankedEntry | .banked | .bankedExit => true
  | _ => false

def laneActive (s : State) (l : Nat) : State :=
  let s := s.put (LNE_CTL_pwr_state l) 0
  let s := if deviceBanked s then s else leaveBanked s l
  if s.get (LNE_STAT_pwr_act l) = 1 then txWake s l else s

/-- A transport writes ACTIVE, while the MGC serves the dictionary in full (R17, Table 15.15). -/
def execLaneSetActive (l : Fin 24) (s : State) : Host.Outcome State Fault Refusal :=
  .next (if s.mgcFull then laneActive (setCommanded (fresh s l.val) (1 + l.val) 0) l.val else s)

/-- In ETHERNET mode a write of IDLE-HOLD has no effect; an autowake that is due acts at once (R187). -/
def laneIdleHold (s : State) (l : Nat) : State :=
  if laneMode s l = 3 then s
  else
    let s := s.put (LNE_CTL_pwr_state l) 1
    autowake (idleHold (if deviceBanked s then s else leaveBanked s l) l) l

def execLaneSetIdleHold (l : Fin 24) (s : State) : Host.Outcome State Fault Refusal :=
  .next (if s.mgcFull then laneIdleHold (setCommanded (fresh s l.val) (1 + l.val) 1) l.val else s)

/-- The lane goes BANKED at once from any link state (R189). -/
def laneGoBanked (s : State) (l : Nat) : State :=
  let s := s.put (LNE_STAT_pwr_act l) 2
  let s := (updateSeals s)
  let s := (linkOff s l).put (LNE_STAT_align l) 0
  let s := setLane s l { laneOf s l with keepEq := false }
  updateSeals (pllUpdate s (l / 4))

def laneBanked (s : State) (l : Nat) : State := laneGoBanked (s.put (LNE_CTL_pwr_state l) 2) l

def execLaneSetBanked (l : Fin 24) (s : State) : Host.Outcome State Fault Refusal :=
  .next (if s.mgcFull then laneBanked (setCommanded (fresh s l.val) (1 + l.val) 2) l.val else s)

def execLaneCntClear (l : Fin 24) (s : State) : Host.Outcome State Fault Refusal :=
  .next ((s.setWord (LNE_ERR l.val) 0).setWord (LNE_PKT l.val) 0)

/-! ## Alignment and adaptation (R182, R184) -/

def signalDetected (s : State) (l : Nat) : State :=
  let s := setLane s l { laneOf s l with signal := true }
  if align s l = 0 ∧ s.get (LNE_STAT_pwr_act l) ≠ 2 ∧ laneMode s l ≠ 0 ∧ lanesRun s = true then
    s.put (LNE_STAT_align l) 1
  else s

def execSignalDetected (l : Fin 24) (s : State) : Host.Outcome State Fault Refusal := .next (signalDetected s l.val)

/-- The aligner of a lane has left LOCKED: an attempt begins its steps again (Table 8.12 step 2). -/
def lockLostAttempt (s : State) (l : Nat) : State := if link s l = 1 then attemptClear s l else s

/-- Loss of signal takes the aligner to NOSIG, except in hold (R182, R188). -/
def signalLost (s : State) (l : Nat) : State :=
  let s := setLane s l { laneOf s l with signal := false }
  if s.flag (LNE_STAT_rx_hold l) then s else linkDown (lockLostAttempt (s.put (LNE_STAT_align l) 0) l) l 1

def execSignalLost (l : Fin 24) (s : State) : Host.Outcome State Fault Refusal := .next (signalLost s l.val)

/-- The aligner slips its candidate position by one bit (R182). -/
def slipOne (s : State) (l : Nat) : State := setLane s l { laneOf s l with slip := ((laneOf s l).slip + 1) % 66 }

/-- An invalid header, `gap` blocks after the previous one: a slip in HUNT and VERIFY; in LOCKED it counts, and 24
within 1,024 blocks lose the lock (Table 8.6), except in hold, where the aligner keeps its state (R188). In Ethernet mode
the BER monitor counts it (R195). -/
def invalidHeader (s : State) (l gap : Nat) : State :=
  if align s l = 1 ∨ align s l = 2 then (slipOne s l).put (LNE_STAT_align l) 1
  else if align s l = 3 then
    let s := s.bump (LNE_ERR_hdr l) 1
    let s := setLane s l { laneOf s l with berCount := (laneOf s l).berCount + 1 }
    if s.flag (LNE_STAT_rx_hold l) then s
    else
      let w := 0 :: ((laneOf s l).window.map (· + gap)).filter (· < 1024)
      if 24 ≤ w.length then
        let s := setLane s l { laneOf s l with window := [] }
        linkDown (lockLostAttempt ((s.put (LNE_STAT_align l) 1).bump (LNE_PKT_lockloss l) 1) l) l 0
      else setLane s l { laneOf s l with window := w }
  else s

def execAlignInvalidHeader (l : Fin 24) (gap : Nat) (s : State) : Host.Outcome State Fault Refusal :=
  .next (invalidHeader s l.val gap)

/-- 256 valid headers end HUNT; the loop adapts on the blocks of VERIFY (Table 8.6, R184). -/
def huntDone (s : State) (l : Nat) : State := if align s l = 1 then adapt (s.put (LNE_STAT_align l) 2) l else s

def execAlignHuntDone (l : Fin 24) (s : State) : Host.Outcome State Fault Refusal := .next (huntDone s l.val)

/-- LOCKED: the error window clears, and a link in SEEK starts an attempt at once (Tables 8.6, 8.11). The loop has run on
the blocks of VERIFY (R184). -/
def alignLocked (s : State) (l : Nat) : State :=
  if align s l = 2 then
    let s := adapt s l
    let s := setLane (s.put (LNE_STAT_align l) 3) l { laneOf s l with window := [], berCount := 0 }
    if link s l = 2 then
      startAttempt (setLane s l { laneOf s l with backoff := s.get LNE_SEEK_CFG_bmin }) l true
    else s
  else s

def execAlignLocked (l : Fin 24) (s : State) : Host.Outcome State Fault Refusal := .next (alignLocked s l.val)

/-- 65,536 consecutive idle blocks in UP freeze the loop (R184). -/
def adaptFreeze (s : State) (l : Nat) : State :=
  if link s l = 3 ∧ s.flag (LNE_CTL_adapt_en l) = true ∧ 2 ≤ align s l ∧ s.flag (LNE_STAT_rx_hold l) = false then
    showFrozen (setLane s l { laneOf s l with iced := true }) l
  else s

/-- 256 data blocks since the freeze resume it (R184). -/
def adaptResume (s : State) (l : Nat) : State := showFrozen (setLane s l { laneOf s l with iced := false }) l

def execAdaptFreeze (l : Fin 24) (s : State) : Host.Outcome State Fault Refusal := .next (adaptFreeze s l.val)

def execAdaptResume (l : Fin 24) (s : State) : Host.Outcome State Fault Refusal := .next (adaptResume s l.val)

/-! ## Blocks from the line (R197) -/

/-- A block, as the descrambler gives it, reaches the receiver of lane `l`, which acts on it by `f`. In near-end loopback
only the lane's own blocks arrive, in the order sent; in far-end loopback what arrives is sent straight back. -/
def fromLine (s : State) (l : Nat) (b : Block) (f : State → State) : State :=
  let s := fresh s l
  if s.get (LNE_CTL_loop l) = 1 then
    match (laneOf s l).back with
    | x :: r => if x = b then f (setLane s l { laneOf s l with back := r }) else s
    | [] => s
  else
    let t := f s
    if s.get (LNE_CTL_loop l) = 2 ∧ link t l ≠ 0 then emitBlocks t l [b] else t

/-! ## Native receive (R176 to R179) -/

/-- The receive path acts: native mode, the aligner LOCKED. -/
def rxNative (s : State) (l : Nat) : Bool := laneMode s l == 1 && align s l == 3 && s.pwr.clocked

/-- A native control block reaches a lane in KWR mode, UP: none but TRAIN and HOLD belongs there (R204). -/
def rxAlien (s : State) (l : Nat) : State :=
  if laneMode s l = 2 ∧ align s l = 3 ∧ link s l = 3 then blockError s l else s

/-- IDLE is ignored (Table 8.5). -/
def rxIdle (s : State) (l : Nat) : State := if rxNative s l then adapt s l else rxAlien s l

def execRxIdleBlock (l : Fin 24) (s : State) : Host.Outcome State Fault Refusal :=
  .next (fromLine s l.val idleBlock (fun s => rxIdle s l.val))

/-- START ends a packet in progress with abort and begins a packet (Table 8.5). -/
def rxStart (s : State) (l : Nat) : State :=
  if rxNative s l then
    let s := adapt s l
    if link s l = 3 then rxBegin (rxAbort s l) l else s
  else rxAlien s l

def execRxStartBlock (l : Fin 24) (s : State) : Host.Outcome State Fault Refusal :=
  .next (fromLine s l.val startBlock (fun s => rxStart s l.val))

/-- Cut complete words off a stream of bits: the words, and the bits left over. -/
def cutWords : Nat → Nat → Nat → List W36 × Nat × Nat
  | 0, acc, len => ([], acc, len)
  | n + 1, acc, len =>
    if len < 36 then ([], acc, len)
    else
      let r := cutWords n (acc / 2 ^ 36) (len - 36)
      (BitVec.ofNat 36 acc :: r.1, r.2.1, r.2.2)

/-- A data block inside a packet: the words held back are not the last and are written; the words it completes
are held (R176, R179). -/
def rxData (s : State) (l : Nat) (bits : BitVec 64) : State :=
  if rxNative s l then
    let s := adapt s l
    let x := laneOf s l
    if x.rxIn then
      let s := x.rxHeld.foldl (fun s w => rxWrite s l ⟨w, false, false⟩) s
      let r := cutWords 3 (x.rxAcc + bits.toNat * 2 ^ x.rxAccLen) (x.rxAccLen + 64)
      let crcs := (r.1.foldl (fun (p : List (BitVec 32) × BitVec 32) w =>
        let c := crc32Word p.2 w
        (p.1 ++ [c], c)) ([], x.rxCrc))
      setLane s l { laneOf s l with rxHeld := r.1, rxAcc := r.2.1, rxAccLen := r.2.2,
                                    rxWords := x.rxWords + r.1.length, rxCrcs := crcs.1, rxCrc := crcs.2 }
    else blockError s l
  else s

def execRxDataBlock (l : Fin 24) (bits : BitVec 64) (s : State) : Host.Outcome State Fault Refusal :=
  .next (fromLine s l.val (dataBlock bits) (fun s => rxData s l.val bits))

/-- END: the count and the CRC are checked and the held word is written with E, and with A if abort was set, the
check failed or a block error lay in the packet (R179). -/
def rxEnd (s : State) (l : Nat) (c : BitVec 56) : State :=
  if rxNative s l then
    let s := adapt s l
    let x := laneOf s l
    if !x.rxIn then blockError s l
    else if x.rxDrop then rxClear s l
    else
      let n := bitsOf c 4 20
      let before := x.rxWords - x.rxHeld.length
      if before < n ∧ n ≤ x.rxWords then
        let k := n - before
        let bad := (~~~ (x.rxCrcs.getD (k - 1) 0)).toNat != bitsOf c 24 32
        let s := rxFinish s l (x.rxHeld.take k) (c.getLsbD 0 || bad || x.rxBad)
        rxClear (if bad then s.bump (LNE_PKT_crc l) 1 else s) l
      else
        rxClear ((rxFinish s l x.rxHeld true).bump (LNE_PKT_crc l) 1) l
  else rxAlien s l

def execRxEndBlock (l : Fin 24) (content : BitVec 56) (s : State) : Host.Outcome State Fault Refusal :=
  .next (fromLine s l.val (controlBlock 0x66 content.toNat) (fun s => rxEnd s l.val content))

/-- The lane sends ready = 1 once it has adapted and the partner's rate and lane agree (Table 8.12 step 3). -/
def trainReady (s : State) (l : Nat) : State :=
  let x := laneOf s l
  setLane s l { x with ready := x.adapted && x.partnerOk }

/-- A TRAIN block: ready = 0 takes an UP link down; during an attempt it counts, and another logical lane keeps ready
at 0 (Table 8.5, R192). -/
def rxTrain (s : State) (l : Nat) (c : BitVec 56) : State :=
  if (laneMode s l = 1 ∨ laneMode s l = 2) ∧ align s l = 3 then
    let s := adapt s l
    let rdy := c.getLsbD 0
    let x := laneOf s l
    if link s l = 3 then
      if rdy then (if x.rxIn then blockError s l else s) else linkDown s l 2
    else if link s l = 0 then s
    else
      let s := s.put (LNE_STAT_partner l) 1
      let same := bitsOf c 1 2 == l % 4
      let s := setLane s l { x with partnerOk := same && bitsOf c 3 2 == laneRate s l,
                                    trainCount := if rdy then x.trainCount + 1 else 0 }
      let s := trainReady s l
      if same then s
      else
        let s := s.put (LNE_STAT_spare_ref l) 1
        if x.spareRaised then s
        else raise (setLane s l { laneOf s l with spareRaised := true }) 0x3104
          (packWord [(31, l), (29, physLane s l % 4), (27, bitsOf c 1 2)])
  else s

def execRxTrainBlock (l : Fin 24) (content : BitVec 56) (s : State) : Host.Outcome State Fault Refusal :=
  .next (fromLine s l.val (controlBlock 0x99 content.toNat) (fun s => rxTrain s l.val content))

/-- HOLD puts the receiver in hold, which freezes adaptation; a packet in progress ends with E and A (Table 8.5,
R188). -/
def rxHold (s : State) (l : Nat) : State :=
  if (laneMode s l = 1 ∨ laneMode s l = 2) ∧ align s l = 3 then
    showFrozen ((rxAbort (adapt s l) l).put (LNE_STAT_rx_hold l) 1) l
  else s

def execRxHoldBlock (l : Fin 24) (s : State) : Host.Outcome State Fault Refusal :=
  .next (fromLine s l.val holdBlock (fun s => rxHold s l.val))

/-- A block of invalid type or header, while LOCKED (Table 8.5). -/
def rxInvalid (s : State) (l : Nat) : State := if laneMode s l ≠ 0 ∧ align s l = 3 then blockError s l else s

def execRxInvalidBlock (l : Fin 24) (b : Block) (s : State) : Host.Outcome State Fault Refusal :=
  .next (fromLine s l.val b (fun s => rxInvalid s l.val))

/-- 64 consecutive valid headers at the kept position end hold (R188). -/
def holdExit (s : State) (l : Nat) : State :=
  if (laneOf s l).signal then showFrozen (s.put (LNE_STAT_rx_hold l) 0) l else s

def execRxHoldExit (l : Fin 24) (s : State) : Host.Outcome State Fault Refusal := .next (holdExit s l.val)

/-- 2 ms after the signal's return without 64 valid headers: the aligner hunts and the link leaves UP (R188). -/
def holdTimeout (s : State) (l : Nat) : State :=
  if s.flag (LNE_STAT_rx_hold l) && (laneOf s l).signal then
    linkDown (lockLostAttempt (showFrozen ((s.put (LNE_STAT_rx_hold l) 0).put (LNE_STAT_align l) 1) l) l) l 0
  else s

def execRxHoldTimeout (l : Fin 24) (s : State) : Host.Outcome State Fault Refusal := .next (holdTimeout s l.val)

/-! ## Training (R191, R192) -/

/-- Step 2 ends: 16,384 blocks of adaptation after LOCKED. -/
def trainAdaptDone (s : State) (l : Nat) : State :=
  if link s l = 1 ∧ align s l = 3 then
    let s := adapt s l
    trainReady (setLane s l { laneOf s l with adapted := true }) l
  else s

def execTrainAdaptDone (l : Fin 24) (s : State) : Host.Outcome State Fault Refusal := .next (trainAdaptDone s l.val)

/-- The attempt has succeeded: in ETHERNET mode hi_ber is clear; otherwise 16 TRAIN blocks with ready = 1 have been
received and sent (Table 8.12). -/
def trained (s : State) (l : Nat) : Bool :=
  let x := laneOf s l
  link s l == 1 && align s l == 3 &&
    (if laneMode s l = 3 then x.adapted && !x.hiBer
     else x.ready && decide (16 ≤ x.trainCount) && decide (16 ≤ x.trainSent))

/-- The link goes UP, and a native lane sends IDLE; `skew` is the lane-to-lane skew of its KWR group in block times (R206,
R212). -/
def trainSuccess (s : State) (l skew : Nat) : State :=
  if trained s l then
    let s := (s.put (LNE_STAT_attempts l) 0).put (LNE_STAT_partner l) 1
    let s := setLane s l { laneOf s l with backoff := s.get LNE_SEEK_CFG_bmin, maxRaised := false }
    let s := setLink s l 3
    let s := if laneMode s l = 1 then emitNative s l [idleBlock] else s
    let s := if laneMode s l = 2 then
        setKwr s (l / 4) { kwrOf s (l / 4) with deskewed := decide (skew ≤ 16) } else s
    kwrFollow (autowake (idleHold s l) l) (l / 4)
  else s

def execTrainSuccess (l : Fin 24) (skew : BitVec 8) (s : State) : Host.Outcome State Fault Refusal :=
  .next (trainSuccess (kwrFresh s (l.val / 4)) l.val skew.toNat)

/-- tmo elapses: SEEK with the present backoff; 3103h once when the backoff has become bmax (R191). -/
def trainTimeout (s : State) (l : Nat) : State :=
  if link s l = 1 then
    let s := s.bump (LNE_STAT_attempts l) 1
    let x := laneOf s l
    let s := setLink (s.put (LNE_STAT_backoff l) x.backoff) l 2
    if s.get LNE_SEEK_CFG_bmax ≤ x.backoff ∧ x.maxRaised = false then
      raise (setLane s l { laneOf s l with maxRaised := true }) 0x3103
        (packWord [(31, l), (21, s.get (LNE_STAT_attempts l))])
    else s
  else s

def execTrainTimeout (l : Fin 24) (s : State) : Host.Outcome State Fault Refusal := .next (trainTimeout s l.val)

/-- The backoff elapses: an attempt from presets, and the backoff doubles up to bmax. -/
def backoffElapsed (s : State) (l : Nat) : State :=
  if link s l = 2 then
    let s := setLane s l { laneOf s l with backoff := min (2 * (laneOf s l).backoff) (s.get LNE_SEEK_CFG_bmax) }
    startAttempt s l true
  else s

def execBackoffElapsed (l : Fin 24) (s : State) : Host.Outcome State Fault Refusal := .next (backoffElapsed s l.val)

/-! ## Ethernet receive (R195, R196) -/

/-- The invalid headers at which the BER monitor finds hi_ber: 16 within 125 us at 10.3125 Gb/s, 97 within 2 ms at
25.78125 Gb/s (PRESUMED from Clauses 49 and 107, log entry 72). -/
def berLimit (s : State) (l : Nat) : Nat := if laneRate s l = 3 then 97 else 16

/-- The BER monitor acts: its count of invalid headers has reached the limit, or its window has ended, and then hi_ber
clears if the count is below the limit. hi_ber set in UP takes the link down (Table 8.11). -/
def ethHiBer (s : State) (l : Nat) (ended : Bool) : State :=
  if laneMode s l = 3 then
    let x := laneOf s l
    let hi := decide (berLimit s l ≤ x.berCount)
    let s := setLane s l { x with
      hiBer := if ended then hi else x.hiBer || hi, berCount := if ended then 0 else x.berCount }
    if (laneOf s l).hiBer then linkDown s l 3 else s
  else s

def execEthHiBer (l : Fin 24) (ended : Bool) (s : State) : Host.Outcome State Fault Refusal :=
  .next (ethHiBer s l.val ended)

/-- A frame ends: its last entry has E set, and A if the frame was bad; a bad frame counts in crc (R196). -/
def ethEnd (s : State) (l : Nat) : State :=
  let x := laneOf s l
  if !x.rxIn then s
  else if x.rxDrop then rxClear s l
  else
    let s := rxFinish s l (rxRest x true) x.rxBad
    rxClear (if x.rxBad then s.bump (LNE_PKT_crc l) 1 else s) l

/-- One octet of a received frame: preamble and SFD are checked and removed; four octets fill an entry, first in
nonet 0, and the latest entry is held back; a frame past 16,383 octets is cut there (R6, R196). -/
def ethOctet (s : State) (l : Nat) (o : Octet) : State :=
  let x := laneOf s l
  if !x.rxIn then s
  else if 0 < x.rxPre then
    if x.rxPre = 1 ∧ o ≠ 0xD5#8 then rxClear (s.bump (LNE_PKT_crc l) 1) l
    else setLane s l { x with rxPre := x.rxPre - 1 }
  else if x.rxOctets = 16383 then ethEnd (setLane s l { x with rxBad := true }) l
  else
    let acc := x.rxAcc + (256 + o.toNat) * 512 ^ x.rxAccLen
    let s := if x.rxAccLen = 0 then
        x.rxHeld.foldl (fun s w => rxWrite s l ⟨w, false, false⟩) s else s
    let y := laneOf s l
    let held := if x.rxAccLen = 0 then [] else x.rxHeld
    if x.rxAccLen = 3 then
      setLane s l { y with rxHeld := held ++ [BitVec.ofNat 36 acc], rxAcc := 0, rxAccLen := 0, rxOctets := x.rxOctets + 1 }
    else setLane s l { y with rxHeld := held, rxAcc := acc, rxAccLen := x.rxAccLen + 1, rxOctets := x.rxOctets + 1 }

/-- An error lies in the frame in progress. -/
def ethBad (s : State) (l : Nat) : State := setLane s l { laneOf s l with rxBad := (laneOf s l).rxIn }

/-- The three octets of an ordered set: 00 00 01 is local fault, 00 00 02 remote fault (Clause 46, PRESUMED, log entry
72). -/
def ethFaultOf (x : Lane) (os : List Octet) : EthFault :=
  if os = [0, 0, 1] then .localFault else if os = [0, 0, 2] then .remoteFault else x.ethFault

/-- One character of a received block (R195, R196): anything but data and terminate inside a frame is an error in it. -/
def ethChar (s : State) (l : Nat) (c : EthChar) : State :=
  let x := laneOf s l
  match c, x.ethSeq with
  | .data o, some os =>
    let os := os ++ [o]
    if os.length = 3 then setLane s l { x with ethSeq := none, ethFault := ethFaultOf x os }
    else setLane s l { x with ethSeq := some os }
  | .data o, none => ethOctet s l o
  | .start, _ =>
    let s := rxBegin (ethEnd (ethBad s l) l) l
    setLane s l { laneOf s l with rxPre := 7, ethFault := .none, ethSeq := none }
  | .term, _ =>
    let s := setLane s l { x with ethSeq := none }
    if 0 < x.rxPre ∧ x.rxIn = true then rxClear (s.bump (LNE_PKT_crc l) 1) l else ethEnd s l
  | .error, _ => ethBad (setLane s l { x with ethSeq := none }) l
  | .idle, _ => ethEnd (ethBad (setLane s l { x with ethSeq := none }) l) l
  | .seq, _ =>
    let s := ethEnd (ethBad s l) l
    setLane s l { laneOf s l with ethSeq := some [] }

/-- A received Ethernet block, decoded (R195, R196); a block of idles ends the partner's fault signal. -/
def ethBlock (s : State) (l : Nat) (b : Block) : State :=
  if laneMode s l = 3 ∧ align s l = 3 then
    let s := if b.header = 1 ∨ b.header = 2 then adapt s l else s
    if link s l ≠ 3 then s
    else
      let cs := decode66 b
      let s := cs.foldl (fun s c => ethChar s l c) s
      if cs.all (· == .idle) then setLane s l { laneOf s l with ethFault := .none } else s
  else s

def execEthRxBlock (l : Fin 24) (b : Block) (s : State) : Host.Outcome State Fault Refusal :=
  .next (fromLine s l.val b (fun s => rxPayOwed (ethBlock s l.val b) l.val))

/-! ## Transmit paths, from F2l + 1 (R178, R192, R195, R196) -/

/-- The lane may take an entry: UP and not in electrical idle; while not UP only with tx_down, to discard it. In far-end
loopback it takes none, since it sends what it receives (DESIGN CHOICE, log entry 27). -/
def txTakes (s : State) (l : Nat) : Bool :=
  s.get (LNE_CTL_loop l) != 2 &&
  (if link s l = 3 then !(laneOf s l).txIdle else s.flag (LNE_CTL_tx_down l))

/-- One data word joins the packet in progress; `fin` closes it, with abort as given (R176). -/
def txWord (s : State) (l : Nat) (w : W36) (fin abort : Bool) : State :=
  let x := laneOf s l
  let blocks := if x.txIn then [] else [startBlock]
  let acc := (if x.txIn then x.txAcc else 0) + w.toNat * 2 ^ (if x.txIn then x.txAccLen else 0)
  let len := (if x.txIn then x.txAccLen else 0) + 36
  let n := (if x.txIn then x.txWords else 0) + 1
  let crc := crc32Word (if x.txIn then x.txCrc else 0xFFFFFFFF#32) w
  let blocks := blocks ++ (if 64 ≤ len then [dataBlock (BitVec.ofNat 64 acc)] else [])
  let acc := if 64 ≤ len then acc / 2 ^ 64 else acc
  let len := if 64 ≤ len then len - 64 else len
  if fin then
    let pad := if 0 < len then [dataBlock (BitVec.ofNat 64 acc)] else []
    txClear (emitNative s l (blocks ++ pad ++ [endBlock abort n (~~~ crc)])) l
  else
    let s := emitNative s l blocks
    setLane s l { laneOf s l with txIn := true, txAcc := acc, txAccLen := len, txWords := n, txCrc := crc }

/-- Entries of a packet that was cut are dropped up to the next with E (R178, R196). -/
def txDropped (s : State) (l : Nat) (e : Entry) : State :=
  setLane s l { laneOf s l with txDrop := (laneOf s l).txDrop && !e.e }

/-- The native transmit path frames one entry (R178). A packet cut at 1,048,575 words has been sent, so a lane commanded
into IDLE-HOLD goes there. -/
def nativeTx (s : State) (l : Nat) (e : Entry) : State :=
  let x := laneOf s l
  if e.a && !e.e then s
  else if x.txDrop then txDropped s l e
  else if e.e then idleHold (txWord s l e.data true e.a) l
  else if x.txIn ∧ x.txWords = 1048574 then
    let s := (txWord s l e.data true true).bump (LNE_PKT_txerr l) 1
    idleHold (setLane s l { laneOf s l with txDrop := true }) l
  else txWord s l e.data false false

/-- The octets of an entry: those whose valid flag is set, nonet 0 first (R6). -/
def entryOctets (w : W36) : List Octet :=
  (List.range 4).filterMap (fun k =>
    if w.getLsbD (9 * k + 8) then some (BitVec.ofNat 8 (bitsOf w (9 * k) 8)) else none)

/-- What the lane sends outside frames: local fault while not LOCKED or hi_ber; remote fault in answer to a
received local fault (Table 8.14); nothing where the link is OFF (R174). -/
def ethSends (s : State) (l : Nat) : Option EthFault :=
  let x := laneOf s l
  if laneMode s l ≠ 3 ∨ link s l = 0 then none
  else if align s l ≠ 3 ∨ x.hiBer = true then some .localFault
  else match x.ethFault with
    | .localFault => some .remoteFault
    | .none | .remoteFault => some .none

/-- Characters leave the MAC side of the lane; each eight make a block. -/
def ethPush (s : State) (l : Nat) (cs : List EthChar) : State :=
  let x := laneOf s l
  let r := cutBlocks (x.chars.length + cs.length) (x.chars ++ cs)
  emitBlocks (setLane s l { x with chars := r.2 }) l r.1

/-- A frame ends, with an error character if it is bad, and the gap follows (R195, R196). -/
def ethTail (s : State) (l : Nat) (bad : Bool) : State :=
  let s := if bad then ethPush s l [.error] else s
  let x := laneOf s l
  let g := gapIdles (x.chars.length % 4) x.deficit
  ethPush (setLane s l { x with deficit := g.2, txIn := false }) l (.term :: List.replicate g.1 .idle)

/-- The columns of four characters that the lane sends outside frames. -/
def ethColumn : EthFault → List EthChar
  | .none => List.replicate 4 .idle
  | .localFault => [.seq, .data 0, .data 0, .data 1]
  | .remoteFault => [.seq, .data 0, .data 0, .data 2]

/-- Outside frames the lane completes a block of idles or fault signals. -/
def ethIdle (s : State) (l : Nat) : State :=
  match ethSends s l with
  | none => s
  | some f => ethPush s l (ethColumn f ++ (if (laneOf s l).chars.length < 4 then ethColumn f else []))

/-- The Ethernet transmitter sends one entry of a frame, preamble and SFD first; the start character stands for the first
octet of the preamble (R195, R196). -/
def ethTx (s : State) (l : Nat) (e : Entry) : State :=
  let x := laneOf s l
  if e.a && !e.e then s
  else if x.txDrop then txDropped s l e
  else
    let pre := if x.txIn then [] else .start :: List.replicate 6 (.data 0x55) ++ [.data 0xD5]
    let s := ethPush (setLane s l { x with txIn := true }) l (pre ++ (entryOctets e.data).map .data)
    if e.e then ethTail s l e.a else s

/-- No readable entry in the middle of a frame: the frame ends with an error character and its further entries are
dropped up to E; outside a frame the lane sends idles (R196). -/
def ethEmpty (s : State) (l : Nat) : State :=
  if (laneOf s l).txIn then
    let s := ethTail (s.bump (LNE_PKT_txerr l) 1) l true
    setLane s l { laneOf s l with txDrop := true }
  else ethIdle s l

/-- While the link is not UP: TRAIN blocks until UP, in ETHERNET mode idles or local fault (R192); with tx_down an entry is
taken and discarded (R178). -/
def trainTx (s : State) (l : Nat) : State :=
  let s := if txTakes s l then
      match fifoPop s (2 * l + 1) with
      | (s, some e) => txDropped s l e
      | (s, none) => s
    else s
  if link s l = 0 then s
  else if laneMode s l = 3 then ethIdle s l
  else
    let x := laneOf s l
    let s := emitBlocks s l [trainBlock x.ready (l % 4) (laneRate s l)]
    setLane s l { laneOf s l with trainSent := if x.ready then x.trainSent + 1 else 0 }

/-- What a lane in KWR mode sends between the blocks of its engine: FILL, on the whole group at once where the engine takes part
in the ring (R204, R207; DESIGN CHOICE before it does, log entry 28). -/
def ringIdle (s : State) (l : Nat) : State :=
  if kwrOn s (l / 4) then (if l % 4 = 0 then kwrNow1 s (l / 4) .fill else s)
  else emitBlocks s l [kwrControl .fill]

/-- The transmitter of lane `l` asks for its next block: it takes an entry, or sends what the path sends without one (R178,
R192, R196). While the partner signals a fault no frame begins (Clause 46, PRESUMED, log entry 72). A bonded lane that is
UP belongs to its KWR engine. -/
def laneSend (s : State) (l : Nat) : State :=
  let s := kwrFresh s (l / 4)
  if link s l ≠ 3 then trainTx s l
  else if txTakes s l = false then s
  else match laneMode s l with
    | 1 =>
      match fifoPop s (2 * l + 1) with
      | (s, some e) => nativeTx s l e
      | (s, none) => emitNative s l [idleBlock]
    | 3 =>
      if (laneOf s l).txIn = false ∧ (laneOf s l).ethFault ≠ .none then ethIdle s l
      else match fifoPop s (2 * l + 1) with
        | (s, some e) => ethTx s l e
        | (s, none) => ethEmpty s l
    | _ => ringIdle s l

end Sys2Proof.Machine
end

