-- ==== Sys2Proof/Machine/Kwr.lean ====
section
/-! DEFINITION. Kwr: the Kwasia ring: frames, windows, per-hop retry, time alignment, management (09). -/
namespace Sys2Proof.Machine
open Sys2Proof

/-! ## Counts, positions, acknowledges (R212 to R216, R219) -/

/-- The transmit side is back-pressured (R219). -/
def kwrBp (x : Kwr) : Bool := decide (15872 ≤ x.replay.length)

/-- KWR_RPL_k and bp follow the buffer; the mark's address is its number modulo the buffer (Table 9.15). -/
def kwrRpl (s : State) (k : Nat) : State :=
  let x := kwrOf s k
  let s := (s.put (KWR_RPL_mark k) (kwrMark x).toNat).put (KWR_RPL_used k) x.replay.length
  s.put (KWR_STAT_bp k) (b2n (kwrBp x))

/-- Drop `d` acknowledged words from the frames they belong to. -/
def dropAcked : Nat → List Nat → List Nat
  | _, [] => []
  | d, n :: t => if n ≤ d then dropAcked (d - n) t else (n - d) :: t

/-- The mark moves to an acknowledged number; a number outside the unacknowledged words does nothing (R219). -/
def ackTo (x : Kwr) (seq : BitVec 24) : Kwr :=
  let d := (seq - kwrMark x).toNat
  if d ≤ x.replay.length then { x with replay := x.replay.drop d, frames := dropAcked d x.frames } else x

/-- A member's own position: the head's is 0 (R202). -/
def kwrPos (s : State) (k : Nat) : Nat := if isHead s k then 0 else s.get (KWR_STAT_position k)

/-- A node takes its position as it leaves WAIT; the head has its own (Table 9.4). -/
def kwrPlaced (s : State) (k : Nat) : Bool := isHead s k || decide (4 ≤ kwrState s k)

/-- A block addressed to position `p` is for this member. -/
def kwrMine (s : State) (k p : Nat) : Bool := kwrPlaced s k && p == kwrPos s k

/-- The member that consumes this receiver's ACK: the one upstream, which a head knows once it has counted the ring (R216). -/
def ackDest (s : State) (k : Nat) : Option Nat :=
  if isHead s k then (if s.get (KWR_STAT_nodes k) = 0 then none else some (s.get (KWR_STAT_nodes k) - 1))
  else if kwrPlaced s k then some (s.get (KWR_STAT_position k) - 1) else none

/-- Send an ACK carrying the next expected number to the member upstream (R216). -/
def sendAck (s : State) (k : Nat) (nak : Bool) : State :=
  match ackDest s k with
  | some d =>
    let s := kwrNow1 s k (.ack (kwrOf s k).expect (BitVec.ofNat 8 d) nak)
    setKwr s k { kwrOf s k with sinceAck := 0 }
  | none => s

/-- A missed or late cycle is counted (R213, R214). -/
def countMissed (s : State) (k : Nat) : State := offerEvent (s.bump (KWR_MCNT_missed k) 1) (940 + 8 * k)

/-! ## Windows (R209, R210) -/

/-- At its own CYCLE the engine latches its windows and its insert buffer (R209, R210). -/
def kwrLatch (s : State) (k : Nat) : State :=
  let x := kwrOf s k
  let il := s.get (KWR_IWIN_il k)
  let x := { x with
    xo := s.get (KWR_XWIN_xo k), xl := s.get (KWR_XWIN_xl k), io := s.get (KWR_IWIN_io k), il := il }
  match x.buffer with
  | some l =>
    if x.windows && decide (0 < il) && l.length == il then
      let s := setKwr s k { x with latched := some l, fresh := false }
      if x.fresh then s else s.bump (KWR_CNT_stale k) 1
    else setKwr s k { x with latched := none }
  | none => setKwr s k { x with latched := none }

/-- The words of a superblock that starts at frame word `i`, with the window's words written over them. -/
def insertWords (x : Kwr) (i : Nat) (ws : List W36) : List W36 :=
  match x.latched with
  | none => ws
  | some l => ws.mapIdx (fun j w => if x.io ≤ i + j ∧ i + j < x.io + x.il then l.getD (i + j - x.io) w else w)

/-- Write the cycle's extracted words to F8k as one packet; a refusal meets R181 on lane 4k (R209). -/
def extractWrite (s : State) (k : Nat) : State :=
  let x := kwrOf s k
  if x.extracted || x.extract.isEmpty then s
  else
    let s := setKwr s k { x with extracted := true, extract := [] }
    rxClear (rxFinish (rxBegin s (4 * k)) (4 * k) x.extract false) (4 * k)

/-- Collect the window's words of a good superblock (R209). -/
def extractWords (s : State) (k i : Nat) (ws : List W36) : State :=
  let x := kwrOf s k
  if x.windows then
    let mine := (ws.mapIdx (fun j w => (i + j, w))).filter (fun e => x.xo ≤ e.1 && e.1 < x.xo + x.xl)
    let s := setKwr s k { x with extract := x.extract ++ mine.map (·.2) }
    if x.xo + x.xl ≤ i + 14 then extractWrite s k else s
  else s

/-- The receive side starts a frame. -/
def frameStart (s : State) (k : Nat) : State :=
  setKwr s k { kwrOf s k with frameWords := 0, extract := [], extracted := false, skipFrame := false }

/-- Read F8k + 1 up to the end of a packet (R210); the first argument bounds the entries read. -/
def readPacket : Nat → State → Nat → State
  | 0, s, _ => s
  | n + 1, s, k =>
    match fifoPop s (8 * k + 1) with
    | (s, none) => s
    | (s, some e) =>
      if e.a && !e.e then readPacket n s k
      else
        let x := kwrOf s k
        let ws := x.reading ++ [e.data]
        if e.e then
          if e.a || ws.length != s.get (KWR_IWIN_il k) then
            (setKwr s k { x with reading := [] }).bump (KWR_MCNT_ins_err k) 1
          else setKwr s k { x with reading := [], buffer := some ws, fresh := true }
        else readPacket n (setKwr s k { x with reading := ws }) k

def execKwrInsertPacket (k : Fin 6) (s : State) : Host.Outcome State Fault Refusal :=
  .next (if s.get (KWR_CFG_role k.val) = 0 then s else readPacket 1100 s k.val)

/-! ## Transmit side (R214, R216, R219, R221) -/

/-- One more superblock belongs to the newest frame. -/
def addFrame (l : List Nat) : List Nat :=
  match l.getLast? with
  | some n => l.dropLast ++ [n + 14]
  | none => [14]

/-- A delay that runs from the moment `t` on, in 1/16 tick modulo 2^28. -/
def delayAt (t : W72) : BitVec 28 := BitVec.ofNat 28 (16 * t.toNat)

/-- A superblock is sent: numbered and kept for replay, after a REPLAY with restart = 1 where one is owed (R216, R219, R221). -/
def sendSuper (s : State) (k : Nat) (ws : List W36) : State :=
  let owed := (kwrOf s k).restartOwed
  let s := if owed then kwrNow1 s k (.replay 0 true) else s
  let x := kwrOf s k
  kwrNow1 (setKwr s k { x with
    restartOwed := false, nextSeq := (if owed then 0 else x.nextSeq) + 14, replay := x.replay ++ ws,
    frames := addFrame x.frames }) k (.super ws false)

/-- A block that has come to the front is sent. A CYCLE passes its transmit reference moment: a node latches, and sets alarm in
it while its flag is set (R209, R215). A node's TIME waits without the moment of transmit, which is added here (R222). A
node whose CYCLE left late marks its CYCLE END and counts the frame (R214). -/
def sendBlock (s : State) (k : Nat) (b : KwrBlock) : State :=
  match b, isHead s k with
  | .super ws false, _ => sendSuper s k ws
  | .cycle n pos alarm counting, head =>
    let s := if head then s else kwrLatch s k
    let x := kwrOf s k
    kwrNow1 (setKwr s k { x with
      sentAt := s.timebase, late := if head then x.late else x.lateDue, frames := x.frames ++ [0] }) k
      (.cycle n pos (alarm || x.alarm) counting)
  | .time tb dly, false => kwrNow1 s k (.time tb (dly + delayAt (kwrOf s k).sentAt))
  | .cycleEnd n late, false =>
    let late := late || (kwrOf s k).late
    kwrNow1 (if late then countMissed s k else s) k (.cycleEnd n late)
  | b, _ => kwrNow1 s k b

/-- Back-pressure holds the block (R219). -/
def heldBack (x : Kwr) : KwrBlock → Bool
  | .super _ false => kwrBp x
  | _ => false

/-- Send the blocks that wait, in order, up to a superblock that back-pressure holds: FILL goes in its place. -/
def pump : Nat → State → Nat → State
  | 0, s, _ => s
  | n + 1, s, k =>
    match (kwrOf s k).queue with
    | [] => s
    | b :: t =>
      if heldBack (kwrOf s k) b then kwrNow1 s k .fill
      else pump n (sendBlock (setKwr s k { kwrOf s k with queue := t }) k b) k

/-- Queue blocks and send what may be sent. -/
def kwrSend (s : State) (k : Nat) (bs : List KwrBlock) : State :=
  let q := (kwrOf s k).queue ++ bs
  kwrRpl (pump (q.length + 1) (setKwr s k { kwrOf s k with queue := q }) k) k

/-! ## The head's frame (R207, R214) -/

/-- Superblocks with a FILL after each 128th that another follows, as T_f counts them (R207; DEDUCED, log entry 28). -/
def withFills : Nat → List KwrBlock → List KwrBlock
  | _, [] => []
  | i, b :: t => if (i + 1) % 128 = 0 ∧ t ≠ [] then b :: .fill :: withFills (i + 1) t else b :: withFills (i + 1) t

/-- The slots of a frame: blocks to resend first, then the head's own, then empty ones (R225). -/
def slotBlocks (n : Nat) (l : List Mgmt) : List KwrBlock :=
  (l.take n).map .mgmt ++ List.replicate (n - l.length) .slot

/-- The transmit time of a frame in block times (R207). -/
def frameTime (sb w mslots : Nat) : Nat := 4 + 8 * sb / w + (sb - 1) / 128 + mslots

/-- The head starts a frame; this is its transmit reference moment (R207, R222, R227). Words outside its insert window are not
stated, so they are free. -/
def frameBegin (s : State) (k : Nat) (late : Bool) : State :=
  let s := kwrLatch s k
  let x := kwrOf s k
  let sb := s.get (KWR_CYC_sb k) + 1
  let n := x.cycleNo + 1
  let words := insertWords x 0 ((List.range (14 * sb)).map (fun i => Config.freeWord (s.free + i)))
  let slots := s.get (KWR_CFG_mslots k)
  let mg := x.mgmtAgain ++ x.mgmtOut
  let s := { s with free := s.free + 14 * sb }
  let s := setKwr s k { x with
    cycleNo := n, flight := x.flight ++ [⟨n, s.timebase, late, x.hopSent⟩], hopSent := x.autoHop,
    mgmtAgain := x.mgmtAgain.drop slots, mgmtOut := x.mgmtOut.drop (slots - x.mgmtAgain.length) }
  let s := if late then countMissed s k else s
  let s := wordWrite (offerEvent s (936 + 8 * k)) (8 + k) n
  kwrSend s k ([.cycle n 0 false x.counting, .time (BitVec.ofNat 28 s.timebase.toNat) 0,
      .timeHigh (BitVec.ofNat 44 (s.timebase.toNat >>> 28)) x.autoHop] ++
    withFills 0 (supersOf (sb + 1) words) ++ [.cycleEnd sb late] ++ slotBlocks slots mg ++ [.fill])

/-- Frames that wait for the end of the previous one start late (R214). -/
def frameDue : Nat → State → Nat → State
  | 0, s, _ => s
  | n + 1, s, k =>
    let x := kwrOf s k
    if isHead s k && kwrOn s k && decide (0 < x.due) && x.queue.isEmpty then
      frameDue n (frameBegin (setKwr s k { x with due := x.due - 1 }) k true) k
    else s

/-- The timebase is at a whole multiple of the period in force: the register's, until the first boundary (R207). -/
def atBoundary (s : State) (k : Nat) : Bool :=
  s.timebase.toNat % (if (kwrOf s k).period = 0 then s.get (KWR_CYC_period k) else (kwrOf s k).period) == 0

/-- A cycle boundary: the head starts its frame, or has it wait for the end of the previous one (R207, R214). -/
def cycleBoundary (s : State) (k : Nat) : State :=
  if isHead s k && kwrOn s k && atBoundary s k then
    let s := kwrFresh s k
    let x := kwrOf s k
    let s := setKwr s k { x with period := s.get (KWR_CYC_period k) }
    if x.queue.isEmpty then frameBegin s k false else setKwr s k { kwrOf s k with due := x.due + 1 }
  else s

def execKwrCycleBoundary (k : Fin 6) (s : State) : Host.Outcome State Fault Refusal := .next (cycleBoundary s k.val)

/-! ## Blocks from the line (R184, R203) -/

/-- Blocks of the ring reach a lane of a group: the LMS loop runs on them; a lane in far-end loopback sends them back. -/
def ringLane (s : State) (l : Nat) (bs : List Block) : State :=
  if laneMode s l = 2 then
    let s := adapt s l
    match s.get (LNE_CTL_loop l) with
    | 1 => setLane s l { laneOf s l with back := (laneOf s l).back.drop bs.length }
    | 2 => if link s l = 0 then s else emitBlocks s l bs
    | _ => s
  else s

/-- A block of the ring reaches the engine on all lanes of its group, which `line w j` says for lane j of w, and the engine acts
on it by `f` while it takes part in the ring. In near-end loopback only the group's own blocks arrive, in the order sent
(R203, R204, R206). -/
def fromRing (s : State) (k : Nat) (line : Nat → Nat → List Block) (f : State → State) : State :=
  let s := kwrFresh s k
  let w := kwrWidth s k
  if (List.range w).all (fun j =>
      s.get (LNE_CTL_loop (4 * k + j)) != 1 || (line w j).isPrefixOf (laneOf s (4 * k + j)).back) then
    let s := (List.range w).foldl (fun s j => ringLane s (4 * k + j) (line w j)) s
    if kwrOn s k then f s else s
  else s

/-- A control block of the ring reaches the engine. -/
def fromControl (s : State) (k : Nat) (b : KwrBlock) (f : State → State) : State :=
  fromRing s k (fun _ _ => [kwrControl b]) f

/-! ## CYCLE (R212 to R215) -/

/-- The received alarm bit; a change offers an event on E(937 + 8k) (R215). -/
def alarmSeen (s : State) (k : Nat) (a : Bool) : State :=
  if s.flag (KWR_STAT_alarm k) = a then s else offerEvent (s.put (KWR_STAT_alarm k) (b2n a)) (937 + 8 * k)

/-- A member that waits for a replay, or holds blocks, holds what follows (R218). -/
def holding (x : Kwr) : Bool := x.waiting || !x.held.isEmpty

/-- The blocks that delimit a frame, which a head holds too, to number the words that come again. -/
def delimits : KwrBlock → Bool
  | .cycle _ _ _ _ | .cycleEnd _ _ => true
  | _ => false

/-- Forward a control block of the frame, or hold it: up to 260 (R218). A head forwards none. -/
def kwrForward (s : State) (k : Nat) (b : KwrBlock) : State :=
  let x := kwrOf s k
  if holding x then
    if x.held.length < 260 ∧ (isHead s k = false ∨ delimits b = true) then setKwr s k { x with held := x.held ++ [b] } else s
  else if isHead s k then s
  else kwrSend s k [b]

/-- The head's part of a CYCLE: two heads, the count phase, the alarm, the loop (R212, R215, R223). -/
def headCycle (s : State) (k : Nat) (n : W36) (pos : BitVec 8) (alarm counting : Bool) : State :=
  let x := kwrOf s k
  match (x.flight ++ x.overdue).find? (fun e => e.n == n) with
  | none => kwrFault s k 0
  | some e =>
    let s := setKwr s k { x with
      flight := x.flight.filter (fun f => f.n != n), overdue := x.overdue.filter (fun f => f.n != n),
      lostRun := if x.flight.contains e then 0 else x.lostRun, loopTicks := (s.timebase - e.sent).toNat,
      loopHop := e.hop, late := e.late, alarm := x.alarm || alarm }
    let s := if holding x then kwrForward s k (.cycle n pos alarm counting) else frameStart s k
    if kwrState s k = 2 ∧ counting = true then
      if pos.toNat = 255 then kwrFault s k 1
      else if pos.toNat ≤ 253 then
        let s := setKwr (s.put (KWR_STAT_nodes k) (pos.toNat + 1)) k { kwrOf s k with counting := false }
        kwrGo s k 4 0
      else s
    else s

/-- A node's part: it takes its position in WAIT, and forwards the CYCLE with its own field once the previous frame is sent
(R212, R214). -/
def nodeCycle (s : State) (k : Nat) (n : W36) (pos : Nat) (alarm counting : Bool) : State :=
  let s := if kwrState s k = 3 then
      if pos ≤ 252 then
        let s := kwrGo (s.put (KWR_STAT_position k) (pos + 1)) k 4 0
        setKwr s k { kwrOf s k with stepDue := s.flag (KWR_CFG_tsync k) }
      else kwrFault s k 1
    else s
  let x := kwrOf s k
  let field := if kwrState s k = 6 then 255 else s.get (KWR_STAT_position k)
  let s := setKwr s k { x with cycleNo := n, lateDue := holding x || !x.queue.isEmpty }
  let s := if holding x then s else frameStart s k
  kwrForward s k (.cycle n (BitVec.ofNat 8 field) alarm counting)

/-- The cycle period: a node learns it from the spacing of the CYCLE blocks (R213). -/
def periodSeen (s : State) (k : Nat) : Nat :=
  let x := kwrOf s k
  if isHead s k || x.refTime == 0 || x.gapSeen then x.period else (s.timebase - x.refTime).toNat

/-- A CYCLE block is received. -/
def rxCycle (s : State) (k : Nat) (n : W36) (pos : BitVec 8) (alarm counting : Bool) : State :=
  let s := setKwr s k { kwrOf s k with period := periodSeen s k, refTime := s.timebase, gapSeen := false }
  let s := alarmSeen s k alarm
  if isHead s k then headCycle s k n pos alarm counting
  else wordWrite (offerEvent (nodeCycle s k n pos.toNat alarm counting) (936 + 8 * k)) (8 + k) n

def execKwrRxCycle (k : Fin 6) (n : W36) (pos : BitVec 8) (alarm counting : Bool) (s : State) :
    Host.Outcome State Fault Refusal :=
  .next (fromControl s k.val (.cycle n pos alarm counting) (fun s => rxCycle s k.val n pos alarm counting))

/-- A held block may go: a CYCLE END once the superblocks of its frame are complete (R218). -/
def heldReady (x : Kwr) : KwrBlock → Bool
  | .cycleEnd n _ => decide (14 * n ≤ x.frameWords)
  | _ => true

/-- What a held block does to the receive side as it goes: a CYCLE starts the next frame, a CYCLE END completes a cut window
(R209, R214). -/
def heldActs (s : State) (k : Nat) : KwrBlock → State
  | .cycle _ _ _ _ => frameStart s k
  | .cycleEnd _ _ => extractWrite s k
  | _ => s

/-- Release the held blocks in order (R214, R218); the first argument bounds them. -/
def releaseHeld : Nat → State → Nat → State
  | 0, s, _ => s
  | n + 1, s, k =>
    let x := kwrOf s k
    match x.held with
    | [] => s
    | b :: t =>
      if x.waiting || !heldReady x b then s
      else
        let s := heldActs (setKwr s k { x with held := t }) k b
        releaseHeld n (if isHead s k then s else kwrSend s k [b]) k

/-- Release what may go. -/
def heldRelease (s : State) (k : Nat) : State := releaseHeld ((kwrOf s k).held.length + 1) s k

/-- CYCLE END: a late frame is counted, by a head that has not counted it as it left, and by a node as it forwards the block; an
ACK is sent if good superblocks have come since the last; and a cut window is complete (R209, R214, R216). -/
def rxCycleEnd (s : State) (k n : Nat) (late : Bool) : State :=
  let s := if isHead s k && late && !(kwrOf s k).late then countMissed s k else s
  let s := if holding (kwrOf s k) then s else extractWrite s k
  let s := kwrForward s k (.cycleEnd n late)
  let s := if 0 < (kwrOf s k).sinceAck then sendAck s k false else s
  heldRelease s k

def execKwrRxCycleEnd (k : Fin 6) (n : BitVec 10) (late : Bool) (s : State) : Host.Outcome State Fault Refusal :=
  .next (fromControl s k.val (.cycleEnd n.toNat late) (fun s => rxCycleEnd s k.val n.toNat late))

/-! ## Time alignment (R222 to R224) -/

/-- The upstream hop delay in 1/4 tick: hop_dly, or the automatic one when it is 0 (R222). -/
def hopDelay (s : State) (k : Nat) : Nat :=
  if s.get (KWR_CFG_hop_dly k) = 0 then (kwrOf s k).autoHop.toNat else s.get (KWR_CFG_hop_dly k)

/-- The engine steers the timebase (R224). -/
def steers (s : State) (k : Nat) : Bool := s.flag (KWR_CFG_tsync k) && s.get (KWR_CFG_role k) == 1

/-- The offset in 1/16 tick from the 28 head time bits, signed (R222). -/
def offsetOf (s : State) (k : Nat) (tb dly : Nat) (frac : Nat) : Int :=
  let d := 16 * tb + dly + 4 * hopDelay s k
  let own := 16 * ((kwrOf s k).refTime.toNat % 2 ^ 28) + frac
  let m := 2 ^ 32
  let r := (d + m - own) % m
  if r < 2 ^ 31 then (r : Int) else (r : Int) - m

/-- A signed value saturated to 16 bits, as two's complement. -/
def sat16 (x : Int) : Nat :=
  if 32767 < x then 32767 else if x < -32768 then 32768 else (x % 65536).toNat

/-- A cycle's alignment: 16 cycles in ALIGN lead to CYCLING; 16 lost in CYCLING clear aligned (Table 9.4). -/
def alignCycle (s : State) (k : Nat) (ok : Bool) : State :=
  let x := kwrOf s k
  if kwrState s k = 4 then
    let s := kwrAligned s k ok
    let run := if ok || !steers s k then x.alignRun + 1 else 0
    let s := setKwr s k { kwrOf s k with alignRun := run }
    if 16 ≤ run then
      let s := kwrGo s k 5 0
      setKwr s k { kwrOf s k with buffer := none, fresh := false }
    else s
  else if kwrState s k = 5 then
    if ok then kwrAligned (setKwr s k { x with offRun := 0 }) k true
    else
      let s := setKwr s k { x with offRun := x.offRun + 1 }
      if 16 ≤ x.offRun + 1 then kwrAligned s k false else s
  else s

/-- The head's loop (R223): with automatic hop delays it divides the loop less the residences by N; with set ones it
compares, and 4105h is raised once for each time the comparison begins to fail. `loop` and `dly` are in 1/16 tick; the delay
holds what each node has added as its hop delay, which the frame before carried. -/
def loopMeasure (s : State) (k loop dly : Nat) : State :=
  let s := s.put (KWR_LOOP_loop k) (min loop (2 ^ 24 - 1))
  let x := kwrOf s k
  let n := s.get (KWR_STAT_nodes k)
  if n = 0 then s
  else if s.get (KWR_CFG_hop_dly k) = 0 then
    let res := dly - (n - 1) * (4 * x.loopHop.toNat)
    setKwr s k { x with autoHop := BitVec.ofNat 12 (min 4095 ((loop - res) / n / 4)) }
  else
    let diff : Int := (loop : Int) - (dly + 4 * s.get (KWR_CFG_hop_dly k) : Nat)
    if 512 < 10 * diff.natAbs then
      let s := s.put (KWR_TIME_loop_err k) 1
      if x.loopRaised then s
      else raise (setKwr s k { x with loopRaised := true }) 0x4105 (packWord [(33, k), (17, sat16 diff)])
    else setKwr s k { x with loopRaised := false }

/-- A TIME block: the node adds its hop delay and residence, and measures its offset (R222). What it forwards counts from its
receive reference moment on, so a CYCLE that waits adds its wait. -/
def rxTime (s : State) (k : Nat) (tb dly : BitVec 28) (residence frac : Nat) : State :=
  let off := offsetOf s k tb.toNat dly.toNat frac
  let s := s.put (KWR_TIME_offset k) (sat16 off)
  let s := kwrForward s k
    (.time tb (dly + BitVec.ofNat 28 (4 * hopDelay s k + residence) - delayAt (kwrOf s k).refTime))
  let s := setKwr s k { kwrOf s k with rxTb := tb, rxDly := dly }
  let s := if isHead s k then loopMeasure s k (16 * (kwrOf s k).loopTicks + frac) dly.toNat else s
  alignCycle s k (decide (off.natAbs ≤ 25))

def execKwrRxTime (k : Fin 6) (tb dly : BitVec 28) (residence : BitVec 12) (frac : BitVec 4) (s : State) :
    Host.Outcome State Fault Refusal :=
  .next (fromControl s k.val (.time tb dly) (fun s => rxTime s k.val tb dly residence.toNat frac.toNat))

/-- The first TIME in ALIGN of a steering engine, completed by TIME HIGH, sets the timebase to the head's time if the offset
exceeds 64 ticks (R224). -/
def firstTime (s : State) (k hi : Nat) : State :=
  let x := kwrOf s k
  if x.stepDue && steers s k then
    let head : Int := (hi * 2 ^ 28 + x.rxTb.toNat + (x.rxDly.toNat + 4 * hopDelay s k) / 16 : Nat)
    let diff : Int := head - x.refTime.toNat
    if 64 < diff.natAbs then
      let s := setKwr s k { x with stepDue := false, refTime := BitVec.ofInt 72 head }
      (timebaseStep s (BitVec.ofInt 72 (s.timebase.toNat + diff))).put (KWR_TIME_stepped k) 1
    else setKwr s k { x with stepDue := false }
  else s

/-- A TIME HIGH block: the automatic hop delay, which a node keeps for the TIME blocks that follow (R222, R223). -/
def rxTimeHigh (s : State) (k : Nat) (hi : BitVec 44) (hop : BitVec 12) : State :=
  if isHead s k then s
  else
    let s := kwrForward s k (.timeHigh hi hop)
    let s := firstTime s k hi.toNat
    setKwr s k { kwrOf s k with autoHop := hop }

def execKwrRxTimeHigh (k : Fin 6) (hi : BitVec 44) (hop : BitVec 12) (s : State) :
    Host.Outcome State Fault Refusal :=
  .next (fromControl s k.val (.timeHigh hi hop) (fun s => rxTimeHigh s k.val hi hop))

/-- A slew is due: an offset stands, and 1,024 ticks have passed since the latest slew (R224). -/
def slewDue (s : State) (k : Nat) : Bool :=
  let x := kwrOf s k
  steers s k && decide (4 ≤ kwrState s k ∧ kwrState s k ≤ 5) && !x.stepDue && s.get (KWR_TIME_offset k) != 0 &&
  match x.lastSlew with
  | some t => decide (1024 ≤ (s.timebase - t).toNat)
  | none => true

/-- One root edge of a steering engine: the timebase advances by 2 or 0 ticks in place of 1 (R224, R416). -/
def slew (s : State) (k : Nat) : State :=
  if slewDue s k then
    let s := { s with timebase := s.timebase + if s.get (KWR_TIME_offset k) < 32768 then 2 else 0 }
    timebaseViews (setKwr s k { kwrOf s k with lastSlew := some s.timebase })
  else s

def execKwrTimebaseSlew (k : Fin 6) (s : State) : Host.Outcome State Fault Refusal := .next (slew s k.val)

/-! ## Superblocks and retry (R205, R217 to R221) -/

/-- `a` lies at or below `b` in the sequence, modulo 2^24. -/
def seqLe (a b : BitVec 24) : Bool := decide ((b - a).toNat < 2 ^ 23)

/-- A superblock whose CRC passes (R217): one that starts at E is good; it is extracted, its window's words are
replaced, and a node forwards it. One that starts below E is a duplicate. -/
def goodSuper (s : State) (k : Nat) (ws : List W36) : State :=
  let x := kwrOf s k
  if x.rxSeq = x.expect then
    let i := x.frameWords
    let s := setKwr s k { x with
      rxSeq := x.rxSeq + 14, expect := x.expect + 14, sinceAck := x.sinceAck + 1, frameWords := i + 14 }
    let s := extractWords s k i ws
    let s := if isHead s k then s else kwrSend s k [.super (insertWords x i ws) false]
    let s := if 64 ≤ (kwrOf s k).sinceAck then sendAck s k false else s
    heldRelease s k
  else setKwr s k { x with rxSeq := x.rxSeq + 14 }

/-- A node forwards the copy of a superblock that it cannot take, stomped. -/
def stompOn (s : State) (k : Nat) (ws : List W36) : State :=
  let x := kwrOf s k
  if isHead s k then s else kwrSend s k [.super (insertWords x x.frameWords ws) true]

/-- A superblock that is discarded, in the sequence unless it is stomped. -/
def passOver (s : State) (k : Nat) (stomped : Bool) : State :=
  if stomped then s else setKwr s k { kwrOf s k with rxSeq := (kwrOf s k).rxSeq + 14 }

/-- A superblock is received (R217). One that fails counts; while the receiver waits for a replay, after a restart up to the next
CYCLE, and on a back-pressured node, it is discarded (R219, R221). -/
def rxSuper (s : State) (k : Nat) (sb : BitVec 512) (err : Bool) : State :=
  let x := kwrOf s k
  let stomped := !err && superCrc sb == ~~~ crc8 sb
  let failed := err || (superCrc sb != crc8 sb && !stomped)
  let ws := superWords sb
  let s := if failed then s.bump (KWR_MCNT_bad k) 1 else s
  if x.waiting then s
  else if x.skipFrame || (!isHead s k && kwrBp x) then passOver s k stomped
  else if stomped then stompOn s k ws
  else if failed then
    let s := stompOn s k ws
    sendAck (setKwr s k { kwrOf s k with waiting := true }) k true
  else goodSuper s k ws

def execKwrRxSuperblock (k : Fin 6) (sb : BitVec 512) (err : Bool) (s : State) : Host.Outcome State Fault Refusal :=
  .next (fromRing s k.val (fun w j => superOn sb w j) (fun s => rxSuper s k.val sb err))

/-- An ACK addressed to this member moves its mark, and a NAK starts a replay; a node sends FILL in its place. Others are
forwarded at once (R208, R216, R219). -/
def rxAck (s : State) (k : Nat) (seq : BitVec 24) (pos : BitVec 8) (nak : Bool) : State :=
  if kwrMine s k pos.toNat then
    let s := setKwr s k (ackTo (kwrOf s k) seq)
    let s := if isHead s k then s else kwrNow1 s k .fill
    let s := if nak then kwrNow (s.bump (KWR_CNT_replay k) 1) k (resend (kwrOf s k)) else s
    frameDue ((kwrOf s k).due + 1) (kwrSend s k []) k
  else kwrNow1 s k (.ack seq pos nak)

def execKwrRxAck (k : Fin 6) (seq : BitVec 24) (pos : BitVec 8) (nak : Bool) (s : State) :
    Host.Outcome State Fault Refusal :=
  .next (fromControl s k.val (.ack seq pos nak) (fun s => rxAck s k.val seq pos nak))

/-- REPLAY: reception resumes at the number it carries; with restart = 1 the frame in hand is discarded and E is 0 (R217,
R221). -/
def rxReplay (s : State) (k : Nat) (seq : BitVec 24) (restart : Bool) : State :=
  let x := kwrOf s k
  if restart then
    setKwr s k { x with
      expect := 0, rxSeq := 0, waiting := false, held := [], extract := [], sinceAck := 0,
      skipFrame := decide (0 < x.frameWords) }
  else heldRelease (setKwr s k { x with rxSeq := seq, waiting := x.waiting && !seqLe seq x.expect }) k

def execKwrRxReplay (k : Fin 6) (seq : BitVec 24) (restart : Bool) (s : State) :
    Host.Outcome State Fault Refusal :=
  .next (fromControl s k.val (.replay seq restart) (fun s => rxReplay s k.val seq restart))

/-- A FILL block: the elastic buffer deletes it, passes it or repeats it (R208). -/
def rxFill (s : State) (k copies : Nat) : State :=
  if isHead s k then s else kwrNow s k (List.replicate copies .fill)

def execKwrRxFill (k : Fin 6) (copies : Fin 3) (s : State) : Host.Outcome State Fault Refusal :=
  .next (fromControl s k.val .fill (fun s => rxFill s k.val copies.val))

/-- A receiver sends an ACK at least every 1 us while it receives superblocks (R216). -/
def execKwrAckTimer (k : Fin 6) (s : State) : Host.Outcome State Fault Refusal :=
  .next (if kwrOn s k.val && decide (0 < (kwrOf s k.val).frameWords) then sendAck (kwrFresh s k.val) k.val false else s)

/-- Retrain every lane of the group (R220). -/
def retrainGroup (s : State) (k : Nat) : State := (kwrLanes s k).foldl (fun s l => retrain s l) s

/-- The hop re-seats: the mark has not moved for 100 us with words unacknowledged (R220). -/
def hopReseat (s : State) (k : Nat) : State :=
  let used := (kwrOf s k).replay.length
  if 0 < used ∧ kwrOn s k = true then
    let s := s.bump (KWR_CNT_reseat k) 1
    let s := raise s 0x4102 (packWord [(33, k), (18, used)])
    retrainGroup s k
  else s

def execKwrHopReseat (k : Fin 6) (s : State) : Host.Outcome State Fault Refusal := .next (hopReseat s k.val)

/-- Discard the replay buffer and restart numbering. -/
def dropReplay (s : State) (k : Nat) : State :=
  kwrRpl (setKwr s k { kwrOf s k with replay := [], frames := [], nextSeq := 0, restartOwed := true, queue := [], due := 0 }) k

/-- The replay buffer is invalid (R221). -/
def bufferInvalid (s : State) (k : Nat) : State :=
  let lost := ((kwrOf s k).frames.filter (0 < ·)).length
  let s := dropReplay s k
  let s := s.bump (KWR_CNT_lost k) lost
  let s := offerEvent s (939 + 8 * k)
  let s := raise s 0x4103 (packWord [(33, k), (24, min lost 511)])
  retrainGroup s k

def execKwrBufferInvalid (k : Fin 6) (s : State) : Host.Outcome State Fault Refusal := .next (bufferInvalid s k.val)

/-! ## Missed cycles, alarms, counts (R212, R213, R215) -/

/-- A node has received no CYCLE for two periods: one missed cycle for the gap; after 16 periods it goes to WAIT and forgets
its position. -/
def cycleMissed (s : State) (k : Nat) : State :=
  let st := kwrState s k
  let x := kwrOf s k
  let gap := (s.timebase - x.refTime).toNat
  if isHead s k = false ∧ 3 ≤ st ∧ st ≤ 5 ∧ 0 < x.period ∧ 2 * x.period ≤ gap then
    let s := if x.gapSeen then s else countMissed (setKwr s k { x with gapSeen := true }) k
    if 16 * x.period ≤ gap then kwrGo (s.put (KWR_STAT_position k) 0) k 3 1 else s
  else s

def execKwrCycleMissed (k : Fin 6) (s : State) : Host.Outcome State Fault Refusal := .next (cycleMissed s k.val)

/-- The oldest frame in flight has not returned within two periods of its start. -/
def frameOverdue (s : State) (k : Nat) : Bool :=
  match (kwrOf s k).flight with
  | e :: _ => isHead s k && kwrOn s k && decide (2 * (kwrOf s k).period ≤ (s.timebase - e.sent).toNat)
  | [] => false

/-- The head counts such a frame in missed; 16 in a row lead to COUNT. -/
def frameLost (s : State) (k : Nat) : State :=
  if frameOverdue s k then
    let s := countMissed s k
    let x := kwrOf s k
    let s := setKwr s k { x with
      lostRun := x.lostRun + 1, flight := x.flight.drop 1, overdue := x.overdue ++ x.flight.take 1 }
    if 16 ≤ x.lostRun + 1 ∧ 4 ≤ kwrState s k then
      kwrGo (setKwr s k { kwrOf s k with counting := true, lostRun := 0 }) k 2 2
    else s
  else s

def execKwrFrameNotReturned (k : Fin 6) (s : State) : Host.Outcome State Fault Refusal := .next (frameLost s k.val)

/-- The alarm flag, or a node's local request, is set (R215). -/
def alarmSet (s : State) (k : Nat) : State := setKwr s k { kwrOf s k with alarm := true }

/-- The head's flag clears; a node's local request clears only while the received alarm bit is 0 (R215). -/
def alarmClear (s : State) (k : Nat) : State :=
  if isHead s k || !s.flag (KWR_STAT_alarm k) then setKwr s k { kwrOf s k with alarm := false } else s

def execKwrAlarmWrite (k : Fin 6) (s : State) : Host.Outcome State Fault Refusal := .next (alarmSet s k.val)

def execKwrAlarmClear (k : Fin 6) (s : State) : Host.Outcome State Fault Refusal := .next (alarmClear s k.val)

def execKwrCntClear (k : Fin 6) (s : State) : Host.Outcome State Fault Refusal :=
  .next ((s.setWord (KWR_CNT k.val) 0).setWord (KWR_MCNT k.val) 0)

/-! ## The management channel (R225, R226) -/

/-- A SLOT passes a node: a waiting message part takes it (R225). -/
def rxSlot (s : State) (k : Nat) : State :=
  if isHead s k then s
  else
    match kwrPlaced s k, (kwrOf s k).mgmtOut with
    | true, m :: t => kwrForward (setKwr s k { kwrOf s k with mgmtOut := t }) k (.mgmt m)
    | _, _ => kwrForward s k .slot

def execKwrRxSlot (k : Fin 6) (s : State) : Host.Outcome State Fault Refusal :=
  .next (fromControl s k.val .slot (fun s => rxSlot s k.val))

/-- The four octets of a part, the first lowest. -/
def mgmtOctets (m : Mgmt) : List Octet := (List.range 4).map (fun i => BitVec.ofNat 8 (bitsOf m.data (8 * i) 8))

/-- The part of a message, and its number. -/
def mgmtPlace (m : Mgmt) : Nat := bitsOf m.seg 0 2
def mgmtNo (m : Mgmt) : Nat := bitsOf m.seg 2 6

/-- Two parts belong to one message: source and message number tie them together. -/
def sameMessage (m f : Mgmt) : Bool := mgmtNo f == mgmtNo m && f.src == m.src

/-- A part for this member: first and last of one message make an SDO frame; a part out of order discards its message (R226).
While the MGC does not serve, parts are dropped (Table 9.7). -/
def mgmtPart (s : State) (k : Nat) (m : Mgmt) : State × Option (List Octet) :=
  let x := kwrOf s k
  if !s.mgcServing then (setKwr s k { x with mgmtIn := [] }, none)
  else
    let others := x.mgmtIn.filter (fun f => !sameMessage m f)
    if mgmtPlace m = 1 then (setKwr s k { x with mgmtIn := others ++ [m] }, none)
    else
      (setKwr s k { x with mgmtIn := others },
        if mgmtPlace m = 3 then (x.mgmtIn.find? (sameMessage m)).map (fun f => mgmtOctets f ++ mgmtOctets m) else none)

/-- An MGMT block: consumed by its destination, which sends SLOT in its place, held by the head for the next frame, or forwarded
(R225). The second part is the SDO frame that it completes. -/
def rxMgmt (s : State) (k : Nat) (m : Mgmt) : State × Option (List Octet) :=
  let x := kwrOf s k
  if kwrMine s k m.dst.toNat then mgmtPart (kwrForward s k .slot) k m
  else if isHead s k then
    if m.dst.toNat ≤ m.src.toNat then
      if x.mgmtAgain.length < 64 then (setKwr s k { x with mgmtAgain := x.mgmtAgain ++ [m] }, none)
      else (s.bump (KWR_MCNT_ins_err k) 1, none)
    else (s, none)
  else (kwrForward s k (.mgmt m), none)

end Sys2Proof.Machine
end

