-- ==== Sys2Proof/Machine/Dram.lean ====
section
/-! DEFINITION. Dram: SDRAM channels: SECDED, request ports, responses, refresh, patrol, remap and repair (10). -/
namespace Sys2Proof.Machine
open Sys2Proof

/-! ## Access -/

/-- SDRAM channel `c`. -/
def dramOf (s : State) (c : Nat) : Dram := tget (fun _ => Dram.init) s.dram c

/-- Set SDRAM channel `c`. -/
def setDram (s : State) (c : Nat) (x : Dram) : State := { s with dram := tput (fun _ => Dram.init) s.dram c x }

/-- DRM_STAT_c.state (Table 10.20). -/
def dramState (s : State) (c : Nat) : Nat := s.get (DRM_STAT_state c)

/-- The channel changes state: an event on E(986 + 8c), and a log entry (R275). -/
def setDramState (s : State) (c v : Nat) : State :=
  if dramState s c = v then s
  else logState (offerEvent (s.put (DRM_STAT_state c) v) (986 + 8 * c)) 5 0x6500 (1 + c) v

/-- The channel is asked to be in self-refresh: SIMMER with simmer_sr = 1, BANKED, a warm re-commit, a shutdown test, and
while a JTAG instruction has the pins (R250, R371, R374). -/
def refreshWanted (s : State) (c : Nat) : Bool :=
  s.flag SCB_JTAG_ext ||
  match s.pwr.phase with
  | .simmerEntry | .simmer => s.flag (DRM_CFG_simmer_sr c)
  | .bankedEntry | .banked | .shutdown => true
  | .loading => s.cfg.load.elim false (·.firmware)
  | _ => false

/-- The controller takes requests: the channel is not OFF, DISABLED or in self-refresh, and is neither on its way into it
nor on its way out (R250). -/
def dramTakes (s : State) (c : Nat) : Bool :=
  let st := dramState s c
  (st == 1 || st == 2 || st == 4) && !refreshWanted s c && !(dramOf s c).exiting

/-- The rate code in force. -/
def rateNow (s : State) (c : Nat) : Nat := s.get (DRM_CFG_rate c)

/-- Ranks of the channel. -/
def ranksOf (s : State) (c : Nat) : Nat := s.get (DRM_CFG_ranks c) + 1

/-- The channel serves requests: READY or DEGRADED, with no sweep, check, rate change or pause running and no
alert standing. -/
def dramServes (s : State) (c : Nat) : Bool :=
  let x := dramOf s c
  (dramState s c == 2 || dramState s c == 4) && !x.pausing && !x.alert &&
    (s.get (DRM_TRN_STAT_phase c) == 0 || s.get (DRM_TRN_STAT_phase c) == 2)

/-! ## SECDED (R236, R237) -/

/-- The number of ones of an 8-bit value. -/
def ones8 (v : Nat) : Nat := ((List.range 8).filter (fun i => bitN v i)).length

/-- The column of each data bit (R236). -/
def columns : List Nat :=
  (List.range 256).filter (fun v => ones8 v == 3) ++ ((List.range 256).filter (fun v => ones8 v == 5)).take 16

/-- The check byte of a double: the exclusive OR of the columns of its set bits. -/
def checkByte (d : W72) : Nat :=
  (columns.zipIdx).foldl (fun a e => if d.getLsbD e.2 then a ^^^ e.1 else a) 0

/-- A double as it is stored, clean. -/
def stored (d : W72) : BitVec 80 := BitVec.ofNat 80 (d.toNat + checkByte d * 2 ^ 72)

/-- A double stored with its poison mark FEh (R237). -/
def poisoned (d : W72) : BitVec 80 := BitVec.ofNat 80 (d.toNat + (checkByte d ^^^ 0xFE) * 2 ^ 72)

/-- What a double decodes as: the data, 0 clean, 1 corrected or 2 uncorrectable, and the syndrome (Table 10.5). -/
def decodeDouble (v : BitVec 80) : W72 × Nat × Nat :=
  let d : W72 := BitVec.ofNat 72 v.toNat
  let syn := v.toNat / 2 ^ 72 ^^^ checkByte d
  if syn = 0 then (d, 0, 0)
  else match columns.idxOf? syn with
    | some i => (d ^^^ BitVec.ofNat 72 (2 ^ i), 1, syn)
    | none => if ones8 syn = 1 then (d, 1, syn) else (d, 2, syn)

/-! ## Address maps (R247) -/

/-- Widths of bank group, row and rank for the channel's devices. -/
def bgBits (s : State) (c : Nat) : Nat := if s.flag (DRM_CFG_dw c) then 1 else 2
def dramRowBits (s : State) (c : Nat) : Nat := if s.flag (DRM_CFG_dens c) then 17 else 16
def rankBits (s : State) (c : Nat) : Nat := if s.flag (DRM_CFG_ranks c) then 1 else 0

/-- The address width A. -/
def addrBits (s : State) (c : Nat) : Nat := 4 + 7 + 2 + bgBits s c + dramRowBits s c + rankBits s c

/-- Where each field lies, by map (Table 10.10): lowest bits of column high, bank, bank group, row, rank. -/
def mapLows (s : State) (c : Nat) : Nat × Nat × Nat × Nat × Nat :=
  let g := bgBits s c
  let r := dramRowBits s c
  let k := rankBits s c
  match s.get (DRM_CFG_map c) with
  | 0 => (4, 11, 13, 13 + g, 13 + g + r)
  | 1 => (6 + g, 4, 6, 13 + g, 13 + g + r)
  | 2 => (4, 11 + r, 13 + r, 11, 13 + r + g)
  | _ => (6 + k + g, 4 + k, 6 + k, 13 + k + g, 4)

/-- The place of a word address; none beyond the capacity. -/
def decodeAddr (s : State) (c a : Nat) : Option DramLoc :=
  if 2 ^ addrBits s c ≤ a then none
  else
    let m := mapLows s c
    let f := fun lo w => a / 2 ^ lo % 2 ^ w
    some ⟨f m.2.2.2.2 (rankBits s c), f m.2.2.1 (bgBits s c), f m.2.1 2, f m.2.2.2.1 (dramRowBits s c), f m.1 7⟩

/-- The word address of the first word of a line. -/
def encodeAddr (s : State) (c : Nat) (l : DramLoc) : Nat :=
  let m := mapLows s c
  l.col * 2 ^ m.1 + l.bank * 2 ^ m.2.1 + l.bg * 2 ^ m.2.2.1 + l.row * 2 ^ m.2.2.2.1 + l.rank * 2 ^ m.2.2.2.2

/-- The highest row of every bank is reserved with rsv = 1 (R251). -/
def reservedRow (s : State) (c : Nat) (l : DramLoc) : Bool :=
  s.flag (DRM_CFG_rsv c) && l.row == 2 ^ dramRowBits s c - 1

/-- The remap entry of a row, if any (R251). -/
def remapEntry (s : State) (c : Nat) (l : DramLoc) : Option Nat :=
  (List.range 32).find? (fun i => s.flag (DRM_RMP_valid c i) && s.get (DRM_RMP_rank c i) == l.rank &&
    s.get (DRM_RMP_bg c i) == l.bg && s.get (DRM_RMP_bank c i) == l.bank && s.get (DRM_RMP_row c i) == l.row)

/-- The place that an access to `l` reaches through the remap table. -/
def remapped (s : State) (c : Nat) (l : DramLoc) : DramLoc :=
  match remapEntry s c l with
  | some i => { l with bg := s.get (DRM_RMP_sbg c i), bank := s.get (DRM_RMP_sbank c i), row := 2 ^ dramRowBits s c - 1 }
  | none => l

/-- The number of a row, and of a line, in the memory. -/
def rowNumber (l : DramLoc) : Nat := ((l.rank * 4 + l.bg) * 4 + l.bank) * 2 ^ 17 + l.row
def lineNumber (l : DramLoc) : Nat := rowNumber l * 128 + l.col

/-- A stored double; a double that nothing has written reads as 0, clean (DESIGN CHOICE, log entry 8). -/
def memDouble (x : Dram) (l : DramLoc) (j : Nat) : BitVec 80 := tget (fun _ => 0) x.mem (lineNumber l * 8 + j)

/-- Store a double. -/
def putDouble (x : Dram) (l : DramLoc) (j : Nat) (v : BitVec 80) : Dram :=
  { x with mem := tput (fun _ => 0) x.mem (lineNumber l * 8 + j) v }

/-- Stored bits that have changed. -/
def flipBits (x : Dram) (l : DramLoc) (fs : List DramFlip) : Dram :=
  fs.foldl (fun x f => putDouble x l f.beat.val (memDouble x l f.beat.val ^^^ BitVec.ofNat 80 (2 ^ f.bit.val))) x

/-! ## Errors, trackers and remap candidates (R236, R251) -/

/-- A free remap entry and a free reserved row of the rank (R251). -/
def freeEntry (s : State) (c : Nat) : Option Nat := (List.range 32).find? (fun i => !s.flag (DRM_RMP_valid c i))

def freeRow (s : State) (c rank : Nat) : Option (Nat × Nat) :=
  if s.flag (DRM_CFG_rsv c) then
    ((List.range (2 ^ bgBits s c)).flatMap (fun g => (List.range 4).map (fun b => (g, b)))).find? (fun e =>
      (List.range 32).all (fun i => !(s.flag (DRM_RMP_valid c i) && s.get (DRM_RMP_rank c i) == rank &&
        s.get (DRM_RMP_sbg c i) == e.1 && s.get (DRM_RMP_sbank c i) == e.2)))
  else none

/-- Free remap entries of a channel (6505h). -/
def freeEntries (s : State) (c : Nat) : Nat := ((List.range 32).filter (fun i => !s.flag (DRM_RMP_valid c i))).length

/-- The detail word of 5102h, 5103h and 5105h (Table 10.27). -/
def remapDetail (s : State) (c : Nat) (l : DramLoc) : W36 :=
  packWord [(35, c), (34, l.rank), (32, l.bg), (30, l.bank), (13, l.row), (7, freeEntries s c)]

/-- The detail word of 5103h: as 5102h, with free entries 0 (Table 10.27). -/
def noRoomDetail (c : Nat) (l : DramLoc) : W36 :=
  packWord [(35, c), (34, l.rank), (32, l.bg), (30, l.bank), (13, l.row)]

/-- The MGC starts the live remap of the first candidate, or raises 5103h where nothing is free, once for each row
(R251, R257). During a firmware restart candidates wait (Table 10.12). -/
def startRemap : Nat → State → Nat → State
  | 0, s, _ => s
  | n + 1, s, c =>
    let x := dramOf s c
    match x.remap, x.cands with
    | none, l :: t =>
      if s.get MGC_STAT_state = 2 then s
      else match freeEntry s c, freeRow s c l.rank with
        | some i, some r =>
          setDram s c { x with
            cands := t, remap := some (i, l, { l with bg := r.1, bank := r.2, row := 2 ^ dramRowBits s c - 1 }) }
        | _, _ =>
          startRemap n (raise (setDram s c { x with cands := t, stuck := rowNumber l :: x.stuck }) 0x5103
            (noRoomDetail c l)) c
    | _, _ => s

/-- A row becomes a candidate unless it is reserved, remapped, one already or one that has found no room. -/
def addCandidate (s : State) (c : Nat) (l : DramLoc) : State :=
  let x := dramOf s c
  let same := fun (m : DramLoc) => rowNumber m == rowNumber l
  let busy := match x.remap with
    | some r => same r.2.1
    | none => false
  if reservedRow s c l || (remapEntry s c l).isSome || busy || x.cands.any same || x.stuck.contains (rowNumber l) then s
  else startRemap 33 (setDram s c { x with cands := x.cands ++ [l] }) c

/-- A corrected double of row `l` enters the tracker of the 16 latest rows; rthr of them make a candidate. -/
def trackRow (s : State) (c : Nat) (l : DramLoc) : State :=
  let x := dramOf s c
  let n := (match x.tracker.find? (fun e => e.1 == rowNumber l) with
    | some e => e.2
    | none => 0) + 1
  let s := setDram s c { x with
    tracker := ((rowNumber l, n) :: x.tracker.filter (fun e => e.1 != rowNumber l)).take 16 }
  if s.get (DRM_CFG_rthr c) ≠ 0 ∧ s.get (DRM_CFG_rthr c) ≤ n then addCandidate s c l else s

/-- Record one decoded double (R236, R254). -/
def countDouble (s : State) (c : Nat) (l : DramLoc) (patrol : Bool) (j : Nat) (d : W72 × Nat × Nat) : State :=
  if d.2.1 = 0 then s
  else
    let s := s.setWord (DRM_ECC_LAST c) (packWord [(34, d.2.1), (33, b2n patrol), (0, encodeAddr s c l)])
    let s := s.setWord (DRM_ECC_SYN c) (packWord [(28, d.2.2), (25, j)])
    if d.2.1 = 1 then
      trackRow (offerEvent (s.bump (DRM_ECC_ce c) 1) (985 + 8 * c)) c l
    else addCandidate (s.bump (DRM_ECC_ue c) 1) c l

/-- The decoded doubles of the line at `l`. -/
def readLine (s : State) (c : Nat) (l : DramLoc) : List (W72 × Nat × Nat) :=
  (List.range 8).map (fun j => decodeDouble (memDouble (dramOf s c) (remapped s c l) j))

/-- Count the errors of a line that has been read; an uncorrectable double raises 5101h, and offers an event on
E(984 + 8c) where a response or the patrol found it (R236, R254, R257). -/
def countLine (s : State) (c : Nat) (l : DramLoc) (patrol copy : Bool) (ds : List (W72 × Nat × Nat)) : State :=
  let s := ds.zipIdx.foldl (fun s e => countDouble s c l patrol e.2 e.1) s
  if ds.any (fun d => d.2.1 == 2) then
    raise (if copy then s else offerEvent s (984 + 8 * c)) 0x5101 (packWord [(35, c), (34, b2n patrol), (0, encodeAddr s c l)])
  else s

/-- Write the corrected doubles of a line back (R237). -/
def writeBack (s : State) (c : Nat) (l : DramLoc) (ds : List (W72 × Nat × Nat)) : State :=
  setDram s c (ds.zipIdx.foldl (fun x e =>
    if e.1.2.1 = 1 then putDouble x (remapped s c l) e.2 (stored e.1.1) else x) (dramOf s c))

/-! ## Responses (R240, R243) -/

/-- The request and response FIFOs of a port (R238). -/
def requestFifo (c p : Nat) : Nat := 48 + 16 * c + p / 2
def responseFifo (c p : Nat) : Nat := 56 + 16 * c + p / 2

/-- A response header (Table 10.7). -/
def respHeader (status p n : Nat) (tag : BitVec 9) (aged late : Bool) (ue : Nat) : W36 :=
  packWord [(33, status), (32, p % 2), (28, n - 1), (19, tag.toNat), (18, b2n aged), (17, b2n late), (8, ue)]

/-- The entries of a packet: E on the last. -/
def packetOf (ws : List W36) : List Entry :=
  ws.mapIdx (fun i w => ⟨w, decide (i + 1 = ws.length), false⟩)

/-- A response packet that holds a read line of the response buffer: it carries data words. -/
def holdsLine (l : List Entry) : Bool := decide (2 ≤ l.length)

/-- Hand waiting response packets to their FIFO, entry by entry; a sealed FIFO discards and counts them (Table 10.12). -/
def drainOut : Nat → State → Nat → Nat → State
  | 0, s, _, _ => s
  | n + 1, s, c, q =>
    let x := dramOf s c
    let f := responseFifo c (2 * q)
    match tget (fun _ => []) x.out q with
    | [] => s
    | (_, []) :: l => drainOut n (setDram s c { x with out := tput (fun _ => []) x.out q l }) c q
    | (b, e :: t) :: l =>
      let rest := setDram s c { x with out := tput (fun _ => []) x.out q (if t = [] then l else (b, t) :: l) }
      if !(fifoOf s f).sl.open0 then drainOut n (rest.bump (HNG_FIFO_CNT_disc_seal f) 1) c q
      else
        let r := fifoPush rest f e
        if r.2 then drainOut n r.1 c q else setDram r.1 c { dramOf r.1 c with out := x.out }

/-- Responses that may leave: in arrival order of the port with ord = 1, as complete otherwise (R243). -/
def leaveOne (s : State) (c : Nat) : Option (DramReq × List Entry × List DramReq) :=
  let rec go : List DramReq → List DramReq → Option (DramReq × List Entry × List DramReq)
    | _, [] => none
    | past, r :: t =>
      match r.resp with
      | some es =>
        if s.flag (DRM_PORT_ord c r.port) && past.any (fun q => q.port == r.port) then go (past ++ [r]) t
        else some (r, es, past ++ t)
      | none => go (past ++ [r]) t
  go [] (dramOf s c).reqs

/-- Let every response leave that may. -/
def leaveAll : Nat → State → Nat → State
  | 0, s, _ => s
  | n + 1, s, c =>
    match leaveOne s c with
    | none => s
    | some (r, es, rest) =>
      let x := dramOf s c
      let q := r.port / 2
      let s := setDram s c { x with reqs := rest, out := tput (fun _ => []) x.out q (tget (fun _ => []) x.out q ++ [(holdsLine es, es)]) }
      leaveAll n (drainOut 600 s c q) c

/-- Requests of a port that are not yet performed. -/
def portQueued (s : State) (c p : Nat) : Nat :=
  ((dramOf s c).reqs.filter (fun r => r.port == p && r.resp.isNone)).length

/-- qlvl and queued follow the queues (Tables 10.17, 10.20). -/
def dramLevels (s : State) (c : Nat) : State :=
  let s := (List.range 16).foldl (fun s p => s.put (DRM_PORT_qlvl c p) (portQueued s c p)) s
  s.put (DRM_STAT_queued c) ((dramOf s c).reqs.filter (fun r => r.resp.isNone)).length

/-- Let responses leave and bring the counts in line. -/
def dramSettle (s : State) (c : Nat) : State := dramLevels (leaveAll 200 s c) c

/-- Response FIFO q of channel c may accept entries again. -/
def dramOutRetry (s : State) (c q : Nat) : State := drainOut 600 s c q

/-- A request enters its port queue: after every earlier one, and among those of one CK800 edge by port number (R242). -/
def insertReq (r : DramReq) : List DramReq → List DramReq
  | [] => [r]
  | q :: t => if q.arrival.toNat / 4 = r.arrival.toNat / 4 ∧ r.port < q.port then r :: q :: t else q :: insertReq r t

/-- An immediate answer with no data. -/
def answerOnly (s : State) (c p n : Nat) (tag : BitVec 9) (status : Nat) : State :=
  let x := dramOf s c
  let r : DramReq := ⟨p, 0, 0, n, tag, 0, [], 0, s.timebase, false, false,
    some (packetOf [respHeader status p n tag false false 0])⟩
  dramSettle (setDram s c { x with reqs := insertReq r x.reqs }) c

/-! ## Requests enter (R238 to R240) -/

/-- A request packet has come whole: its last entry carries E (R159). -/
def packetWhole (l : List Entry) : Bool := l.getLast?.any (·.e)

/-- A request packet may begin: the port that its header names has room in its queue; until then it waits, and every
packet behind it (R238). -/
def headerFits (s : State) (c q : Nat) (l : List Entry) : Bool :=
  match l.find? (fun e => !lengthWord e) with
  | some e => decide (portQueued s c (2 * q + b2n (e.data.getLsbD 33)) < 8)
  | none => true

/-- Channel `c` takes one entry of request FIFO F48 + 16c + q. Parts of a split packet join: length words go, and one that
begins a packet ends what an unfinished one had brought (R160, R238). -/
def requestTake (s : State) (c q : Nat) : State :=
  let f := requestFifo c (2 * q)
  let l := tget (fun _ => []) (dramOf s c).inbox q
  if dramTakes s c = false ∨ packetWhole l = true ∨ (l = [] ∧ headerFits s c q (readable (fifoOf s f)) = false) then s
  else
    match fifoPop s f with
    | (s, none) => s
    | (s, some e) =>
      let l' := if lengthWord e then (if e.data.getLsbD 34 then l else []) else l ++ [e]
      setDram s c { dramOf s c with inbox := tput (fun _ => []) (dramOf s c).inbox q l' }

/-- The channel takes what is left of the packet at the head of a request FIFO. -/
def packetTake (s : State) (c q : Nat) : State :=
  (List.range (rdepth (fifoOf s (requestFifo c (2 * q))) + 1)).foldl (fun s _ => requestTake s c q) s

/-- A request as its packet spells it (Table 10.6); `sound` unless it is a request fault (R240). -/
structure DramRequest where
  op : Nat
  port : Nat
  n : Nat
  tag : BitVec 9
  addr : Nat
  mask : BitVec 64
  data : List W36
  sound : Bool
  aborted : Bool
deriving DecidableEq, Repr

/-- Entries before the data words, by op (Table 10.6). -/
def requestLead (op : Nat) : Nat := if op = 2 then 4 else 2

/-- The request that a packet's entries spell, on ports 2q and 2q + 1 (Table 10.6). -/
def requestOfPacket (q : Nat) (l : List Entry) : DramRequest :=
  let w : Nat → W36 := fun i => (l.map (·.data)).getD i 0
  let op := bitsOf (w 0) 34 2
  let n := bitsOf (w 0) 29 4 + 1
  let a := bitsOf (w 1) 0 33
  { op := op, port := 2 * q + bitsOf (w 0) 33 1, n := n, tag := BitVec.ofNat 9 (bitsOf (w 0) 20 9), addr := a,
    mask := BitVec.ofNat 64 ((w 2).toNat + bitsOf (w 3) 0 28 * 2 ^ 36),
    data := (l.map (·.data)).drop (requestLead op),
    sound := op != 3 && decide (a % 16 + n ≤ 16) && l.length == requestLead op + (if op = 0 then 0 else n),
    aborted := l.any (·.a) }

/-- The whole packet that waits on ports 2q and 2q + 1 to act, once the channel has taken what is left of it. -/
def requestHere (s : State) (c q : Nat) : Option DramRequest :=
  let l := tget (fun _ => []) (dramOf s c).inbox q
  if packetWhole l then some (requestOfPacket q l) else none

/-- The packet has been acted on. -/
def packetGone (s : State) (c q : Nat) : State :=
  setDram s c { dramOf s c with inbox := tput (fun _ => []) (dramOf s c).inbox q [] }

/-- A malformed request is answered with status 100b and counted; an aborted one is only counted (R240). -/
def requestFault (s : State) (c p : Nat) : State :=
  let s := packetTake s c (p / 2)
  match requestHere s c (p / 2) with
  | none => s
  | some r =>
    if dramTakes s c = false ∨ r.port ≠ p ∨ (r.sound && !r.aborted) = true then s
    else
      let s := (packetGone s c (p / 2)).bump (DRM_CNT_req_err c) 1
      if r.aborted then s else answerOnly s c p r.n r.tag 4

def execSdramRequestFault (c : Fin 2) (p : Fin 16) (s : State) : Host.Outcome State Fault Refusal :=
  .next (requestFault s c.val p.val)

/-- The nonets a request writes, four for each word of the line (R239). -/
def requestMask (op a n : Nat) (mask : BitVec 64) : BitVec 64 :=
  let own := (2 ^ (4 * n) - 1) * 2 ^ (4 * (a % 16))
  if op = 2 then mask &&& BitVec.ofNat 64 own else if op = 1 then BitVec.ofNat 64 own else 0

/-- A request with op `op` enters the queue of port `p`, with the class of its port; one beyond the capacity or in a
reserved row is an address error (R238 to R240, R244). -/
def sdramRequest (s : State) (c p op : Nat) : State :=
  let s := packetTake s c (p / 2)
  match requestHere s c (p / 2) with
  | none => s
  | some r =>
    if dramTakes s c = false ∨ r.port ≠ p ∨ r.op ≠ op ∨ r.sound = false ∨ r.aborted = true then s
    else
      let s := packetGone s c (p / 2)
      let bad := match decodeAddr s c r.addr with
        | none => true
        | some l => reservedRow s c l
      if bad then answerOnly s c p r.n r.tag 3
      else
        let q : DramReq := ⟨p, op, r.addr, r.n, r.tag, requestMask op r.addr r.n r.mask,
          List.replicate (r.addr % 16) 0 ++ r.data, s.get (DRM_PORT_cls c p), s.timebase, false, false, none⟩
        dramSettle (setDram s c { dramOf s c with reqs := insertReq q (dramOf s c).reqs }) c

def execSdramRead (c : Fin 2) (p : Fin 16) (s : State) : Host.Outcome State Fault Refusal :=
  .next (sdramRequest s c.val p.val 0)

def execSdramWrite (c : Fin 2) (p : Fin 16) (s : State) : Host.Outcome State Fault Refusal :=
  .next (sdramRequest s c.val p.val 1)

def execSdramMaskedWrite (c : Fin 2) (p : Fin 16) (s : State) : Host.Outcome State Fault Refusal :=
  .next (sdramRequest s c.val p.val 2)

/-! ## Accesses (R241, R242) -/

/-- Word `w` of the line and nonets of double `j` that a request writes. -/
def doubleMask (r : DramReq) (j : Nat) : Nat := bitsOf r.mask (8 * j) 8

/-- The double `j` that the request's words make. -/
def requestDouble (r : DramReq) (j : Nat) : W72 :=
  BitVec.ofNat 72 ((r.line.getD (2 * j) 0).toNat + (r.line.getD (2 * j + 1) 0).toNat * 2 ^ 36)

/-- Every double is wholly written or wholly left alone (R241). -/
def wholeDoubles (r : DramReq) : Bool := (List.range 8).all (fun j => doubleMask r j == 0 || doubleMask r j == 255)

/-- A double with the masked nonets of another written over it. -/
def mergeDouble (d w : W72) (m : Nat) : W72 :=
  let bits := (List.range 8).foldl (fun a k => if bitN m k then a + 511 * 512 ^ k else a) 0
  (d &&& ~~~ BitVec.ofNat 72 bits) ||| (w &&& BitVec.ofNat 72 bits)

/-- A write, without reading where it can; otherwise the merged line under R237. -/
def writeLine (x : Dram) (l : DramLoc) (r : DramReq) (ds : List (W72 × Nat × Nat)) : Dram :=
  (List.range 8).foldl (fun x j =>
    let m := doubleMask r j
    if m = 255 then putDouble x l j (stored (requestDouble r j))
    else if wholeDoubles r then x
    else
      let d := ds.getD j (0, 0, 0)
      let v := mergeDouble d.1 (requestDouble r j) m
      putDouble x l j (if d.2.1 = 2 then poisoned v else stored v)) x

/-- Bits of the uncorrectable doubles of a line. -/
def ueBits (ds : List (W72 × Nat × Nat)) : Nat :=
  ds.zipIdx.foldl (fun a e => if e.1.2.1 = 2 then a + 2 ^ e.2 else a) 0

/-- Status 000b, 001b or 010b of what a read of the line found. -/
def lineStatus (ds : List (W72 × Nat × Nat)) : Nat :=
  if ds.any (fun d => d.2.1 == 2) then 2 else if ds.any (fun d => d.2.1 == 1) then 1 else 0

/-- The words of a line. -/
def lineWords (ds : List (W72 × Nat × Nat)) : List W36 :=
  ds.flatMap (fun d => [BitVec.ofNat 36 d.1.toNat, BitVec.ofNat 36 (d.1.toNat / 2 ^ 36)])

/-- The request at place `i` of a port's queue, with its place in the channel. -/
def requestAt (s : State) (c p i : Nat) : Option (Nat × DramReq) :=
  (((dramOf s c).reqs.zipIdx.filter (fun e => e.1.port == p && e.1.resp.isNone)).map (fun e => (e.2, e.1)))[i]?

/-- The row is under a live remap: its requests are held (R251). -/
def rowHeld (s : State) (c : Nat) (l : DramLoc) : Bool :=
  match (dramOf s c).remap with
  | some r => rowNumber r.2.1 == rowNumber l
  | none => false

/-- Response buffer space for one more read: 32 lines for each response FIFO (R243). -/
def bufferSpace (s : State) (c p : Nat) : Bool :=
  let x := dramOf s c
  decide (((tget (fun _ => []) x.out (p / 2)).filter (·.1)).length +
    (x.reqs.filter (fun r => r.port / 2 == p / 2 && r.resp.any holdsLine)).length < 32)

/-- The number of a bank in the channel. -/
def bankNumber (l : DramLoc) : Nat := (l.rank * 4 + l.bg) * 4 + l.bank

/-- The bank and row that a queued request reaches, through the remap table. -/
def reqPlace (s : State) (c : Nat) (r : DramReq) : Option (Nat × Nat) :=
  (decodeAddr s c r.addr).map (fun l => (bankNumber (remapped s c l), (remapped s c l).row))

/-- Opening row `row` of bank `b` for class `cls` would precharge a row that a queued request of that class or a lower one
hits (R245). -/
def wouldClose (s : State) (c b row cls : Nat) : Bool :=
  let x := dramOf s c
  match tget (fun _ => none) x.openRows b with
  | none => false
  | some o => o != row && x.reqs.any (fun q => q.resp.isNone && decide (q.cls ≤ cls) && reqPlace s c q == some (b, o))

/-- Request `k` is one that the scheduler may choose: the oldest on its line, its row not held by a live remap, no row
closed that another needs, and for a read the response buffer space reserved (R242, R243, R245, R251). -/
def schedReady (s : State) (c k : Nat) (r : DramReq) : Bool :=
  match decodeAddr s c r.addr with
  | none => false
  | some l =>
    let l' := remapped s c l
    r.resp.isNone && !((dramOf s c).reqs.take k).any (fun q => q.resp.isNone && q.addr / 16 == r.addr / 16) &&
      !rowHeld s c l && !wouldClose s c (bankNumber l') l'.row r.cls && (r.op != 0 || bufferSpace s c r.port)

/-- The scheduler's order between requests whose next command the timing allows alike: the lower class, then an open row,
then the earlier arrival, then the lower port, which is the queue's order (R242, R245). -/
def schedBefore (a b : Nat × Bool × Nat) : Bool :=
  decide (a.1 < b.1) || (a.1 == b.1 && ((a.2.1 && !b.2.1) || (a.2.1 == b.2.1 && decide (a.2.2 < b.2.2))))

/-- A ready request that goes before request `k`: one of the same bank whose next command is of the same kind, or opens
another row, so that the timing allows it wherever it allows that of `k` (R245; DEDUCED, log entry 31). -/
def schedRival (s : State) (c k : Nat) (r : DramReq) : Bool :=
  let x := dramOf s c
  match reqPlace s c r with
  | none => false
  | some (b, row) =>
    let hit := fun row => tget (fun _ => none) x.openRows b == some row
    x.reqs.zipIdx.any (fun e => e.2 != k && schedReady s c e.2 e.1 &&
      (match reqPlace s c e.1 with
       | some (b', row') => b' == b && hit row' == hit row && (row' != row || (e.1.op == 0) == (r.op == 0)) &&
           schedBefore (e.1.cls, hit row', e.2) (r.cls, hit row, k)
       | none => false))

/-- Time that a request has waited. -/
def waited (s : State) (r : DramReq) : Nat := (s.timebase - r.arrival).toNat

/-- A request of class 1 to 3 past its age limit is promoted to class 0 (R244). -/
def requestAged (s : State) (c k : Nat) (r : DramReq) : State :=
  if r.resp = none ∧ 0 < r.cls ∧ s.get (DRM_AGE_lim c r.cls) < waited s r then
    setDram s c { dramOf s c with reqs := (dramOf s c).reqs.set k { r with cls := 0, aged := true } }
  else s

/-- A class 0 request past the class 0 limit is late: counted, and an event on E(987 + 8c) (R244). -/
def requestLate (s : State) (c k : Nat) (r : DramReq) : State :=
  if r.resp = none ∧ r.cls = 0 ∧ r.late = false ∧ s.get (DRM_AGE_lim c 0) < waited s r then
    let s := setDram s c { dramOf s c with reqs := (dramOf s c).reqs.set k { r with late := true } }
    offerEvent (s.bump (DRM_CNT_late c) 1) (987 + 8 * c)
  else s

/-- At a command slot every queued request that has waited too long is aged, and late (R245). -/
def ageAll (s : State) (c : Nat) : State :=
  (List.range (dramOf s c).reqs.length).foldl (fun s k =>
    let s := ((dramOf s c).reqs[k]?).elim s (requestAged s c k)
    ((dramOf s c).reqs[k]?).elim s (requestLate s c k)) s

/-- Row `row` of bank `b` is open after an access. -/
def openRow (s : State) (c b row : Nat) : State :=
  setDram s c { dramOf s c with openRows := tput (fun _ => none) (dramOf s c).openRows b (some row) }

/-- The access of a request is issued and completes, if the scheduler may choose it now (R241 to R245). -/
def accessDone (s : State) (c p i : Nat) (flips : List DramFlip) : State :=
  let s := if dramServes s c then ageAll s c else s
  match requestAt s c p i with
  | none => s
  | some (k, r) =>
    match decodeAddr s c r.addr with
    | none => s
    | some l =>
      if dramServes s c = false ∨ schedReady s c k r = false ∨ schedRival s c k r = true then s
      else
        let l' := remapped s c l
        let s := openRow (setDram s c (flipBits (dramOf s c) l' flips)) c (bankNumber l') l'.row
        let reads := r.op == 0 || !wholeDoubles r
        let ds := readLine s c l
        let s := if reads then countLine s c l false false ds else s
        let s := if r.op = 0 then (if s.flag (DRM_CFG_wb c) then writeBack s c l ds else s)
          else setDram s c (writeLine (dramOf s c) l' r ds)
        let status := if reads then lineStatus ds else 0
        let data := if r.op = 0 then ((lineWords ds).drop (r.addr % 16)).take r.n else []
        let es := packetOf (respHeader status p r.n r.tag r.aged r.late (if reads then ueBits ds else 0) :: data)
        let answer := r.op == 0 || s.flag (DRM_PORT_wack c p) || status != 0
        let y := dramOf s c
        let s := setDram s c { y with
          reqs := if answer then y.reqs.set k { r with resp := some es } else y.reqs.eraseIdx k }
        dramSettle s c

def execSdramAccessDone (c : Fin 2) (p : Fin 16) (idx : Nat) (flips : List DramFlip) (s : State) :
    Host.Outcome State Fault Refusal := .next (accessDone s c.val p.val idx flips)

def execSdramRequestAged (c : Fin 2) (p : Fin 16) (idx : Nat) (s : State) : Host.Outcome State Fault Refusal :=
  .next ((requestAt s c.val p.val idx).elim s (fun e => requestAged s c.val e.1 e.2))

def execSdramRequestLate (c : Fin 2) (p : Fin 16) (idx : Nat) (s : State) : Host.Outcome State Fault Refusal :=
  .next ((requestAt s c.val p.val idx).elim s (fun e => requestLate s c.val e.1 e.2))

/-! ## Refresh and temperature (R248) -/

/-- Close every row, or every row of one rank. -/
def closeRows (s : State) (c : Nat) (rank : Option Nat) : State :=
  let x := dramOf s c
  setDram s c { x with openRows := match rank with
    | none => []
    | some r => tdrop (fun k => k / 16 == r) x.openRows }

/-- Requests queued for a rank. -/
def rankReqs (s : State) (c rank : Nat) : List DramReq :=
  (dramOf s c).reqs.filter (fun r => r.resp.isNone && (match decodeAddr s c r.addr with
    | some l => l.rank == rank
    | none => false))

/-- A refresh falls due on a rank that the channel has: postponed, up to 8, while a class 0 or 1 request is queued for the
rank, during a pause and while ALERT_N stands; otherwise issued, and one postponed refresh is caught up while nothing is
queued (R248, R253, R265). -/
def refreshDue (s : State) (c rank : Nat) : State :=
  let st := dramState s c
  let x := dramOf s c
  if (st = 2 ∨ st = 4) ∧ rank < ranksOf s c then
    let n := s.get (DRM_REF_postponed c)
    let rs := rankReqs s c rank
    if x.alert then s.put (DRM_REF_postponed c) (min 8 (n + 1))
    else if (rs.any (fun r => decide (r.cls ≤ 1)) || x.pausing) && decide (n < 8) then
      s.put (DRM_REF_postponed c) (n + 1)
    else
      closeRows (if rs.isEmpty then s.put (DRM_REF_postponed c) (n - 1) else s) c (some rank)
  else s

def execSdramRefreshDue (c rank : Fin 2) (s : State) : Host.Outcome State Fault Refusal :=
  .next (refreshDue s c.val rank.val)

/-- The refresh mode changes: an event on E(988 + 8c), and a log entry (R248). -/
def setMode2x (s : State) (c : Nat) (b : Bool) : State :=
  if s.flag (DRM_REF_mode2x c) = b then s
  else logState (offerEvent (s.put (DRM_REF_mode2x c) (b2n b)) (988 + 8 * c)) 5 0x6503 (1 + c) (b2n b)

/-- A temperature source is chosen: 10b means 2x mode always, from the write on (R248). -/
def tempSource (s : State) (c : Nat) : State := if s.get (DRM_REF_tsrc c) = 2 then setMode2x s c true else s

/-- A 7-bit two's complement value. -/
def signed7 (n : Nat) : Int := if n < 64 then n else (n : Int) - 128

/-- The refresh temperature is read, as (T + 64) x 4: the SDRAM's own where tsrc asks for it and it reports one, else
the highest die sensor plus toff; 85 C leads to 2x mode (R248). -/
def tempRead (s : State) (c : Nat) (die : Nat) (mpr : Option (BitVec 10)) : State :=
  let own : Nat := ((die : Int) + 4 * signed7 (s.get (DRM_REF_toff c))).toNat
  let t := match mpr with
    | some v => if s.get (DRM_REF_tsrc c) = 1 then v.toNat else own
    | none => own
  let s := setDram (s.put (DRM_REF_temp c) (min t 1023)) c { dramOf s c with die := die }
  if s.get (DRM_REF_tsrc c) = 2 ∨ 596 ≤ t then setMode2x s c true else s

def execSdramTempRead (c : Fin 2) (die : BitVec 10) (mpr : Option (BitVec 10)) (s : State) :
    Host.Outcome State Fault Refusal := .next (tempRead s c.val die.toNat mpr)

/-- 1 s at or below 82 C: back to 1x mode (R248). -/
def execSdramRefresh1x (c : Fin 2) (s : State) : Host.Outcome State Fault Refusal :=
  .next (if s.get (DRM_REF_tsrc c.val) ≠ 2 ∧ s.get (DRM_REF_temp c.val) ≤ 584 then setMode2x s c.val false else s)

/-! ## Patrol (R249) -/

/-- Lines of a rank, and the place of a line in the walk: column high, bank, bank group, row (R249). -/
def rankLines (s : State) (c : Nat) : Nat := 2 ^ (addrBits s c - 4 - rankBits s c)

def patrolLoc (s : State) (c i : Nat) : DramLoc :=
  let j := i % rankLines s c
  ⟨i / rankLines s c, j / 512 % 2 ^ bgBits s c, j / 128 % 4, j / 512 / 2 ^ bgBits s c, j % 128⟩

/-- The patrol reads the next line: corrected doubles are written back, uncorrectable ones reported. It waits behind a
request on its line, and as a class 3 request closes no row that one needs (R242, R245, R249). -/
def patrolRead (s : State) (c : Nat) (flips : List DramFlip) : State :=
  let x := dramOf s c
  let l := patrolLoc s c x.patrolPos
  let a := encodeAddr s c l
  if s.get (DRM_PATROL_period c) = 0 ∨ dramServes s c = false ∨ rowHeld s c l = true ∨
      x.reqs.any (fun r => r.resp.isNone && r.addr / 16 == a / 16) = true ∨
      wouldClose s c (bankNumber (remapped s c l)) (remapped s c l).row 3 = true then s
  else
    let s := openRow (setDram s c (flipBits x (remapped s c l) flips)) c (bankNumber (remapped s c l))
      (remapped s c l).row
    let ds := readLine s c l
    let s := writeBack (countLine s c l true false ds) c l ds
    let total := rankLines s c * 2 ^ rankBits s c
    let pos := (x.patrolPos + 1) % total
    (setDram s c { dramOf s c with patrolPos := pos }).put (DRM_PATROL_progress c) (pos * 100 / total)

/-- The walk restarts at line 0 of rank 0 (R249). -/
def patrolRestart (s : State) (c : Nat) : State :=
  (setDram s c { dramOf s c with patrolPos := 0 }).put (DRM_PATROL_progress c) 0

def execSdramPatrolRead (c : Fin 2) (flips : List DramFlip) (s : State) : Host.Outcome State Fault Refusal :=
  .next (patrolRead s c.val flips)

/-! ## Live remap and hard repair (R251, R252) -/

/-- The repair record's rows of a channel. -/
def dramRows (s : State) (c : Nat) : List DramRow := if c = 0 then s.mtp.repair.dram0 else s.mtp.repair.dram1

/-- Set them. -/
def setDramRows (s : State) (c : Nat) (l : List DramRow) : State :=
  let r := s.mtp.repair
  { s with mtp := { s.mtp with repair := if c = 0 then { r with dram0 := l } else { r with dram1 := l } } }

/-- Copy one line to the reserved row, correcting, with uncorrectable doubles poisoned (R251). -/
def copyLine (x : Dram) (src dst : DramLoc) (col : Nat) : Dram :=
  (List.range 8).foldl (fun x j =>
    let d := decodeDouble (memDouble x { src with col := col } j)
    putDouble x { dst with col := col } j (if d.2.1 = 2 then poisoned d.1 else stored d.1)) x

/-- A live remap's copy ends, the errors that it read counted: the entry switches, held requests are released, the row joins the repair record,
E(990 + 8c) and 5102h (R251, R254). -/
def liveRemapDone (s : State) (c : Nat) : State :=
  let x := dramOf s c
  match x.remap with
  | none => s
  | some (i, l, d) =>
    let s := (List.range 128).foldl (fun s k =>
      let m := { l with col := k }
      countLine s c m false true ((List.range 8).map (fun j => decodeDouble (memDouble (dramOf s c) m j)))) s
    let y := (List.range 128).foldl (fun x k => copyLine x l d k) (dramOf s c)
    let s := setDram s c { y with remap := none }
    let s := s.setWord (DRM_RMP c i) (packWord [(35, 1), (33, l.rank), (31, l.bg), (29, l.bank), (12, l.row),
      (10, d.bg), (8, d.bank)])
    let row : DramRow := ⟨false, BitVec.ofNat 1 l.rank, BitVec.ofNat 2 l.bg, BitVec.ofNat 2 l.bank,
      BitVec.ofNat 17 l.row, BitVec.ofNat 2 d.bg, BitVec.ofNat 2 d.bank⟩
    let s := setDramRows s c (dramRows s c ++ [row])
    let s := { s with mtp := { s.mtp with writing := true } }
    let s := raise (offerEvent s (990 + 8 * c)) 0x5102 (remapDetail s c l)
    startRemap 33 s c

def execSdramLiveRemapDone (c : Fin 2) (s : State) : Host.Outcome State Fault Refusal :=
  .next (if dramServes s c.val then liveRemapDone s c.val else s)

/-- The hard-repair request of channel c in the repair record, which is then written (R252, R367). -/
def setPpr (s : State) (c : Nat) (b : Bool) : State :=
  let r := s.mtp.repair
  let s := { s with mtp := { s.mtp with
    repair := (if c = 0 then { r with ppr0 := b } else { r with ppr1 := b }), writing := true } }
  s.put (DRM_CFG_ppr_en c) (b2n b)

def execSdramPprRequest (c : Fin 2) (s : State) : Host.Outcome State Fault Refusal :=
  .next (if s.flag (DRM_CFG_ppr_en c.val) then s else setDram s c.val { dramOf s c.val with pprPending := true })

def execSdramPprRecorded (c : Fin 2) (s : State) : Host.Outcome State Fault Refusal :=
  .next (if (dramOf s c.val).pprPending then
    setPpr (setDram s c.val { dramOf s c.val with pprPending := false }) c.val true else s)

def execSdramPprWithdraw (c : Fin 2) (s : State) : Host.Outcome State Fault Refusal :=
  .next (setPpr (setDram s c.val { dramOf s c.val with pprPending := false }) c.val false)

/-- Hard repair of one recorded row, with its outcome; a row with no outcome keeps its remap, and a bank group whose one
repair is spent gives no other (R252). -/
def pprRow (s : State) (c i : Nat) (d : DramRow) (ok : Option Bool) : State :=
  let l : DramLoc := ⟨d.rank.toNat, d.bg.toNat, d.bank.toNat, d.row.toNat, 0⟩
  let spent := (dramRows s c).any (fun e => e.ppr && e.rank == d.rank && e.bg == d.bg)
  match d.ppr, ok with
  | false, some ok =>
    if ok && !spent then
      let s := match remapEntry s c l with
        | some i => s.setWord (DRM_RMP c i) 0
        | none => s
      setDramRows s c ((dramRows s c).set i { d with ppr := true })
    else raise s 0x5105 (remapDetail s c l)
  | _, _ => s

/-- A standing request runs on every recorded row, and is then cleared: at the channel's first start-up sweep after a
power-on reset (R252). -/
def pprRun (s : State) (c : Nat) (oks : List Bool) : State :=
  if s.flag (DRM_CFG_ppr_en c) && !(dramOf s c).swept then
    setPpr ((dramRows s c).zipIdx.foldl (fun s e => pprRow s c e.2 e.1 oks[e.2]?) s) c false
  else s

/-! ## Parity alerts and clears (R253, R255) -/

/-- ALERT_N signals a parity error: counted, an event on E(991 + 8c), and 5104h at 16 within 1 s, at most once a
second. A pause that it falls in ends its gathering (Table 11.8). A channel that is OFF or DISABLED issues no command, so
none of its commands is in error. -/
def parityAlert (s : State) (c : Nat) : State :=
  let x := dramOf s c
  if dramState s c = 0 ∨ dramState s c = 5 then s
  else
    let recent := fun (t : W72) => decide ((s.timebase - t).toNat < 3200000000)
    let al := s.timebase :: x.alerts.filter recent
    let s := setDram s c { x with alert := true, alerts := al, abandoned := x.abandoned || x.pausing }
    let s := offerEvent (s.bump (DRM_CNT_ca_alert c) 1) (991 + 8 * c)
    let quiet := match x.alertRaised with
      | none => true
      | some t => !recent t
    if 16 ≤ al.length ∧ quiet = true then
      raise (setDram s c { dramOf s c with alertRaised := some s.timebase }) 0x5104
        (packWord [(35, c), (24, min 2047 al.length)])
    else s

def execSdramParityAlert (c : Fin 2) (s : State) : Host.Outcome State Fault Refusal := .next (parityAlert s c.val)

/-- ALERT_N is released: every bank is precharged and the affected requests, still queued, restart (Table 10.12). -/
def execSdramAlertRelease (c : Fin 2) (s : State) : Host.Outcome State Fault Refusal :=
  .next (closeRows (setDram s c.val { dramOf s c.val with alert := false }) c.val none)

def execSdramEccClear (c : Fin 2) (s : State) : Host.Outcome State Fault Refusal :=
  .next ((s.setWord (DRM_ECC_LAST c.val) 0).setWord (DRM_ECC_SYN c.val) 0)

def execSdramCntClear (c : Fin 2) (s : State) : Host.Outcome State Fault Refusal :=
  .next ((s.setWord (DRM_ECC c.val) 0).setWord (DRM_CNT c.val) 0)

end Sys2Proof.Machine
end

