-- ==== Sys2Proof/Machine/Train.lean ====
section
/-! DEFINITION. Train: SDRAM training: sweeps, gatherings, drift tracking, stored sets, rate changes, self-refresh (11). -/
namespace Sys2Proof.Machine
open Sys2Proof

/-! ## Stored sets (R258, R269) -/

/-- The stored training of a byte lane. -/
def laneSet (s : State) (c r rank lane : Nat) : LaneSet :=
  tget (fun _ => LaneSet.init) (dramOf s c).sets ((r * 2 + rank) * 10 + lane)

/-- Set it. -/
def setLaneSet (s : State) (c r rank lane : Nat) (x : LaneSet) : State :=
  let d := dramOf s c
  setDram s c { d with sets := tput (fun _ => LaneSet.init) d.sets ((r * 2 + rank) * 10 + lane) x }

/-- A drift estimate as its register shows it: nine bits, saturating at 255 (Table 11.15). -/
def sat9 (d : Int) : Nat := if 255 < d then 255 else if d < -255 then 257 else (d % 512).toNat

/-- DRM_DLY_VAL_c and DRM_DLY_DRF_c as they read: the entry that DRM_DLY_IDX_c names, 0 for an invalid set or an
index out of range (R277). -/
def dlyWords (s : State) (c : Nat) : W36 × W36 :=
  let r := s.get (DRM_DLY_IDX_set c)
  let lane := s.get (DRM_DLY_IDX_lane c)
  if r ≤ 2 ∧ lane ≤ 9 ∧ s.get (DRM_DLY_IDX_rank c) < ranksOf s c ∧ s.flag (DRM_TRN_SET_valid c r) = true then
    let x := laneSet s c r (s.get (DRM_DLY_IDX_rank c)) lane
    (packWord [(27, x.wlvl), (18, x.gate), (9, x.rd), (0, x.wr)],
     packWord [(27, x.rdEye), (18, x.wrEye), (9, sat9 x.rdD), (0, sat9 x.wrD)])
  else (0, 0)

/-! ## Settings before training (R234, R261) -/

/-- The modes of Table 10.4 at rate `r`, as the controller sets them in every rank. -/
def modesAt (s : State) (c r : Nat) : DramModes :=
  { rate := r, cl := s.get (DRM_TIMA_cl c r), cwl := s.get (DRM_TIMA_cwl c r), burst := 8, preamble := 1,
    refreshGrain := 1, dll := true, parity := true, writeCrc := false, dataMask := true, writeDbi := false,
    readDbi := false, gearDown := r == 2, tempRefresh := false, maxSaving := false, extendedTemp := false }

/-- Set them. -/
def setModes (s : State) (c r : Nat) : State := setDram s c { dramOf s c with modes := some (modesAt s c r) }

/-- The interface settings of Table 11.1 as the calibration bank gives them, in row order; RTT_NOM and RTT_PARK are off
with one rank (R261, R404). -/
def interfaceSettings (s : State) (c : Nat) : List Nat :=
  (List.range 8).map (fun j => if ranksOf s c = 1 ∧ (j = 5 ∨ j = 6) then 0 else calNat s 4 (2 * (8 * c + j)) 2)

/-! ## Full sweeps (R262, R271) -/

/-- Begin a full sweep at rate `r`: the ranks are initialized with their modes set, the channel is in INIT and serves
nothing. -/
def sweepStart (s : State) (c r : Nat) (k : SweepKind) : State :=
  let s := setDram s c { dramOf s c with
    sweepKind := k, sweepRate := r, sweepResults := [], sweepDue := false, pausing := false, pauses := 0,
    samples := [], abandoned := false }
  let s := (s.put (DRM_TRN_STAT_phase c) 1).put (DRM_TRN_STAT_step c) 0
  setDramState (closeRows (setModes s c r) c none) c 1

/-- The configuration engine applies the early fields with en = 1: a start-up sweep (Table 11.7), before the first of which
after power-on reset the interface settings are set (R261). -/
def dramStart (s : State) (c : Nat) : State :=
  let x := dramOf s c
  sweepStart (setDram s c { x with iface := if x.iface.isEmpty then interfaceSettings s c else x.iface }) c (rateNow s c)
    .startUp

/-! ## Steps of a sweep (R259, R262) -/

/-- The runs of consecutive passing delays of a sweep, in ascending order: lower end and width. -/
def passRuns (v : BitVec 512) : List (Nat × Nat) :=
  ((List.range 512).foldl (fun (a : List (Nat × Nat)) i =>
    if v.getLsbD i then
      match a with
      | (lo, n) :: t => if lo + n = i then (lo, n + 1) :: t else (i, 1) :: a
      | [] => [(i, 1)]
    else a) []).reverse

/-- The eye of a byte lane: the longest run of passing delays; which of several equally long ones is free (R259; DESIGN
CHOICE, log entry 34). -/
def eyeOf (n : Nat) (v : BitVec 512) : Nat × Nat :=
  let l := passRuns v
  let best := l.filter (fun r => decide (∀ q ∈ l, q.2 ≤ r.2))
  best.getD (if best.length = 1 then 0 else Config.freeNat n % best.length) (0, 0)

/-- The centre of an eye: the lower end plus the floor of (width - 1) / 2 (R259). -/
def eyeCentre (lo width : Nat) : Nat := lo + (width - 1) / 2

/-- A step's rank, stage (0 write leveling, 1 gate, 2 read eye, 3 write eye) and lane, in the order of
DRM_TRN_STAT_c.step (Table 11.10). -/
def stepPlace (i : Nat) : Nat × Nat × Nat := (i / 40, i % 40 / 10, i % 10)

/-- What a step finds in the delays that pass: write leveling and gate take the lowest, the read and write eye their eye. -/
def stepResult (n i : Nat) (v : BitVec 512) : SweepResult :=
  if (stepPlace i).2.1 < 2 then
    match (List.range 512).find? (fun d => v.getLsbD d) with
    | some d => ⟨true, d, 1⟩
    | none => ⟨false, 0, 0⟩
  else
    let e := eyeOf n v
    ⟨e.2 != 0, e.1, e.2⟩

/-- A step's result is a working one: completed, and an eye of 12 steps or more (R259). -/
def stepWorks (i : Nat) (r : SweepResult) : Bool :=
  r.ok && ((stepPlace i).2.1 < 2 || decide (12 ≤ r.width))

/-- The set that a passed sweep makes: the delays of write leveling and gate, and the centres of the eyes. -/
def storeSet (s : State) (c r : Nat) (l : List SweepResult) : State :=
  let s := (List.range (ranksOf s c)).foldl (fun s rank => (List.range 10).foldl (fun s lane =>
    let at' := fun st => l.getD (40 * rank + 10 * st + lane) ⟨false, 0, 0⟩
    setLaneSet s c r rank lane
      { LaneSet.init with
        wlvl := (at' 0).low, gate := (at' 1).low, rd := eyeCentre (at' 2).low (at' 2).width,
        wr := eyeCentre (at' 3).low (at' 3).width, rdEye := (at' 2).width, wrEye := (at' 3).width,
        rdLo := (at' 2).low, wrLo := (at' 3).low }) s) s
  let eyes := ((l.zipIdx).filter (fun e => 2 ≤ (stepPlace e.2).2.1)).map (fun e => e.1.width)
  s.setWord (DRM_TRN_SET c r) (packWord [(35, 1), (23, eyes.foldl min 511), (13, (dramOf s c).die)])

/-- Discard every queued request and seal the channel's FIFOs (R253, R271). -/
def dramDisable (s : State) (c : Nat) : State :=
  let s := setDramState s c 5
  let s := setDram s c { dramOf s c with reqs := [], inbox := [], out := [], exiting := false, rateReq := none, rateTo := none, sweepDue := false }
  updateSeals (dramLevels s c)

/-- The channel is in READY or DEGRADED on the set of the rate in force, with its modes; gatherings count from each entry to
READY. A sweep that was requested meanwhile begins. -/
def dramReady (s : State) (c st : Nat) : State :=
  let s := s.put (DRM_TRN_STAT_phase c) 0
  let s := if st = 2 ∧ dramState s c ≠ 2 then s.put (DRM_TRN_STAT_gathers c) 0 else s
  let was := (dramOf s c).exiting
  let s := setDram s c { dramOf s c with exiting := false, rateTo := none }
  let s := setDramState (setModes s c (rateNow s c)) c st
  let s := dramSettle (if was then offerEvent s (989 + 8 * c) else s) c
  if (dramOf s c).sweepDue then sweepStart s c (rateNow s c) (.requested st) else s

/-- A sweep that finds no working setting (Table 11.5); `i` is the first step that failed. The eye that 5106h and 5107h
show is that step's (DEDUCED, log entry 34). -/
def sweepFail (s : State) (c i : Nat) (r : SweepResult) : State :=
  let p := stepPlace i
  let s := s.put (DRM_TRN_CFG_sweep c) 0
  match (dramOf s c).sweepKind with
  | .startUp | .fromRefresh =>
    raise (dramDisable (s.put (DRM_TRN_STAT_phase c) 0) c) 0x5106
      (packWord [(35, c), (34, p.1), (30, p.2.2), (28, p.2.1), (19, if p.2.1 < 2 then 0 else r.width)])
  | .newRate rate st =>
    let asked := (dramOf s c).sweepRate
    let s := dramReady (s.put (DRM_CFG_rate c) rate) c st
    raise s 0x5108 (packWord [(35, c), (33, asked), (31, rate), (27, p.2.2), (26, p.1)])
  | .requested _ =>
    let s := dramReady s c 4
    raise s 0x5107 (packWord [(35, c), (34, p.1), (30, p.2.2), (29, b2n (p.2.1 == 3)),
      (20, if p.2.1 < 2 then 0 else r.width), (19, 1)])

/-- A full sweep has its last result: it passes, or it finds no working setting (R262, R271). -/
def sweepEnd (s : State) (c : Nat) : State :=
  let x := dramOf s c
  let l := x.sweepResults
  let s := (setDram s c { x with swept := x.swept || x.sweepKind == .startUp }).put (DRM_TRN_STAT_step c) 0
  match l.zipIdx.find? (fun e => !stepWorks e.2 e.1) with
  | none =>
    let s := storeSet s c x.sweepRate l
    let s := (s.put (DRM_CFG_rate c) x.sweepRate).put (DRM_TRN_CFG_sweep c) 0
    dramReady ((setDram s c { dramOf s c with runs := [] }).put (DRM_TRN_FLAG_run c) 0) c 2
  | some e => sweepFail s c e.2 e.1

/-- A sweep step completes for its byte lane with the delays that passed; hard repair runs before the first step of a
start-up sweep (R252, R262). The borrowed line holds the same bits after its probes as before (R263). A rate request that
is held waits for `RATE_CHANGE_BEGIN`. -/
def sweepStep (s : State) (c : Nat) (v : BitVec 512) (ppr : List Bool) : State :=
  if s.get (DRM_TRN_STAT_phase c) = 1 ∧ dramState s c = 1 ∧ (dramOf s c).alert = false then
    let x := dramOf s c
    let s := match x.sweepKind, x.sweepResults with
      | .startUp, [] => pprRun s c ppr
      | _, _ => s
    let x := dramOf s c
    let l := x.sweepResults ++ [stepResult s.free x.sweepResults.length v]
    let s := setDram s.tookFree c { x with sweepResults := l }
    if 40 * ranksOf s c ≤ l.length then sweepEnd s c else s.put (DRM_TRN_STAT_step c) l.length
  else s

def execSweepStepDone (c : Fin 2) (v : BitVec 512) (ppr : List Bool) (s : State) :
    Host.Outcome State Fault Refusal := .next (sweepStep s c.val v ppr)

/-- A requested sweep begins: from READY or DEGRADED, a gathering abandoned, at once, at the end of a pause or at the end of
a rate change; during a sweep it merges (R271, Table 11.8). In another state it has no effect (DESIGN CHOICE, log entry
34). -/
def sweepRequest (s : State) (c : Nat) : State :=
  let st := dramState s c
  if st = 1 then s.put (DRM_TRN_CFG_sweep c) 1
  else if st = 2 ∨ st = 4 then
    let s := s.put (DRM_TRN_CFG_sweep c) 1
    if (dramOf s c).pausing || s.get (DRM_TRN_STAT_phase c) == 4 then
      setDram s c { dramOf s c with sweepDue := true, abandoned := true }
    else sweepStart s c (rateNow s c) (.requested st)
  else s

def execSweepRequest (c : Fin 2) (s : State) : Host.Outcome State Fault Refusal := .next (sweepRequest s c.val)

/-! ## Gatherings and drift (R264 to R268, R270) -/

/-- The gathering period elapses (R264). -/
def gatherStart (s : State) (c : Nat) : State :=
  let st := dramState s c
  if (st = 2 ∨ st = 4) ∧ s.get (DRM_TRN_STAT_phase c) = 0 ∧ s.get (DRM_TRN_CFG_period c) ≠ 0 ∧
      (dramOf s c).rateReq = none then
    setDram (s.put (DRM_TRN_STAT_phase c) 2) c { dramOf s c with
      pauses := 0, samples := [], abandoned := false, pausing := false }
  else s

def execGatheringStart (c : Fin 2) (s : State) : Host.Outcome State Fault Refusal := .next (gatherStart s c.val)

def execTrainingPause (c : Fin 2) (s : State) : Host.Outcome State Fault Refusal :=
  .next (if s.get (DRM_TRN_STAT_phase c.val) = 2 ∧ (dramOf s c.val).alert = false ∧
      (dramOf s c.val).rateReq = none then
    setDram s c.val { dramOf s c.val with pausing := true } else s)

/-- The lower edge that a window of `w` steps about `e` gives: the lowest passing delay, or one step beyond the inner end
where every probe fails; delays outside 0 to 511 are not probed (R266). -/
def lowerEdge (w e : Nat) (v : BitVec 17) : Nat :=
  ((List.range (2 * w + 1)).filter (fun i => v.getLsbD i && decide (w ≤ e + i ∧ e + i ≤ 511 + w))).head?.elim
    (min (e + w) 511 + 1) (fun i => e + i - w)

/-- The delay after the upper edge, `e` being the recorded one. -/
def upperStop (w e : Nat) (v : BitVec 17) : Nat :=
  ((List.range (2 * w + 1)).filter (fun i => v.getLsbD i && decide (w ≤ e + i ∧ e + i ≤ 511 + w))).getLast?.elim
    (e - w) (fun i => e + i + 1 - w)

/-- The sample that the probes of pause `n` give on one byte lane: rank 0 read, rank 0 write, rank 1 read, rank 1 write,
within 8 steps of each recorded read edge and 4 of each write edge (R264, R266). -/
def sampleOf (s : State) (c r n lane : Nat) (v : BitVec 17 × BitVec 17) : PauseSample :=
  let x := laneSet s c r (n / 2 % 2) lane
  let w := if n % 2 = 1 then 4 else 8
  let lo := if n % 2 = 1 then x.wrLo else x.rdLo
  let eye := if n % 2 = 1 then x.wrEye else x.rdEye
  ⟨n / 2 % 2, lane, n % 2 == 1, lowerEdge w lo v.1, upperStop w (lo + eye - 1) v.2⟩

/-- The samples of the ten byte lanes in a pause; a lane with no probes given has none that passes. -/
def pauseSamples (s : State) (c r n : Nat) (l : List (BitVec 17 × BitVec 17)) : List PauseSample :=
  (List.range 10).map (fun lane => sampleOf s c r n lane (l.getD lane (0, 0)))

/-- A sample's width and centre (R259, R266). -/
def sampleWidth (p : PauseSample) : Nat := p.stop - p.lo
def sampleCentre (p : PauseSample) : Nat := eyeCentre p.lo (sampleWidth p)

/-- Round halves away from zero: round (d / 32) (R267). -/
def roundDrift (d : Int) : Int := if 0 ≤ d then (d + 16).tdiv 32 else (d - 16).tdiv 32

/-- One drift update (R267, R268): the new delay, within 0 to 511 (R258), and drift estimate. -/
def driftUpdate (cur : Nat) (d : Int) (n m moveMax : Nat) : Nat × Int :=
  let err : Int := (m : Int) - cur
  let d := d + (16 * err - d).tdiv 4
  let move := (m : Int) + roundDrift d - cur
  let limit : Int := if n < 3 then 1 else moveMax
  let move := if limit < move then limit else if move < -limit then -limit else move
  (min 511 ((cur : Int) + move).toNat, d)

/-- A sample of 12 steps or more updates its lane and direction of the set of the rate `r`, its edges the recorded ones. -/
def applySample (s : State) (c r : Nat) (p : PauseSample) : State :=
  if sampleWidth p < 12 then s
  else
    let x := laneSet s c r p.rank p.lane
    let mm := s.get (DRM_TRN_CFG_move_max c)
    let y := if p.write then
        let u := driftUpdate x.wr x.wrD x.wrN (sampleCentre p) mm
        { x with wr := u.1, wrD := u.2, wrN := x.wrN + 1, wrEye := sampleWidth p, wrLo := p.lo }
      else
        let u := driftUpdate x.rd x.rdD x.rdN (sampleCentre p) mm
        { x with rd := u.1, rdD := u.2, rdN := x.rdN + 1, rdEye := sampleWidth p, rdLo := p.lo }
    setLaneSet s c r p.rank p.lane y

/-- The last pause's samples update the set of rate `r`; min_eye is the narrowest sample. -/
def applySamples (s : State) (c r : Nat) (l : List PauseSample) : State :=
  let s := l.foldl (fun s p => applySample s c r p) s
  let s := s.put (DRM_TRN_STAT_min_eye c) ((l.map sampleWidth).foldl min 511)
  let s := (s.put (DRM_TRN_SET_min_eye c r) ((l.map sampleWidth).foldl min 511)).put (DRM_TRN_SET_temp c r)
    (dramOf s c).die
  s.bump (DRM_TRN_SET_samples c r) 1

/-- One lane of one rank after a gathering or a check: a narrow sample flags it and lengthens its run of failures; three in
a row put a READY channel in DEGRADED with 5107h (R270). -/
def laneOutcome (s : State) (c rank lane : Nat) (l : List PauseSample) : State :=
  let mine := l.filter (fun p => p.rank == rank && p.lane == lane)
  let x := dramOf s c
  let k := rank * 10 + lane
  match mine.find? (fun p => decide (sampleWidth p < 12)) with
  | none => setDram s c { x with runs := tput (fun _ => 0) x.runs k 0 }
  | some p =>
    let n := tget (fun _ => 0) x.runs k + 1
    let s := setDram s c { x with runs := tput (fun _ => 0) x.runs k n }
    let s := logState (s.putBit (DRM_TRN_FLAG_flag c) k true) 5 0x6507 (1 + c) k
    if 3 ≤ n ∧ dramState s c = 2 then
      raise (setDramState s c 4) 0x5107
        (packWord [(35, c), (34, rank), (30, lane), (29, b2n p.write), (20, sampleWidth p)])
    else s

/-- What the samples of a whole gathering do: the updates, the flags and runs, and the counts (R267, R270). A check is a
gathering too (R271). -/
def gathered (s : State) (c r : Nat) (l : List PauseSample) : State :=
  let s := applySamples s c r l
  let s := (List.range (ranksOf s c)).foldl (fun s rank =>
    (List.range 10).foldl (fun s lane => laneOutcome s c rank lane l) s) s
  let s := s.put (DRM_TRN_FLAG_run c) (min 3 (((dramOf s c).runs.map (·.2)).foldl max 0))
  s.bump (DRM_TRN_STAT_gathers c) 1

/-- A gathering ends (R267, R270). -/
def gatherEnd (s : State) (c : Nat) : State :=
  (gathered s c (rateNow s c) (dramOf s c).samples).put (DRM_TRN_STAT_phase c) 0

/-- A pause ends with its probes: read and write for each rank make a gathering; an abandoned one ends with no
update, and a sweep that waited begins. After an alert the pause ends once the recovery has (R264, R266, Table 11.8). -/
def pauseEnd (s : State) (c : Nat) (l : List (BitVec 17 × BitVec 17)) : State :=
  let x := dramOf s c
  if x.pausing && !x.alert then
    let s := setDram s c { x with
      pausing := false, pauses := x.pauses + 1, samples := x.samples ++ pauseSamples s c (rateNow s c) x.pauses l }
    if x.sweepDue then sweepStart s c (rateNow s c) (.requested (dramState s c))
    else if x.abandoned then (setDram s c { dramOf s c with abandoned := false }).put (DRM_TRN_STAT_phase c) 0
    else if 2 * ranksOf s c ≤ x.pauses + 1 then gatherEnd s c
    else s
  else s

def execPauseEnd (c : Fin 2) (l : List (BitVec 17 × BitVec 17)) (s : State) : Host.Outcome State Fault Refusal :=
  .next (pauseEnd s c.val l)

/-! ## Rate changes and checks (R271 to R274) -/

/-- A rate request: no effect for the rate in force or on a DISABLED or OFF channel; a later one replaces an earlier one;
during a sweep it is held, and a gathering is abandoned (R272, R273). -/
def rateRequest (s : State) (c r : Nat) : State :=
  let st := dramState s c
  let x := dramOf s c
  if r = 3 ∨ st = 0 ∨ st = 5 then s
  else if r = rateNow s c ∧ x.rateReq = none ∧ x.rateTo = none then s
  else
    let s := setDram s c { x with rateReq := some r, abandoned := x.abandoned || x.pausing }
    if s.get (DRM_TRN_STAT_phase c) = 1 then s.put (DRM_TRN_STAT_held c) 1 else s

def execSdramRateRequest (c : Fin 2) (r : BitVec 2) (s : State) : Host.Outcome State Fault Refusal :=
  .next (if s.mgcFull then rateRequest (commandIf s false (r != 3) (31 + c.val) r.toNat) c.val r.toNat else s)

/-- The change starts its steps: a sweep in progress is aborted and one at the new rate runs; otherwise a valid stored
set is checked, or a full sweep runs (R272, R273, Table 11.6). -/
def rateBegin (s : State) (c : Nat) : State :=
  let x := dramOf s c
  let st := dramState s c
  match x.rateReq with
  | none => s
  | some r =>
    if x.pausing then s
    else if s.get (DRM_TRN_STAT_phase c) = 1 then
      let k := match x.sweepKind with
        | .startUp => SweepKind.startUp
        | .fromRefresh => .fromRefresh
        | .newRate a b => .newRate a b
        | .requested b => .newRate (rateNow s c) b
      sweepStart ((setDram s c { x with rateReq := none }).put (DRM_TRN_STAT_held c) 0) c r k
    else if st = 2 ∨ st = 4 ∨ (st = 3 ∧ x.exiting = true) then
      let before := if st = 3 then x.before else st
      let s := setDram s c { x with rateReq := none, rateTo := some r, before := before, samples := [], abandoned := false }
      if s.flag (DRM_TRN_SET_valid c r) then (closeRows (setModes s c r) c none).put (DRM_TRN_STAT_phase c) 4
      else sweepStart s c r (.newRate (rateNow s c) before)
    else s

def execRateChangeBegin (c : Fin 2) (s : State) : Host.Outcome State Fault Refusal := .next (rateBegin s c.val)

/-- A check completes, its pauses back to back: with every sample of 12 steps or more it passes, with updates, and the
channel serves requests; else the set is invalid and a full sweep runs (R271, R273, R274). -/
def checkDone (s : State) (c : Nat) (l : List (List (BitVec 17 × BitVec 17))) : State :=
  let ph := s.get (DRM_TRN_STAT_phase c)
  let x := dramOf s c
  if (ph = 3 ∨ ph = 4) ∧ x.alert = false then
    let r := x.rateTo.getD (rateNow s c)
    let samples := (List.range (2 * ranksOf s c)).flatMap (fun n => pauseSamples s c r n (l.getD n []))
    let valid := s.flag (DRM_TRN_SET_valid c r)
    let s := if valid then gathered s c r samples else s
    if valid && samples.all (fun p => decide (12 ≤ sampleWidth p)) then
      dramReady (s.put (DRM_CFG_rate c) r) c x.before
    else
      let s := s.put (DRM_TRN_SET_valid c r) 0
      sweepStart s c r (if ph = 4 then .newRate (rateNow s c) x.before else .fromRefresh)
  else s

def execSdramCheckDone (c : Fin 2) (l : List (List (BitVec 17 × BitVec 17))) (s : State) :
    Host.Outcome State Fault Refusal := .next (checkDone s c.val l)

/-! ## Self-refresh (R250) -/

/-- Entry, once every queued request is complete and its response delivered; a gathering is abandoned. In 2x mode the
extended temperature range is set (R250). -/
def selfRefreshEnter (s : State) (c : Nat) : State :=
  let st := dramState s c
  let x := dramOf s c
  if (st = 2 ∨ st = 4) ∧ refreshWanted s c = true ∧ x.reqs = [] ∧ x.out = [] ∧ x.alert = false ∧
      (s.get (DRM_TRN_STAT_phase c) = 0 ∨ s.get (DRM_TRN_STAT_phase c) = 2) then
    let s := closeRows (setDram s c { x with
      before := st, exiting := false, pausing := false, samples := [], abandoned := false,
      modes := x.modes.map (fun m => { m with extendedTemp := s.flag (DRM_REF_mode2x c) }) }) c none
    setDramState (s.put (DRM_TRN_STAT_phase c) 0) c 3
  else s

def execSdramSelfRefreshEnter (c : Fin 2) (s : State) : Host.Outcome State Fault Refusal :=
  .next (selfRefreshEnter s c.val)

/-- Exit: the check runs before the channel takes requests; a stored rate request takes its place (R274). -/
def selfRefreshExit (s : State) (c : Nat) : State :=
  if dramState s c = 3 ∧ refreshWanted s c = false then
    let x := dramOf s c
    let s := setDram s c { x with exiting := true }
    if x.rateReq.isSome then rateBegin s c else s.put (DRM_TRN_STAT_phase c) 3
  else s

def execSdramSelfRefreshExit (c : Fin 2) (s : State) : Host.Outcome State Fault Refusal :=
  .next (selfRefreshExit s c.val)

end Sys2Proof.Machine
end

