-- ==== Sys2Proof/Machine/Codes.lean ====
section
/-! DEFINITION. Codes: the SECDED code of configuration frames (R344), the CRC-32 of IEEE 802.3 (R315), and
AES-256 with GCM, as FIPS 197 and NIST SP 800-38D define them (R314, R335). -/
namespace Sys2Proof.Machine
open Sys2Proof

/-! ## Frames (R344) -/

/-- The number of ones of a 12-bit value. -/
def ones12 (v : Nat) : Nat := ((List.range 12).filter (bitN v)).length

/-- The 12-bit values of weight `w`, ascending. -/
def weighted (w : Nat) : List Nat := (List.range 4096).filter (fun v => ones12 v == w)

/-- The columns h_0 to h_1295. -/
def frameColumns : List Nat := weighted 3 ++ weighted 5 ++ (weighted 7).take 284

/-- The check bits of 1,296 data bits: the exclusive OR of the columns of the set bits. -/
def frameCheck (d : Nat) : Nat :=
  (frameColumns.zipIdx).foldl (fun acc e => if bitN d e.2 then acc ^^^ e.1 else acc) 0

/-- A frame with its check bits. -/
def encodeFrame (d : Nat) : BitVec 1308 := BitVec.ofNat 1308 (d % 2 ^ 1296 + frameCheck d * 2 ^ 1296)

/-- The syndrome of a stored frame. -/
def frameSyndrome (v : BitVec 1308) : Nat := (v.toNat >>> 1296) ^^^ frameCheck (v.toNat % 2 ^ 1296)

/-- What a read of a frame finds: `none` when it is clean, `some none` when it is uncorrectable, and the
corrected frame otherwise. -/
def frameVerdict (v : BitVec 1308) : Option (Option (BitVec 1308)) :=
  let syn := frameSyndrome v
  if syn = 0 then none
  else if ones12 syn = 1 then some (some (v ^^^ BitVec.ofNat 1308 (syn * 2 ^ 1296)))
  else match frameColumns.findIdx? (· == syn) with
    | some j => some (some (v ^^^ BitVec.ofNat 1308 (2 ^ j)))
    | none => some none

/-! ## Octets -/

/-- A number from octets, least significant first. -/
def leNat (l : List Octet) : Nat := l.foldr (fun o acc => o.toNat + 256 * acc) 0

/-- `n` octets of a list from place `i`, as a number, least significant first. -/
def leAt (l : List Octet) (i n : Nat) : Nat := leNat ((l.drop i).take n)

/-- A number as `n` octets, least significant first. -/
def leOctets (n v : Nat) : List Octet := (List.range n).map (fun i => BitVec.ofNat 8 (v >>> (8 * i)))

/-- A number from octets, most significant first. -/
def beNat (l : List Octet) : Nat := l.foldl (fun acc o => 256 * acc + o.toNat) 0

/-- A number as 16 octets, most significant first. -/
def beOctets (v : Nat) : List Octet := (leOctets 16 v).reverse

/-! ## CRC-32 (R315) -/

/-- One octet of the reflected CRC. -/
def crcOctet (c : BitVec 32) (o : Octet) : BitVec 32 :=
  (List.range 8).foldl (fun c _ => if c.getLsbD 0 then (c >>> 1) ^^^ 0xEDB88320 else c >>> 1) (c ^^^ o.zeroExtend 32)

/-- The CRC-32 of octets: from FFFFFFFFh, complemented at the end. -/
def crc32 (l : List Octet) : BitVec 32 := ~~~ (l.foldl crcOctet 0xFFFFFFFF)

/-! ## AES-256 -/

/-- Multiplication by x in the field of AES. -/
def xtime (a : Octet) : Octet := if a.getLsbD 7 then (a <<< 1) ^^^ 0x1B else a <<< 1

/-- Multiplication in the field of AES. -/
def gmul (a b : Octet) : Octet :=
  ((List.range 8).foldl (fun (e : Octet × Octet) i =>
    (if b.getLsbD i then e.1 ^^^ e.2 else e.1, xtime e.2)) (0, a)).1

/-- The inverse: the 254th power. -/
def ginv (a : Octet) : Octet :=
  let a2 := gmul a a
  let a4 := gmul a2 a2
  let a8 := gmul a4 a4
  let a16 := gmul a8 a8
  let a32 := gmul a16 a16
  let a64 := gmul a32 a32
  let a128 := gmul a64 a64
  gmul a128 (gmul a64 (gmul a32 (gmul a16 (gmul a8 (gmul a4 a2)))))

/-- The S-box. -/
def sbox (a : Octet) : Octet :=
  let b := ginv a
  b ^^^ b.rotateLeft 1 ^^^ b.rotateLeft 2 ^^^ b.rotateLeft 3 ^^^ b.rotateLeft 4 ^^^ 0x63

/-- Exclusive OR, octet by octet. -/
def xorOctets (a b : List Octet) : List Octet := List.zipWith (· ^^^ ·) a b

/-- One more word of the key schedule, the words so far latest first. -/
def nextKeyWord (ws : List (List Octet)) : List (List Octet) :=
  let i := ws.length
  let t := ws.headD []
  let t :=
    if i % 8 = 0 then
      let r := (t.drop 1 ++ t.take 1).map sbox
      xorOctets r [BitVec.ofNat 8 (2 ^ (i / 8 - 1)), 0, 0, 0]
    else if i % 8 = 4 then t.map sbox
    else t
  xorOctets (ws.getD 7 []) t :: ws

/-- The round keys, 16 octets each, from the 32 octets of the key. -/
def roundKeys (key : List Octet) : List (List Octet) :=
  let first := ((List.range 8).map (fun i => (key.drop (4 * i)).take 4)).reverse
  let ws := ((List.range 52).foldl (fun ws _ => nextKeyWord ws) first).reverse
  (List.range 15).map (fun r => ((ws.drop (4 * r)).take 4).flatten)

/-- The rows of the state shift. -/
def shiftRows (s : List Octet) : List Octet :=
  (List.range 16).map (fun i => s.getD (4 * ((i / 4 + i % 4) % 4) + i % 4) 0)

/-- The columns of the state mix. -/
def mixColumns (s : List Octet) : List Octet :=
  (List.range 16).map (fun i =>
    let a := fun k => s.getD (4 * (i / 4) + (i + k) % 4) 0
    gmul 2 (a 0) ^^^ gmul 3 (a 1) ^^^ a 2 ^^^ a 3)

/-- AES-256 encryption of one block of 16 octets. -/
def aesEncrypt (key block : List Octet) : List Octet :=
  let rks := roundKeys key
  let s := xorOctets block (rks.getD 0 [])
  let s := (List.range 13).foldl (fun s r => xorOctets (mixColumns (shiftRows (s.map sbox))) (rks.getD (r + 1) [])) s
  xorOctets (shiftRows (s.map sbox)) (rks.getD 14 [])

/-- The 32 octets of a key, octet 0 in bits [7:0] (R335). -/
def keyOctets (k : BitVec 256) : List Octet := leOctets 32 k.toNat

/-- The key check value: the first 18 bits of the encryption of an all-zero block, most significant bit of
each octet first (DEDUCED, log entry 5). -/
def kcvOf (k : BitVec 256) : BitVec 18 :=
  BitVec.ofNat 18 (beNat ((aesEncrypt (keyOctets k) (List.replicate 16 0)).take 3) >>> 6)

/-! ## GCM -/

/-- Multiplication in the field of GHASH; bit 127 is the first bit of a block. -/
def ghashMul (x y : BitVec 128) : BitVec 128 :=
  ((List.range 128).foldl (fun (e : BitVec 128 × BitVec 128) i =>
    (if x.getLsbD (127 - i) then e.1 ^^^ e.2 else e.1,
     if e.2.getLsbD 0 then (e.2 >>> 1) ^^^ BitVec.ofNat 128 (0xE1 * 2 ^ 120) else e.2 >>> 1)) (0, y)).1

/-- GHASH over octets, the last block padded with zeros; the first argument bounds the blocks. -/
def ghash (h : BitVec 128) : Nat → BitVec 128 → List Octet → BitVec 128
  | 0, acc, _ => acc
  | n + 1, acc, l =>
    if l.isEmpty then acc
    else
      let b := l.take 16
      let v := beNat (b ++ List.replicate (16 - b.length) 0)
      ghash h n (ghashMul (acc ^^^ BitVec.ofNat 128 v) h) (l.drop 16)

/-- The hash key. -/
def hashKey (key : BitVec 256) : BitVec 128 :=
  BitVec.ofNat 128 (beNat (aesEncrypt (keyOctets key) (List.replicate 16 0)))

/-- The key stream of counter `n` under a 96-bit IV. -/
def keyStream (key : BitVec 256) (iv : List Octet) (n : Nat) : List Octet :=
  aesEncrypt (keyOctets key) (iv ++ (leOctets 4 n).reverse)

/-- Decipher octets from counter `n` on, in blocks of 16; the first argument bounds the blocks. -/
def decipher (key : BitVec 256) (iv : List Octet) : Nat → Nat → List Octet → List Octet
  | 0, _, _ => []
  | k + 1, n, l =>
    if l.isEmpty then []
    else xorOctets (l.take 16) (keyStream key iv n) ++ decipher key iv k (n + 1) (l.drop 16)

/-- The tag, from the GHASH of the header and the body, and their lengths in octets. -/
def gcmTag (key : BitVec 256) (iv : List Octet) (acc : BitVec 128) (headLen bodyLen : Nat) : List Octet :=
  let lens := BitVec.ofNat 128 ((8 * headLen) * 2 ^ 64 + 8 * bodyLen)
  xorOctets (beOctets (ghashMul (acc ^^^ lens) (hashKey key)).toNat) (keyStream key iv 1)

end Sys2Proof.Machine
end

