-- ==== Sys2Proof/Machine/Tumbler.lean ====
section
/-! DEFINITION. Tumbler: ball levels as the device sees them, and the tumblers (12 R281 to R283, R297 to R303). -/
namespace Sys2Proof.Machine
open Sys2Proof

/-! ## Banks and balls -/

/-- Update the pins. -/
def State.setPins (s : State) (p : Pins) : State := { s with pins := p }

/-- PIN_BANK_b.state: 0 HOT-SOCKET, 1 CONFIGURED, 2 SUPPLY WAIT. -/
def bankState (s : State) (b : Nat) : Nat := s.get (PIN_BANK_state b)

/-- The bank is CONFIGURED: its receivers are on (R283, R285). -/
def bankOn (s : State) (b : Nat) : Bool := bankState s b == 1

/-- The ball levels of a bank as the device sees them: live while CONFIGURED, else as last sampled (R283). -/
def ballWord (s : State) (b : Nat) : W36 := if bankOn s b then tget (fun _ => 0) s.pins.ball b else s.word (PIN_DIN b)

/-! ## Tumblers -/

/-- Tumbler `t`. -/
def tmbOf (s : State) (t : Nat) : Tumbler := tget (fun _ => Tumbler.init) s.pins.tumbler t

/-- Set tumbler `t`. -/
def setTmb (s : State) (t : Nat) (x : Tumbler) : State :=
  s.setPins { s.pins with tumbler := tput (fun _ => Tumbler.init) s.pins.tumbler t x }

/-- Tumbler `t` chains with `t + 1` (R301). -/
def chained (s : State) (t : Nat) : Bool := t % 2 == 0 && s.flag (PIN_TMB_CFG_chain t)

/-- Tumbler `t` is the second of a chained pair: it offers nothing (R301). -/
def chainSecond (s : State) (t : Nat) : Bool := t % 2 == 1 && s.flag (PIN_TMB_CFG_chain (t - 1))

/-- The banks it watches. -/
def tmbBanks (s : State) (t : Nat) : List Nat :=
  s.get (PIN_TMB_CFG_bank t) :: (if chained s t then [s.get (PIN_TMB_CFG_bank (t + 1))] else [])

/-- The device is in BANKED or on its way there, where tumblers 0 to 3 sample and produce only wake events (Tables 12.10,
16.8). -/
def inBanked (s : State) : Bool := s.pwr.phase == .banked || s.pwr.phase == .bankedEntry

/-- Every watched bank is CONFIGURED, and for SIMMER, RUN or BANKED the tumbler samples (Table 12.10). -/
def tmbRuns (s : State) (t : Nat) : Bool :=
  s.flag (PIN_TMB_CFG_en t) && !chainSecond s t && (tmbBanks s t).all (bankOn s) &&
    (s.pwr.clocked || (decide (t < 4) && inBanked s))

/-- One tumbler's own registers: pattern `i` is raw true (R297). -/
def rawOwn (s : State) (t i : Nat) : Bool :=
  let pins := ballWord s (s.get (PIN_TMB_CFG_bank t))
  let m := s.word (PIN_TMB_MSK t)
  (pins ^^^ s.word (PIN_TMB_POL t)) &&& m == s.word (PIN_TMB_PAT t i) &&& m

/-- Pattern `i` is raw true, under both tumblers of a chained pair (R297, R301). -/
def tmbRaw (s : State) (t i : Nat) : Bool := rawOwn s t i && (!chained s t || rawOwn s (t + 1) i)

/-- Pattern `i`'s filtered value. -/
def tmbFiltered (s : State) (t i : Nat) : Bool := (tmbOf s t).filtered.getLsbD i

/-- Step and condition as PIN_TMB_STAT_t shows them. -/
def tmbStep (s : State) (t : Nat) : Nat := s.get (PIN_TMB_STAT_step t)

def tmbSetStep (s : State) (t n : Nat) : State := s.put (PIN_TMB_STAT_step t) n

/-- cond shows the filtered value of the awaited pattern (Table 12.19). -/
def tmbCond (s : State) (t : Nat) : State := s.put (PIN_TMB_STAT_cond t) (b2n (tmbFiltered s t (tmbStep s t)))

/-- The tumbler fires (R302); in BANKED it produces only wake events (Table 12.10). -/
def tmbFire (s : State) (t : Nat) : State :=
  let wake := fun (s : State) =>
    if t < 4 ∧ s.flag (PIN_TMB_CFG_wake t) = true then wakeEvent s 2 t else s
  if inBanked s then wake s
  else
    let s := s.bump (PIN_TMB_STAT_matches t) 1
    let s := if s.flag (PIN_TMB_CFG_tok t) then offerEvent s (864 + t) else s
    let x := tmbOf s t
    let s := setTmb s t { x with sinceEm := x.sinceEm + 1 }
    let s := if s.flag (PIN_TMB_CFG_irq t) then
        let s := logState s 6 0x6604 (1 + t) (s.get (PIN_TMB_STAT_matches t))
        let quiet := match x.lastEm with
          | none => true
          | some w => decide (3200000 ≤ (s.timebase - w).toNat)
        if s.flag (PIN_TMB_CFG_irq_em t) && quiet then
          let s := raise s 0x6103 (packWord [(31, t), (13, min (x.sinceEm + 1) (2 ^ 18 - 1))])
          setTmb s t { tmbOf s t with sinceEm := 0, lastEm := some s.timebase }
        else s
      else s
    wake s

/-- Step 0 completes: step 1, and the window starts (R300). -/
def tmbBegin (s : State) (t : Nat) : State :=
  let s := if s.get (PIN_TMB_WIN_win t) ≠ 0 then setTmb s t { tmbOf s t with window := true } else s
  tmbSetStep s t 1

/-- SEQUENCE mode: advance one step at each sample while the awaited pattern is filtered true, up to a firing. The firing
returns to step 0, which the same sample may complete (R300). The first argument bounds the samples. -/
def tmbAdvance : Nat → State → Nat → State
  | 0, s, _ => s
  | n + 1, s, t =>
    let st := tmbStep s t
    if tmbFiltered s t st then
      if st = 0 then tmbAdvance n (tmbBegin s t) t
      else if s.get (PIN_TMB_CFG_nseq t) ≤ st then
        let s := tmbFire (setTmb (tmbSetStep s t 0) t { tmbOf s t with window := false }) t
        if tmbFiltered s t 0 then tmbBegin s t else s
      else tmbAdvance n (tmbSetStep s t (st + 1)) t
    else s

/-- A sample at which no level changes: a sequence whose awaited pattern is filtered true advances one step (R300). -/
def tmbSample (s : State) (t : Nat) : State :=
  if tmbRuns s t && s.get (PIN_TMB_CFG_mode t) == 2 && tmbFiltered s t (tmbStep s t) then tmbCond (tmbAdvance 1 s t) t
  else s

/-- A pattern's filtered value changes (R298, R299). -/
def tmbFilter (s : State) (t i : Nat) (v : Bool) : State :=
  let x := tmbOf s t
  if x.filtered.getLsbD i = v then s
  else
    let s := setTmb s t { x with filtered := x.filtered ^^^ BitVec.ofNat 4 (2 ^ i) }
    let s := match s.get (PIN_TMB_CFG_mode t) with
      | 0 => if v && i == 0 then tmbFire s t else s
      | 1 => if v && i == 0 && x.edgeSeen then tmbFire s t else s
      | _ => tmbAdvance 4 s t
    tmbCond s t

/-- With filt = 0 the filtered values follow the sample (R298). -/
def tmbFollow (s : State) (t : Nat) : State :=
  if tmbRuns s t && s.get (PIN_TMB_CFG_filt t) == 0 then
    (List.range 4).foldl (fun s i => tmbFilter s t i (tmbRaw s t i)) s
  else s

/-- Step 0, every filter run and value ended, the window stopped; the runs begin anew with no edge (R297, R299). The
second tumbler of a chained pair has a status register that reads 0 (R301). -/
def tmbRestart (s : State) (t : Nat) : State :=
  let s := if chainSecond s t then (s.put (PIN_TMB_STAT_matches t) 0).put (PIN_TMB_STAT_timeouts t) 0 else s
  let s := setTmb (tmbSetStep s t 0) t { tmbOf s t with filtered := 0, edgeSeen := false, window := false }
  let off := s.flag (PIN_TMB_CFG_en t) && !chainSecond s t && !(tmbBanks s t).all (bankOn s)
  tmbCond (tmbFollow (s.put (PIN_TMB_STAT_bank_off t) (b2n off)) t) t

/-- The tumblers that watch bank `b` restart as the bank leaves or returns to CONFIGURED (R297). -/
def tmbBankChange (s : State) (b : Nat) : State :=
  (List.range 24).foldl (fun s t => if (tmbBanks s t).contains b then tmbRestart s t else s) s

/-- Every tumbler restarts: commit and exit from BANKED (Table 12.10). -/
def tmbRestartAll (s : State) : State := (List.range 24).foldl tmbRestart s

/-- Pin `p` of bank `b` is marked for edges, and its new level equals its pattern bit after polarity; it differed
before, since the level changed (Table 12.9). -/
def edgeHere (s : State) (t b p : Nat) : Bool :=
  let own := fun (u : Nat) =>
    s.get (PIN_TMB_CFG_bank u) == b && (s.word (PIN_TMB_EMSK u)).getLsbD p &&
      ((ballWord s b).getLsbD p != (s.word (PIN_TMB_POL u)).getLsbD p) == (s.word (PIN_TMB_PAT u 0)).getLsbD p
  own t || (chained s t && own (t + 1))

/-- The level of a ball that tumbler `t` watches has changed, `s0` being the state before: a run of PAT_0 that begins
notes its edge, and with filt = 0 the filtered values follow. -/
def tmbLevel (s0 s : State) (b p t : Nat) : State :=
  if tmbRuns s t && (tmbBanks s t).contains b then
    let s := if tmbRaw s t 0 && !tmbRaw s0 t 0 then setTmb s t { tmbOf s t with edgeSeen := edgeHere s t b p } else s
    tmbFollow s t
  else s

/-- A pattern's raw run has lasted filt ticks: its filtered value takes the raw one (R298). -/
def filterExpiry (s : State) (t i : Nat) : State :=
  if tmbRuns s t then tmbFilter s t i (tmbRaw s t i) else s

def execTumblerFilterExpiry (t : Fin 24) (pat : Fin 4) (s : State) : Host.Outcome State Fault Refusal :=
  .next (filterExpiry s t.val pat.val)

/-- Return to step 0; the same sample may complete step 0 (R300). -/
def tmbReturn (s : State) (t : Nat) : State :=
  tmbCond (tmbAdvance 4 (setTmb (tmbSetStep s t 0) t { tmbOf s t with window := false }) t) t

/-- The sequence window elapses: step 0, counted in timeouts (R300). -/
def windowTimeout (s : State) (t : Nat) : State :=
  if tmbRuns s t && (tmbOf s t).window then tmbReturn (s.bump (PIN_TMB_STAT_timeouts t) 1) t else s

def execTumblerWindowTimeout (t : Fin 24) (s : State) : Host.Outcome State Fault Refusal :=
  .next (windowTimeout s t.val)

/-- strict: the previous and present patterns have both been raw false for filt ticks (R300). -/
def strictReturn (s : State) (t : Nat) : State :=
  let st := tmbStep s t
  if tmbRuns s t && s.flag (PIN_TMB_CFG_strict t) && decide (0 < st) && s.get (PIN_TMB_CFG_mode t) == 2 &&
      !tmbRaw s t (st - 1) && !tmbRaw s t st then tmbReturn s t
  else s

def execTumblerStrictReturn (t : Fin 24) (s : State) : Host.Outcome State Fault Refusal :=
  .next (strictReturn s t.val)

/-- The address of tumbler register `r`: CFG, POL, MSK, EMSK, PAT_0 to PAT_3, WIN. -/
def tmbAddr (t r : Nat) : Nat :=
  match r with
  | 0 => PIN_TMB_CFG t
  | 1 => PIN_TMB_POL t
  | 2 => PIN_TMB_MSK t
  | 3 => PIN_TMB_EMSK t
  | 8 => PIN_TMB_WIN t
  | n => PIN_TMB_PAT t (n - 4)

/-- What a write to a tumbler register stores: a bank above 11, or nseq 0, has no effect on its field; chain reads 0 for
odd tumblers, wake for tumblers 4 and above (Table 12.17). -/
def tmbStored (s : State) (t r : Nat) (w : W36) : W36 :=
  match r with
  | 0 =>
    let w := if bitsOf w 31 4 < 12 then w else withBits w 31 4 (s.get (PIN_TMB_CFG_bank t))
    let w := if bitsOf w 26 2 = 0 then withBits w 26 2 (s.get (PIN_TMB_CFG_nseq t)) else w
    let w := if t % 2 = 1 then withBits w 28 1 0 else w
    withBits (if 4 ≤ t then withBits w 22 1 0 else w) 0 5 0
  | 8 => BitVec.ofNat 36 (w.toNat % 2 ^ 24)
  | _ => w

/-- Tumbler `t` is in a chained pair. -/
def tmbPaired (s : State) (t : Nat) : Bool := chained s t || chainSecond s t

/-- A write to a tumbler register restarts the tumbler, and the pair that it belonged or belongs to (Table 12.10). A write
that sets mode 11b has no effect (R299). -/
def tmbWrite (s : State) (t r : Nat) (w : W36) : State :=
  if r = 0 ∧ bitsOf w 29 2 = 3 then s
  else
    let paired := tmbPaired s t
    let s := tmbRestart (s.setWord (tmbAddr t r) (tmbStored s t r w)) t
    if paired || tmbPaired s t then tmbRestart s (if t % 2 = 1 then t - 1 else t + 1) else s

def execTumblerConfigWrite (t : Fin 24) (r : Fin 9) (w : W36) (s : State) : Host.Outcome State Fault Refusal :=
  .next (tmbWrite s t.val r.val w)

def execTumblerStatClear (t : Fin 24) (s : State) : Host.Outcome State Fault Refusal :=
  .next ((s.put (PIN_TMB_STAT_matches t.val) 0).put (PIN_TMB_STAT_timeouts t.val) 0)

end Sys2Proof.Machine
end

