-- ==== Sys2Proof/Machine/Pins.lean ====
section
/-! DEFINITION. Pins: banks and supplies, the data register, function switches, hinge endpoints on pins, pin ports,
wake pins, probes and user clocks (12; 03 R68 to R71; 06 R124). -/
namespace Sys2Proof.Machine
open Sys2Proof

/-! ## Masks and configurations -/

/-- A word with only bit `p` set. -/
def pinBit (p : Nat) : W36 := BitVec.ofNat 36 (2 ^ p)

/-- A word of a table of masks by bank. -/
def maskAt (t : Tbl W36) (b : Nat) : W36 := tget (fun _ => 0) t b

/-- Set it. -/
def setMask (t : Tbl W36) (b : Nat) (w : W36) : Tbl W36 := tput (fun _ => 0) t b w

/-- The configuration in force of pin p of bank b, the staged one, and the one the stream gave. -/
def cfgNow (s : State) (b p : Nat) : W36 := tget (fun _ => 0) s.pins.inForce (36 * b + p)
def cfgStaged (s : State) (b p : Nat) : W36 := withBits (s.word (PIN_CFG b p)) 0 6 0
def cfgStream (s : State) (b p : Nat) : W36 := tget (fun _ => 0) s.pins.streamCfg (36 * b + p)

/-- fn and arg of a configuration word (Table 12.13). -/
def cfgFn (w : W36) : Nat := bitsOf w 33 3
def cfgArg (w : W36) : Nat := bitsOf w 6 14

/-- The function of a pin in force. -/
def pinFn (s : State) (b p : Nat) : Nat := cfgFn (cfgNow s b p)

/-- stg reads 1 while the staged and in-force configurations differ (R292). -/
def setStg (s : State) (b p : Nat) : State := s.put (PIN_CFG_stg b p) (b2n (cfgStaged s b p != cfgNow s b p))

/-- Put a configuration in force. -/
def putForce (s : State) (b p : Nat) (w : W36) : State :=
  setStg (s.setPins { s.pins with inForce := tput (fun _ => 0) s.pins.inForce (36 * b + p) w }) b p

/-- A pin that is switching serves nothing (Table 12.6). -/
def pinSwitching (s : State) (b p : Nat) : Bool := (maskAt s.pins.switching b).getLsbD p

/-- The hearth's isolation holds pins' hinges elsewhere; here: the pin's function is live. -/
def pinLive (s : State) (b p : Nat) : Bool := bankOn s b && !pinSwitching s b p

/-- The probe that drives pin p of bank b, if any (R69). -/
def probeOn (s : State) (b p : Nat) : Option Nat :=
  (List.range 16).find? (fun q => s.flag (FAB_PRB_PIN_en q) && s.get (FAB_PRB_PIN_bank q) == b && s.get (FAB_PRB_PIN_pin q) == p)

/-- A user clock that is enabled on pin p of bank b (R124). -/
def clockOn (s : State) (b p : Nat) : Bool :=
  (List.range 8).any (fun k => s.flag (HNG_UCLK_en k) && s.get (HNG_UCLK_bank k) == b && s.get (HNG_UCLK_pin k) == p)

/-- Disable a probe and set refused (Tables 3.10, 12.7). -/
def probeRefuse (s : State) (q : Nat) : State := (s.put (FAB_PRB_PIN_en q) 0).put (FAB_PRB_PIN_refused q) 1

/-! ## Bank supplies (R281) -/

/-- The sensed VCCIO of a bank in mV, and its code (R281). -/
def vccioOf (s : State) (b : Nat) : Nat := tget (fun _ => 0) s.pins.vccio b

def senseCode (mv : Nat) : Nat := if mv < 1000 then 0 else if mv < 2150 then 1 else if mv < 2900 then 2 else 3

/-- The declared level in mV; 0 for an unused bank. -/
def declared (s : State) (b : Nat) : Nat :=
  match s.get (PIN_BANK_vdecl b) with
  | 0 => 0
  | 1 => 1800
  | 2 => 2500
  | _ => 3300

/-- The supply of a declared bank agrees: within 10 % of the declared level (R281). -/
def supplyAgrees (s : State) (b : Nat) : Bool :=
  let d := declared s b
  d != 0 && decide (9 * d ≤ 10 * vccioOf s b) && decide (10 * vccioOf s b ≤ 11 * d)

/-- The detail word of 6101h and 6102h (Table 12.22). -/
def bankDetail (s : State) (b : Nat) : W36 :=
  packWord [(32, b), (30, s.get (PIN_BANK_vdecl b)), (28, s.get (PIN_BANK_vsense b))]

/-- A running or returning switch of a bank ends without taking effect; its pins take their staged configuration
when the bank returns (Table 12.7). -/
def abandonSwitch (s : State) (b : Nat) : State :=
  let p := s.pins
  let s := s.setPins { p with
    abandoned := setMask p.abandoned b (maskAt p.abandoned b ||| maskAt p.switching b),
    switching := setMask p.switching b 0, heldApply := setMask p.heldApply b 0,
    returning := tput (fun _ => false) p.returning b false }
  s.put (PIN_APPLY_apply b) 0

/-- The pins of a bank take the hot-socket state: DIN keeps the last level, pulses end, its tumblers stop (R283). -/
def bankHot (s : State) (b st : Nat) : State :=
  let s := if bankOn s b then s.setWord (PIN_DIN b) (maskAt s.pins.ball b) else s
  let s := (abandonSwitch s b).put (PIN_BANK_state b) st
  let s := s.setPins { s.pins with pulse := setMask s.pins.pulse b 0, gpev := setMask s.pins.gpev b 0 }
  tmbBankChange s b

/-- VCCIO of a bank changes: vsense follows, and probes on a bank whose supply goes off are disabled (R281,
Table 3.10). -/
def supplyChange (s : State) (b mv : Nat) : State :=
  let s := s.setPins { s.pins with vccio := tput (fun _ => 0) s.pins.vccio b mv }
  let s := s.put (PIN_BANK_vsense b) (senseCode mv)
  let s := if senseCode mv = 0 then
      (List.range 16).foldl (fun s q =>
        if s.flag (FAB_PRB_PIN_en q) && s.get (FAB_PRB_PIN_bank q) == b then probeRefuse s q else s) s
    else s
  if senseCode mv = 0 ∧ s.pwr.phase = .banked then bankHot s b 0 else s

def execBankSupplyChange (b : Fin 12) (mv : BitVec 13) (s : State) : Host.Outcome State Fault Refusal :=
  .next (supplyChange s b.val mv.toNat)

/-- The WORD inputs of a bank's live pins start from the levels that the receivers sample: each Gray register takes its
bits at once (R295, Table 12.6 step 4). -/
def wordInputs (s : State) (b : Nat) : State :=
  (List.range 36).foldl (fun s p =>
    let w := cfgNow s b p
    let j := 54 + cfgArg w % 256
    if cfgFn w == 5 && pinLive s b p && !wdOut s j then
      wordWrite s j (binOf ((List.range 36).foldl (fun g q =>
        let v := cfgNow s b q
        if cfgFn v == 5 && cfgArg v % 256 == cfgArg w % 256 && pinLive s b q then
          withBits g (cfgArg v / 256 % 64) 1 (b2n ((maskAt s.pins.ball b).getLsbD q))
        else g) (wdOf s j).gray))
    else s) s

/-- A bank becomes CONFIGURED: DIN, the tumblers and the WORD inputs see the balls again. -/
def bankConfigured (s : State) (b : Nat) : State :=
  let s := s.put (PIN_BANK_state b) 1
  wordInputs (tmbBankChange (s.setWord (PIN_DIN b) (maskAt s.pins.ball b)) b) b

/-- SUPPLY WAIT for 1 ms of agreement: the pins take their functions through the switch; state reads CONFIGURED at its
step 4, which PIN_SWITCH_TAKE performs (Table 12.2). -/
def supplyAgreed (s : State) (b : Nat) : State :=
  if bankState s b = 2 ∧ supplyAgrees s b = true then
    s.setPins { s.pins with returning := tput (fun _ => false) s.pins.returning b true }
  else s

def execBankSupplyAgreed (b : Fin 12) (s : State) : Host.Outcome State Fault Refusal := .next (supplyAgreed s b.val)

/-- CONFIGURED and disagreeing for 1 us: SUPPLY WAIT, hot-socket pins, 6102h (Table 12.2). -/
def supplyLost (s : State) (b : Nat) : State :=
  if bankOn s b && !supplyAgrees s b then raise (bankHot s b 2) 0x6102 (bankDetail s b) else s

def execBankSupplyLost (b : Fin 12) (s : State) : Host.Outcome State Fault Refusal := .next (supplyLost s b.val)

/-! ## The data register (R288 to R290) -/

/-- A masked write (R288). -/
def maskedWrite (d m v : W36) : W36 := (d &&& ~~~ m) ||| (v &&& m)

/-- Queue a write for the next CK100 edge, from the fabric or from the MGC (R289). -/
def queueWrite (s : State) (fabric : Bool) (b : Nat) (m v : W36) : State :=
  let p := s.pins
  let add := fun (t : Tbl (List (W36 × W36))) => tput (fun _ => []) t b (tget (fun _ => []) t b ++ [(m, v)])
  s.setPins (if fabric then { p with fabWrites := add p.fabWrites } else { p with mgcWrites := add p.mgcWrites })

/-- 2600h from a transport, while the MGC serves in full: refused while its firmware restarts (R17, Table 12.12). -/
def execPinMaskedWrite (b : Fin 12) (m v : W36) (s : State) : Host.Outcome State Fault Refusal :=
  .next (if s.mgcFull then queueWrite s false b.val m v else s)

/-- The control hinge is OPEN and its PIN bit of win is 1: the fabric reaches the data registers (R11, R288). -/
def pinWindow (s : State) : Bool := ctlOpen s && bitsOf (s.word HNG_CTLH_CFG) 16 1 == 1

/-- A plain write acts with every mask bit set, from the fabric through the control hinge or from the MGC. -/
def execPinDoutWrite (fabric : Bool) (b : Fin 12) (v : W36) (s : State) : Host.Outcome State Fault Refusal :=
  .next (if (if fabric then pinWindow s else s.mgcFull) then queueWrite s fabric b.val (BitVec.allOnes 36) v else s)

/-- The CK100 edge: the fabric's writes in order, then the MGC's (R289). -/
def doutApply (s : State) (b : Nat) : State :=
  let p := s.pins
  let l := tget (fun _ => []) p.fabWrites b ++ tget (fun _ => []) p.mgcWrites b
  let s := s.setWord (PIN_DOUT b) (l.foldl (fun d e => maskedWrite d e.1 e.2) (s.word (PIN_DOUT b)))
  s.setPins { s.pins with
    fabWrites := tput (fun _ => []) s.pins.fabWrites b [], mgcWrites := tput (fun _ => []) s.pins.mgcWrites b [] }

def execPinDoutApply (b : Fin 12) (s : State) : Host.Outcome State Fault Refusal := .next (doutApply s b.val)

/-- The pin drives its bit of the data register, or will at the end of its switch (R290, Table 12.7). -/
def drivesRegister (s : State) (b p : Nat) : Bool :=
  let out := fun (f : Nat) => f == 2 || f == 3
  out (pinFn s b p) || (pinSwitching s b p && out (cfgFn (tget (fun _ => 0) s.pins.target (36 * b + p))))

/-- An event action on an OUTPUT or OPEN-DRAIN pin (Table 12.5); other pins ignore it. -/
def pinAction (s : State) (b p code : Nat) : State :=
  if drivesRegister s b p then
    let d := s.word (PIN_DOUT b)
    match code with
    | 1 => s.setWord (PIN_DOUT b) (d ||| pinBit p)
    | 2 => s.setWord (PIN_DOUT b) (d &&& ~~~ pinBit p)
    | 3 => s.setWord (PIN_DOUT b) (d ^^^ pinBit p)
    | 4 => if bankOn s b then
        s.setPins { s.pins with pulse := setMask s.pins.pulse b (maskAt s.pins.pulse b ||| pinBit p) } else s
    | _ => s
  else s

/-- Event A or B of a pin arrives (R290). -/
def pinEvent (s : State) (b p : Nat) (isB : Bool) : State :=
  pinAction s b p (bitsOf (cfgNow s b p) (if isB then 20 else 23) 3)

def execPinPulseEnd (b : Fin 12) (p : Fin 36) (s : State) : Host.Outcome State Fault Refusal :=
  .next (s.setPins { s.pins with
    pulse := setMask s.pins.pulse b.val (maskAt s.pins.pulse b.val &&& ~~~ pinBit p.val) })

/-! ## Staging and switching (R292 to R294) -/

/-- A write to PIN_CFG_b_p stages a configuration. -/
def cfgStage (s : State) (b p : Nat) (w : W36) : State := setStg (s.setWord (PIN_CFG b p) (withBits w 0 6 0)) b p

def execPinCfgStage (b : Fin 12) (p : Fin 36) (w : W36) (s : State) : Host.Outcome State Fault Refusal :=
  .next (cfgStage s b.val p.val w)

/-- The device refuses a pin of a group (R287, R292). -/
def applyRefused (s : State) (b p : Nat) : Bool :=
  let w := cfgStaged s b p
  let st := cfgStream s b p
  !(decide (cfgFn w < 4) || (cfgFn w == cfgFn st && cfgArg w == cfgArg st)) ||
  cfgFn w == 7 || (bitsOf w 30 2 == 3 && s.get (PIN_BANK_vdecl b) == 1) ||
  (s.get (PIN_BANK_vdecl b) == 0 && cfgFn w != 0) || clockOn s b p || !bankOn s b

/-- The pins of a mask. -/
def pinsOf (m : W36) : List Nat := (List.range 36).filter (fun p => m.getLsbD p)

/-- The input of pin `p` of bank `b` holds the last level that it received, as its function leaves the pin (Table 12.6
step 1). -/
def leavePin (s : State) (b p : Nat) : State :=
  let w := maskAt s.pins.left b
  let v := if (ballWord s b).getLsbD p then w ||| pinBit p else w &&& ~~~ pinBit p
  s.setPins { s.pins with left := setMask s.pins.left b v }

/-- One pin of an accepted apply: with fn unchanged it takes its fields at once; otherwise it parks, and a probe on it
is disabled. -/
def applyPin (s : State) (b p : Nat) : State :=
  let w := cfgStaged s b p
  if cfgFn w = pinFn s b p then (putForce s b p w).putBit (PIN_APPLY_apply b) p false
  else
    let s := leavePin s b p
    let q := s.pins
    let s := s.setPins { q with
      switching := setMask q.switching b (maskAt q.switching b ||| pinBit p),
      target := tput (fun _ => 0) q.target (36 * b + p) w,
      pulse := setMask q.pulse b (maskAt q.pulse b &&& ~~~ pinBit p),
      gpev := setMask q.gpev b (maskAt q.gpev b &&& ~~~ pinBit p) }
    let s := match probeOn s b p with
      | some k => probeRefuse s k
      | none => s
    s.putBit (PIN_APPLY_apply b) p true

/-- A masked write to PIN_APPLY_b: held while the bank switches, else each pin parks or is refused (R292, R294). -/
def applyGroup (s : State) (b : Nat) (m : W36) : State :=
  if maskAt s.pins.switching b ≠ 0 then
    let s := s.setPins { s.pins with heldApply := setMask s.pins.heldApply b (maskAt s.pins.heldApply b ||| m) }
    s.setWord (PIN_APPLY b) (s.word (PIN_APPLY b) ||| m)
  else
    let bad := (pinsOf m).filter (applyRefused s b)
    let good := (pinsOf m).filter (fun p => !applyRefused s b p)
    let s := good.foldl (fun s p => applyPin s b p) s
    match bad with
    | [] => s
    | p :: _ =>
      let s := bad.foldl (fun s p => s.putBit (PIN_APPLY_apply b) p false) s
      raise (s.put (PIN_BANK_arefused b) 1) 0x6104 (packWord [(32, b), (26, p)])

def execPinApply (b : Fin 12) (m : W36) (s : State) : Host.Outcome State Fault Refusal :=
  .next (applyGroup s b.val m)

/-- Step 4 of the switch: the new functions take their pins; a bank that returns becomes CONFIGURED, the pins of an
abandoned switch with their staged configurations; a held apply then runs (Tables 12.2, 12.6, 12.7). While a JTAG
instruction has the pins, no switch takes them (R374). -/
def switchTake (s : State) (b : Nat) : State :=
  let q := s.pins
  if s.flag SCB_JTAG_ext then s
  else if tget (fun _ => false) q.returning b then
    if supplyAgrees s b then
      let ab := maskAt q.abandoned b
      let s := (pinsOf ab).foldl (fun s p => putForce s b p (cfgStaged s b p)) s
      let s := s.setPins { s.pins with
        abandoned := setMask s.pins.abandoned b 0, returning := tput (fun _ => false) s.pins.returning b false }
      bankConfigured s b
    else s.setPins { q with returning := tput (fun _ => false) q.returning b false }
  else if maskAt q.switching b = 0 then s
  else
    let m := maskAt q.switching b
    let s := (pinsOf m).foldl (fun s p =>
      (putForce s b p (tget (fun _ => 0) q.target (36 * b + p))).putBit (PIN_APPLY_apply b) p false) s
    let held := maskAt s.pins.heldApply b
    let s := s.setPins { s.pins with
      switching := setMask s.pins.switching b 0, heldApply := setMask s.pins.heldApply b 0,
      target := tdrop (fun k => k / 36 == b) s.pins.target }
    let s := wordInputs s b
    if held = 0 then s else applyGroup s b held

def execPinSwitchTake (b : Fin 12) (s : State) : Host.Outcome State Fault Refusal := .next (switchTake s b.val)

/-! ## Levels and hinge endpoints (R285, R291, R295) -/

/-- A GPEV input offers an event for a selected edge; a WORD input passes its bit into the Gray register (R295). -/
def pinInput (s : State) (b p : Nat) (v : Bool) : State :=
  let w := cfgNow s b p
  let a := cfgArg w
  match cfgFn w with
  | 5 =>
    let j := 54 + a % 256
    if wdOut s j then s
    else
      let g := (wdOf s j).gray
      let k := a / 256 % 64
      let g' := if v then g ||| pinBit k else g &&& ~~~ pinBit k
      wordWrite s j (binOf g')
  | 6 =>
    let i := 1080 + a % 256
    let kind := a / 4096 % 4
    if evOut s i then s
    else if kind = 2 ∨ (kind = 0 ∧ v = true) ∨ (kind = 1 ∧ v = false) then offerEvent s i else s
  | _ => s

/-- The level at a ball changes; a level between VIL and VIH reads undefined, so it is free (R285). Each further sample of an
undefined level that may differ is a further command (DESIGN CHOICE, log entry 73). -/
def levelChange (s : State) (b p : Nat) (level : Option Bool) : State :=
  let v := level.getD (Config.freeBit s.free)
  let s := if level.isNone then s.tookFree else s
  let s0 := s
  let w := maskAt s.pins.ball b
  let s := s.setPins { s.pins with ball := setMask s.pins.ball b (if v then w ||| pinBit p else w &&& ~~~ pinBit p) }
  if w.getLsbD p = v ∨ bankOn s b = false then s
  else
    let s := s.setWord (PIN_DIN b) (maskAt s.pins.ball b)
    let s := if pinLive s b p then pinInput s b p v else s
    (List.range 24).foldl (fun s t => tmbLevel s0 s b p t) s

def execPinLevelChange (b : Fin 12) (p : Fin 36) (level : Option Bool) (s : State) :
    Host.Outcome State Fault Refusal := .next (levelChange s b.val p.val level)

/-- The pin that is the endpoint of event hinge E(1080 + n), if any (R295). -/
def gpevPin (s : State) (n : Nat) : Option (Nat × Nat) :=
  (s.pins.inForce.find? (fun e => cfgFn e.2 == 6 && cfgArg e.2 % 256 == n)).map (fun e => (e.1 / 36, e.1 % 36))

/-- An event delivered to a GPEV output starts or restarts its pulse (R295). -/
def gpevEvent (s : State) (n : Nat) : State :=
  match gpevPin s n with
  | some (b, p) =>
    if pinLive s b p then
      s.setPins { s.pins with gpev := setMask s.pins.gpev b (maskAt s.pins.gpev b ||| pinBit p) }
    else s
  | none => s

def execGpevPulseEnd (b : Fin 12) (p : Fin 36) (s : State) : Host.Outcome State Fault Refusal :=
  .next (s.setPins { s.pins with
    gpev := setMask s.pins.gpev b.val (maskAt s.pins.gpev b.val &&& ~~~ pinBit p.val) })

/-! ## Pin ports (R296) -/

/-- Pin port `g`'s outputs. -/
def portOut (s : State) (g : Nat) : PortOut := tget (fun _ => PortOut.init) s.pins.portOut g

def setPortOut (s : State) (g : Nat) (x : PortOut) : State :=
  s.setPins { s.pins with portOut := tput (fun _ => PortOut.init) s.pins.portOut g x }

/-- Pin `p` of the port's bank serves port `g`: its function in force is PORT with this port (Table 12.3). -/
def portServes (s : State) (g p : Nat) : Bool :=
  let w := cfgNow s (s.get (PIN_PORT_bank g)) p
  pinLive s (s.get (PIN_PORT_bank g)) p && cfgFn w == 4 && cfgArg w % 256 == g

/-- The levels that the port receives: of the balls that serve it, and of the others the last level received (Table 12.6). -/
def portWord (s : State) (g : Nat) : W36 :=
  let b := s.get (PIN_PORT_bank g)
  let m := (List.range 36).foldl (fun m p => if portServes s g p then m ||| pinBit p else m) 0
  (ballWord s b &&& m) ||| (maskAt s.pins.left b &&& ~~~ m)

/-- The level of pin `p` as the port receives it. -/
def portPin (s : State) (g p : Nat) : Bool := (portWord s g).getLsbD p

/-- The port is active: enabled, and its strobe pin serves it. -/
def portOn (s : State) (g : Nat) : Bool := s.flag (PIN_PORT_en g) && portServes s g (s.get (PIN_PORT_stb g))

/-- A strobe or ready pin stands at its active level (Table 12.8). -/
def portActive (s : State) (g p : Nat) : Bool := portPin s g p == s.flag (PIN_PORT_stb_pol g)

/-- An input port, its strobe active, pushes one entry; a refused one is dropped and counted, 6105h on the first drop after an accepted
push. -/
def portStrobe (s : State) (g : Nat) : State :=
  if portOn s g && s.get (PIN_PORT_dir g) == 0 && portActive s g (s.get (PIN_PORT_stb g)) then
    let d := portWord s g &&& s.word (PIN_PMSK g)
    let e := s.flag (PIN_PORT_e_use g) && portPin s g (s.get (PIN_PORT_epin g))
    let r := fifoPush s (80 + g) ⟨d, e, false⟩
    let dropped := tget (fun _ => false) s.pins.portDropped g
    let s := r.1.setPins { r.1.pins with portDropped := tput (fun _ => false) r.1.pins.portDropped g (!r.2) }
    if r.2 then s
    else
      let s := s.bump (PIN_PORT_ovf g) 1
      if dropped then s else raise s 0x6105 (packWord [(30, g), (21, s.get (PIN_PORT_ovf g))])
  else s

def execPortInputStrobe (g : Fin 48) (s : State) : Host.Outcome State Fault Refusal := .next (portStrobe s g.val)

/-- Take the next entry that is no length word (R159, R296). -/
def popData : Nat → State → Nat → State × Option Entry
  | 0, s, _ => (s, none)
  | n + 1, s, f =>
    match fifoPop s f with
    | (s, some e) => if e.a && !e.e then popData n s f else (s, some e)
    | (s, none) => (s, none)

/-- An output port, its ready pin active or unused, asks for an entry and drives it with its strobe active; with none, or
not asking, the strobe is inactive and the pins hold. Every length word before the entry is skipped. -/
def portEntry (s : State) (g : Nat) : State :=
  if portOn s g && s.get (PIN_PORT_dir g) == 1 then
    if s.flag (PIN_PORT_rdy_use g) && !portActive s g (s.get (PIN_PORT_rdy g)) then
      setPortOut s g { portOut s g with strobe := false }
    else
      match popData ((rdepth (fifoOf s (80 + g))) + 1) s (80 + g) with
      | (s, some e) => setPortOut s g ⟨e.data &&& s.word (PIN_PMSK g), e.e, true⟩
      | (s, none) => setPortOut s g { portOut s g with strobe := false }
  else s

def execPortOutputEntry (g : Fin 48) (s : State) : Host.Outcome State Fault Refusal := .next (portEntry s g.val)

/-! ## Wake pins (R304) -/

/-- A selected edge on a wake pin holds for two samples in BANKED. -/
def wakePin (s : State) (b k : Nat) : State :=
  let w := s.word (PIN_WAKE b)
  if bitsOf w (9 * k + 8) 1 = 1 ∧ s.get (PIN_BANK_vsense b) ≠ 0 ∧ bitsOf w (9 * k) 2 ≠ 3 then
    wakeEvent s 1 (4 * b + k)
  else s

def execWakePinEdge (b : Fin 12) (k : Fin 4) (s : State) : Host.Outcome State Fault Refusal :=
  .next (wakePin s b.val k.val)

/-! ## Probes (03 R69, R71) -/

/-- The selection and signal of a probe name valid values (Tables 3.8, 3.9). -/
def probeValid (s : State) (q sig : Nat) : Bool :=
  let h := s.get (FAB_PRB_SEL_hearth q)
  let c := s.get (FAB_PRB_SEL_column q)
  let r := s.get (FAB_PRB_SEL_row q)
  let d := s.get (FAB_PRB_SEL_dest q)
  decide (sig < 6) && (match s.get (FAB_PRB_SEL_level q) with
    | 0 => decide (h < 36 ∧ c < 66 ∧ d < 312)
    | 1 => decide (h < 36 ∧ c < 66 ∧ r = 0 ∧ d < 992)
    | 2 => decide (h < 36 ∧ c = 0 ∧ r = 0 ∧ d < 7616)
    | 3 => decide (h = 0 ∧ c = 0 ∧ r = 0 ∧ d < 27664)
    | _ => false)

/-- A masked write to FAB_PRB_PIN_q: it clears refused. One that reaches en, sig, bank or pin and leaves en = 1 enables the
probe on its pin or is refused; any other leaves en as it is (R8, R69). A PARK pin whose accepted switch to another function
is under way still counts as PARK, and the probe goes on after the switch (DESIGN CHOICE, log entry 73). A probe that was not
on this pin starts low with a fresh count of edges (R70; DESIGN CHOICE, log entry 73). -/
def probeWrite (s : State) (q : Nat) (mask w : W36) : State :=
  let old := s.word (FAB_PRB_PIN q)
  let w := withBits (withBits ((old &&& ~~~ mask) ||| (w &&& mask)) 33 1 0) 10 17 0
  let judged := mask &&& (maskOf 35 1 ||| maskOf 30 3 ||| maskOf 0 10) != 0
  if !judged then s.setWord (FAB_PRB_PIN q) w
  else
    let s := s.setWord (FAB_PRB_PIN q) (withBits w 35 1 0)
    if bitsOf w 35 1 = 0 then s
    else
      let b := bitsOf w 6 4
      let p := bitsOf w 0 6
      if decide (b < 12) && decide (p < 36) && pinFn s b p == 0 && !clockOn s b p && s.get (PIN_BANK_vsense b) != 0 &&
          (probeOn s b p).isNone && probeValid s q (bitsOf w 30 3) then
        let s := if bitsOf old 35 1 = 1 ∧ bitsOf old 0 10 = bitsOf w 0 10 then s
          else { s with fab := { s.fab with edges := tput (fun _ => 0) s.fab.edges q 0 } }
        s.put (FAB_PRB_PIN_en q) 1
      else s.put (FAB_PRB_PIN_refused q) 1

def execProbeEnable (p : Fin 16) (w : W36) (s : State) : Host.Outcome State Fault Refusal :=
  .next (probeWrite s p.val (BitVec.allOnes 36) (withBits w 35 1 1))

def execProbeDisable (p : Fin 16) (w : W36) (s : State) : Host.Outcome State Fault Refusal :=
  .next (probeWrite s p.val (BitVec.allOnes 36) (withBits w 35 1 0))

def execProbeSelWrite (p : Fin 16) (w : W36) (s : State) : Host.Outcome State Fault Refusal :=
  .next (s.setWord (FAB_PRB_SEL p.val) w)

/-- Every probe is disabled, en and refused read 0 (Table 3.10). -/
def probesOff (s : State) : State :=
  (List.range 16).foldl (fun s q => (s.put (FAB_PRB_PIN_en q) 0).put (FAB_PRB_PIN_refused q) 0) s

/-! ## User clocks (06 R124) -/

/-- The design claims pin p of bank b: it has a function, or is on its way to one (R124, R287). -/
def pinClaimed (s : State) (b p : Nat) : Bool :=
  pinFn s b p != 0 ||
  (pinSwitching s b p && cfgFn (tget (fun _ => 0) s.pins.target (36 * b + p)) != 0) ||
  ((maskAt s.pins.abandoned b).getLsbD p && cfgFn (cfgStaged s b p) != 0)

/-- A write to HNG_UCLK_k: an enable on a pin that the design or a probe claims is refused; a change of the pin or of en
acts on the clock's hinges as a loss, and USER_CLOCK_PRESENT is the return (R124). -/
def userClockWrite (s : State) (k : Nat) (w : W36) : State :=
  let b := bitsOf w 6 4
  let p := bitsOf w 0 6
  let old := s.word (HNG_UCLK k)
  let lost := if bitsOf w 33 1 = 1 then 0 else bitsOf old 33 1
  let refused := bitsOf w 35 1 == 1 && (pinClaimed s b p || (probeOn s b p).isSome)
  let en := if refused then 0 else bitsOf w 35 1
  let changed := en != bitsOf old 35 1 || bitsOf w 0 10 != bitsOf old 0 10
  let pres := if changed then 0 else bitsOf old 34 1
  let s := if changed then setGone s k false else s
  updateSeals (s.setWord (HNG_UCLK k) (packWord
    [(35, en), (34, pres), (33, lost), (32, b2n refused), (6, b), (0, p)]))

def execUserClockEnable (k : Fin 8) (w : W36) (s : State) : Host.Outcome State Fault Refusal :=
  .next (userClockWrite s k.val w)

/-! ## What the device drives (R283, R285, R290) -/

/-- The level setting in force at a hinge with seal `x` from the seal until the re-seat (R353): `none` holds the last levels,
as before the hinge's first opening. Hinge class 0 is an event hinge, 1 a word hinge, 2 a FIFO. -/
def isoForce (s : State) (x : Seal) (h cls idx : Nat) : Option Bool :=
  if (x.open0 && x.open1) || x.first then none
  else match tget (fun _ => 0) s.scb.isoNow (isoKey h 2 idx cls) with
    | 1 => some false
    | 2 => some true
    | _ => none

/-- What the function of a live pin drives: nothing, or a level (Table 12.3). A PORT output keeps its strobe inactive while its
FIFO is sealed (R353). -/
def fnDrives (s : State) (b p : Nat) : Option Bool :=
  let d := (s.word (PIN_DOUT b)).getLsbD p != (maskAt s.pins.pulse b).getLsbD p
  let a := cfgArg (cfgNow s b p)
  match pinFn s b p with
  | 2 => some d
  | 3 => if d then none else some false
  | 4 =>
    let g := a % 256
    if s.get (PIN_PORT_dir g) = 1 then
      if p = s.get (PIN_PORT_stb g) then
        let sl := (fifoOf s (80 + g)).sl
        some (((portOut s g).strobe && sl.open0 && sl.open1) == s.flag (PIN_PORT_stb_pol g))
      else if s.flag (PIN_PORT_e_use g) && p == s.get (PIN_PORT_epin g) then some (portOut s g).e
      else if (s.word (PIN_PMSK g)).getLsbD p then
        some ((isoForce s (fifoOf s (80 + g)).sl (s.get (HNG_FIFO_CFG_host (80 + g))) 2 (80 + g)).getD ((portOut s g).data.getLsbD p))
      else none
    else if s.flag (PIN_PORT_rdy_use g) && p == s.get (PIN_PORT_rdy g) then
      some (!(wfull (fifoOf s (80 + g))) == s.flag (PIN_PORT_stb_pol g))
    else none
  | 5 =>
    let j := 54 + a % 256
    if wdOut s j then
      some ((isoForce s (wdOf s j).sl (s.get (HNG_WD_CFG_host j)) 1 j).getD ((grayOf (wdOf s j).endpoint).getLsbD (a / 256 % 64)))
    else none
  | 6 =>
    let i := 1080 + a % 256
    if evOut s i then
      some ((isoForce s (evOf s i).sl (s.get (HNG_EV_CFG_host i)) 0 i).getD ((maskAt s.pins.gpev b).getLsbD p))
    else none
  | _ => none

/-- The pins are as BANKED has them: from step 2 of its entry to the commit that ends it (Tables 12.12, 16.8, 16.9). -/
def pinsBanked (s : State) : Bool := inBanked s || (s.pwr.phase == .bankedExit && !s.pwr.clocked)

/-- Pins of bank `b` keep driving in BANKED: an OUTPUT or OPEN-DRAIN pin with bk_hold = 1 whose bank has its supply. -/
def keepsDriving (s : State) (b p : Nat) : Bool :=
  s.flag (PIN_BANK_bk_hold b) && bankOn s b && s.get (PIN_BANK_vsense b) != 0 && (pinFn s b p == 2 || pinFn s b p == 3)

/-- What a pin drives: nothing, or a level. In BANKED every pin parks, but with bk_hold an OUTPUT or OPEN-DRAIN pin keeps its
level at entry; elsewhere a probe comes first, and a switching pin is parked (Tables 3.10, 12.6, 12.12). -/
def pinDrives (s : State) (b p : Nat) : Option Bool :=
  if pinsBanked s then
    if keepsDriving s b p then
      let d := (maskAt s.pins.kept b).getLsbD p
      if pinFn s b p = 3 ∧ d = true then none else some d
    else none
  else if !bankOn s b then none
  else match probeOn s b p with
  | some q => some (probeLevel s q)
  | none => if pinSwitching s b p then none else fnDrives s b p

/-- What pulls at a ball: nothing, a pull-up, a pull-down, a keeper, or the strap pull-down of R284. -/
inductive PinPull where
  | none | up | down | keeper | strap
deriving DecidableEq, Repr

/-- The pull that a configuration selects (Table 12.4). -/
def pullOf (w : W36) : PinPull :=
  match bitsOf w 27 2 with
  | 1 => .up
  | 2 => .down
  | 3 => .keeper
  | _ => .none

/-- The pull of a pin: in the hot-socket state the strap pull-down where the strap is 1 and VCCIO is on (R283, R284); in a
park state with park = 1 a keeper; else the pull in force (Table 12.4). -/
def pinPull (s : State) (b p : Nat) : PinPull :=
  let w := cfgNow s b p
  if !bankOn s b then (if s.flag (PIN_BANK_pdc b) && s.get (PIN_BANK_vsense b) != 0 then .strap else .none)
  else
    let parked := cfgFn w == 0 || pinSwitching s b p || (pinsBanked s && !keepsDriving s b p)
    if parked && bitsOf w 32 1 == 1 then .keeper else pullOf w

/-! ## Commit (R281, R292, Table 12.12) -/

/-- A bank at commit or at the exit from BANKED: the stream's functions, and CONFIGURED or SUPPLY WAIT with 6101h. -/
def bankCommit (s : State) (b : Nat) : State :=
  let s := abandonSwitch s b
  let s := s.setPins { s.pins with
    abandoned := setMask s.pins.abandoned b 0, left := setMask s.pins.left b 0, pulse := setMask s.pins.pulse b 0, gpev := setMask s.pins.gpev b 0,
    fabWrites := tput (fun _ => []) s.pins.fabWrites b [], mgcWrites := tput (fun _ => []) s.pins.mgcWrites b [] }
  let s := (List.range 36).foldl (fun s p => putForce s b p (cfgStream s b p)) s
  if s.get (PIN_BANK_vdecl b) = 0 then s.put (PIN_BANK_state b) 0
  else if supplyAgrees s b then bankConfigured s b
  else raise (s.put (PIN_BANK_state b) 2) 0x6101 (bankDetail s b)

/-- The stream's pin configurations become the ones that the stream gave. -/
def streamPins (s : State) : State :=
  (List.range 432).foldl (fun s i =>
    s.setPins { s.pins with streamCfg := tput (fun _ => 0) s.pins.streamCfg i (cfgStaged s (i / 36) (i % 36)) }) s

/-- The levels that pins with bk_hold keep driving are those at the entry to BANKED (Table 12.12). -/
def keepLevels (s : State) : State :=
  s.setPins { s.pins with
    kept := (List.range 12).foldl (fun t b => setMask t b (s.word (PIN_DOUT b) ^^^ maskAt s.pins.pulse b)) s.pins.kept }

/-- Staged configurations are replaced by the stream's (Table 12.7). -/
def restorePins (s : State) : State :=
  (List.range 432).foldl (fun s i => cfgStage s (i / 36) (i % 36) (cfgStream s (i / 36) (i % 36))) s

/-- The pins at a commit. -/
def pinsCommit (s : State) : State := tmbRestartAll ((List.range 12).foldl bankCommit (probesOff s))

/-- Every bank to HOT-SOCKET (Tables 12.2, 16.3). -/
def pinsHot (s : State) : State := (List.range 12).foldl (fun s b => bankHot s b 0) s

end Sys2Proof.Machine
end

