-- ==== Sys2Proof/Machine/RegRules.lean ====
section
/-! DEFINITION. RegRules: the values that a field takes, where the register tables bound them, and the Stream
fields of a register (R316, Table 13.6 class 0Ch). -/
namespace Sys2Proof.Machine
open Sys2Proof

/-- Address `a` is one of `n` registers from `base`. -/
def among (a base n : Nat) : Bool := decide (base ≤ a) && decide (a < base + n)

/-- `lo ≤ v ≤ hi`. -/
def within (lo hi v : Nat) : Bool := decide (lo ≤ v) && decide (v ≤ hi)

/-- Whether the field at bit `lo` of register `a` takes the value `v` from a write: a value outside its range
has no effect on the field (register tables of 04 to 16; DEDUCED, log entry 16 for the KWR windows). -/
def fieldTakes (a lo v : Nat) : Bool :=
  if a = 0x100231 ∧ lo = 17 then within 8 960 v
  else if a = 0x100234 ∧ lo = 16 then within 650 900 v && v % 5 == 0
  else if among a 0x202000 4 then decide (v ≤ 1000)
  else if among a 0x300010 24 then (lo != 32 && lo != 27) || v != 3
  else if among a 0x3000B0 24 then lo != 19 || decide (v ≤ 31)
  else if a = 0x3000D0 then (if lo = 24 then within 100 4095 v else within 1 1000 v)
  else if a = 0x600020 ∧ lo = 34 then v != 3
  else if among a 0x380000 6 then (lo != 34 && lo != 32) || v != 3
  else if among a 0x380008 6 then lo != 0 || within 32000 3200000 v
  else if among a 0x380010 14 then (if lo = 23 then decide (v ≤ 7167) else decide (v ≤ 1024))
  else if among a 0x400000 2 then lo != 30 || v != 3
  else if among a 0x400040 8 then within 320 3200000 v
  else if among a 0x400048 2 then lo != 34 || v != 3
  else if among a 0x400100 2 then (if lo = 22 then v == 0 || within 10 10000 v else lo != 18 || v != 0)
  else if among a 0x500240 12 then (if lo % 9 = 0 then v != 3 else lo % 9 != 2 || decide (v ≤ 35))
  else if among a 0x500300 24 then (if lo = 29 then v != 3 else if lo = 26 then v != 0 else lo != 31 || decide (v ≤ 11))
  else if a = 0x680000 ∧ lo = 18 then v != 0
  else if a = 0x680020 ∧ lo = 18 then v != 0
  else if a = 0x20 ∧ lo = 9 then v != 0
  else if a = 0x780000 then v != 3
  else true

/-- Whether the field at bit `lo` of register `a` takes `v` from the stream (class 0Ch). Codes that other
classes refuse pass here. -/
def streamTakes (a lo v : Nat) : Bool :=
  if among a 0x400000 2 then true
  else if among a 0x500300 24 then (lo != 31 || decide (v ≤ 11))
  else if among a 0x500500 48 then
    (if lo = 30 then decide (v ≤ 11) else if lo = 24 ∨ lo = 16 ∨ lo = 9 then decide (v ≤ 35) else true)
  else if a = 0x20 then (lo != 29 && lo != 23) || decide (v ≤ 47)
  else if among a 0x100 256 then (if lo = 15 then v != 0 else if lo = 11 then decide (v ≤ 8) else lo != 9 || v != 3)
  else fieldTakes a lo v

/-- The Stream fields of the register at `a`. -/
def streamFields (a : Nat) : List FieldInfo := (fieldsAt a).filter (·.stream)

/-- Every Stream field of register `a` takes its part of `w`. -/
def streamOk (a : Nat) (w : W36) : Bool := (streamFields a).all (fun f => streamTakes a f.lo (bitsOf w f.lo f.width))

/-- Write the Stream fields of register `a` from `w`. -/
def setStream (s : State) (a : Nat) (w : W36) : State :=
  s.setWord a ((streamFields a).foldl (fun v f => withBits v f.lo f.width (bitsOf w f.lo f.width)) (s.word a))

/-- The kind, hearth, index and hinge class that an SCB_ISO_IDX word names exist (Table 14.13). -/
def isoNamed (w : W36) : Bool :=
  let kind := bitsOf w 28 2
  let i := bitsOf w 17 11
  let cls := bitsOf w 15 2
  decide (bitsOf w 30 6 < 36) &&
  (match kind with
   | 0 => decide (i < 768)
   | 1 => decide (i < 16)
   | 2 => (match cls with
     | 0 => decide (i < 1152)
     | 1 => decide (i < 288)
     | 2 => decide (i < 128)
     | _ => false)
   | _ => false)

/-- A setting that the kind has. -/
def isoSetting (w : W36) (v : Nat) : Bool := if bitsOf w 28 2 = 2 then v != 3 else decide (v < 2)

/-- The key of the SCB_ISO_VAL entry that an index word names; the hinge class counts for kind 10b only. -/
def isoWordKey (w : W36) : Nat :=
  let kind := bitsOf w 28 2
  ((bitsOf w 30 6 * 4 + kind) * 2048 + bitsOf w 17 11) * 4 + (if kind = 2 then bitsOf w 15 2 else 0)

end Sys2Proof.Machine
end

