-- ==== Sys2Proof/Machine/Ward.lean ====
section
/-! DEFINITION. Ward: the ward check (13 R318, Table 13.6). The streaming checks look at one record as it arrives; the
whole-stream checks look at the device as the stream would set it. A failure is a word in the layout of
CFG_WARD_LOC. -/
namespace Sys2Proof.Machine
open Sys2Proof

/-- CFG_WARD_LOC (Table 13.13). -/
def wardWord (cls h col row f : Nat) : W36 := packWord [(30, h), (23, col), (18, row), (14, f), (6, cls)]

/-- A failure that names no hearth. -/
def wardDevice (cls : Nat) : W36 := wardWord cls 63 0 0 0

/-- The class of a failure. -/
def wardClass (w : W36) : Nat := bitsOf w 6 8

/-- The frame of tile (c, t) as the ward check reads it: frames 0 to 8 lie in the physical column (R342). -/
def wardCol (s : State) (h c : Nat) : Nat := (pcolOf s h c).getD c

/-! ## Header, classes 01h to 04h -/

/-- The fields of a stream header (Table 13.3). -/
def hdrKind (l : List Octet) : Nat := leAt l 6 1
def hdrHearth (l : List Octet) : Nat := leAt l 7 1
def hdrDevice (l : List Octet) : Nat := leAt l 8 4
def hdrDesign (l : List Octet) : Nat := leAt l 12 4
def hdrVersion (l : List Octet) : Nat := leAt l 16 2
def hdrKeySel (l : List Octet) : Nat := leAt l 18 1
def hdrFlags (l : List Octet) : Nat := leAt l 19 1
def hdrClk (l : List Octet) : Nat := leAt l 20 1
def hdrIv (l : List Octet) : List Octet := (l.drop 24).take 12
def hdrLen (l : List Octet) : Nat := leAt l 36 8

/-- Entry h of the directory: first chunk and chunk count. -/
def dirFirst (l : List Octet) (h : Nat) : Nat := leAt l (48 + 8 * h) 4
def dirCount (l : List Octet) (h : Nat) : Nat := leAt l (52 + 8 * h) 4

/-- Class 01h, for a full-device stream or a hearth stream. -/
def hdrShape (l : List Octet) (hearth : Bool) : Bool :=
  leAt l 0 4 == 0x4643514E && leAt l 5 1 == 2 && hdrKind l == b2n hearth &&
  (if hearth then decide (hdrHearth l < 36) else hdrHearth l == 0xFF) &&
  decide (hdrClk l ≤ 3) && decide (hdrFlags l < 4) && leAt l 21 3 == 0 && leAt l 44 4 == 0 && leAt l 336 176 == 0 &&
  (!hearth || leAt l 48 288 == 0) && hdrLen l != 0

/-- The key policy: key_sel 01h exactly when key_src is blown and bbram_off is not (R332). -/
def keyPolicy (s : State) : Nat := b2n (s.flag CFG_KEY_key_src && !s.flag CFG_KEY_bbram_off)

/-- The lowest header class that the header breaks; 0 when none. -/
def headerClass (s : State) (l : List Octet) (hearth : Bool) : Nat :=
  if !hdrShape l hearth then 1
  else if hdrDevice l ≠ 0x0A243602 then 2
  else if hdrVersion l < s.get CFG_KEY_min_ver then 3
  else if hdrKeySel l ≠ keyPolicy s then 4
  else 0

/-! ## Cells, class 05h (R28, R32, R33, R36) -/

/-- A cell record that R28, R32, R33 or R36 refuses. -/
def cellBad (s : State) (c : Cell) : Bool :=
  let mode := recBits s c 176 4
  let tap := recBits s c 155 8
  recBits s c 170 1 != 0 || recBits s c 163 1 != 0 || recBits s c 128 27 != 0 || decide (8 ≤ mode) ||
  (mode != 7 && recBits s c 171 2 != 0) ||
  (match mode with
   | 5 => decide (32 ≤ c.k.val)
   | 6 => decide (16 ≤ tap) || tap == 0 || c.k.val != 35
   | _ => tap != 0) ||
  (mode == 4 && (recBits s c 166 2 == 3 || (recBits s c 164 2 == 3 && c.k.val == 0 && c.row.val == 0)))

/-- The MUX SLICE cells of a tile are cells 0 to m - 1, and there are some exactly when cell 35 is a MUX ROOT (R33). -/
def muxBad (s : State) (mk : Nat → Cell) : Bool :=
  let m := ((List.range 36).filter (fun k => recBits s (mk k) 176 4 == 5)).length
  (List.range m).any (fun k => recBits s (mk k) 176 4 != 5) || ((recBits s (mk 35) 176 4 == 6) != (m != 0))

/-- Class 05h on a tile's frames 0 to 4: the frame of the first bad record. -/
def cellsCheck (s : State) (h c t : Nat) : Option W36 :=
  let p := wardCol s h c
  let mk := fun k => (⟨Fin.ofNat _ h, Fin.ofNat _ p, Fin.ofNat _ t, Fin.ofNat _ k⟩ : Cell)
  match (List.range 36).find? (fun k => cellBad s (mk k)) with
  | some k => some (wardWord 5 h c t (180 * k / 1296))
  | none => if muxBad s mk then some (wardWord 5 h c t 4) else none

/-! ## Crossbars, class 06h (R54 to R57, R343) -/

/-- The L1 slots of a cell that must select a source: ports marked in use, and taps marked in tap_use (R56). -/
def slotsNeeded (s : State) (c : Cell) : List Nat :=
  match recBits s c 176 4 with
  | 0 => []
  | 5 => (List.range 8).filter (fun i => recBits s c (155 + i) 1 == 1)
  | 6 => (List.range 4).filter (fun i => recBits s c (155 + i) 1 == 1)
  | _ => (List.range 3).filter (fun i => recBits s c (175 - i) 1 == 1)

/-- Class 06h on a tile's frames 5 and 6. -/
def l1Check (s : State) (h c t : Nat) : Option W36 :=
  let p := wardCol s h c
  let bad := (List.range 312).find? (fun d => within 60 62 (l1Code s h p t d))
  let idle := (List.range 36).find? (fun k =>
    (slotsNeeded s ⟨Fin.ofNat _ h, Fin.ofNat _ p, Fin.ofNat _ t, Fin.ofNat _ k⟩).any (fun i =>
      l1Code s h p t (8 * k + i) == 63))
  match bad, idle with
  | some d, _ => some (wardWord 6 h c t (5 + 6 * d / 1296))
  | none, some k => some (wardWord 6 h c t (5 + 48 * k / 1296))
  | none, none => if strBits s h p t 5 1872 720 != 0 then some (wardWord 6 h c t 6) else none

/-- A row that selects exactly one source or none (R56). -/
def rowOk (m v : Nat) : Bool := (rowPick m v).isSome

/-- The source that a row's bits select. -/
def rowSel (m v : Nat) : Option Nat := (rowPick m v).join

/-- Classes 06h and 07h on a tile's frames 7 and 8: rows, and routes to side ports 78 to 127 (R101). -/
def l2Check (s : State) (h c t : Nat) : Option W36 :=
  let p := wardCol s h c
  let v := fun k => strBits s h p t 7 (63 * k) 63
  let at_ := fun (cls k : Nat) => some (wardWord cls h c t (7 + 63 * k / 1296))
  match (List.range 31).find? (fun k => !rowOk 32 (v k)),
      (List.range 31).find? (fun k => (v k != 0 && decide (942 ≤ 31 * t + k)) || (rowSel 32 (v k)).any (942 ≤ ·)) with
  | some k, _ => at_ 6 k
  | none, some k => at_ 7 k
  | none, none => if strBits s h p t 7 1953 639 != 0 then some (wardWord 6 h c t 8) else none

/-- A row at L3 that selects a source in logical column 64 or 65 (R56). -/
def spareSource (v : Nat) : Bool := (rowSel 72 v).any (fun i => decide (6144 ≤ i) && decide (i < 6336))

/-- Class 06h on a tile's frame 9: L3 rows, and the L4 row of a down-port or broadcast driver. -/
def l3Check (s : State) (h c t : Nat) : Option W36 :=
  let i := 32 * c + t
  let v := fun k => strBits s h c t 9 (178 * k) 178
  let w := strBits s h c t 9 712 384
  if (i ≤ 1903 && (List.range 4).any (fun k => !rowOk 72 (v k) || spareSource (v k))) ||
      (1903 < i && strBits s h c t 9 0 712 != 0) || (i ≤ 783 && !rowOk 288 w) || (783 < i && w != 0) ||
      strBits s h c t 9 1096 200 != 0 then some (wardWord 6 h c t 9)
  else none

/-- Class 07h on frames 10 and 11: slot fields and reserved bits (R104, R343). -/
def slotCheck (s : State) (h c t f : Nat) : Option W36 :=
  let i := 32 * c + t
  let v := strBits s h c t 10 0 1296
  let bad :=
    if f = 11 then strBits s h c t 11 0 1296 != 0
    else (i ≤ 95 && (v % 4 == 3 || v / 4 % 4 == 3 || v / 16 % 4 == 3 || v / 64 % 4 == 3)) ||
      (95 < i && v % 512 != 0) || (t != 0 && v / 512 % 2 != 0) || v / 1024 != 0
  if bad then some (wardWord 7 h c t f) else none

/-- The streaming checks once frame `f` of tile (c, t) has been written: each string is checked at its last frame. -/
def frameCheckAt (s : State) (h c t f : Nat) : Option W36 :=
  match f with
  | 4 => cellsCheck s h c t
  | 6 => l1Check s h c t
  | 8 => l2Check s h c t
  | 9 => l3Check s h c t
  | 10 => slotCheck s h c t 10
  | 11 => slotCheck s h c t 11
  | _ => none

/-- A list names some source more than `n` times. -/
def overFan (n : Nat) (l : List Nat) : Bool := l.any (fun i => decide (n < l.count i))

/-- Fan-out of one hearth's own crossbars (R54): L1 32, L2 16, L3 and broadcast entries 16. -/
def fanCheck (s : State) (h : Nat) : Option W36 :=
  let l1 := (List.range 2048).find? (fun x =>
    overFan 32 (((List.range 312).map (l1Code s h (wardCol s h (x / 32)) (x % 32))).filter (· < 60)))
  let l2 := (List.range 64).find? (fun c =>
    overFan 16 ((List.range 992).filterMap (fun d => rowSel 32 (rowBits s ⟨1, h, wardCol s h c, d⟩))))
  let l3 := overFan 16 ((List.range 7616).filterMap (fun d => rowSel 72 (rowBits s ⟨2, h, 0, d⟩)))
  match l1, l2 with
  | some x, _ => some (wardWord 6 h (x / 32) (x % 32) 5)
  | none, some c => some (wardWord 6 h c 0 7)
  | none, none => if l3 then some (wardWord 6 h 0 0 9) else none

/-- Fan-out at L4 over the down-ports and the broadcast drivers, and a broadcast driver that two hearths set (R54, R343). -/
def l4Check (s : State) : Option W36 :=
  let l := (List.range 27648).filterMap (fun d => rowSel 288 (rowBits s ⟨3, d / 768, 0, d % 768⟩)) ++
    (List.range 576).filterMap (fun d => rowSel 288 (rowBits s ⟨3, d / 16, 0, 768 + d % 16⟩))
  let twice := (List.range 16).any (fun b =>
    decide (1 < ((List.range 36).filter (fun h => rowBits s ⟨3, h, 0, 768 + b⟩ != 0)).length))
  if overFan 8 l || twice then some (wardDevice 6) else none

/-! ## Hinges, class 08h (R120, R147, R238, R401) -/

/-- The ends of a hinge FIFO: fabric or hard endpoint as Table 7.1 gives; a clocked side of a general-purpose one runs on
neither the root clock nor CK1600 (R120, R147, R148). -/
def fifoEndsBad (s : State) (f : Nat) : Bool :=
  let w := s.get (HNG_FIFO_CFG_wkind f)
  let r := s.get (HNG_FIFO_CFG_rkind f)
  let intoFabric := if f < 48 then f % 2 == 0 else decide (8 ≤ f % 16)
  if f < 80 then (if intoFabric then (w, r) != (1, 0) else (w, r) != (0, 1))
  else (w == 0 && r == 0) || w == 1 || r == 1 ||
    (w == 3 && s.get (HNG_FIFO_CLK_wclk f) != 3) || (r == 3 && s.get (HNG_FIFO_CLK_rclk f) != 3) ||
    (w == 2 && decide (s.get (HNG_FIFO_CLK_wclk f) < 2)) || (r == 2 && decide (s.get (HNG_FIFO_CLK_rclk f) < 2))

/-- The host, first port and number of ports of every hinge that the stream assigns (Table 6.3). -/
def hingeSpans (s : State) : List (Nat × Nat × Nat) :=
  ((List.range 1152).filter (evUsed s)).map (fun i => (s.get (HNG_EV_CFG_host i), s.get (HNG_EV_CFG_base i), 1)) ++
  ((List.range 288).filter (wdUsed s)).map (fun j =>
    (s.get (HNG_WD_CFG_host j), s.get (HNG_WD_CFG_base j),
      (wdWidth s j + 1) / 2 + b2n (!wdOut s j && !s.flag (HNG_WD_CFG_mode j)))) ++
  ((List.range 128).filter (fun f => s.get (HNG_FIFO_CFG_host f) < 62)).map (fun f =>
    (s.get (HNG_FIFO_CFG_host f), s.get (HNG_FIFO_CFG_base f), 19)) ++
  [(s.get HNG_CTLH_CFG_host, s.get HNG_CTLH_CFG_base, 68)]

/-- Two spans share a port of one host. -/
def spansMeet (a b : Nat × Nat × Nat) : Bool :=
  a.1 == b.1 && decide (a.2.1 < b.2.1 + b.2.2) && decide (b.2.1 < a.2.1 + a.2.2)

/-- Some two entries of a list are related. -/
def anyPair {α : Type} (r : α → α → Bool) : List α → Bool
  | [] => false
  | a :: l => l.any (r a) || anyPair r l

/-- The published objects and their FIFOs (R401). -/
def pubBad (s : State) : Bool :=
  s.flag MGC_PUB_PORT_en &&
  (let q := 80 + s.get MGC_PUB_PORT_g_req
   let r := 80 + s.get MGC_PUB_PORT_g_rsp
   s.get (HNG_FIFO_CFG_wkind q) != 3 || s.get (HNG_FIFO_CFG_rkind q) != 0 || s.get (HNG_FIFO_CFG_wkind r) != 0 ||
   s.get (HNG_FIFO_CFG_rkind r) != 3 || !pmode s q || !pmode s r ||
   anyPair (fun a b => a == b) (((List.range 256).filter (fun i => s.flag (MGC_PUB_CFG_valid i))).map (fun i =>
     (s.get (MGC_PUB_CFG_offset i), s.get (MGC_PUB_CFG_sub i)))))

/-- Class 08h. -/
def hingesBad (s : State) : Bool :=
  let spans := hingeSpans s
  s.get HNG_CTLH_CFG_host == 63 || anyPair spansMeet spans || spans.any (fun a => decide (512 < a.2.1 + a.2.2)) ||
  ((List.range 72).any (fun n => evUsed s (1080 + n) && decide (s.get (HNG_EV_CFG_clk (1080 + n)) < 2))) ||
  ((List.range 234).any (fun n => wdUsed s (54 + n) && decide (s.get (HNG_WD_CFG_clk (54 + n)) < 2))) ||
  ((List.range 128).any (fun f => fifoUsed s f && (fifoEndsBad s f || (within 48 79 f && !pmode s f)))) || pubBad s

/-! ## Lanes, KWR and SDRAM, classes 09h and 0Ah (R175, R201, R233) -/

/-- Class 09h: ETHERNET below rate code 10b, a lane of the group of an engine in use in another mode than KWR, a KWR lane
outside a bonded group, and FIFOs of an engine in use that are not its own or not in packet mode. -/
def lanesBad (s : State) : Bool :=
  let inGroup := fun l => decide (l % 4 < kwrWidth s (l / 4))
  let bonded := fun l => s.get (KWR_CFG_role (l / 4)) != 0 && inGroup l
  (List.range 24).any (fun l =>
    (laneMode s l == 3 && decide (s.get (LNE_CORD_CFG_rate (l / 4)) < 2)) ||
    (bonded l && laneMode s l != 2) || (laneMode s l == 2 && !inGroup l) ||
    (bonded l && l % 4 == 0 && (!pmode s (2 * l) || !pmode s (2 * l + 1))) ||
    (bonded l && l % 4 != 0 && (fifoUsed s (2 * l) || fifoUsed s (2 * l + 1))))

/-- A channel's configuration is none of Table 10.1: of the values that its fields can hold, only rate code 11b. -/
def dramCfgBad (s : State) (c : Nat) : Bool := s.flag (DRM_CFG_en c) && s.get (DRM_CFG_rate c) == 3

/-- Class 0Ah: also a FIFO or event hinge of a channel that is not enabled. -/
def dramBad (s : State) : Bool :=
  (List.range 2).any (fun c => dramCfgBad s c ||
    (!s.flag (DRM_CFG_en c) &&
      ((List.range 16).any (fun q => fifoUsed s (48 + 16 * c + q)) || (List.range 8).any (fun i => evUsed s (984 + 8 * c + i)))))

/-! ## Pins, class 0Bh (R287, R290, R299) -/

/-- Pin p of bank b is claimed by user clock k. -/
def clockPin (s : State) (b p : Nat) : Bool :=
  (List.range 8).any (fun k => s.flag (HNG_UCLK_en k) && s.get (HNG_UCLK_bank k) == b && s.get (HNG_UCLK_pin k) == p)

/-- Pin p of bank b is named by an active pin port, as strobe, ready, E or data pin. -/
def portClaims (s : State) (b p : Nat) : Bool :=
  (List.range 48).any (fun g => s.flag (PIN_PORT_en g) && s.get (PIN_PORT_bank g) == b &&
    (s.get (PIN_PORT_stb g) == p || (s.flag (PIN_PORT_rdy_use g) && s.get (PIN_PORT_rdy g) == p) ||
     (s.flag (PIN_PORT_e_use g) && s.get (PIN_PORT_epin g) == p) || (s.word (PIN_PMSK g)).getLsbD p))

/-- A pin's configuration that R287 or R290 refuses. -/
def pinBad (s : State) (b p : Nat) : Bool :=
  let w := cfgStaged s b p
  let fn := cfgFn w
  let arg := cfgArg w
  let vdecl := s.get (PIN_BANK_vdecl b)
  fn == 7 || (bitsOf w 30 2 == 3 && vdecl == 1) || (fn != 0 && (vdecl == 0 || clockPin s b p)) ||
  decide (5 ≤ bitsOf w 23 3) || decide (5 ≤ bitsOf w 20 3) || (clockPin s b p && portClaims s b p) ||
  (match fn with
   | 4 =>
     let g := arg % 256
     decide (48 ≤ g) || s.get (PIN_PORT_bank g) != b ||
       (s.get (HNG_FIFO_CFG_wkind (80 + g)) != 2 && s.get (HNG_FIFO_CFG_rkind (80 + g)) != 2)
   | 5 => decide (234 ≤ arg % 256) || !wdUsed s (54 + arg % 256) || portClaims s b p
   | 6 => decide (72 ≤ arg % 256) || !evUsed s (1080 + arg % 256) || portClaims s b p
   | _ => false)

/-- A tumbler that R299 or R301 refuses; the second of a chained pair has no mode of its own. -/
def tumblerBad (s : State) (t : Nat) : Bool :=
  !chainSecond s t &&
  (s.get (PIN_TMB_CFG_mode t) == 3 ||
   (s.get (PIN_TMB_CFG_mode t) == 1 && s.word (PIN_TMB_EMSK t) == 0 &&
     (!chained s t || s.word (PIN_TMB_EMSK (t + 1)) == 0)))

/-- Class 0Bh: also two pins that carry the same bit of one word hinge. -/
def pinsBad (s : State) : Bool :=
  (List.range 432).any (fun i => pinBad s (i / 36) (i % 36)) || (List.range 24).any (tumblerBad s) ||
  anyPair (fun a b => a == b) (((List.range 432).map (fun i => cfgStaged s (i / 36) (i % 36))).filterMap (fun w =>
    if cfgFn w = 5 then some (cfgArg w) else none))

/-! ## Sections, class 0Eh (Table 13.5) -/

/-- How often a section stands in a stream. -/
def sectCount (seen : List Section) (typ h slot : Nat) : Nat :=
  (seen.filter (fun x => x.typ == typ && x.hearth == h && (typ != 2 || x.slot == slot))).length

/-- The sections of hearth `h`: one 0001h, one 0003h, and a 0002h for the blocks whose init code the stream carries. -/
def hearthSectionsBad (s : State) (seen : List Section) (h : Nat) (codes : List Nat) : Bool :=
  sectCount seen 1 h 0 != 1 || sectCount seen 3 h 0 != 1 ||
  (List.range 96).any (fun b => sectCount seen 2 h b != b2n (codes.contains (slotConfig s h b 4 2)))

/-- Class 0Eh on the whole stream; `h` names the hearth of a hearth stream. -/
def sectionsBad (s : State) (r : Reader) : Bool :=
  let sum := (r.seen.map (fun x => 16 + x.len)).sum
  sum != hdrLen r.hdr || !r.plain.isEmpty || r.sect.isSome ||
  (match r.hearth with
   | some h => hearthSectionsBad s r.seen h.val [0] || r.seen.any (fun x => x.typ != 1 && x.typ != 2 && x.typ != 3)
   | none =>
     (List.range 36).any (fun h => hearthSectionsBad s r.seen h [0, 1]) ||
     (r.seen.filter (fun x => x.typ == 4)).length != 1 || (r.seen.filter (fun x => x.typ == 5)).length != 1)

/-! ## The whole-stream checks, in ascending class order (R318) -/

/-- The first failure of the whole-stream checks; `s` holds the registers that the stream would set. -/
def wholeCheck (s : State) (r : Reader) : Option W36 :=
  match r.hearth with
  | some h =>
    match (fanCheck s h.val).orElse (fun _ => (l4Check s).map (fun _ => wardWord 6 h.val 0 0 9)) with
    | some w => some w
    | none =>
      if hdrDesign r.hdr ≠ hdrDesign s.cfg.inForce ∨ hdrHearth r.hdr ≠ h.val then some (wardWord 0xD h.val 0 0 0)
      else if sectionsBad s r then some (wardWord 0xE h.val 0 0 0) else none
  | none =>
    match (List.range 36).findSome? (fanCheck s) with
    | some w => some w
    | none =>
      match l4Check s with
      | some w => some w
      | none =>
        if hingesBad s then some (wardDevice 8)
        else if lanesBad s then some (wardDevice 9)
        else if dramBad s then some (wardDevice 0xA)
        else if pinsBad s then some (wardDevice 0xB)
        else if sectionsBad s r then some (wardDevice 0xE)
        else none

end Sys2Proof.Machine
end

