-- ==== Sys2Proof/Machine/Reload.lean ====
section
/-! DEFINITION. Reload: hearth reloads from request to wake or failure (14 R355 to R357; 13 R330). -/
namespace Sys2Proof.Machine
open Sys2Proof

/-- SCB_HRL_LAST.cause (Table 14.13). -/
def reloadCode : ReloadCause → Nat
  | .scrubber => 0
  | .firmware => 1
  | .design => 2
  | .listFull => 3

/-- The scrubber asked for it (R356). -/
def byScrubber : ReloadCause → Bool
  | .scrubber | .listFull => true
  | .firmware | .design => false

/-- SCB_HRL_LAST takes a reload and its result; the duration runs from the request, in us. -/
def reloadLast (s : State) (rl : Reload) (result : Nat) : State :=
  s.setWord SCB_HRL_LAST (packWord [(30, rl.h.val), (28, reloadCode rl.cause), (26, result),
    (4, if result = 0 then 0 else min (2 ^ 22 - 1) ((s.timebase - rl.start).toNat / 3200))])

/-- Steps 1 and 2 of Table 14.4: the gates take over, the hearth drains, and SCB_ISO reads 0 for it. -/
def reloadAccept (s : State) (rl : Reload) : State :=
  let h := rl.h.val
  let s := isoStat (isolate (isoByDevice s (s.putBit SCB_ISO_iso h false)) h) h
  let s := { s with scb := { s.scb with
    reloads := s.scb.reloads ++ [rl], waiting := s.scb.waiting.filter (· != rl.h),
    written := s.scb.written.filter (· != rl.h) } }
  reloadLast s rl 0

/-- A reload request (R355): discarded while no configuration is in force (Table 13.12), merged with one for the same
hearth, held while a handover runs in the hearth (Table 14.5). -/
def reloadRequest (s : State) (h : Fin 36) (cause : ReloadCause) (retry : Bool) : State :=
  if s.get CFG_STAT_phase ≠ 4 ∨ s.fab.committed = false ∨ reloading s h.val = true then s
  else
    let rl : Reload := ⟨h, cause, retry, s.timebase⟩
    let s := s.putBit SCB_HRL_REQ_req h.val true
    if handoverIn s h.val then { s with scb := { s.scb with held := s.scb.held ++ [rl] } } else reloadAccept s rl

def execHearthReloadRequest (h : Fin 36) (cause : ReloadCause) (s : State) : Host.Outcome State Fault Refusal :=
  .next (reloadRequest s h cause false)

/-- The further reload that the MGC requests 100 ms after a failed one (R356). -/
def reloadRetry (s : State) (h : Fin 36) : State :=
  match s.scb.retryDue.find? (fun e => e.1 == h) with
  | some e =>
    reloadRequest { s with scb := { s.scb with retryDue := s.scb.retryDue.filter (fun e => e.1 != h) } } h e.2 true
  | none => s

def execHearthReloadRetry (h : Fin 36) (s : State) : Host.Outcome State Fault Refusal := .next (reloadRetry s h)

/-- The frames of hearth `h` are cleared, and the checkers of its rows see it (R58, R59). -/
def clearHearth (s : State) (h : Nat) : State :=
  checkRows s { s with fab := { s.fab with frames := tdrop (fun k => k / 25344 == h) s.fab.frames } } (hearthRows s h)

/-- The reload of hearth `h`, if one runs. -/
def reloadOf (s : State) (h : Fin 36) : Option Reload := s.scb.reloads.find? (fun r => r.h == h)

/-- A reload ends: it leaves the queue, and SCB_HRL_LAST takes its result. -/
def reloadEnd (s : State) (h : Fin 36) (result : Nat) : State :=
  let s := match reloadOf s h with
    | some rl => reloadLast s rl result
    | none => s
  { s with scb := { s.scb with reloads := s.scb.reloads.filter (fun r => r.h != h) } }

/-- A hearth stream has failed (R330, R356): 7103h, the hearth stays isolated with its frames cleared, and one further
reload follows if the scrubber asked for the first; otherwise the hearth is lost, 8103h. -/
def reloadFail (s : State) (h : Fin 36) (cause cls : Nat) : State :=
  let again := (reloadOf s h).elim false (fun rl => byScrubber rl.cause && !rl.retry)
  let why := (reloadOf s h).elim ReloadCause.firmware (·.cause)
  let s := { s with cfg := { s.cfg with reader := none } }
  let s := raise (s.bump CFG_CNT_hfail 1) 0x7103 (packWord [(30, h.val), (26, cause), (18, cls)])
  let s := reloadEnd (clearHearth s h.val) h 2
  let s := (s.putBit SCB_HRL_REQ_req h.val false).putBit FAB_URST_REQ_req h.val false
  let s := isoByDevice s (s.putBit SCB_ISO_iso h.val true)
  if again then { s with scb := { s.scb with retryDue := s.scb.retryDue ++ [(h, why)] } }
  else raise (s.putBit SCB_HRL_BAD_bad h.val true) 0x8103 (packWord [(30, h.val), (26, cause)])

/-- A hearth stream has passed (steps 5 and 6): its pending-list entries leave; the initial tokens are reinserted and
the hearth wakes alone, unless SCB_ISO has been written 1 meanwhile. -/
def reloadDone (s : State) (h : Fin 36) : State :=
  let s := { s with cfg := { s.cfg with reader := none }, scb := { s.scb with
    pendList := s.scb.pendList.filter (fun a => a.h != h) } }
  let s := if s.scb.pendList.length < 256 then { s with scb := { s.scb with fullRaised := false } } else s
  let s := s.put SCB_RATE_pend s.scb.pendList.length
  let s := reloadEnd (s.bump CFG_CNT_hreads 1) h 1
  let s := s.putBit SCB_HRL_BAD_bad h.val false
  if s.bit SCB_ISO_iso h.val then { s with scb := { s.scb with written := s.scb.written ++ [h] } }
  else isoStat (reinsert s h.val) h.val

/-- Every reload is abandoned (Table 14.5): a warm re-commit or a shutdown test. -/
def reloadsDrop (s : State) : State :=
  let s := match s.scb.reloads.getLast? with
    | some rl => reloadLast s rl 3
    | none => s
  let s := (s.put SCB_HRL_REQ_req 0).put FAB_URST_REQ_req 0
  { s with
    cfg := { s.cfg with reader := none }
    scb := { s.scb with reloads := [], held := [], waiting := [], written := [], retryDue := [] } }

/-- The user resets and reloads that waited for a handover in a hearth proceed once it is over (Tables 2.12, 14.5). -/
def afterHandover (s : State) : State :=
  let due := s.scb.waiting.filter (fun h => !handoverIn s h.val)
  let loads := s.scb.held.filter (fun r => !handoverIn s r.h.val)
  let s := { s with scb := { s.scb with
    waiting := s.scb.waiting.filter (fun h => handoverIn s h.val),
    held := s.scb.held.filter (fun r => handoverIn s r.h.val) } }
  let s := due.foldl (fun s h => if hearthSt s h.val = .awake then startUserReset s h.val else s) s
  loads.foldl reloadAccept s

end Sys2Proof.Machine
end

