-- ==== Sys2Proof/Machine/Load.lean ====
section
/-! DEFINITION. Load: images in flash, chunks, streams and sections, and the load up to its last check (13 R309 to
R331). -/
namespace Sys2Proof.Machine
open Sys2Proof

/-! ## Images and chunks (R309, R310) -/

/-- An octet of a flash: FFh where nothing has been programmed (DESIGN CHOICE, log entry 8). -/
def flashOctet (s : State) (b : Bool) (a : Nat) : Octet :=
  tget (fun _ => 0xFF) (if b then s.cfg.flashB else s.cfg.flashA) a

/-- Set an octet of a flash. -/
def setFlash (s : State) (b : Bool) (a : Nat) (v : Octet) : State :=
  if b then { s with cfg := { s.cfg with flashB := tput (fun _ => 0xFF) s.cfg.flashB a v } }
  else { s with cfg := { s.cfg with flashA := tput (fun _ => 0xFF) s.cfg.flashA a v } }

/-- The kindling base (R309): kind_base x 4 MiB, or half the density that SFDP reports. -/
def kindBase (s : State) : Nat :=
  if s.get CFG_KEY_kind_base = 0 then s.cfg.foundA.density / 2 else s.get CFG_KEY_kind_base * 2 ^ 22

/-- The base of an image in each flash. -/
def imageBase (s : State) (img : Bool) : Nat := if img then kindBase s else 0

/-- Octets of each flash that a chunk occupies. -/
def chunkSpan (dual : Bool) : Nat := if dual then 2048 else 4096

/-- Where octet `i` of the octets from image base lies: its flash and address (R310). -/
def spread (dual : Bool) (base i : Nat) : Bool × Nat :=
  if dual then (decide (2 ≤ i % 4), base + i / 4 * 2 + i % 2) else (false, base + i)

/-- Octet `i` of chunk `k`. -/
def chunkOctet (s : State) (img dual : Bool) (k i : Nat) : Octet :=
  let p := spread dual (imageBase s img) (4096 * k + i)
  flashOctet s p.1 p.2

/-- A chunk as the interface reads it: the flash's octets, with the read errors given. -/
def readChunk (s : State) (r : Reader) (errs : List (Fin 4096 × Octet)) : List Octet :=
  (List.range 4096).map (fun i =>
    (errs.filter (fun e => e.1.val == i)).foldl (fun o e => o ^^^ e.2) (chunkOctet s r.img r.dual r.chunk i))

/-- The chunk's CRC holds (R315). -/
def chunkCrcOk (l : List Octet) : Bool := (crc32 (l.take 4092)).toNat == leAt l 4092 4

/-- Chunk `k` of an image lies within the flash. -/
def chunkFits (s : State) (img dual : Bool) (k : Nat) : Bool :=
  decide (imageBase s img + (k + 1) * chunkSpan dual ≤ s.cfg.foundA.density)

/-! ## Failure (R325, R326) -/

/-- Set the stream reader. -/
def setReader (s : State) (r : Option Reader) : State := { s with cfg := { s.cfg with reader := r } }

/-- Configuration memory is cleared: frames, essential-bit maps. -/
def clearMemory (s : State) : State :=
  { s with fab := { s.fab with frames := [] }, scb := { s.scb with essential := [] } }

/-- Both images have failed: the device enters FAULT (R326). -/
def deviceFault (s : State) : State :=
  let s := clearMemory s
  let s := { s with cfg := { s.cfg with load := none, reader := none, done := false, faultLow := true } }
  let s := (s.put CFG_STAT_phase 5).put CFG_CTL_recommit 0
  let s := setPhase s .fault
  raise s 0x7102 (packWord [(32, s.get CFG_STAT_main_cause), (28, s.get CFG_STAT_kind_cause),
    (20, s.cfg.mainClass), (12, s.cfg.kindClass)])

/-- An image fails with a cause at a chunk: the other image is tried once, or the device enters FAULT. -/
def imageFail (s : State) (img : Bool) (cause chunk : Nat) : State :=
  let cls := if cause = 6 then wardClass (s.word CFG_WARD_LOC) else 0
  let s := s.put (if img then CFG_STAT_kind_cause else CFG_STAT_main_cause) cause
  let s := s.setWord CFG_FAULT_LOC (packWord [(35, b2n img), (31, cause), (8, chunk)])
  let s := setReader s none
  let s := if img then { s with cfg := { s.cfg with kindClass := cls } } else { s with cfg := { s.cfg with mainClass := cls } }
  match s.cfg.load with
  | none => s
  | some ld =>
    if ld.fallback then deviceFault s
    else
      let s := { s with cfg := { s.cfg with load := some { ld with fallback := true, clearing := true, img := !img } } }
      raise s 0x7101 (packWord [(35, b2n img), (31, cause), (8, chunk), (0, cls)])

/-- The chunk number at a failure: the last chunk once the whole stream has been read (Table 13.13). -/
def failChunk (r : Reader) : Nat := if r.complete then r.chunk - 1 else r.chunk

/-- The stream that is being read fails. -/
def readFail (s : State) (r : Reader) (cause : Nat) : State :=
  match r.hearth with
  | none => imageFail s r.img cause (failChunk r)
  | some h =>
    let cls := if cause = 6 then wardClass (s.word CFG_WARD_LOC) else 0
    reloadFail (s.setWord CFG_FAULT_LOC (packWord [(35, b2n r.img), (31, cause), (8, failChunk r)])) h cause cls

/-- A ward failure: CFG_WARD_LOC takes it and the stream fails with cause 6. -/
def wardFail (s : State) (r : Reader) (w : W36) : State := readFail (s.setWord CFG_WARD_LOC w) r 6

/-! ## Discovery (R312, R313) -/

/-- A load begins with discovery of the first image. -/
def loadStart (s : State) (firmware img : Bool) : State :=
  let s := { s with cfg := { s.cfg with load := some ⟨firmware, false, img, false, s.timebase⟩, reader := none, done := false } }
  s.put CFG_STAT_phase 1

/-- A reader at chunk `first` of an image. -/
def newReader (hearth : Option (Fin 36)) (img dual : Bool) (first : Nat) (count : Option Nat) : Reader :=
  { hearth := hearth, img := img, dual := dual, tries := 0, first := first, chunk := first, count := count, hdr := [],
    ctr := 2, hash := 0, rest := [], body := 0, tag := [], plain := [], sect := none, seen := [], pairs := [],
    belt := [], failure := none, early := false, complete := false }

/-- Both flashes report one density and one way to be read (R311). -/
def flashesAgree (a b : FlashInfo) : Bool :=
  a.density == b.density && a.octal == b.octal && (!a.octal || a.params == b.params)

/-- Discovery ends (R312): flash A must answer, a flash B that answers puts the load in dual mode; a flash without the
tables of 8D-8D-8D is read in 1S-1S-1S mode, 7104h. -/
def discoveryDone (s : State) (a b : FlashInfo) : State :=
  match s.cfg.load with
  | none => s
  | some ld =>
    if s.get CFG_STAT_phase ≠ 1 ∨ ld.clearing = true ∨ s.cfg.reader.isSome = true then s
    else
      let s := { s with cfg := { s.cfg with foundA := a, foundB := b } }
      if a.present = false ∨ (b.present = true ∧ flashesAgree a b = false) then imageFail s ld.img 1 0
      else
        let slow := fun (s : State) (which : Bool) => raise s 0x7104 (packWord [(35, b2n which), (34, b2n ld.img)])
        let s := if a.octal then s else slow s false
        let s := if b.present && !b.octal then slow s true else s
        let s := (s.put CFG_STAT_dual (b2n b.present)).put CFG_STAT_clk (if a.octal then 2 else 3)
        let s := s.put CFG_STAT_phase 2
        let s := if s.pwr.phase = .discovery then setPhase s .loading else s
        setReader s (some (newReader none ld.img b.present 0 none))

def execDiscoveryDone (a b : FlashInfo) (s : State) : Host.Outcome State Fault Refusal := .next (discoveryDone s a b)

/-- Configuration memory is clear after a failed image; discovery of the other image begins (R325). -/
def clearDone (s : State) : State :=
  match s.cfg.load with
  | some ld =>
    if ld.clearing then
      let s := { clearMemory s with cfg := { s.cfg with load := some { ld with clearing := false } } }
      s.put CFG_STAT_phase 1
    else s
  | none => s

def execConfigClearDone (s : State) : Host.Outcome State Fault Refusal := .next (clearDone s)

/-! ## Sections (R316) -/

/-- The octets of one record of a section: a frame, two rows of a block, two map entries, or a periphery pair. -/
def recordSize (typ : Nat) : Nat :=
  match typ with
  | 1 => 162
  | 2 => 9
  | 3 => 9
  | 5 => 8
  | _ => 0

/-- A section head against Table 13.5. -/
def headOk (r : Reader) (x : Section) (spare : Nat) : Bool :=
  spare == 0 &&
  (match x.typ with
   | 1 => x.len == 3981312 && decide (x.hearth < 36)
   | 2 => x.len == 4608 && decide (x.hearth < 36) && decide (x.slot < 96)
   | 3 => x.len == 110592 && decide (x.hearth < 36)
   | 4 => decide (x.len ≤ 65536) && r.hearth.isNone
   | 5 => x.len % 8 == 0 && r.hearth.isNone
   | _ => false) &&
  (match r.hearth with
   | some h => x.hearth == h.val
   | none => !r.seen.isEmpty || x.typ == 5)

/-- Note a failure, if it is the first. -/
def noteFail (r : Reader) (w : Option W36) : Reader := { r with failure := r.failure <|> w }

/-- Take a section head off the deciphered octets. -/
def takeHead16 (r : Reader) : Reader :=
  let x : Section := ⟨leAt r.plain 0 2, leAt r.plain 2 1, leAt r.plain 3 1, leAt r.plain 4 4⟩
  let ok := headOk r x (leAt r.plain 8 8)
  let r := noteFail r (if ok then none else some (wardWord 0xE (if x.hearth < 36 then x.hearth else 63) 0 0 0))
  { r with plain := r.plain.drop 16, seen := r.seen ++ [x], sect := if x.len = 0 then none else some (x, x.len) }

/-- Frame `n` of a hearth in stream order is written with its check bits and checked (R316, R319); in a hearth reload the
checkers of its rows see it (R58, R59). -/
def takeFrame (s : State) (r : Reader) (h n : Nat) (l : List Octet) : State × Reader :=
  let c := n / 384
  let t := n / 12 % 32
  let f := n % 12
  let col := if f ≤ 8 then wardCol s h c else c
  let s := writeFrame s ⟨Fin.ofNat _ h, Fin.ofNat _ col, Fin.ofNat _ t, Fin.ofNat _ f⟩ (encodeFrame (leNat l))
  (s, noteFail r (frameCheckAt s h c t f))

/-- Two rows of a store block, 36 bits each, in the physical block that serves the slot. -/
def takeRows (s : State) (h b n : Nat) (l : List Octet) : State :=
  let v := leNat l
  let pb := (blockOf s h b).2
  setRow (setRow s h pb (2 * n) (BitVec.ofNat 36 v)) h pb (2 * n + 1) (BitVec.ofNat 36 (v >>> 36))

/-- Two entries of the essential-bit map, in frame order. -/
def takeMap (s : State) (h n : Nat) (l : List Octet) : State :=
  let v := leNat l
  let key := fun (m : Nat) => frameKey h (m / 384) (m / 12 % 32) (m % 12)
  let put := fun (e : Tbl W36) (m : Nat) (w : Nat) => tput (fun _ => 0) e (key m) (BitVec.ofNat 36 w)
  { s with scb := { s.scb with essential := put (put s.scb.essential (2 * n) v) (2 * n + 1) (v >>> 36) } }

/-- A periphery pair against class 0Ch: a Stream field or SCB_ISO_IDX, in range, an SCB_ISO_VAL after its index. -/
def pairOk (r : Reader) (a v : Nat) : Bool :=
  let w := BitVec.ofNat 36 v
  decide (v < 2 ^ 36) && (a == SCB_ISO_IDX || !(streamFields a).isEmpty) && streamOk a w &&
  (a != SCB_ISO_VAL ||
    (match r.pairs.getLast? with
     | some p => p.1.toNat == SCB_ISO_IDX && isoNamed p.2 && isoSetting p.2 (bitsOf w 34 2)
     | none => false))

/-- Take a periphery pair. -/
def takePair (r : Reader) (l : List Octet) : Reader :=
  let a := leAt l 0 3
  let v := leAt l 3 5
  let r := noteFail r (if pairOk r a v then none else some (wardDevice 0xC))
  { r with pairs := r.pairs ++ [(BitVec.ofNat 24 a, BitVec.ofNat 36 v)] }

/-- One record of the section in hand. -/
def takeRecord (s : State) (r : Reader) (x : Section) (off : Nat) (l : List Octet) : State × Reader :=
  match x.typ with
  | 1 => takeFrame s r x.hearth (off / 162) l
  | 2 => (takeRows s x.hearth x.slot (off / 9) l, r)
  | 3 => (takeMap s x.hearth (off / 9) l, r)
  | 5 => (s, takePair r l)
  | _ => (s, r)

/-! ## SDRAM fields that take effect early (R322) -/

/-- The registers of a channel's early fields. -/
def earlyRegs (c : Nat) : List Nat :=
  DRM_CFG c :: ((List.range 4).map (fun r => DRM_TIMA c r) ++ (List.range 4).map (fun r => DRM_TIMB c r))

/-- The registers with the stream's pairs for some addresses. -/
def withPairs (s : State) (pairs : List (Addr × W36)) (only : Nat → Bool) : State :=
  pairs.foldl (fun s p => if only p.1.toNat then setStream s p.1.toNat p.2 else s) s

/-- The channel returns to OFF; its content stays only where its values do. -/
def dramOff (s : State) (c : Nat) (keep : Bool) : State :=
  let x := dramOf s c
  let s := setDram s c { Dram.init with
    sets := x.sets, mem := (if keep then x.mem else []), swept := x.swept, iface := x.iface, die := x.die }
  let s := (s.put (DRM_TRN_STAT_phase c) 0).put (DRM_TRN_STAT_step c) 0
  updateSeals (dramLevels (if dramState s c = 0 then s else setDramState s c 0) c)

/-- A channel's early fields are checked, and applied if they pass: the channel keeps its state where the values are
unchanged, and otherwise starts its start-up sweep from OFF. -/
def earlyChannel (s : State) (r : Reader) (c : Nat) : State × Reader :=
  let t := withPairs s r.pairs (fun a => (earlyRegs c).contains a)
  let same := (earlyRegs c).all (fun a => t.word a == s.word a)
  if dramCfgBad t c then
    (if dramState s c = 0 then s else dramOff s c false, noteFail r (some (wardDevice 0xA)))
  else if t.flag (DRM_CFG_en c) = false then (if dramState s c = 0 then t else dramOff t c false, r)
  else if same ∧ dramState s c ≠ 0 ∧ dramState s c ≠ 5 then (s, r)
  else (dramStart (dramOff t c same) c, r)

/-- Both channels, once the periphery section of a full-device stream is complete. -/
def earlyFields (s : State) (r : Reader) : State × Reader :=
  if r.early ∨ r.hearth.isSome then (s, r)
  else
    let a := earlyChannel s { r with early := true } 0
    earlyChannel a.1 a.2 1

/-! ## The stream's octets (R314, R319) -/

/-- Work through the deciphered octets; the first argument bounds the records. -/
def takeSections : Nat → State → Reader → State × Reader
  | 0, s, r => (s, r)
  | n + 1, s, r =>
    match r.sect with
    | none => if r.plain.length < 16 then (s, r) else takeSections n s (takeHead16 r)
    | some (x, left) =>
      let k := recordSize x.typ
      let size := if k = 0 ∨ left < k then min left r.plain.length else k
      if size = 0 ∨ r.plain.length < size then (s, r)
      else
        let l := r.plain.take size
        let e := if k ≠ 0 ∧ size = k ∧ headOk { r with seen := [x] } x 0 then takeRecord s r x (x.len - left) l
          else (s, if x.typ = 4 then { r with belt := r.belt ++ l } else r)
        let r := { e.2 with plain := e.2.plain.drop size, sect := if left = size then none else some (x, left - size) }
        if left = size ∧ x.typ = 5 then
          let e := earlyFields e.1 r
          takeSections n e.1 e.2
        else takeSections n e.1 r

/-- Stream octets after the header: body octets are hashed and deciphered, then the tag's are kept. -/
def feedStream (s : State) (r : Reader) (l : List Octet) : Reader :=
  let need := hdrLen r.hdr - r.body
  let b := r.rest ++ l.take need
  let k := if need ≤ l.length then b.length else b.length / 16 * 16
  let now := b.take k
  let r := { r with
    ctr := r.ctr + (k + 15) / 16
    hash := ghash (hashKey s.cfg.key) (k / 16 + 1) r.hash now
    rest := b.drop k
    body := r.body + min need l.length
    tag := r.tag ++ (l.drop need).take (16 - r.tag.length)
    plain := r.plain ++ decipher s.cfg.key (hdrIv r.hdr) (k / 16 + 1) r.ctr now }
  { r with complete := decide (r.body = hdrLen r.hdr ∧ r.tag.length = 16) }

/-- The key that a full load needs is the battery-backed one and is not valid (R334). -/
def keyMissing (s : State) : Bool := keyPolicy s == 1 && !s.flag CFG_KEY_bb_valid

/-- The engine latches the key that the policy selects (R333). -/
def keyLatch (s : State) : State :=
  let bb := keyPolicy s == 1
  { s.put CFG_KEY_in_use (b2n bb) with cfg := { s.cfg with key := if bb then s.cfg.bbKey else s.cfg.efuse } }

/-- Chunk 0 of a full-device stream has passed: header classes, the mode against the dual flag, and the key
(R313, R318, R333, R334). The cause, 0 when all is well. -/
def headerCause (s : State) (r : Reader) (hdr : List Octet) : State × Nat :=
  let cls := headerClass s hdr false
  if cls ≠ 0 then (s.setWord CFG_WARD_LOC (wardDevice cls), 6)
  else if bitN (hdrFlags hdr) 0 != r.dual then (s, 1)
  else if keyMissing s then
    (raise s 0x7105 (packWord [(35, b2n s.cfg.vbatLow), (34, b2n (!s.cfg.bbIntact))]), 4)
  else
    let s := keyLatch s
    (if s.get CFG_STAT_clk = 3 then s else s.put CFG_STAT_clk (hdrClk hdr), 0)

/-- The header of a hearth stream: classes 01h to 04h, against the key latched at the last full load. -/
def hearthHeader (s : State) (h : Fin 36) (hdr : List Octet) : State × Nat :=
  let cls := if !hdrShape hdr true then 1 else if hdrDevice hdr ≠ 0x0A243602 then 2
    else if hdrVersion hdr < s.get CFG_KEY_min_ver then 3
    else if hdrKeySel hdr ≠ s.get CFG_KEY_in_use then 4 else 0
  if cls ≠ 0 then (s.setWord CFG_WARD_LOC (wardWord cls h.val 0 0 0), 6) else (s, 0)

/-- A chunk has passed: its stream octets are taken, and the next chunk follows, or the checks after the last one. -/
def chunkTaken (s : State) (r : Reader) (l : List Octet) : State :=
  let starts := r.chunk = r.first
  let hdr := if starts then l.take 512 else r.hdr
  let e := if starts then
      (match r.hearth with
       | none => headerCause s r hdr
       | some h => hearthHeader s h hdr)
    else (s, 0)
  if e.2 ≠ 0 then readFail e.1 r e.2
  else
    let s := e.1
    let r := if starts then { r with hdr := hdr, hash := ghash (hashKey s.cfg.key) 32 0 hdr } else r
    let r := feedStream s { r with tries := 0, chunk := r.chunk + 1 } ((l.take 4088).drop (if starts then 512 else 0))
    let e := takeSections (r.plain.length + 2) s r
    let s := e.1
    let r := e.2
    if r.complete then
      let s := setReader s (some r)
      if r.hearth.isNone then s.put CFG_STAT_phase 3 else s
    else if chunkFits s r.img r.dual r.chunk = false ∨ r.count = some (r.chunk - r.first) then readFail s r 7
    else setReader s (some r)

/-- A chunk has failed its CRC or its number: it is read once more; then the image fails, chunk 0 of a dual-mode load
after one more read in single mode (R313, R324). -/
def chunkFailed (s : State) (r : Reader) (crcBad : Bool) : State :=
  if r.tries = 0 then setReader (s.bump CFG_CNT_retry 1) (some { r with tries := 1 })
  else if r.tries = 2 then readFail s r 2
  else if r.hearth.isNone ∧ r.chunk = r.first ∧ crcBad = true then
    (if r.dual then setReader (s.put CFG_STAT_dual 0) (some { r with tries := 2, dual := false }) else readFail s r 1)
  else readFail s r (if crcBad then 2 else 3)

/-- A chunk read completes (R324). -/
def chunkRead (s : State) (errs : List (Fin 4096 × Octet)) : State :=
  match s.cfg.reader with
  | none => s
  | some r =>
    if r.complete then s
    else
      let l := readChunk s r errs
      if !chunkCrcOk l then chunkFailed s r true
      else if leAt l 4088 4 ≠ r.chunk then chunkFailed s r false
      else chunkTaken s r l

/-! ## Hearth streams (R330, R331) -/

/-- The engine begins the next hearth stream, in request order, through the directory of the stream in force. -/
def hearthStreamRead (s : State) : State :=
  match s.scb.reloads with
  | [] => s
  | rl :: _ =>
    if s.get CFG_STAT_phase ≠ 4 ∨ s.cfg.reader.isSome = true ∨ s.cfg.flashJob.isSome = true then s
    else
      let h := rl.h.val
      let img := s.flag CFG_STAT_img
      let first := dirFirst s.cfg.inForce h
      let n := dirCount s.cfg.inForce h
      let r := newReader (some rl.h) img s.cfg.inForceDual first (some n)
      if s.get CFG_STAT_hsrc_ok ≠ 1 then readFail s r 1
      else if n = 0 ∨ chunkFits s img s.cfg.inForceDual (first + n - 1) = false then readFail s r 7
      else setReader s (some r)

def execHearthStreamRead (s : State) : Host.Outcome State Fault Refusal := .next (hearthStreamRead s)

/-- The computed tag equals the stream's (R323). -/
def tagOk (s : State) (r : Reader) : Bool :=
  gcmTag s.cfg.key (hdrIv r.hdr) r.hash 512 (hdrLen r.hdr) == r.tag

/-- The tag and the ward checks of a hearth stream. -/
def hearthCheckDone (s : State) : State :=
  match s.cfg.reader with
  | none => s
  | some r =>
    match r.hearth with
    | none => s
    | some h =>
      if r.complete = false then s
      else if tagOk s r = false then readFail s r 5
      else match r.failure <|> wholeCheck s r with
        | some w => wardFail s r w
        | none => reloadDone s h

end Sys2Proof.Machine
end

