-- ==== Sys2Proof/Machine/Commit.lean ====
section
/-! DEFINITION. Commit: the one moment at which a configuration takes effect, and the stop of the design that a warm
re-commit, a shutdown test or a cold reset begins with (02 R40; 13 R321, R327; 14 R371; 16 R420). -/
namespace Sys2Proof.Machine
open Sys2Proof

/-! ## Stopping -/

/-- The slice in progress is INCOMPLETE (Table 14.11): a slot in HANDOVER keeps its physical unit. -/
def sliceAbandon (s : State) : State :=
  match s.scb.handover with
  | .idle => s
  | .colWait h c | .colScan h c =>
    let e := steerOf s h.val c.val
    let t := tput steerDefault s.fab.steer (66 * h.val + c.val) (0, e.2)
    columnResume (portsReleased s (sliceEnd { s with fab := { s.fab with steer := t } } 2)) h.val c.val
  | .blockWait h b | .blockCopy h b => blockAbandon s h.val b.val
  | .colCopy _ _ | .colTest _ _ | .blockTest _ _ | .fifoTest _ => sliceEnd s 2
  | .laneTest l => pllUpdate (sliceEnd s 2) (l.val / 4)

/-- The fabric is drained and inert: no token, no channel, no crossbar gate (R60, R319). -/
def dropFabric (s : State) : State :=
  let s := removeShown s (fun _ => true)
  let s := { s with
    fab := { s.fab with
      committed := false, rails := [], join := [], acks := [], stage := [], stalled := [], muxStalled := [], keepers := [],
      holds := [], hearths := [] }
    store := { s.store with ports := [] } }
  updateSeals s

/-- A lane goes OFF with its link and its aligner. -/
def laneOff (s : State) (l : Nat) : State :=
  let s := ((linkOff s l).put (LNE_STAT_align l) 0).put (LNE_CTL_mode l) 0
  pllUpdate s (l / 4)

/-- Lanes, KWR engines, user clocks and probes stop. -/
def stopLinks (s : State) : State :=
  let s := (List.range 6).foldl (fun s k => kwrOff (s.put (KWR_CFG_role k) 0) k 3) s
  let s := (List.range 24).foldl laneOff s
  (List.range 8).foldl (fun s k => s.put (HNG_UCLK_present k) 0) s

/-- The scrubber and the test engine stop; a slice in progress is INCOMPLETE (R371, R420). -/
def stopScrub (s : State) : State :=
  let s := sliceAbandon s
  let s := { s with scb := { s.scb with passDue := false } }
  if s.scb.dead then s else s.put SCB_STAT_state 2

/-- The design stops: every hinge seals, the fabric is inert, every bank is HOT-SOCKET, CFG_DONE is low, the lanes are
OFF, reloads and user resets are abandoned, and the governor's levels are 0 (R327, R371, Table 16.3). -/
def stopDesign (s : State) : State :=
  let s := reloadsDrop (stopScrub s)
  let s := { s with pwr := { s.pwr with wakeSlot := none } }
  let s := dropFabric (pinsHot (probesOff s))
  let s := zeroLevels (stopLinks s)
  { s with cfg := { s.cfg with done := false } }

/-- Every hasp closes (R393). -/
def closeHasps (s : State) : State :=
  (s.put MGC_STAT_xhasp 0).put MGC_STAT_chasp 0

/-- A warm re-commit (R327, R328): requested in RUN or in FAULT, refused while a load runs. A flash command that the hearth
read it abandons held is refused (Table 13.12). -/
def warmRecommit (s : State) : State :=
  if s.cfg.load.isSome then s
  else match s.pwr.phase with
    | .run | .fault | .shutdown =>
      let s := { s.put CFG_CTL_recommit 1 with pwr := { s.pwr with phase := .loading } }
      let s := closeHasps (stopDesign s)
      let s := { s with scb := { s.scb with pendList := [], fullRaised := false } }
      let s := if s.cfg.flashHeld.isSome then
          { s.put CFG_FL_CMD_status 4 with cfg := { s.cfg with flashHeld := none } }
        else s
      loadStart (s.put SCB_RATE_pend 0) true (s.flag CFG_CTL_next)
    | _ => s

def execWarmRecommit (s : State) : Host.Outcome State Fault Refusal := .next (warmRecommit s)

/-! ## Commit -/

/-- Every hinge opens next for the first time, and the count of re-seats is 0 (Table 6.15, R146). -/
def hingesFirst (s : State) : State :=
  allHinges.foldl (fun s g => setSeal s g { sealOf s g with first := true }) (s.put HNG_SEAL_CNT_cnt 0)

/-- Every channel is in phase 0, every token stage is empty, and every initial-token stage receives its init_val; the
hearths wait for their slots, but for those that are isolated (R40, R424). -/
def commitFabric (s : State) : State :=
  let s := dropFabric s
  let s := { s with fab := { s.fab with committed := true } }
  (List.range 36).foldl (fun s h =>
    insertTokens (isoStat (setHearth s h (if s.bit SCB_ISO_iso h then .isolated else .waiting)) h) h) s

/-- What a commit and the commit that ends BANKED share: fabric, hinges, pace, governor, pins, and the staggered wake
that begins. The governor's measurements start afresh, and with them an over-budget episode ends, which R91 does not say
(DESIGN CHOICE, log entry 69); FAB_STEER_CHG.cnt counts from here (R72), and the patrol walk starts at its beginning. -/
def commitCore (s : State) : State :=
  let s := hingesFirst (commitFabric (s.put FAB_URST_REQ_req 0))
  let s := s.setPace { s.pace with
    windows := [], bad := [], reported := [], woken := [], silent := [], pdyn := [], counts := [], capped := false,
    calm := 0 }
  let s := (List.range 36).foldl (fun s h => s.put (FAB_PACE_status h) 0) s
  let s := pinsCommit (governorWarm (s.put FAB_STEER_CHG_cnt 0))
  let s := patrolRestart (patrolRestart s 0) 1
  { s with pwr := { s.pwr with wakeSlot := some 0 } }

/-- The SCB_ISO_VAL entries that the stream's pairs set; all others take 00b (R316). -/
def isoFromPairs (pairs : List (Addr × W36)) : Tbl Nat :=
  (pairs.foldl (fun (e : W36 × Tbl Nat) p =>
    if p.1.toNat = SCB_ISO_IDX then (p.2, e.2)
    else if p.1.toNat = SCB_ISO_VAL then (e.1, tput (fun _ => 0) e.2 (isoWordKey e.1) (bitsOf p.2 34 2))
    else e) (0, [])).2

/-- The registers as a stream sets them: its periphery pairs and its belt section. -/
def streamState (s : State) (r : Reader) : State :=
  withPairs (withPairs s (Config.beltPairs r.belt) (fun a => a / 0x80000 == 4)) r.pairs
    (fun a => a != SCB_ISO_VAL && a != SCB_ISO_IDX)

/-- Store blocks with init 10b hold 0 after commit (Table 5.4). -/
def clearBlocks (s : State) : State :=
  let gone := fun (key : Nat) => (List.range 96).any (fun b =>
    (blockOf s (key / 104448) b).2 == key / 1024 % 102 && slotConfig s (key / 104448) b 4 2 == 2)
  { s with store := { s.store with content := tdrop gone s.store.content } }

/-- Hearths that had lost their configuration return with the commit (R356). -/
def clearBad (s : State) : State :=
  let s := isoByDevice s ((List.range 36).foldl (fun s h =>
    if s.bit SCB_HRL_BAD_bad h || s.scb.retryDue.any (fun e => e.1.val == h) then s.putBit SCB_ISO_iso h false else s) s)
  { s.put SCB_HRL_BAD_bad 0 with scb := { s.scb with retryDue := [], reloads := [], written := [] } }

/-- The chunks that an image occupies: its full-device stream and the hearth streams of its directory. -/
def imageChunks (r : Reader) : Nat :=
  (List.range 36).foldl (fun n h => max n (dirFirst r.hdr h + dirCount r.hdr h)) r.chunk

/-- The CFG block after a commit of the stream that `r` has read (R321, R331, Table 13.13). -/
def commitCfg (s : State) (r : Reader) : State :=
  let start := s.cfg.load.elim s.timebase (·.start)
  let s := (((s.put CFG_STAT_phase 4).put CFG_STAT_img (b2n r.img)).put CFG_STAT_hsrc_ok 1).put
    (if r.img then CFG_STAT_kind_cause else CFG_STAT_main_cause) 0
  let s := ((s.put CFG_IMG_design_id (hdrDesign r.hdr)).put CFG_VER_version (hdrVersion r.hdr)).bump CFG_CNT_loads 1
  let s := (s.put CFG_LTIME_ltime (min (2 ^ 24 - 1) ((s.timebase - start).toNat / 3200))).put CFG_CTL_recommit 0
  { s with cfg := { s.cfg with
    pinPairs := r.pairs.filter (fun p => p.1.toNat / 0x80000 == 10)
    everCommitted := true, load := none, reader := none, inForce := r.hdr, chunks := imageChunks r,
    inForceDual := r.dual, done := true, faultLow := false } }

/-- Commanded objects take the stream values (R395): KWR roles and SDRAM rates, at pairs 25 to 32. -/
def commandFromStream (s : State) : State :=
  let s := (List.range 6).foldl (fun s k => setCommanded s (25 + k) (s.get (KWR_CFG_role k))) s
  (List.range 2).foldl (fun s c => setCommanded s (31 + c) (s.get (DRM_CFG_rate c))) s

/-- From RUN the lanes not commanded BANKED leave it and train from presets in the stream's modes, and the engines start
in the stream's roles (Table 1.4 step 9, Table 16.3). -/
def startLinks (s : State) : State :=
  let s := (List.range 6).foldl presetCord s
  let s := (List.range 24).foldl (fun s l =>
    let s := if s.get (LNE_STAT_pwr_act l) = 2 ∧ s.get (LNE_CTL_pwr_state l) ≠ 2 then s.put (LNE_STAT_pwr_act l) 0 else s
    laneKick (updateSeals (pllUpdate s (l / 4))) l) s
  (List.range 6).foldl (fun s k => kwrRole s k (s.get (KWR_CFG_role k))) s

/-- Commit (R40, R321): every configuration bit, row, pin function and initial token takes effect at one moment. -/
def commit (s : State) (r : Reader) : State :=
  let s := streamState s r
  let s := { s with scb := { s.scb with isoVal := isoFromPairs r.pairs, pendList := [], fullRaised := false } }
  let s := (s.setWord SCB_ISO_IDX 0).put SCB_RATE_pend 0
  let s := commitCfg (clearBlocks (clearBad s)) r
  let s := commitCore (streamPins s)
  commandFromStream (setPhase s .waking)

/-- The whole-stream checks and the tag compare end (R323): a mismatch of the tag fails the image with cause 5 whatever
the ward check found, a ward failure with cause 6; a stream with neither commits. -/
def wardCheckDone (s : State) : State :=
  match s.cfg.reader with
  | none => s
  | some r =>
    if r.complete = false ∨ r.hearth.isSome = true then s
    else if tagOk s r = false then readFail s r 5
    else match r.failure <|> wholeCheck (streamState s r) r with
      | some w => wardFail s r w
      | none => commit s r

def execWardCheckDone (s : State) : Host.Outcome State Fault Refusal := .next (wardCheckDone s)

end Sys2Proof.Machine
end

