-- ==== Sys2Proof/Machine/Keys.lean ====
section
/-! DEFINITION. Keys: the keyring, readback, and the flash service of the MGC (13 R331 to R338). -/
namespace Sys2Proof.Machine
open Sys2Proof

/-- The expert hasp of a transport is open (MGC_STAT.xhasp: bit 27 CAN FD, 26 SPI, 25 KWR). -/
def haspOpen (s : State) (t : Transport) : Bool := s.bit MGC_STAT_xhasp (2 - t.idx)

/-! ## The keyring (R332 to R335) -/

/-- CFG_KCV follows both keys, and bb_valid the battery-backed key (R334). -/
def keyStatus (s : State) : State :=
  let valid := s.cfg.bbIntact && !s.cfg.vbatLow
  let s := (s.put CFG_KEY_bb_valid (b2n valid)).put CFG_KCV_kcv_e (kcvOf s.cfg.efuse).toNat
  s.put CFG_KCV_kcv_b (if valid then (kcvOf s.cfg.bbKey).toNat else 0)

/-- The staged key and the expected KCV are cleared: after every command, at a restart of the MGC and at any change of
power state. -/
def clearStaged (s : State) : State := { s with cfg := { s.cfg with staged := none, expected := none } }

/-- A key is staged through 2710h:01. -/
def keyStage (s : State) (t : Transport) (k : BitVec 256) : State :=
  if haspOpen s t && s.mgcFull then { s with cfg := { s.cfg with staged := some k } } else s

def execKeyStage (t : Transport) (key : BitVec 256) (s : State) : Host.Outcome State Fault Refusal :=
  .next (keyStage s t key)

/-- The expected KCV is written through 2710h:02. -/
def keyExpect (s : State) (t : Transport) (v : BitVec 18) : State :=
  if haspOpen s t && s.mgcFull then { s with cfg := { s.cfg with expected := some v } } else s

def execKeyExpectedKcv (t : Transport) (kcv : BitVec 18) (s : State) : Host.Outcome State Fault Refusal :=
  .next (keyExpect s t kcv)

/-- The conditions of Table 13.10; `inRange` tells whether VAUX and the junction are in range, `vbat` whether VBAT is
present. -/
def keyCondition (s : State) (cmd : Nat) (inRange vbat : Bool) : Bool :=
  match cmd with
  | 2 => vbat
  | 3 => true
  | 7 => !s.flag CFG_KEY_key_lock && inRange && decide (s.get CFG_KEY_min_ver < 64)
  | 8 => !s.flag CFG_KEY_key_lock && inRange && s.get CFG_KEY_kind_base == 0
  | _ => !s.flag CFG_KEY_key_lock && inRange && decide (1 ≤ cmd ∧ cmd ≤ 6)

/-- A command is written to 2710h:03 (R335): a key command needs a staged key whose KCV is the one expected. -/
def keyCommand (s : State) (t : Transport) (cmd : Nat) (inRange vbat : Bool) (arg : BitVec 8) : State :=
  if haspOpen s t = false ∨ s.mgcFull = false ∨ s.cfg.keyJob.isSome = true then s
  else
    let matched := (s.cfg.staged.map kcvOf).isSome && s.cfg.staged.map kcvOf == s.cfg.expected
    let go : KeyJob := ⟨cmd, arg, s.cfg.staged.getD 0⟩
    let s1 := clearStaged s
    if (cmd = 1 ∨ cmd = 2) ∧ matched = false then { s1 with cfg := { s1.cfg with keyStatus := 4 } }
    else if keyCondition s cmd inRange vbat = false then { s1 with cfg := { s1.cfg with keyStatus := 3 } }
    else { s1 with cfg := { s1.cfg with keyStatus := 1, keyJob := some go } }

def execKeyringProgramEfuse (t : Transport) (inRange : Bool) (s : State) : Host.Outcome State Fault Refusal :=
  .next (keyCommand s t 1 inRange true 0)

def execKeyringWriteBbram (t : Transport) (vbat : Bool) (s : State) : Host.Outcome State Fault Refusal :=
  .next (keyCommand s t 2 true vbat 0)

def execKeyringZeroize (t : Transport) (s : State) : Host.Outcome State Fault Refusal :=
  .next (keyCommand s t 3 true true 0)

def execKeyringBlowKeySrc (t : Transport) (inRange : Bool) (s : State) : Host.Outcome State Fault Refusal :=
  .next (keyCommand s t 4 inRange true 0)

def execKeyringBlowBbramOff (t : Transport) (inRange : Bool) (s : State) : Host.Outcome State Fault Refusal :=
  .next (keyCommand s t 5 inRange true 0)

def execKeyringBlowRbOff (t : Transport) (inRange : Bool) (s : State) : Host.Outcome State Fault Refusal :=
  .next (keyCommand s t 6 inRange true 0)

def execKeyringBlowMinVer (t : Transport) (inRange : Bool) (s : State) : Host.Outcome State Fault Refusal :=
  .next (keyCommand s t 7 inRange true 0)

def execKeyringProgramKindBase (t : Transport) (inRange : Bool) (arg : BitVec 8) (s : State) :
    Host.Outcome State Fault Refusal := .next (keyCommand s t 8 inRange true arg)

/-- What a command that ends well does (Table 13.10). -/
def keyEffect (s : State) (j : KeyJob) : State :=
  match j.cmd with
  | 1 => keyStatus ({ s with cfg := { s.cfg with efuse := j.key } }.put CFG_KEY_key_lock 1)
  | 2 => keyStatus { s with cfg := { s.cfg with bbKey := j.key, bbIntact := true, vbatLow := false } }
  | 3 => keyStatus { s with cfg := { s.cfg with bbKey := 0, bbIntact := false } }
  | 4 => s.put CFG_KEY_key_src 1
  | 5 => s.put CFG_KEY_bbram_off 1
  | 6 => s.put CFG_KEY_rb_off 1
  | 7 => s.put CFG_KEY_min_ver (s.get CFG_KEY_min_ver + 1)
  | _ => s.put CFG_KEY_kind_base j.arg.toNat

/-- The command ends: done, or its fuses failed their verify, 7107h. A key whose programming failed is not stated, so
it is free. -/
def keyDone (s : State) (ok : Bool) : State :=
  match s.cfg.keyJob with
  | none => s
  | some j =>
    let s := { s with cfg := { s.cfg with keyJob := none } }
    if ok || j.cmd == 2 || j.cmd == 3 then
      let s := keyEffect s j
      { s with cfg := { s.cfg with keyStatus := 2 } }
    else
      let s := if j.cmd = 1 then
          keyStatus { s.tookFree with cfg := { s.cfg with efuse := Config.freeKey s.free } }
        else s
      raise { s with cfg := { s.cfg with keyStatus := 5 } } 0x7107 (packWord [(32, j.cmd)])

def execKeyringCommandDone (ok : Bool) (s : State) : Host.Outcome State Fault Refusal := .next (keyDone s ok)

/-- VBAT has fallen below 1.0 V: the detector is set and the battery-backed key is not valid (R334). -/
def vbatLow (s : State) : State := keyStatus { s with cfg := { s.cfg with vbatLow := true } }

def execVbatLow (s : State) : Host.Outcome State Fault Refusal := .next (vbatLow s)

/-! ## Readback (R336) -/

/-- A write of CFG_RB_IDX names a frame and clears refused. -/
def readbackIndex (s : State) (w : W36) : State := s.setWord CFG_RB_IDX (withBits w 0 8 0)

def execReadbackIndexWrite (w : W36) (s : State) : Host.Outcome State Fault Refusal := .next (readbackIndex s w)

/-- Word `n` of a frame: 36 data bits, or the check bits at word 36; 0 for a frame or word that does not exist. -/
def frameWord (s : State) (h c t f n : Nat) : W36 :=
  if h < 36 ∧ c < 64 ∧ f < 12 ∧ n ≤ 36 then
    BitVec.ofNat 36 (bitsOf (frameOf s h (if f ≤ 8 then wardCol s h c else c) t f) (36 * n) (if n = 36 then 12 else 36))
  else 0

/-- A read of CFG_RB_DAT: the next word of the frame, and the word advances; 0 and refused where readback is refused. -/
def readbackRead (s : State) : State :=
  if s.flag CFG_KEY_rb_off || bitN (hdrFlags s.cfg.inForce) 1 || s.pwr.phase != .run then
    (s.put CFG_RB_IDX_refused 1).setWord CFG_RB_DAT 0
  else
    let n := s.get CFG_RB_IDX_word
    let w := frameWord s (s.get CFG_RB_IDX_hearth) (s.get CFG_RB_IDX_column) (s.get CFG_RB_IDX_row) (s.get CFG_RB_IDX_frame) n
    (s.setWord CFG_RB_DAT w).put CFG_RB_IDX_word (if 36 ≤ n then 0 else n + 1)

def execReadbackRead (s : State) : Host.Outcome State Fault Refusal := .next (readbackRead s)

/-! ## The flash service (R331, R338) -/

/-- The octets that a flash command acts on: their flash and address, in order. -/
def flashCells (j : FlashJob) : List (Bool × Nat) :=
  let size := if j.cmd = 1 then 4096 else 65536
  if j.cmd ≤ 2 then
    (if j.target = 2 then
       let a := j.addr / 2 / size * size
       (List.range size).map (fun i => (false, a + i)) ++ (List.range size).map (fun i => (true, a + i))
     else (List.range size).map (fun i => (j.target == 1, j.addr / size * size + i)))
  else
    (List.range j.len).map (fun i =>
      if j.target = 2 then spread true 0 (j.addr + i) else (j.target == 1, j.addr + i))

/-- The command touches the image in force. -/
def touchesImage (s : State) (j : FlashJob) : Bool :=
  let base := imageBase s (s.flag CFG_STAT_img)
  (flashCells j).any (fun c => (!c.1 || s.cfg.inForceDual) && decide (base ≤ c.2) &&
    decide (c.2 < base + s.cfg.chunks * chunkSpan s.cfg.inForceDual))

/-- Start a flash command: refused during a load and on bad operands, held during a hearth read (R338, Table 13.12);
an erase or program of the image in force makes its hearth streams unavailable, 7106h (R331). -/
def flashStart (s : State) (cmd : Nat) : State :=
  let j : FlashJob := ⟨cmd, s.get CFG_FL_ADDR_target, s.get CFG_FL_ADDR_addr, s.get CFG_FL_CMD_len⟩
  if s.mgcFull = false ∨ s.cfg.flashJob.isSome = true ∨ s.cfg.flashHeld.isSome = true then s
  else if s.cfg.load.isSome ∨ cmd = 0 ∨ 5 < cmd ∨ j.target = 3 ∨ (j.target = 2 ∧ j.addr % 4 ≠ 0) ∨
      (3 ≤ cmd ∧ (j.len = 0 ∨ 4096 < j.len)) then (s.put CFG_FL_CMD_cmd cmd).put CFG_FL_CMD_status 4
  else
    let s := (s.put CFG_FL_CMD_cmd cmd).put CFG_FL_CMD_status 1
    if s.cfg.reader.isSome then { s with cfg := { s.cfg with flashHeld := some cmd } }
    else
      let s := { s with cfg := { s.cfg with flashJob := some j } }
      if cmd ≤ 3 ∧ s.get CFG_STAT_hsrc_ok = 1 ∧ s.get CFG_STAT_phase = 4 ∧ touchesImage s j = true then
        raise (s.put CFG_STAT_hsrc_ok 0) 0x7106 (packWord [(35, s.get CFG_STAT_img), (3, j.addr)])
      else s

def execFlashEraseSector (s : State) : Host.Outcome State Fault Refusal := .next (flashStart s 1)
def execFlashEraseBlock (s : State) : Host.Outcome State Fault Refusal := .next (flashStart s 2)
def execFlashProgram (s : State) : Host.Outcome State Fault Refusal := .next (flashStart s 3)
def execFlashCompare (s : State) : Host.Outcome State Fault Refusal := .next (flashStart s 4)
def execFlashRead (s : State) : Host.Outcome State Fault Refusal := .next (flashStart s 5)

/-- What a command that ends well does, and its status. -/
def flashEffect (s : State) (j : FlashJob) : State × Nat :=
  let cells := flashCells j
  match j.cmd with
  | 3 => (cells.zipIdx.foldl (fun s e => setFlash s e.1.1 e.1.2 (s.cfg.flashBuf.getD e.2 0xFF)) s, 2)
  | 4 => (s, if cells.zipIdx.all (fun e => flashOctet s e.1.1 e.1.2 == s.cfg.flashBuf.getD e.2 0xFF) then 2 else 5)
  | 5 => ({ s with cfg := { s.cfg with flashBuf := cells.map (fun e => flashOctet s e.1 e.2) } }, 2)
  | _ => (cells.foldl (fun s e => setFlash s e.1 e.2 0xFF) s, 2)

/-- A flash error: what an erase or a program leaves in its octets is not stated, so they are free. -/
def flashError (s : State) (j : FlashJob) : State :=
  if j.cmd ≤ 3 then
    (flashCells j).foldl (fun s e =>
      setFlash s.tookFree e.1 e.2 (BitVec.ofNat 8 (Config.freeWord s.free).toNat)) s
  else s

/-- A flash command ends with its status. -/
def flashDone (s : State) (ok : Bool) : State :=
  match s.cfg.flashJob with
  | none => s
  | some j =>
    let e := if ok then flashEffect s j else (flashError s j, 3)
    let s := { e.1 with cfg := { e.1.cfg with flashJob := none } }
    s.put CFG_FL_CMD_status e.2

def execFlashServiceDone (ok : Bool) (s : State) : Host.Outcome State Fault Refusal := .next (flashDone s ok)

/-- A flash command that a hearth read held starts once the read has ended. -/
def flashResume (s : State) : State :=
  match s.cfg.flashHeld, s.cfg.reader with
  | some c, none => if s.mgcFull then flashStart { s with cfg := { s.cfg with flashHeld := none } } c else s
  | some _, some _ => s
  | none, _ => s

def execChunkRead (errs : List (Fin 4096 × Octet)) (s : State) : Host.Outcome State Fault Refusal :=
  .next (flashResume (chunkRead s errs))

def execHearthStreamCheckDone (s : State) : Host.Outcome State Fault Refusal := .next (flashResume (hearthCheckDone s))

end Sys2Proof.Machine
end

