-- ==== Sys2Proof/Machine/Scrub.lean ====
section
/-! DEFINITION. Scrub: the peat pass, priority reads, the pending list and the scrubber's heartbeat (14 R345 to
R351). -/
namespace Sys2Proof.Machine
open Sys2Proof

/-! ## The walk (R345) -/

/-- Frames in a hearth, and in the device. -/
def hearthFrames : Nat := 25152
def walkFrames : Nat := 36 * hearthFrames

/-- The frame at a place of the walk: frames 0 to 8 of physical columns 0 to 65, then frames 9 to 11 of logical columns
0 to 63. -/
def walkFrame (n : Nat) : FrameAddr :=
  let h := Fin.ofNat 36 (n / hearthFrames)
  let i := n % hearthFrames
  if i < 19008 then ⟨h, Fin.ofNat _ (i / 288), Fin.ofNat _ (i / 9), Fin.ofNat _ (i % 9)⟩
  else
    let j := i - 19008
    ⟨h, Fin.ofNat _ (j / 96), Fin.ofNat _ (j / 3), Fin.ofNat _ (9 + j % 3)⟩

/-- A frame as CFG_WARD_LOC [35:14] lays it out. -/
def frameLoc (a : FrameAddr) : W36 := wardWord 0 a.h.val a.col.val a.row.val a.f.val

/-- The device runs, so the scrubber may: from RUN to the entry to BANKED. -/
def scrubTime (s : State) : Bool :=
  match s.pwr.phase with
  | .run | .simmerEntry | .simmer | .simmerExit => true
  | _ => false

/-- A pass starts at the walk's beginning. -/
def passBegin (s : State) : State :=
  { (s.put SCB_STAT_state 1).setWord SCB_POS (frameLoc (walkFrame 0)) with scb := { s.scb with
    pos := 0, passDue := false, corrections := 0 } }

/-- A pass starts while en is 1 and the device runs; while a pass is running its successor is due at its end. -/
def passStart (s : State) : State :=
  if s.flag SCB_CFG_en && scrubTime s && !s.scb.dead then
    (if s.get SCB_STAT_state = 1 then { s with scb := { s.scb with passDue := true } } else passBegin s)
  else s

def execPeatPassStart (s : State) : Host.Outcome State Fault Refusal := .next (passStart s)

/-- The steering entry that a frame of a physical column belongs to: its state, if any entry names the column. -/
def columnState (s : State) (a : FrameAddr) : Option Nat :=
  (lcolOf s a.h.val a.col.val).map (fun c => (steerOf s a.h.val c).1)

/-- The scrubber skips a frame of a column in HANDOVER, and of a hearth that a reload is writing. -/
def frameSkipped (s : State) (a : FrameAddr) : Bool :=
  (decide (a.f.val < 9) && columnState s a == some 2) ||
  (s.cfg.reader.elim false (fun r => r.hearth == some a.h))

/-- A frame is essential when a bit of its map is 1; a frame of a column in SPARE never is (R346). The map is held by
logical column. -/
def frameEssential (s : State) (a : FrameAddr) (mapBad : Bool) : Bool :=
  let map := fun (c : Nat) => tget (fun _ => 0) s.scb.essential (frameKey a.h.val c a.row.val a.f.val)
  if a.f.val < 9 then
    match lcolOf s a.h.val a.col.val with
    | some c => (steerOf s a.h.val c).1 != 1 && (mapBad || map c != 0)
    | none => false
  else mapBad || map a.col.val != 0

/-! ## Frame outcomes (Table 14.2) -/

/-- SCB_LAST takes a frame. -/
def scrubLast (s : State) (a : FrameAddr) (kind syn : Nat) : State :=
  s.setWord SCB_LAST (frameLoc a ||| packWord [(12, kind), (0, syn)])

/-- The corrected frame is written back. -/
def frameCorrect (s : State) (a : FrameAddr) (syn : Nat) (v : BitVec 1308) : State :=
  let s := scrubLast ((writeFrame s a v).bump SCB_CNT_ce 1) a 1 syn
  { s with scb := { s.scb with corrections := s.scb.corrections + 1 } }

/-- An essential uncorrectable frame: with auto = 1 its hearth reloads, with auto = 0 it is isolated (Table 14.2). -/
def frameLostEss (s : State) (a : FrameAddr) (syn : Nat) : State :=
  let auto := s.flag SCB_CFG_auto
  let s := scrubLast (s.bump SCB_CNT_ue_ess 1) a 2 syn
  let s := if auto then reloadRequest s a.h .scrubber false else isoByDevice s (isolateWrite s a.h.val)
  raise s 0x8101 (frameLoc a ||| packWord [(13, b2n auto)])

/-- A non-essential uncorrectable frame enters the pending list; a full list asks for a reload with auto = 1, and is
reported once with auto = 0 (R348). -/
def framePend (s : State) (a : FrameAddr) (syn : Nat) : State :=
  if s.scb.pendList.contains a then s
  else
    let s := scrubLast (s.bump SCB_CNT_ue_non 1) a 3 syn
    if s.scb.pendList.length < 256 then
      let s := { s with scb := { s.scb with pendList := s.scb.pendList ++ [a] } }
      let s := s.put SCB_RATE_pend s.scb.pendList.length
      raise s 0x8102 (frameLoc a ||| packWord [(5, s.scb.pendList.length)])
    else
      let s := raise s 0x8102 (frameLoc a ||| packWord [(5, s.scb.pendList.length)])
      if s.flag SCB_CFG_auto then reloadRequest s a.h .listFull false
      else if s.scb.fullRaised then s
      else raise { s with scb := { s.scb with fullRaised := true } } 0x8109 (frameLoc a)

/-- The scrubber acts on one frame (Table 14.2). A frame of a column that no steering entry names any more, after
repair, takes no action when it is uncorrectable. -/
def frameAct (s : State) (a : FrameAddr) (mapBad : Bool) : State :=
  let v := frameOf s a.h.val a.col.val a.row.val a.f.val
  match frameVerdict v with
  | none => s
  | some (some w) => frameCorrect s a (frameSyndrome v) w
  | some none =>
    if reloading s a.h.val then s
    else if frameEssential s a mapBad then frameLostEss s a (frameSyndrome v)
    else if a.f.val < 9 ∧ columnState s a = none then s
    else
      let s := framePend s a (frameSyndrome v)
      if a.f.val < 9 ∧ columnState s a = some 1 then markSpare s a.h a.col else s

/-! ## Reading frames (R347, R349, R350) -/

/-- The error-rate estimate after a pass with `n` corrections (R349); one that no 17-bit field can hold is not stated,
and is free. -/
def rateUpdate (s : State) : State :=
  let est : Int := s.get SCB_RATE_est
  let e := est + (256 * (s.scb.corrections : Int) - est).tdiv 8
  let s := s.put SCB_RATE_hist 1
  if e < 131072 then s.put SCB_RATE_est e.toNat
  else (s.put SCB_RATE_est (Config.freeNat s.free)).tookFree

/-- The walk moves past the frame just read; after the last frame the pass ends, and a successor that is due starts. -/
def walkOn (s : State) : State :=
  if s.scb.pos + 1 < walkFrames then
    { s with scb := { s.scb with pos := s.scb.pos + 1 } }
  else
    let s := rateUpdate s
    let s := (s.put SCB_STAT_passes (s.get SCB_STAT_passes + 1)).put SCB_STAT_state 0
    let s := { s with scb := { s.scb with pos := 0, corrections := 0 } }
    if s.scb.passDue then passBegin s else s

/-- The scrubber reads one frame: the oldest priority report, or else the walk's next frame while a pass runs. The
votes corrected since the last read are counted, and an uncorrectable ROM word halts the walk (R350). -/
def frameRead (s : State) (votes : Nat) (mapBad romBad : Bool) : State :=
  if s.scb.dead || s.scb.halted || !scrubTime s then s
  else
    let s := s.bump SCB_STAT_votes votes
    if romBad then { s with scb := { s.scb with halted := true } }
    else
      match s.scb.prio with
      | a :: rest =>
        let s := { s with scb := { s.scb with prio := rest, beat := s.scb.beat + 1 } }
        let s := s.setWord SCB_POS (frameLoc a)
        if frameSkipped s a || reloading s a.h.val then s else frameAct s a mapBad
      | [] =>
        if s.get SCB_STAT_state ≠ 1 then s
        else
          let a := walkFrame s.scb.pos
          let s := { s with scb := { s.scb with beat := s.scb.beat + 1 } }
          let s := s.setWord SCB_POS (frameLoc a)
          walkOn (if frameSkipped s a then s else frameAct s a mapBad)

def execScrubPriorityReport (frame : FrameAddr) (s : State) : Host.Outcome State Fault Refusal :=
  .next (scrubReport s frame)

/-! ## The heartbeat (R351) -/

/-- The MGC restarts the scrubber: the voted state resumes the walk after the last frame completed. After a third
restart within 10 s the scrubber is stopped for good. -/
def scrubRestart (s : State) : State :=
  let s := s.bump SCB_STAT_restarts 1
  let recent := (s.scb.restartTimes.filter (fun t => decide ((s.timebase - t).toNat ≤ 32000000000))).take 2
  let detail := frameLoc (walkFrame s.scb.pos) ||| packWord [(10, s.get SCB_STAT_restarts)]
  let s := { s with scb := { s.scb with halted := false, restartTimes := s.timebase :: recent } }
  let s := raise s 0x8104 detail
  if recent.length < 2 then s
  else raise { s.put SCB_STAT_state 3 with scb := { s.scb with dead := true, prio := [] } } 0x8105 detail

/-- The MGC's check, every 1 ms: between passes the scrubber advances its heartbeat by itself. A restart of the firmware
suspends the check. -/
def heartbeatCheck (s : State) : State :=
  if s.mgcServing = false ∨ scrubTime s = false ∨ s.scb.dead = true then s
  else
    let stuck := s.scb.halted || (s.get SCB_STAT_state == 1 && s.scb.beat == s.scb.beatSeen)
    let s := { s with scb := { s.scb with beatSeen := s.scb.beat } }
    if stuck then scrubRestart s else s

def execScrubHeartbeatCheck (s : State) : Host.Outcome State Fault Refusal := .next (heartbeatCheck s)

/-- A 1 written to SCB_CNT.clr. -/
def execScrubCntClear (s : State) : Host.Outcome State Fault Refusal :=
  .next ((s.setWord SCB_CNT 0).setWord SCB_LAST 0)

end Sys2Proof.Machine
end

