-- ==== Sys2Proof/Machine/Slices.lean ====
section
/-! DEFINITION. Slices: self-test slices, the handovers of columns and blocks, and the commands of the fabric that may
end a handover (14 R358 to R366; 03 R62 to R65; 05 R114). -/
namespace Sys2Proof.Machine
open Sys2Proof

/-! ## Steering (R62, R63) -/

/-- Set a steering entry. -/
def setSteer (s : State) (h c : Nat) (e : Nat × Nat) : State :=
  { s with fab := { s.fab with steer := tput steerDefault s.fab.steer (66 * h + c) e } }

/-- The spare slot of a hearth that is free for rotation. -/
def spareColumn (s : State) (h : Nat) : Option Nat := [64, 65].find? (fun c => (steerOf s h c).1 == 1)
def spareBlock (s : State) (h : Nat) : Option Nat :=
  ((List.range 6).map (96 + ·)).find? (fun b => (blockOf s h b).1 == 1)

/-! ## The copy of a column (R364) -/

/-- Frames 0 to 8 of a physical column take the values `v` at one moment, and the checkers of its rows see it (R58). -/
def putColumn (s : State) (h q : Nat) (v : Nat → BitVec 1308) : State :=
  checkRows s ((List.range 288).foldl (fun s i => putFrame s h q (i / 9) (i % 9) (v i)) s) (columnRows h q)

/-- Frames 0 to 8 of physical column `p` copied to `q`. -/
def copyFrames (s : State) (h p q : Nat) : State := putColumn s h q (fun i => frameOf s h p (i / 9) (i % 9))

/-- The physical column that a key of each kind lies in, within its hearth, and the keys of that kind in a column; none for
what lies in no column. -/
def srcColumn (k : Nat) : Option (Nat × Nat) :=
  let i := k % hearthSpan
  if i < 76032 then some (i / 1152, 1152)
  else if i < 84480 then some ((i - 76032) / 128, 128)
  else if i < 86016 then none
  else some ((i - 86016) / 1152, 1152)
def dstColumn (k : Nat) : Option (Nat × Nat) :=
  let i := k % hearthSpan
  if i < 608256 then some (i / 9216, 9216)
  else if i < 616704 then some ((i - 608256) / 128, 128)
  else if i < 618496 then none
  else some ((i - 618496) / 1152, 1152)
def rowColumn (k : Nat) : Option (Nat × Nat) :=
  let i := k % hearthSpan
  if i < 65472 then some (i / 992, 992) else none

/-- A key lies in physical column `p` of hearth `h`. -/
def keyInColumn (col : Nat → Option (Nat × Nat)) (h p k : Nat) : Bool := keyIn h k && (col k).any (fun e => e.1 == p)

/-- The same place in column `q` of a key in column `p`. -/
def shiftKey (col : Nat → Option (Nat × Nat)) (p q k : Nat) : Nat :=
  match col k with
  | some e => k + q * e.2 - p * e.2
  | none => k

/-- A table with what it holds for column `p` of hearth `h` moved to column `q`. -/
def moveColumn {α : Type} [DecidableEq α] (d : Nat → α) (col : Nat → Option (Nat × Nat)) (h p q : Nat)
    (t : Tbl α) : Tbl α :=
  let mine := t.filter (fun e => keyInColumn col h p e.1)
  let rest := tdrop (fun k => keyInColumn col h p k || keyInColumn col h q k) t
  mine.foldl (fun t e => tput d t (shiftKey col p q e.1) e.2) rest

/-- Token stages, keeper levels and channel phases of column `p` come to stand in column `q`. -/
def scanCopy (s : State) (h p q : Nat) : State :=
  let f := s.fab
  let f := { f with
    rails := moveColumn (fun _ => 0) srcColumn h p q f.rails,
    join := moveColumn (fun _ => false) srcColumn h p q f.join,
    acks := moveColumn (fun _ => false) dstColumn h p q f.acks,
    stage := moveColumn (fun _ => none) srcColumn h p q f.stage,
    stalled := moveColumn (fun _ => false) dstColumn h p q f.stalled,
    muxStalled := moveColumn (fun _ => false) srcColumn h p q f.muxStalled,
    keepers := moveColumn (fun _ => none) rowColumn h p q f.keepers }
  { s with fab := f }

/-- What a test leaves in the frames of physical column `p` is not stated: free data with its check bits. -/
def testedFrames (s : State) (h p : Nat) : State :=
  let n := s.free
  { putColumn s h p (fun i => encodeFrame (Config.freeFrame (n + i)).toNat) with free := n + 288 }

/-! ## The repair record (R367, R368) -/

/-- SCB_REP follows the record. -/
def repStat (s : State) : State :=
  let m := s.mtp
  s.setWord SCB_REP (packWord [(35, b2n m.copyA), (34, b2n m.copyB), (26, m.repair.cols.length),
    (18, m.repair.blks.length), (7, m.repair.rows.length), (0, min 100 (m.writes / 200))])

/-- The record changes: a write of the older copy follows. -/
def setRepair (s : State) (r : RepairRecord) : State :=
  repStat { s with mtp := { s.mtp with repair := r, writing := true } }

/-- A faulty column joins the record, up to two for each hearth; the outcome: no repair is left, or what there is. -/
def recordColumn (s : State) (h : Fin 36) (p : Fin 66) : Option State :=
  let r := s.mtp.repair
  if r.cols.contains (h, p) then some s
  else if (r.cols.filter (fun e => e.1 == h)).length < 2 then some (setRepair s { r with cols := r.cols ++ [(h, p)] })
  else none

/-- Rows of a faulty block join the record while its spare rows suffice. -/
def recordRows (s : State) (h : Fin 36) (p : Fin 102) (rows : List (Fin 1024)) : Option State :=
  let r := s.mtp.repair
  let new := rows.filter (fun x => !r.rows.contains (h, p, x))
  let used := (r.rows.filter (fun e => e.1 == h && e.2.1 == p)).length + new.length
  if rows = [] ∨ 16 < used ∨ 1024 < r.rows.length + new.length then none
  else
    let s := setRepair s { r with rows := r.rows ++ new.map (fun x => (h, p, x)) }
    some { s with store := { s.store with
      rowsUsed := tput (fun _ => 0) s.store.rowsUsed (102 * h.val + p.val) used } }

/-- A faulty block joins the record, up to six for each hearth. -/
def recordBlock (s : State) (h : Fin 36) (p : Fin 102) : Option State :=
  let r := s.mtp.repair
  if r.blks.contains (h, p) then some s
  else if (r.blks.filter (fun e => e.1 == h)).length < 6 then some (setRepair s { r with blks := r.blks ++ [(h, p)] })
  else none

/-- The copy of the repair record that a write writes is B (R367): the older one. -/
def writesB (m : Mtp) : Bool := if m.copyA && m.copyB then !m.newB else m.copyA

/-- A write of the older copy ends: it becomes the newer one, or is no longer valid (R367, 8108h). -/
def repairWritten (s : State) (ok : Bool) : State :=
  let m := s.mtp
  if m.writing = false then s
  else
    let toB := writesB m
    let a := if toB then m.copyA else ok
    let b := if toB then ok else m.copyB
    let m := { m with copyA := a, copyB := b, writing := false, writes := m.writes + 1 }
    if ok then repStat { s with mtp := { m with newB := toB, newer := m.repair } }
    else raise (repStat { s with mtp := m }) 0x8108 (packWord [(35, b2n a), (34, b2n b), (33, 1)])

def execRepairRecordWriteDone (ok : Bool) (s : State) : Host.Outcome State Fault Refusal := .next (repairWritten s ok)

/-- A write of c to 2804h:02 with the expert hasp open: the rows of the channel go at the next power-on reset (R369). -/
def repairClear (s : State) (t : Transport) (c : Fin 2) : State :=
  if haspOpen s t && !s.mtp.clearRows.contains c then
    { s with mtp := { s.mtp with clearRows := s.mtp.clearRows ++ [c] } }
  else s

def execRepairClearSdram (t : Transport) (c : Fin 2) (s : State) : Host.Outcome State Fault Refusal :=
  .next (repairClear s t c)

/-! ## Test results (R361, R362) -/

/-- The result of a run: 0 PASS, 1 FAIL, 2 INCOMPLETE. -/
def runResult (r : TestRun) : Nat :=
  if r.fault then 1 else if !r.complete then 2 else if r.signature then 0 else 1

/-- A run starts: its result list is empty. -/
def resultsClear (s : State) : State :=
  { (s.put SCB_RES_IDX_count 0).put SCB_RES_IDX_ovf 0 with scb := { s.scb with results := [] } }

/-- Failing bits enter the result list, in the repair-list form: up to 64, the rest counted in ovf. -/
def addResults (s : State) (bits : List W36) : State :=
  if s.flag SCB_BIST_CFG_form then
    let l := s.scb.results ++ bits
    let s := (s.put SCB_RES_IDX_count (min 64 l.length)).bump SCB_RES_IDX_ovf (l.length - 64)
    { s with scb := { s.scb with results := l.take 64 } }
  else s

/-- A FAIL: its bits are listed and 8106h is raised; where nothing repairs it, 8107h too. The detail is the first
failing bit; a run that gives none leaves the detail's address and bit not stated, and free. -/
def testFail (s : State) (unit : W36) (bits : List W36) (repaired : Bool) : State :=
  let d := match bits with
    | b :: _ => b
    | [] => unit ||| (Config.freeWord s.free &&& 0xFFFFF#36)
  let s := if bits = [] then s.tookFree else s
  let s := raise (addResults s bits) 0x8106 d
  if repaired then s else raise s 0x8107 d

/-! ## The round (R360) -/

/-- A hearth in which a slice may start: awake, not reloading, and not held. -/
def sliceHearth (s : State) (h : Nat) : Bool :=
  hearthSt s h == .awake && !reloading s h && !s.bit SCB_ROT_HOLD_hold h

/-- The slice of logical column `c`, with its spare slot, if the column can rotate. -/
def columnSlice (s : State) (h c : Nat) : Option (Handover × Nat) :=
  if s.flag SCB_BIST_CFG_col && sliceHearth s h && !(frameOf s h c 0 10).getLsbD 9 && (steerOf s h c).1 == 0 then
    (spareColumn s h).map (fun e => (.colCopy (Fin.ofNat _ h) (Fin.ofNat _ c), e))
  else none

/-- The slice of a block slot. -/
def blockSlice (s : State) (h b : Nat) : Option (Handover × Nat) :=
  if s.flag SCB_BIST_CFG_blk && sliceHearth s h && slotConfig s h b 8 1 == 0 && (blockOf s h b).1 == 0 then
    (spareBlock s h).map (fun e => (.blockWait (Fin.ofNat _ h) (Fin.ofNat _ b), e))
  else none

/-- The lane slice of a round: the next lane whose mode is OFF and whose cord reference is present. -/
def laneSlice (s : State) : Option (Handover × Nat) :=
  if s.flag SCB_BIST_CFG_lane then
    (((List.range 24).map (fun i => (s.scb.laneNext + i) % 24)).find? (fun l =>
      laneMode s l == 0 && !s.flag (LNE_CORD_CFG_ref_lost (l / 4)))).map (fun l => (.laneTest (Fin.ofNat _ l), 0))
  else none

/-- The FIFO slice of a round: the next UNUSED FIFO. -/
def fifoSlice (s : State) : Option (Handover × Nat) :=
  if s.flag SCB_BIST_CFG_fifo then
    (((List.range 128).map (fun i => (s.scb.fifoNext + i) % 128)).find? (fun f => !fifoUsed s f)).map
      (fun f => (.fifoTest (Fin.ofNat _ f), 0))
  else none

/-- The slice at the round's place, if its unit can be tested. -/
def placeSlice (s : State) : Option (Handover × Nat) :=
  match s.scb.roundPhase with
  | 0 => if s.scb.roundBlockNext then blockSlice s s.scb.roundHearth s.scb.roundSlot
         else columnSlice s s.scb.roundHearth s.scb.roundCol
  | 1 => laneSlice s
  | _ => fifoSlice s

/-- Units that the round has left behind, of 5,762. -/
def roundDone (s : State) : Nat :=
  match s.scb.roundPhase with
  | 0 => 160 * s.scb.roundHearth + s.scb.roundCol + s.scb.roundSlot
  | 1 => 5760
  | _ => 5761

/-- The round is complete: its coverage and duration are reported. -/
def roundEnd (s : State) : State :=
  let s := { s with scb := { s.scb with roundPhase := 0, roundHearth := 0 } }
  if s.scb.roundOpen then
    let s := s.bump SCB_BIST_STAT_rounds 1
    let s := s.put SCB_BIST_SUM_cover (if s.scb.eligible = 0 then 0 else 100 * s.scb.tested / s.scb.eligible)
    let s := s.put SCB_BIST_SUM_round_h (min 4095 ((s.timebase - s.scb.roundStart).toNat / 11520000000000))
    { s with scb := { s.scb with roundOpen := false } }
  else s

/-- The round moves on: a column and a block in turn until both orders are exhausted, then the next hearth; after hearth
35 one lane and one FIFO. -/
def roundOn (s : State) : State :=
  let b := s.scb
  let s := match b.roundPhase with
    | 0 =>
      let col := if b.roundBlockNext then b.roundCol else b.roundCol + 1
      let slot := if b.roundBlockNext then b.roundSlot + 1 else b.roundSlot
      if col < 64 ∨ slot < 96 then
        let next := if b.roundBlockNext then decide (64 ≤ col) else decide (slot < 96)
        { s with scb := { b with roundCol := col, roundSlot := slot, roundBlockNext := next, counted := false } }
      else
        let b := { b with roundCol := 0, roundSlot := 0, roundBlockNext := false, counted := false }
        if b.roundHearth < 35 then { s with scb := { b with roundHearth := b.roundHearth + 1 } }
        else { s with scb := { b with roundHearth := 0, roundPhase := 1 } }
    | 1 => { s with scb := { b with roundPhase := 2, counted := false } }
    | _ => roundEnd { s with scb := { b with counted := false } }
  s.put SCB_BIST_STAT_progress (100 * roundDone s / 5762)

/-- Pass over the units that cannot be tested, up to the first that can; the first argument bounds the units. -/
def nextSlice : Nat → State → State × Option (Handover × Nat)
  | 0, s => (s, none)
  | n + 1, s =>
    match placeSlice s with
    | some x => (s, some x)
    | none => nextSlice n (roundOn s)

/-- kind, hearth and unit of SCB_BIST_STAT. -/
def sliceStat (s : State) (kind h unit : Nat) : State :=
  ((s.put SCB_BIST_STAT_kind kind).put SCB_BIST_STAT_hearth h).put SCB_BIST_STAT_unit unit

/-- A slice starts. -/
def sliceBegin (s : State) (x : Handover × Nat) : State :=
  let s := if s.scb.roundOpen then s else
    let s := resultsClear s
    { s with scb := { s.scb with roundOpen := true, tested := 0, eligible := 0, roundStart := s.timebase } }
  let s := if s.scb.counted then s else
    { s with scb := { s.scb with counted := true, eligible := s.scb.eligible + 1 } }
  let s := { s with scb := { s.scb with handover := x.1, spare := x.2, extra := false } }
  match x.1 with
  | .colCopy h c => sliceStat s 1 h.val (steerOf s h.val c.val).2
  | .blockWait h b => sliceStat (setBlock s h.val b.val (2, (blockOf s h.val b.val).2)) 2 h.val (blockOf s h.val b.val).2
  | .laneTest l => sliceStat { s with scb := { s.scb with laneNext := (l.val + 1) % 24 } } 3 0 l.val
  | .fifoTest f => sliceStat { s with scb := { s.scb with fifoNext := (f.val + 1) % 128 } } 4 0 f.val
  | .idle | .colWait _ _ | .colScan _ _ | .colTest _ _ | .blockCopy _ _ | .blockTest _ _ => s

/-- The slice period elapses: a spare column marked to be tested goes first, then the round's next slice. No slice
starts outside RUN, in SIMMER, or while one runs. -/
def sliceStart (s : State) : State :=
  if s.flag SCB_BIST_CFG_en && s.pwr.phase == .run && s.scb.handover == .idle then
    match s.scb.testNext.find? (fun e => sliceHearth s e.1.val &&
        [64, 65].any (fun c => steerOf s e.1.val c == (1, e.2.val))) with
    | some (h, p) =>
      let slot := if steerOf s h.val 64 = (1, p.val) then 64 else 65
      let s := { s with scb := { s.scb with
        testNext := s.scb.testNext.filter (· != (h, p)), handover := .colTest h p, spare := slot, extra := true } }
      sliceStat s 1 h.val p.val
    | none =>
      let r := nextSlice 5762 s
      match r.2 with
      | some x => sliceBegin r.1 x
      | none => r.1
  else s

def execBistSliceStart (s : State) : Host.Outcome State Fault Refusal := .next (sliceStart s)

/-- A slice ends with a result; PASS and FAIL move the round on. -/
def sliceResult (s : State) (result : Nat) : State :=
  let s := sliceEnd s result
  if s.scb.extra then { s with scb := { s.scb with extra := false } }
  else if result = 2 then s
  else roundOn { s with scb := { s.scb with tested := s.scb.tested + 1 } }

/-! ## Column slices (Table 14.8) -/

/-- The pre-copy ends and step 1 runs: the column's ports are held and its entry is in HANDOVER. No handover starts once
the device has left RUN or the hearth no longer runs (R360). -/
def columnPrecopy (s : State) : State :=
  match s.scb.handover with
  | .colCopy h c =>
    if s.pwr.phase ≠ .run ∨ hearthSt s h.val ≠ .awake ∨ reloading s h.val = true then sliceAbandon s else
    let p := (steerOf s h.val c.val).2
    let s := copyFrames s h.val p (steerOf s h.val s.scb.spare).2
    holdPorts (setSteer s h.val c.val (2, p)) h.val c.val p (.colWait h c)
  | .idle | .colWait _ _ | .colScan _ _ | .colTest _ _ | .blockWait _ _ | .blockCopy _ _ | .blockTest _ _
  | .laneTest _ | .fifoTest _ => s

def execColumnPrecopyDone (s : State) : Host.Outcome State Fault Refusal := .next (columnPrecopy s)

/-- Store-block accesses that the column's side ports carry are complete (step 2). -/
def bandQuiet (s : State) (h p : Nat) : Bool :=
  (List.range 96).all (fun b => [false, true].all (fun port =>
    portColumn s h b port != p || !portBusy s h b port))

/-- Every channel inside physical column `p` has completed the handshake that it had begun, or waits on a held port or in
place (step 2, R365). -/
def columnQuiet (s : State) (h p : Nat) : Bool :=
  (liveSrcs s).all (fun x => !keyInColumn srcColumn h p (srcKey x) || !joinOf s x ||
    (consumers s x).any (fun l => match l with
      | .kept _ => true
      | .dst _ => false))

/-- Quiescence is reached and the scan copy begins. -/
def columnQuiesced (s : State) : State :=
  match s.scb.handover with
  | .colWait h c =>
    let p := (steerOf s h.val c.val).2
    if bandQuiet s h.val p && columnQuiet s h.val p then { s with scb := { s.scb with handover := .colScan h c } } else s
  | .idle | .colCopy _ _ | .colScan _ _ | .colTest _ _ | .blockWait _ _ | .blockCopy _ _ | .blockTest _ _
  | .laneTest _ | .fifoTest _ => s

def execColumnQuiesced (s : State) : Host.Outcome State Fault Refusal := .next (columnQuiesced s)

/-- Step 2 has not ended in time: the handover is abandoned. -/
def execColumnQuiesceTimeout (s : State) : Host.Outcome State Fault Refusal :=
  .next (match s.scb.handover with
    | .colWait _ _ => afterHandover (sliceAbandon s)
    | .idle | .colCopy _ _ | .colScan _ _ | .colTest _ _ | .blockWait _ _ | .blockCopy _ _ | .blockTest _ _
    | .laneTest _ | .fifoTest _ => s)

/-- Steps 3 to 6: the compare passes and steering maps the column to the spare, the freed column under test in the spare
slot; or it fails, and the handover is abandoned with the spare marked to be tested next. -/
def columnScanned (s : State) (ok : Bool) : State :=
  match s.scb.handover with
  | .colScan h c =>
    let p := (steerOf s h.val c.val).2
    let q := (steerOf s h.val s.scb.spare).2
    if ok then
      let t := scanCopy s h.val p q
      let t := (setSteer (setSteer t h.val c.val (0, q)) h.val t.scb.spare (1, p)).bump FAB_STEER_CHG_cnt 1
      let t := portsReleased s { t with scb := { t.scb with handover := .colTest h (Fin.ofNat _ p) } }
      columnResume t h.val c.val
    else sliceAbandon (markSpare s h (Fin.ofNat _ q))
  | .idle | .colCopy _ _ | .colWait _ _ | .colTest _ _ | .blockWait _ _ | .blockCopy _ _ | .blockTest _ _
  | .laneTest _ | .fifoTest _ => s

def execColumnScanCopyDone (ok : Bool) (s : State) : Host.Outcome State Fault Refusal :=
  .next (afterHandover (columnScanned s ok))

/-- The test of a freed column ends: PASS leaves it SPARE, FAIL records it and its spare slot becomes NONE (R366,
R368). -/
def columnTested (s : State) (r : TestRun) : State :=
  match s.scb.handover with
  | .colTest h p =>
    let res := runResult r
    let s := testedFrames s h.val p.val
    let s := if res = 1 then
        match recordColumn s h p with
        | some s => testFail (setSteer s h.val s.scb.spare (3, 127)) (packWord [(27, h.val), (20, p.val)]) r.bits true
        | none => testFail s (packWord [(27, h.val), (20, p.val)]) r.bits false
      else s
    sliceResult s res
  | .idle | .colCopy _ _ | .colWait _ _ | .colScan _ _ | .blockWait _ _ | .blockCopy _ _ | .blockTest _ _
  | .laneTest _ | .fifoTest _ => s

def execColumnTestDone (run : TestRun) (s : State) : Host.Outcome State Fault Refusal := .next (columnTested s run)

/-! ## Block, lane and FIFO slices -/

/-- The test of a freed block ends: with 16 or fewer faulty rows they are recorded, otherwise the block is, and its
spare slot becomes NONE (R368). -/
def blockTested (s : State) (r : TestRun) : State :=
  match s.scb.handover with
  | .blockTest h p =>
    let res := runResult r
    let unit := packWord [(33, 3), (27, h.val), (20, p.val)]
    let s := if res = 1 then
        match recordRows s h p r.rows with
        | some s => testFail s unit r.bits true
        | none =>
          match recordBlock s h p with
          | some s => testFail (setBlock s h.val s.scb.spare (3, 127)) unit r.bits true
          | none => testFail s unit r.bits false
      else s
    sliceResult s res
  | .idle | .colCopy _ _ | .colWait _ _ | .colScan _ _ | .colTest _ _ | .blockWait _ _ | .blockCopy _ _
  | .laneTest _ | .fifoTest _ => s

def execBlockTestDone (run : TestRun) (s : State) : Host.Outcome State Fault Refusal := .next (blockTested s run)

/-- A lane slice ends, and a PLL that ran for it alone stops (R359). -/
def laneResult (s : State) (r : TestRun) : State :=
  match s.scb.handover with
  | .laneTest l =>
    let res := runResult r
    let s := if res = 1 then testFail s (packWord [(33, 5), (20, l.val)]) r.bits false else s
    pllUpdate (sliceResult s res) (l.val / 4)
  | .idle | .colCopy _ _ | .colWait _ _ | .colScan _ _ | .colTest _ _ | .blockWait _ _ | .blockCopy _ _
  | .blockTest _ _ | .fifoTest _ => s

def execLaneTestDone (run : TestRun) (s : State) : Host.Outcome State Fault Refusal := .next (laneResult s run)

/-- A FIFO slice ends. -/
def fifoTested (s : State) (r : TestRun) : State :=
  match s.scb.handover with
  | .fifoTest f =>
    let res := runResult r
    let s := if res = 1 then testFail s (packWord [(33, 4), (20, f.val)]) r.bits false else s
    sliceResult s res
  | .idle | .colCopy _ _ | .colWait _ _ | .colScan _ _ | .colTest _ _ | .blockWait _ _ | .blockCopy _ _
  | .blockTest _ _ | .laneTest _ => s

def execFifoTestDone (run : TestRun) (s : State) : Host.Outcome State Fault Refusal := .next (fifoTested s run)

/-! ## Commands of the fabric that may end a handover (R65, R114) -/

/-- A row of hearth `h` in physical column `p` has become invalid between two states. -/
def rowFell (s0 s : State) (h p : Nat) : Bool :=
  s.fab.keepers.any (fun e => keyInColumn rowColumn h p e.1 &&
    (tget (fun _ => none) s0.fab.keepers e.1).isNone)

/-- A checker that fires in either physical column before the steering change abandons the handover (R65); what waited
for a handover that is over goes on. -/
def watchHandover (s0 s : State) : State :=
  match s.scb.handover with
  | .colWait h c | .colScan h c =>
    if rowFell s0 s h.val (steerOf s h.val c.val).2 || rowFell s0 s h.val (steerOf s h.val s.scb.spare).2 then
      afterHandover (sliceAbandon s)
    else s
  | .idle | .colCopy _ _ | .colTest _ _ | .blockWait _ _ | .blockCopy _ _ | .blockTest _ _ | .laneTest _
  | .fifoTest _ => afterHandover s

def execParticleUpset (u : Upset) (s : State) : Host.Outcome State Fault Refusal :=
  .next (watchHandover s (upset s u))

def execFrameRead (votes : BitVec 8) (mapBad romBad : Bool) (s : State) : Host.Outcome State Fault Refusal :=
  .next (watchHandover s (frameRead s votes.toNat mapBad romBad))

def execHandshakeRequest (rails : List (Src × Rails)) (s : State) : Host.Outcome State Fault Refusal :=
  .next (watchHandover s (request s rails))

/-- A request with op = 3: a request fault; the block acknowledges nothing and the port stalls. A fault during step 2 of a
handover of its slot abandons that handover (R106, Table 5.6); during step 3, of which Table 5.6 says nothing, it is reported
at once and the handover goes on (DESIGN CHOICE, log entry 65). -/
def storeRequestFault (s : State) (h : Fin 36) (b : Fin 96) (port : Bool) : State :=
  if portFree s h.val b.val port && (requestOf s h.val b.val port).any (fun r => r.op == 3) then
    let s := storeFault s h b port 2
    if s.scb.handover = .blockWait h b then afterHandover (blockAbandon s h.val b.val) else s
  else s

def execStoreRequestFault (h : Fin 36) (slot : Fin 96) (port : Bool) (s : State) : Host.Outcome State Fault Refusal :=
  .next (storeRequestFault s h slot port)

def execBlockHandoverQuiesced (h : Fin 36) (slot : Fin 96) (s : State) : Host.Outcome State Fault Refusal :=
  .next (blockQuiesced s h slot)

def execBlockHandoverSwitch (h : Fin 36) (slot : Fin 96) (s : State) : Host.Outcome State Fault Refusal :=
  .next (if s.scb.handover = .blockCopy h slot then afterHandover (blockSwitch s h.val slot.val) else s)

def execBlockHandoverTimeout (h : Fin 36) (slot : Fin 96) (s : State) : Host.Outcome State Fault Refusal :=
  .next (if s.scb.handover = .blockWait h slot then afterHandover (blockAbandon s h.val slot.val) else s)

end Sys2Proof.Machine
end

