-- ==== Sys2Proof/Machine/Service.lean ====
section
/-! DEFINITION. Service: the full test and its repairs, the shutdown test, the service hours, and JTAG (14 R358, R367 to
R374). -/
namespace Sys2Proof.Machine
open Sys2Proof

/-! ## Applying the repair record (R62, R112, R368) -/

/-- Steering of a hearth as the record's faulty columns shift it (R62). -/
def steerHearth (s : State) (h : Fin 36) : State :=
  let good := (List.range 66).filter (fun p => !s.mtp.repair.cols.contains (h, Fin.ofNat _ p))
  (List.range 66).foldl (fun s c => setSteer s h.val c (match good[c]? with
    | some p => (if c < 64 then 0 else 1, p)
    | none => (3, 127))) s

/-- Block steering of a hearth: each slot with a faulty block takes a good spare block, whose slot becomes NONE (R112). -/
def blocksHearth (s : State) (h : Fin 36) : State :=
  let bad := fun (p : Nat) => s.mtp.repair.blks.contains (h, Fin.ofNat _ p)
  let spares := ((List.range 6).map (96 + ·)).filter (fun p => !bad p)
  let gone := (List.range 96).filter bad
  let s := (List.range 102).foldl (fun s b => setBlock s h.val b
    (if b < 96 then (0, b) else if bad b then (3, 127) else (1, b))) s
  (gone.zip spares).foldl (fun s e => setBlock (setBlock s h.val e.1 (0, e.2)) h.val e.2 (3, 127)) s

/-- Spare rows in use, as the record lists them. -/
def rowsApply (s : State) : State :=
  let t := s.mtp.repair.rows.foldl (fun t e =>
    let k := 102 * e.1.val + e.2.1.val
    tput (fun _ => 0) t k (tget (fun _ => 0) t k + 1)) []
  { s with store := { s.store with rowsUsed := t } }

/-! ## The full test -/

/-- One failing unit of a full test: the state, whether something new was repaired, and whether a fault is left. A unit
that the record already holds needs nothing more. -/
def fullFail (x : State × Bool × Bool) (f : TestResult) : State × Bool × Bool :=
  let s := x.1
  match f.unit with
  | .column h p =>
    let unit := packWord [(27, h.val), (20, p.val)]
    if s.mtp.repair.cols.contains (h, p) then (testFail s unit f.bits true, x.2)
    else match recordColumn s h p with
      | some s => (steerHearth (testFail s unit f.bits true) h, true, x.2.2)
      | none => (testFail s unit f.bits false, x.2.1, true)
  | .block h p rows =>
    let unit := packWord [(33, 3), (27, h.val), (20, p.val)]
    if s.mtp.repair.blks.contains (h, p) then (testFail s unit f.bits true, x.2)
    else match recordRows s h p rows with
      | some s => (testFail s unit f.bits true, true, x.2.2)
      | none =>
        match recordBlock s h p with
        | some s => (blocksHearth (testFail s unit f.bits true) h, true, x.2.2)
        | none => (testFail s unit f.bits false, x.2.1, true)
  | .other => (testFail s 0 f.bits false, x.2.1, true)

/-- The full test ends: its results, its coverage and its repairs (R358, R362, R368). What it leaves in the frames of
the spare columns is not stated. -/
def fullTest (s : State) (fails : List TestResult) (eligible incomplete ms : Nat) : State × Bool × Bool :=
  let s := resultsClear s
  let s := s.put SCB_BIST_SUM_cover (if eligible = 0 then 0 else 100 * (eligible - incomplete) / eligible)
  let s := s.put SCB_BIST_SUM_full_ms ms
  let s := (List.range 36).foldl (fun s h => [64, 65].foldl (fun s c =>
    match pcolOf s h c with
    | some p => testedFrames s h p
    | none => s) s) s
  fails.foldl fullFail (s, false, false)

/-- A full test is over: the PLLs that ran for its lanes alone stop (R171, R359). -/
def testEnd (s : State) : State := (List.range 6).foldl pllUpdate s

/-- The start-up test of a full start ends and the load begins. -/
def startupTest (s : State) (fails : List TestResult) (eligible incomplete ms : Nat) : State :=
  if s.pwr.phase = .bist then
    let s := (fullTest s fails eligible incomplete ms).1
    loadStart (testEnd (setPhase s .discovery)) false (s.flag CFG_STAT_forcekind)
  else s

def execStartupBistDone (fails : List TestResult) (eligible incomplete : BitVec 24) (ms : BitVec 17) (s : State) :
    Host.Outcome State Fault Refusal :=
  .next (startupTest s fails eligible.toNat incomplete.toNat ms.toNat)

/-! ## The shutdown test (R371) -/

/-- A 1 written to SCB_SDT.go: the device becomes inert; channels enter self-refresh and the full test runs. A device in
SIMMER leaves it, so VFAB ramps to its target (R97). -/
def shutdownTest (s : State) : State :=
  if s.cfg.load.isSome then s
  else match s.pwr.phase with
    | .waking | .run | .simmerEntry | .simmer | .simmerExit | .fault =>
      let ramp := inSimmer s
      let s := setPhase (stopDesign s) .shutdown
      let s := { s.put CLK_STAT_div 0 with pwr := { s.pwr with held := none } }
      let s := if ramp then vfabStart s else s
      flashResume ((s.put SCB_SDT_go 1).put SCB_SDT_status 1)
    | _ => s

def execShutdownTest (s : State) : Host.Outcome State Fault Refusal := .next (shutdownTest s)

/-- The service hours are written to MTP. -/
def hoursSave (s : State) : State :=
  { s with mtp := { s.mtp with
    hours := BitVec.ofNat 20 (s.get SCB_SVC_hours), hot := BitVec.ofNat 16 (s.get SCB_SVC_hot) } }

/-- The full test of a shutdown test ends: its outcome, the shutdown test record and the service hours (R371). A fault
left unrepaired is reported ahead of an INCOMPLETE unit. -/
def shutdownDone (s : State) (fails : List TestResult) (eligible incomplete ms : Nat) : State :=
  if s.pwr.phase = .shutdown ∧ s.get SCB_SDT_status = 1 then
    let x := fullTest s fails eligible incomplete ms
    let rec_ : ShutdownRecord :=
      ⟨false, incomplete != 0, x.2.2, BitVec.ofNat 64 (s.get CFG_IMG_design_id)⟩
    let s := hoursSave x.1
    let s := { s with mtp := { s.mtp with shutdown := some rec_ } }
    let st := if x.2.2 then 4 else if incomplete ≠ 0 then 5 else if x.2.1 then 3 else 2
    testEnd (((s.put SCB_SDT_go 0).put SCB_SDT_status st).put SCB_SDT_rec_valid 1)
  else s

def execFullTestDone (fails : List TestResult) (eligible incomplete : BitVec 24) (ms : BitVec 17) (s : State) :
    Host.Outcome State Fault Refusal :=
  .next (shutdownDone s fails eligible.toNat incomplete.toNat ms.toNat)

/-! ## Service hours (R370) -/

/-- One hour with VPER on, in RUN or SIMMER; a count of hours that no 20-bit field can hold is not stated, and free. -/
def serviceHour (s : State) (hot : Bool) : State :=
  match s.pwr.phase with
  | .run | .simmer =>
    let s := if hot then s.bump SCB_SVC_hot 1 else s
    let n := s.get SCB_SVC_hours + 1
    if n < 2 ^ 20 then s.put SCB_SVC_hours n
    else (s.put SCB_SVC_hours (Config.freeNat s.free)).tookFree
  | _ => s

def execServiceHour (hot : Bool) (s : State) : Host.Outcome State Fault Refusal := .next (serviceHour s hot)

/-- The MGC's write of the hours every 24 hours; it needs the MGC. -/
def execServiceHoursSave (s : State) : Host.Outcome State Fault Refusal :=
  .next (if s.mgcServing then hoursSave s else s)

/-! ## JTAG (R373, R374) -/

/-- Every user pin of a CONFIGURED bank leaves its function; it returns through a switch to the configuration it had, or
to the one it was switching to. -/
def pinsLeave (s : State) (b : Nat) : State :=
  if bankOn s b then
    let s := (List.range 36).foldl (fun s p => if pinSwitching s b p then s else leavePin s b p) s
    let t := (List.range 36).foldl (fun t p =>
      if pinSwitching s b p then t else tput (fun _ => 0) t (36 * b + p) (cfgNow s b p)) s.pins.target
    s.setPins { s.pins with
      target := t, switching := setMask s.pins.switching b (BitVec.allOnes 36),
      pulse := setMask s.pins.pulse b 0, gpev := setMask s.pins.gpev b 0 }
  else s

/-- An instruction that controls pins becomes current: pins leave their functions, lanes go OFF and their FIFOs seal. The
SDRAM channels enter self-refresh by SDRAM_SELF_REFRESH_ENTER. -/
def jtagTake (s : State) : State :=
  let s := s.put SCB_JTAG_ext 1
  let s := (List.range 12).foldl pinsLeave s
  let s := (List.range 24).foldl (fun s l => (linkOff s l).put (LNE_STAT_align l) 0) s
  updateSeals ((List.range 6).foldl kwrFollow s)

/-- It ends: lanes train; pins return by PIN_SWITCH_TAKE and channels by SDRAM_SELF_REFRESH_EXIT. -/
def jtagRelease (s : State) : State :=
  let s := updateSeals (s.put SCB_JTAG_ext 0)
  (List.range 24).foldl laneKick s

/-- An instruction becomes current; with JTAG_EN low all but BYPASS, IDCODE and SAMPLE/PRELOAD act as BYPASS. -/
def jtagCurrent (s : State) (op : BitVec 8) (controls : Bool) (reg : JtagReg) (en : Bool) : State :=
  let s := s.put SCB_JTAG_en_pin (b2n en)
  let acts := en || !controls
  let s := { s with jtag := if acts then ⟨op, reg⟩ else ⟨0xFF, .bypass⟩ }
  match s.flag SCB_JTAG_ext, acts && controls with
  | false, true => jtagTake s
  | true, false => jtagRelease s
  | false, false | true, true => s

def execJtagExtest (en : Bool) (s : State) : Host.Outcome State Fault Refusal :=
  .next (jtagCurrent s 0x00 true .boundary en)

def execJtagIdcode (en : Bool) (s : State) : Host.Outcome State Fault Refusal :=
  .next (jtagCurrent s 0x01 false .idcode en)

def execJtagSamplePreload (en : Bool) (s : State) : Host.Outcome State Fault Refusal :=
  .next (jtagCurrent s 0x02 false .boundary en)

def execJtagClamp (en : Bool) (s : State) : Host.Outcome State Fault Refusal :=
  .next (jtagCurrent s 0x04 true .bypass en)

def execJtagHighz (en : Bool) (s : State) : Host.Outcome State Fault Refusal :=
  .next (jtagCurrent s 0x05 true .bypass en)

def execJtagExtestPulse (en : Bool) (s : State) : Host.Outcome State Fault Refusal :=
  .next (jtagCurrent s 0x0A true .boundary en)

def execJtagExtestTrain (en : Bool) (s : State) : Host.Outcome State Fault Refusal :=
  .next (jtagCurrent s 0x0B true .boundary en)

def execJtagBypass (en : Bool) (s : State) : Host.Outcome State Fault Refusal :=
  .next (jtagCurrent s 0xFF false .bypass en)

/-- The instruction ends: with ext = 1 the pins, lanes and channels go back; the TAP holds BYPASS. -/
def execJtagInstructionEnd (s : State) : Host.Outcome State Fault Refusal :=
  .next (
    let s := if s.flag SCB_JTAG_ext then jtagRelease s else s
    { s with jtag := ⟨0xFF, .bypass⟩ })

/-- What the selected data register captures, where the spec states it: the identification 1243_6373h, or BYPASS's 0. -/
def jtagCapture : JtagReg → Option (BitVec 32)
  | .idcode => some 0x12436373
  | .bypass => some 0
  | .boundary => none

end Sys2Proof.Machine
end

