-- ==== Sys2Proof/Machine/Power.lean ====
section
/-! DEFINITION. Power: from supplies to RUN, cold resets, the firmware watchdog, VFAB, and the power states SIMMER and
BANKED (01 R17, R19; 04 R94 to R97; 16). -/
namespace Sys2Proof.Machine
open Sys2Proof

/-- Update the power structure. -/
def State.setPwr (s : State) (p : Pwr) : State := { s with pwr := p }

/-! ## Cold resets (Table 16.2) -/

/-- A calibration write that a cold reset cuts leaves its section invalid, with octets and a CRC that are not stated, so
free (R406). -/
def cutCal (s : State) : State :=
  match s.mtp.calWrite with
  | none => s
  | some (sec, l) =>
    let n := l.length + 4
    let junk := (List.range n).map (fun i => BitVec.ofNat 8 (Config.freeWord (s.free + i)).toNat)
    { s with free := s.free + n, mtp := { s.mtp with
      cal := tput (fun _ => CalSource.factory) s.mtp.cal sec (.cut junk)
      calWrite := none } }

/-- A write of the repair record that a cold reset cuts leaves the newer copy intact; whether the copy that was being written
is valid is not stated, so it is free (R367). -/
def cutRepair (s : State) : State :=
  let m := s.mtp
  if m.writing = false then s
  else
    let v := Config.freeBit s.free
    let a := if writesB m then m.copyA else v
    let b := if writesB m then v else m.copyB
    { s.tookFree with mtp := { m with copyA := a, copyB := b, writing := false } }

/-- What survives a cold reset beside MTP, the fuses and the keys: the levels outside the device, the flashes, the
sampled straps, the cause, and the commands that wait. -/
def coldReset (s : State) (cause : Nat) (p : Phase) : State :=
  let s := cutRepair (cutCal s)
  let r := State.reset
  let lanes := s.lane.foldl (fun t e =>
    tput (fun _ => Lane.init) t e.1 { Lane.init with signal := e.2.signal }) []
  let r := { r with
    pending := s.pending, free := s.free, mtp := s.mtp, lane := lanes
    pins := { r.pins with ball := s.pins.ball, vccio := s.pins.vccio }
    cfg := { r.cfg with
      flashA := s.cfg.flashA, flashB := s.cfg.flashB, efuse := s.cfg.efuse, bbKey := s.cfg.bbKey,
      bbIntact := s.cfg.bbIntact, vbatLow := s.cfg.vbatLow }
    pwr := { r.pwr with phase := p, pwrRun := true } }
  let r := [CFG_KEY_key_lock, CFG_KEY_key_src, CFG_KEY_bbram_off, CFG_KEY_rb_off, CFG_KEY_kind_base, CFG_KEY_min_ver,
    CFG_STAT_forcekind, SCB_JTAG_en_pin, PWR_SUP_sup].foldl (fun r f => r.put f (s.get f)) r
  let r := (List.range 6).foldl (fun r n => r.put (LNE_CORD_CFG_ref_lost n) (s.get (LNE_CORD_CFG_ref_lost n))) r
  let r := (List.range 12).foldl (fun r b =>
    (r.put (PIN_BANK_pdc b) (s.get (PIN_BANK_pdc b))).put (PIN_BANK_vsense b) (s.get (PIN_BANK_vsense b))) r
  r.put CLK_STAT_cause cause

/-- The last supply enters its range with PORST_N high. Whether VDDQ0, VDDQ1, VLANE and VLANE_H are in range is not
stated, so it is free. -/
def supplyRise (s : State) : State :=
  if s.pwr.phase = .cold then
    let s := (s.put PWR_SUP_sup (240 + Config.freeNat s.free % 16)).tookFree
    s.setPwr { s.pwr with phase := .supplies, pwrRun := true }
  else s

def execSupplyRise (s : State) : Host.Outcome State Fault Refusal := .next (supplyRise s)

/-- Power-on reset releases: the straps are sampled and the timebase reads 0 (R284, R325, R414). -/
def porRelease (s : State) (pdc : BitVec 12) (forceKindN : Bool) : State :=
  if s.pwr.phase = .supplies then
    let s := (List.range 12).foldl (fun s b => s.put (PIN_BANK_pdc b) (b2n (pdc.getLsbD b))) s
    let s := s.put CFG_STAT_forcekind (b2n !forceKindN)
    { s with timebase := 0 }.setPwr { s.pwr with phase := .released }
  else s

def execPowerOnResetRelease (pdc : BitVec 12) (forceKindN : Bool) (s : State) : Host.Outcome State Fault Refusal :=
  .next (porRelease s pdc forceKindN)

/-- The root PLL locks and the clocked domains leave reset. -/
def rootLock (s : State) : State :=
  if s.pwr.phase = .released then
    let s := (s.put CLK_STAT_ref_ok 1).put CLK_STAT_lock 1
    updateSeals (s.setPwr { s.pwr with phase := .locked, clocked := true })
  else s

def execRootPllLock (s : State) : Host.Outcome State Fault Refusal := .next (rootLock s)

/-- PORST_N low for 1 us: the power-up runs again once it is high (cause 001b). -/
def execPorst (s : State) : Host.Outcome State Fault Refusal :=
  .next (if s.pwr.phase = .cold then s else coldReset s 1 .supplies)

/-- A brownout: the power-up waits for the supplies (cause 011b). -/
def execBrownout (s : State) : Host.Outcome State Fault Refusal :=
  .next (if s.pwr.phase = .cold then s
    else
      let s := coldReset s 3 .cold
      (s.put PWR_SUP_sup 0).setPwr { s.pwr with pwrRun := false })

/-- The reference stops: a cold reset whose power-up goes on from step 4; in BANKED the timebase stops and no wake is
possible (R413). -/
def refLost (s : State) : State :=
  if s.flag CLK_STAT_ref_ok = false then s
  else if s.pwr.phase = .banked then s.put CLK_STAT_ref_ok 0
  else
    let s := coldReset s 2 .released
    { s with mgc := { s.mgc with refCause := some true } }

def execRefLost (s : State) : Host.Outcome State Fault Refusal := .next (refLost s)

/-- The root PLL loses lock in RUN or SIMMER: a cold reset likewise. -/
def lockLost (s : State) : State :=
  match s.pwr.phase with
  | .run | .simmerEntry | .simmer | .simmerExit =>
    let s := coldReset s 2 .released
    { s with mgc := { s.mgc with refCause := some false } }
  | _ => s

def execRootPllLockLost (s : State) : Host.Outcome State Fault Refusal := .next (lockLost s)

/-! ## The boot of the MGC (Table 1.4 step 2) -/

/-- A section of the calibration bank is valid: no write of it was cut (R406). -/
def calValid (s : State) (sec : Nat) : Bool :=
  match tget (fun _ => CalSource.factory) s.mtp.cal sec with
  | .cut _ => false
  | .factory | .generic | .written _ => true

/-- The calibration in use: each valid section, and the generic values for an invalid one with A004h (R404, R406). -/
def bootCal (s : State) : State :=
  let put := fun (t : Tbl CalSource) (sec : Nat) =>
    tput (fun _ => CalSource.factory) t sec
      (if calValid s sec then tget (fun _ => CalSource.factory) s.mtp.cal sec else .generic)
  let bits := (List.range 6).foldl (fun n sec => n + b2n (calValid s sec) * 2 ^ sec) 0
  let s := { s with mgc := { s.mgc with cal := (List.range 6).foldl put [] } }
  let s := (List.range 6).foldl presetCord s
  if bits = 63 then s else raise s 0xA004 (packWord [(30, bits)])

/-- The SDRAM remaps that the record holds for channel `c` (R251, R252). -/
def bootRemaps (s : State) (c : Nat) : State :=
  let l := (dramRows s c).filter (fun r => !r.ppr)
  l.zipIdx.foldl (fun s e => s.setWord (DRM_RMP c e.2) (packWord [(35, 1), (33, e.1.rank.toNat), (31, e.1.bg.toNat),
    (29, e.1.bank.toNat), (12, e.1.row.toNat), (10, e.1.sbg.toNat), (8, e.1.sbank.toNat)])) s

/-- The repair record is read and applied: the newer valid copy, or none with 8108h; rows that a clear has marked go
(R367, R369). -/
def bootRepair (s : State) : State :=
  let ok := s.mtp.copyA || s.mtp.copyB
  let s := { s with mtp := { s.mtp with repair := if ok then s.mtp.newer else RepairRecord.empty } }
  let s := if ok then s else raise s 0x8108 0
  let r := s.mtp.repair
  let s := if s.mtp.clearRows = [] then s else
    let r := if s.mtp.clearRows.contains 0 then { r with dram0 := [] } else r
    let r := if s.mtp.clearRows.contains 1 then { r with dram1 := [] } else r
    setRepair { s with mtp := { s.mtp with clearRows := [] } } r
  let s := (List.finRange 36).foldl (fun s h => blocksHearth (steerHearth s h) h) s
  let s := [0, 1].foldl bootRemaps (rowsApply s)
  let s := (s.put (DRM_CFG_ppr_en 0) (b2n s.mtp.repair.ppr0)).put (DRM_CFG_ppr_en 1) (b2n s.mtp.repair.ppr1)
  repStat (s.mtp.repair.maps.foldl (fun s e => cordMap s e.1 e.2.toNat) s)

/-- The shutdown test record is read and marked consumed: the start is a quick start if it was valid and unconsumed, its
test complete and no fault left (R372). -/
def bootRecord (s : State) : State × Bool :=
  match s.mtp.shutdown with
  | none => (s, false)
  | some r =>
    let quick := !r.consumed && !r.incomplete && !r.unrepaired
    (({ s with mtp := { s.mtp with shutdown := some { r with consumed := true } } }).put SCB_SDT_quick (b2n quick), quick)

/-- The MGC commands VFAB (R94), unless a regulator fault holds the last commanded value (R96); with PMBus control off
actual reads the target (R97). -/
def vfabCommand (s : State) (mv : Nat) : State :=
  if s.flag FAB_VFAB_PMB_en then (if s.pace.stopped then s else s.setPace { s.pace with commanded := mv })
  else s.put FAB_VFAB_CTL_actual (s.get FAB_VFAB_CTL_target)

/-- The boot reads VOUT_MODE and commands 0.80 V; a NACK, or a data format other than ULINEAR16, is a regulator fault (R94).
The value held in that fault is 0.80 V (DESIGN CHOICE, log entry 69). -/
def vfabBoot (s : State) (m : VoutMode) : State :=
  let s := vfabCommand s 800
  if s.flag FAB_VFAB_PMB_en && m != .ulinear16 then vfabFault s else s

/-- The MGC serves: held entries first, then 9101h (R449, Table 16.14), and the boot-up frame (R391). -/
def mgcReady (s : State) : State :=
  let s := replayHeld (s.put MGC_STAT_state 1)
  let s := match s.mgc.refCause with
    | some b => raise { s with mgc := { s.mgc with refCause := none } } 0x9101 (packWord [(35, b2n b)])
    | none => s
  { s with mgc := { s.mgc with heartbeat := some 0 } }

/-- The boot ends: calibration, repair record, column shifts and cord maps are applied, VFAB is commanded, and a quick
start goes on to discovery, a full start to the start-up test. -/
def mgcBoot (s : State) (vout : VoutMode) : State :=
  if s.pwr.phase = .locked then
    let s := showPhys (bootRepair (bootCal s))
    let x := bootRecord s
    let s := (x.1.put SCB_SVC_hours s.mtp.hours.toNat).put SCB_SVC_hot s.mtp.hot.toNat
    let s := mgcReady (vfabBoot (keyStatus s) vout)
    if x.2 then loadStart (setPhase s .discovery) false (s.flag CFG_STAT_forcekind) else setPhase s .bist
  else s

def execMgcBootDone (vout : VoutMode) (s : State) : Host.Outcome State Fault Refusal := .next (mgcBoot s vout)

/-! ## RUN (R19) -/

/-- A channel in use still runs its start-up sweep. -/
def sweeping (s : State) : Bool := dramState s 0 == 1 || dramState s 1 == 1

/-- A change of power state closes every hasp and clears what is staged for the keyring (R393). -/
def powerPhase (s : State) (p : Phase) : State := clearStaged (closeHasps (setPhase s p))

/-- The lanes leave the BANKED that the device put them in, for their commanded states (Table 8.15). -/
def lanesReturn (s : State) : State :=
  (List.range 24).foldl (fun s l => if s.get (LNE_CTL_pwr_state l) = 2 then s else leaveBanked s l) s

/-! ## Power-state requests (R426, R433) -/

/-- The reason a request is refused (Table 16.10): 0 shutdown test, 1 FAULT, 2 JTAG. -/
def powerRefusal (s : State) : Option Nat :=
  if s.pwr.phase = .shutdown then some 0
  else if s.pwr.phase = .fault then some 1
  else if s.flag SCB_JTAG_ext then some 2
  else none

/-- What a request to leave RUN or SIMMER waits for: a sweep, a handover, and for BANKED a hearth reload up to its wake. -/
def powerBusy (s : State) (banked : Bool) : Bool :=
  sweeping s || (List.range 36).any (handoverIn s) || (banked && (s.cfg.reader.isSome || !s.scb.reloads.isEmpty ||
    (List.range 36).any (fun h => reloading s h && hearthSt s h == .rejoin)))

/-- Entry to SIMMER begins (Table 16.6 step 1). -/
def simmerEnter (s : State) : State :=
  powerPhase (s.setPwr { s.pwr with held := none, rampDone := false, agree := [] }) .simmerEntry

/-- Entry to BANKED begins (Table 16.8 steps 1 to 3): hinges seal, the governor, scrubber, test engine and probes stop,
lanes go BANKED; the engines' replay buffers go without a loss event. -/
def bankedEnter (s : State) : State :=
  let s := powerPhase ((keepLevels s).setPwr { s.pwr with held := none, wakeLatched := none, clocked := false }) .bankedEntry
  let s := updateSeals s
  let s := stopScrub (zeroLevels (probesOff s))
  let s := (List.range 24).foldl laneGoBanked s
  (List.range 6).foldl (fun s k => dropReplay (kwrFollow s k) k) s

/-- Exit from SIMMER begins (Table 16.7 steps 1 and 2): clocks undivided. -/
def simmerLeave (s : State) : State :=
  (powerPhase (s.setPwr { s.pwr with rampDone := false, agree := [] }) .simmerExit).put CLK_STAT_div 0

/-- A held request goes on once nothing it waits for is left. -/
def powerResume (s : State) : State :=
  match s.pwr.held, s.pwr.phase with
  | some 1, .run => if powerBusy s false then s else simmerEnter s
  | some 2, .run | some 2, .simmer => if powerBusy s true then s else bankedEnter s
  | _, _ => s

/-- RUN again after SIMMER (Table 16.7 steps 4 and 5): the MGC ramps VFAB to the stored target. -/
def simmerDone (s : State) : State :=
  if s.pwr.phase = .simmerExit then powerResume (vfabStart (powerPhase s .run)) else s

/-- RUN: the staggered wake has ended and every channel in use has finished its start-up sweep; links train, and the
first peat pass starts (Table 1.4 steps 8 and 9, R345, R431). A held power-state request then goes on. -/
def runReached (s : State) : State :=
  match s.pwr.phase with
  | .waking =>
    if s.pwr.wakeSlot.isSome || sweeping s then s
    else powerResume (passStart (startLinks (setPhase s .run)))
  | .bankedExit =>
    if s.pwr.wakeSlot.isSome || !s.pwr.clocked then s
    else powerResume (passStart (lanesReturn (powerPhase s .run)))
  | .simmerExit => simmerDone s
  | _ => s

def execRunReached (s : State) : Host.Outcome State Fault Refusal := .next (runReached s)

/-- A request is refused: its value is not stored, refused sets, and 9104h (R433). -/
def powerRefuse (s : State) (cmd why : Nat) : State :=
  raise (s.put PWR_STAT_refused 1) 0x9104 (packWord [(34, cmd), (32, why)])

/-- A request for SIMMER: held until RUN, and while something must end first. -/
def cmdSimmer (s : State) : State :=
  match powerRefusal s with
  | some why => powerRefuse s 1 why
  | none =>
    match s.pwr.phase with
    | .bankedEntry | .banked => s
    | .simmerEntry | .simmer => (s.put PWR_CTL_cmd 1).setPwr { s.pwr with held := none }
    | _ => powerResume ((s.put PWR_CTL_cmd 1).setPwr { s.pwr with held := some 1 })

/-- A request for BANKED. -/
def cmdBanked (s : State) : State :=
  match powerRefusal s with
  | some why => powerRefuse s 2 why
  | none =>
    match s.pwr.phase with
    | .bankedEntry | .banked => s
    | _ => powerResume ((s.put PWR_CTL_cmd 2).setPwr { s.pwr with held := some 2 })

/-- A request for RUN: it ends SIMMER and its entry, takes back a request that is held, and in BANKED or its entry is a
wake event. -/
def cmdRun (s : State) : State :=
  match powerRefusal s with
  | some why => powerRefuse s 0 why
  | none =>
    let s := (s.put PWR_CTL_cmd 0).setPwr { s.pwr with held := none }
    match s.pwr.phase with
    | .simmerEntry | .simmer => simmerLeave s
    | .bankedEntry | .banked => wakeEvent s 4 0
    | _ => s

def execPwrCmdSimmer (s : State) : Host.Outcome State Fault Refusal :=
  .next (if s.mgcServing then cmdSimmer (commandIf s false (powerRefusal s).isNone 34 1) else s)

def execPwrCmdRun (s : State) : Host.Outcome State Fault Refusal :=
  .next (if s.mgcServing then cmdRun (commandIf s false (powerRefusal s).isNone 34 0) else s)

def execPwrCmdBanked (s : State) : Host.Outcome State Fault Refusal :=
  .next (if s.mgcServing then cmdBanked (commandIf s false (powerRefusal s).isNone 34 2) else s)

/-! ## SIMMER (Tables 16.6, 16.7) -/

/-- Every channel with simmer_sr = 1 that served has entered self-refresh. -/
def simmerRefreshed (s : State) : Bool :=
  [0, 1].all (fun c => !s.flag (DRM_CFG_simmer_sr c) || (dramState s c != 2 && dramState s c != 4))

/-- A hearth whose pace confirms SIMMER: awake hearths need two windows that agree. -/
def hearthConfirmed (s : State) (h : Nat) : Bool :=
  hearthSt s h != .awake || tget (fun _ => 0) s.pwr.agree h == 2

/-- Step 5: every awake hearth confirmed, with VFAB actual within 25 mV. -/
def simmerConfirm (s : State) : State :=
  let a := s.get FAB_VFAB_CTL_actual
  let near := !s.flag FAB_VFAB_PMB_en || decide (max a 650 - min a 650 ≤ 25)
  if s.pwr.phase = .simmerEntry ∧ s.pwr.rampDone = true ∧ near = true ∧ (List.range 36).all (hearthConfirmed s) = true then
    powerResume (powerPhase s .simmer)
  else s

/-- The ramp has ended: back-to-back windows run in every awake hearth (step 4). -/
def rampEnd (s : State) : State :=
  let s := s.setPwr { s.pwr with rampDone := true, agree := [] }
  let t := (List.range 36).foldl (fun t h => tput (fun _ => false) t h (hearthSt s h == .awake)) s.pace.windows
  simmerConfirm (s.setPace { s.pace with windows := t })

/-- Step 2: the periphery clocks are divided and the ramp begins; with PMBus control off steps 3 and 4 are skipped. -/
def clockDivide (s : State) : State :=
  if s.pwr.phase = .simmerEntry ∧ s.flag CLK_STAT_div = false ∧ simmerRefreshed s = true then
    let s := s.put CLK_STAT_div 1
    if s.flag FAB_VFAB_PMB_en then
      let s := vfabStart s
      if s.flag FAB_VFAB_CTL_ramping then s else rampEnd s
    else simmerConfirm (s.setPwr { s.pwr with rampDone := true, agree := [] })
  else s

def execSimmerClockDivide (s : State) : Host.Outcome State Fault Refusal := .next (clockDivide s)

/-- Entry is not confirmed: the exit runs, and 9102h (R427). -/
def simmerFail (s : State) : State :=
  let h := ((List.range 36).find? (fun h => !hearthConfirmed s h)).getD 63
  let d := packWord [(30, h), (20, s.get FAB_VFAB_CTL_actual), (19, b2n s.pace.stopped)]
  raise (simmerLeave s) 0x9102 d

def execSimmerConfirmTimeout (s : State) : Host.Outcome State Fault Refusal :=
  .next (if s.pwr.phase = .simmerEntry ∧ s.pwr.rampDone = true ∧ s.mgcServing = true then simmerFail s else s)

/-- A regulator fault between two states ends an entry to SIMMER. -/
def vfabWatch (s0 s : State) : State :=
  if s.pwr.phase = .simmerEntry ∧ s0.pace.stopped = false ∧ s.pace.stopped = true then simmerFail s else s

/-- A step of the ramp; the last one of an entry to SIMMER is followed by its pace windows (Table 16.6 step 4). -/
def execVfabRampStep (ack : Bool) (s : State) : Host.Outcome State Fault Refusal :=
  .next (
    let t := vfabWatch s (vfabStep s ack)
    if s.flag FAB_VFAB_CTL_ramping && !t.flag FAB_VFAB_CTL_ramping && t.pwr.phase == .simmerEntry && t.flag CLK_STAT_div
    then rampEnd t else t)

def execVfabReadVout (mv : Option (BitVec 10)) (status : BitVec 16) (s : State) : Host.Outcome State Fault Refusal :=
  .next (if s.mgcServing then simmerConfirm (vfabWatch s (vfabRead s mv status)) else s)

def execPmbAlert (s : State) : Host.Outcome State Fault Refusal :=
  .next (if s.flag FAB_VFAB_PMB_en then vfabWatch s (vfabFault s) else s)

def execVfabMismatchTimeout (s : State) : Host.Outcome State Fault Refusal := .next (vfabWatch s (vfabMismatch s))

/-- Two paces agree within 1/64 of the earlier one. -/
def paceAgrees (old new : Nat) : Bool := decide (64 * (max old new - min old new) ≤ old)

/-- A pace window ends, its loops having passed `na` and `nb` tokens (R79); around SIMMER the next follows at once, and two
that agree confirm the hearth. -/
def windowEnd (s : State) (h na nb : Nat) : State :=
  if tget (fun _ => false) s.pace.windows h = false then s
  else
    let a := trimmedRate s h false na
    let b := trimmedRate s h true nb
    let old := s.get (FAB_PACE_pace h)
    let s := paceEnd s h a b
    if s.pwr.phase = .simmerEntry ∧ s.pwr.rampDone = true then
      let n := tget (fun _ => 0) s.pwr.agree h
      let n := if n = 0 then 1 else if paceAgrees old (min a b) then 2 else 1
      let s := s.setPwr { s.pwr with agree := tput (fun _ => 0) s.pwr.agree h n }
      let s := if s.flag FAB_VFAB_PMB_en then
          s.setPace { s.pace with windows := tput (fun _ => false) s.pace.windows h true } else s
      simmerConfirm s
    else s

def execPaceWindowEnd (h : Fin 36) (a b : Nat) (s : State) : Host.Outcome State Fault Refusal :=
  .next (windowEnd s h.val a b)

/-! ## BANKED (Tables 16.8, 16.9) -/

/-- What BANKED entry takes away besides the supplies: the fabric's tokens, the store's content and the clocks. -/
def bankedCut (s : State) : State :=
  let s := dropFabric s
  let s := { s with store := { s.store with content := [] } }
  ((s.put CLK_STAT_lock 0).put CLK_STAT_div 0).put MGC_STAT_state 3

/-- PWR_SUP with VPER (bit 5) and VFAB (bit 4) as `k` shows them. -/
def suppliesAs (s : State) (k : Nat) : State :=
  s.put PWR_SUP_sup (s.get PWR_SUP_sup - s.get PWR_SUP_sup / 16 % 4 * 16 + 16 * k)

/-- PWR_RUN goes low and the block is in BANKED; a bank whose supply is off is in HOT-SOCKET (Table 12.2). -/
def bankedOff (s : State) : State :=
  let s := powerPhase (s.setPwr { s.pwr with pwrRun := false }) .banked
  (List.range 12).foldl (fun s b => if s.get (PIN_BANK_vsense b) = 0 then bankHot s b 0 else s) s

/-- A latched wake event takes place now. -/
def wakeLatched (s : State) : State :=
  match s.pwr.wakeLatched with
  | some (k, src) => wakeEvent (s.setPwr { s.pwr with wakeLatched := none }) k src
  | none => s

/-- The entry completes once every channel in use is in self-refresh and the MGC has saved its state: the root PLL stops,
PWR_RUN goes low and the MGC is MINIMAL. With VFAB off the fabric's tokens and the store blocks' content are lost. A
latched wake event then starts the exit. -/
def bankedDone (s : State) : State :=
  if s.pwr.phase = .bankedEntry ∧ s.get MGC_STAT_state = 1 ∧
      [0, 1].all (fun c => dramState s c != 1 && dramState s c != 2 && dramState s c != 4) = true then
    wakeLatched (bankedOff (suppliesAs (bankedCut s) 0))
  else s

def execBankedEntryComplete (s : State) : Host.Outcome State Fault Refusal := .next (bankedDone s)

/-- A wake event of R430 from an enabled source. -/
def bankedWake (s : State) : WakeSource → State
  | .pin b k => wakePin s b.val k.val
  | .tumbler t =>
    if s.flag (PIN_TMB_CFG_wake t.val) && s.flag (PIN_TMB_CFG_en t.val) then wakeEvent s 2 t.val else s
  | .alarm => if s.pwr.phase = .banked then alarmFire s 15 else s
  | .management t => if t = .kwr then s else wakeEvent s 4 0

def execBankedWake (src : WakeSource) (s : State) : Host.Outcome State Fault Refusal := .next (bankedWake s src)

/-- The stream's pin and tumbler settings and data registers come back with the commit that ends BANKED (Tables 12.7, 12.10,
12.12); the registers of the other blocks keep their values through BANKED (DESIGN CHOICE, log entry 48). -/
def pinsReturn (s : State) : State := withPairs (restorePins s) s.cfg.pinPairs (fun _ => true)

/-- VPER and VFAB are in range, the root PLL locks, the MGC serves from ember RAM and commands the stored target, the
store blocks are 0, and the retained configuration commits. -/
def bankedReady (s : State) : State :=
  if s.pwr.phase = .bankedExit ∧ s.pwr.clocked = false then
    let s := ((suppliesAs s 3).put CLK_STAT_lock 1).put MGC_STAT_state
      (if s.get MGC_STAT_state = 2 then 2 else 1)
    let s := s.setPwr { s.pwr with clocked := true }
    let s := setRamping (vfabCommand s (s.get FAB_VFAB_CTL_target)) false
    let s := match s.pwr.lateSup with
      | some v => raise (s.setPwr { s.pwr with lateSup := none }) 0x9103 (packWord [(28, v.toNat)])
      | none => s
    commitCore (pinsReturn s)
  else s

def execBankedSuppliesReady (s : State) : Host.Outcome State Fault Refusal := .next (bankedReady s)

/-- The supplies are not in range 1.5 ms after PWR_RUN rises: what PWR_SUP shows then goes into 9103h once the MGC serves
again. The operand gives VPER (bit 1) and VFAB (bit 0). -/
def bankedLate (s : State) (supplies : BitVec 2) : State :=
  if s.pwr.phase = .bankedExit ∧ s.pwr.clocked = false then
    let s := suppliesAs s supplies.toNat
    s.setPwr { s.pwr with lateSup := some (BitVec.ofNat 8 (s.get PWR_SUP_sup)) }
  else s

def execBankedSupplyLate (supplies : BitVec 2) (s : State) : Host.Outcome State Fault Refusal :=
  .next (bankedLate s supplies)

/-! ## An idle tick (DESIGN CHOICE, log entry 2) -/

/-- The timebase's step in one tick of an idle device: 1 while the root clock runs, 128 while the ember domain counts
periods of REF25, and 0 without a reference (R413, R414). -/
def tickLength (s : State) : Nat :=
  match s.pwr.phase with
  | .cold | .supplies => 0
  | .released => 128
  | .banked => if s.flag CLK_STAT_ref_ok then 128 else 0
  | .bankedExit => if s.pwr.clocked then 1 else 128
  | _ => 1

/-- With no command waiting, time passes: the timebase advances, with its views W0 to W7 and the samples of the tumblers,
at the root edges of a device that is not divided and else every 8 ticks; a sample of BANKED, and of its entry, comes with
each period of the ember domain (R131, R300, R427, Table 12.10). An exit from SIMMER completes, and a held power-state request goes on. -/
def tick (s : State) : State :=
  let s := { s with timebase := s.timebase + BitVec.ofNat 72 (tickLength s) }
  let edge := s.pwr.clocked && (!inSimmer s || s.timebase.toNat % 8 == 0)
  let s := if edge then timebaseViews s else s
  let ember := s.pwr.phase == .banked || (s.pwr.phase == .bankedEntry && s.timebase.toNat % 128 == 0)
  let s := if edge || ember then (List.range 24).foldl tmbSample s else s
  powerResume (simmerDone s)

end Sys2Proof.Machine
end

