-- ==== Sys2Proof/Machine/RegWrite.lean ====
section
/-! DEFINITION. RegWrite: reads and writes of the registers of the control space under their access codes (R8,
Table 0.5), what a register that shows live state reads as, and the control hinge's access to them (R136, R137). -/
namespace Sys2Proof.Machine
open Sys2Proof

/-! ## Reads -/

/-- FAB_STEER_VAL: the entry that FAB_STEER_IDX names (Table 3.15). -/
def steerValWord (s : State) : W36 :=
  let h := s.get FAB_STEER_IDX_hearth
  let c := s.get FAB_STEER_IDX_lcol
  if 36 ≤ h ∨ 66 ≤ c then 0
  else packWord [(8, (steerOf s h c).1), (0, if (steerOf s h c).1 = 3 then 127 else (steerOf s h c).2)]

/-- SCB_ISO_VAL: the setting that SCB_ISO_IDX names; 0 where it names none (Table 14.13). -/
def isoValWord (s : State) : W36 :=
  let w := s.word SCB_ISO_IDX
  if isoNamed w then packWord [(34, tget (fun _ => 0) s.scb.isoVal (isoWordKey w))] else 0

/-- DRM_RMP_c_i: ppr reads 1 while the row's hard repair is requested (Table 10.25). -/
def remapWord (s : State) (c i : Nat) : W36 :=
  let w := s.word (DRM_RMP c i)
  if bitsOf w 35 1 = 1 ∧ s.flag (DRM_CFG_ppr_en c) = true then withBits w 34 1 1 else w

/-- The hinge belt's registers that show live state (Tables 6.18, 6.20, 6.28, 6.29, 7.16). -/
def hingeWord (s : State) (a : Nat) : W36 :=
  let w := s.word a
  if among a (HNG_EV_STAT 0) 1152 then withBits w 34 2 (evState s (a - HNG_EV_STAT 0))
  else if among a (HNG_WD_STAT 0) 288 then withBits w 34 2 (wdState s (a - HNG_WD_STAT 0))
  else if a = HNG_CTLH_STAT then withBits w 34 2 (ctlState s)
  else if a = HNG_CTLH_CFG then withBits (withBits w 17 1 0) 10 1 0
  else if among a (HNG_FIFO_STAT 0) 128 then fifoStatWord s (a - HNG_FIFO_STAT 0)
  else w

/-- What the register at word address `a` reads as; a read has no effect but for `readRegister`'s two registers. -/
def readWord (s : State) (a : Nat) : W36 :=
  match a / 0x80000 with
  | 0 =>
    if a = MGC_SER_L then BitVec.ofNat 36 Config.serial.toNat
    else if a = MGC_SER_H then BitVec.ofNat 36 (Config.serial.toNat >>> 36)
    else s.word a
  | 2 =>
    if among a (FAB_PACE 0) 36 then paceWord s (a - FAB_PACE 0)
    else if a = FAB_STEER_VAL then steerValWord s
    else if a = FAB_SB_VAL then storeValWord s
    else s.word a
  | 4 => hingeWord s a
  | 8 =>
    if among a (DRM_DLY_VAL 0) 2 then (dlyWords s (a - DRM_DLY_VAL 0)).1
    else if among a (DRM_DLY_DRF 0) 2 then (dlyWords s (a - DRM_DLY_DRF 0)).2
    else if among a (DRM_RMP 0 0) 64 then remapWord s ((a - DRM_RMP 0 0) / 32) ((a - DRM_RMP 0 0) % 32)
    else s.word a
  | 13 =>
    if a = SCB_ISO_VAL then isoValWord s
    else if a = SCB_RES_VAL then s.scb.results.getD (s.get SCB_RES_IDX_idx) 0
    else s.word a
  | _ => s.word a

/-- A read: of CLK_TB_L, which latches the timebase's high word, of CFG_RB_DAT, which moves to the next word, or of any
other register. -/
def readRegister (s : State) (a : Nat) : State × W36 :=
  if a = CLK_TB_L then let t := timebaseRead s; (t, t.word CLK_TB_L)
  else if a = CFG_RB_DAT then let t := readbackRead s; (t, t.word CFG_RB_DAT)
  else (s, readWord s a)

/-! ## Writes: the access codes -/

/-- A register's word with the masked bits of `data`. -/
def mergeWord (w mask data : W36) : W36 := (w &&& ~~~ mask) ||| (data &&& mask)

/-- What a write leaves of one field: RW takes the masked bits if the value is one that the field takes, W1C clears the
bits written 1, and every other code keeps (R8). -/
def storeField (a : Nat) (mask data w : W36) (f : FieldInfo) : W36 :=
  match f.acc with
  | .rw =>
    let v := bitsOf (mergeWord w mask data) f.lo f.width
    if fieldTakes a f.lo v then withBits w f.lo f.width v else w
  | .w1c => w &&& ~~~ (data &&& mask &&& maskOf f.lo f.width)
  | .ro | .wo | .w1s => w

/-- The RW and W1C fields of a register take a write. -/
def plainWrite (s : State) (a : Nat) (mask data : W36) : State :=
  s.setWord a ((fieldsAt a).foldl (storeField a mask data) (s.word a))

/-- A mask without a field. -/
def maskOff (mask : W36) (f : Field) : W36 := mask &&& ~~~ maskOf f.lo f.width

/-- The mask reaches a field. -/
def reaches (mask : W36) (f : Field) : Bool := mask &&& maskOf f.lo f.width != 0

/-- The value that a masked write gives a field. -/
def fieldOf (s : State) (mask data : W36) (f : Field) : Nat := bitsOf (mergeWord (s.word f.addr) mask data) f.lo f.width

/-- A field written with a value other than the one it holds. -/
def changes (s : State) (mask data : W36) (f : Field) : Bool := fieldOf s mask data f != s.get f

/-- A 1 written to bit `i`. -/
def writes1 (mask data : W36) (i : Nat) : Bool := (data &&& mask).getLsbD i

/-- Act on the state if a condition holds. -/
def when (b : Bool) (f : State → State) (s : State) : State := if b then f s else s

/-! ## Writes: block by block -/

/-- The FAB block (Tables 2.13 to 2.18, 3.11 to 3.18, 4.11 to 4.16, 5.7 to 5.10). -/
def writeFab (s : State) (fabric : Bool) (a : Nat) (mask data : W36) : State :=
  if a = FAB_URST_REQ then
    (List.range 36).foldl (fun s h => if writes1 mask data h then userReset s (Fin.ofNat _ h) else s) s
  else if a = FAB_TOK_LAST ∨ a = FAB_XB_LAST ∨ a = FAB_SB_LAST then
    if writes1 mask data 0 then s.setWord a 0 else s
  else if a = FAB_TOK_CNT then if writes1 mask data 35 then s.put FAB_TOK_CNT_cnt 0 else s
  else if a = FAB_XB_CNT then if writes1 mask data 35 then s.put FAB_XB_CNT_cnt 0 else s
  else if among a (FAB_PRB_PIN 0) 16 then probeWrite s (a - FAB_PRB_PIN 0) mask data
  else if a = FAB_GOV_CFG then
    let en := fieldOf s mask data FAB_GOV_CFG_en
    let was := s.get FAB_GOV_CFG_en
    let s := plainWrite s a (maskOff mask FAB_GOV_CFG_en) data
    if en = was then s else if en = 1 then governorEnable s else governorDisable s
  else if a = FAB_VFAB_CTL then
    let mv := fieldOf s mask data FAB_VFAB_CTL_target
    let s := plainWrite s a (maskOff mask FAB_VFAB_CTL_target) data
    if reaches mask FAB_VFAB_CTL_target then commandIf (vfabTarget s mv) fabric (fieldTakes a 16 mv) 0 mv else s
  else if a = FAB_VFAB_PMB then
    let s := plainWrite s a mask data
    let s := setRamping s (s.flag FAB_VFAB_CTL_ramping)
    if reaches mask FAB_VFAB_PMB_en then
      if s.flag FAB_VFAB_PMB_en then (if inSimmer s then s else vfabStart s)
      else vfabStart (setRamping s false)
    else s
  else plainWrite s a mask data

/-- The HNG block (Tables 6.17 to 6.29, 7.13 to 7.19). A mailbox of the publication takes no push or pop of firmware
(R401). -/
def writeHng (s : State) (a : Nat) (mask data : W36) : State :=
  if among a (HNG_EV_STAT 0) 1152 then
    let i := a - HNG_EV_STAT 0
    let s := plainWrite s a mask data
    if writes1 mask data 0 then ((s.put (HNG_EV_STAT_mcount i) 0).put (HNG_EV_STAT_disc i) 0).put (HNG_EV_STAT_refused i) 0
    else s
  else if among a (HNG_WD_STAT 0) 288 then
    let j := a - HNG_WD_STAT 0
    let s := plainWrite s a mask data
    if writes1 mask data 0 then (s.put (HNG_WD_STAT_jcount j) 0).put (HNG_WD_STAT_disc j) 0 else s
  else if a = HNG_STALL_LAST then if writes1 mask data 0 then s.setWord a 0 else s
  else if a = HNG_SIDE_RST then
    sideReset s (withBits (mergeWord (s.word a) mask data) 0 1 (b2n (writes1 mask data 0)))
  else if among a (HNG_UCLK 0) 8 then
    userClockWrite s (a - HNG_UCLK 0) (withBits (mergeWord (s.word a) mask data) 33 1 (b2n (writes1 mask data 33)))
  else if a = HNG_CTLH_STAT then
    let s := plainWrite s a mask data
    if writes1 mask data 0 then s.put HNG_CTLH_STAT_last_addr 0 else s
  else if among a (HNG_FIFO_CTL 0) 128 then
    let f := a - HNG_FIFO_CTL 0
    let s := plainWrite s a mask data
    let s := if writes1 mask data 32 then s.setWord (HNG_FIFO_CNT f) 0 else s
    let s := if writes1 mask data 35 then flushWrite s f else s
    if writes1 mask data 34 then clearWrite s f else s
  else if among a (HNG_FIFO_MBC 0) 48 then
    let g := a - HNG_FIFO_MBC 0
    let s := plainWrite s a mask data
    let s := if writes1 mask data 35 then mailboxPush s g (s.flag (HNG_FIFO_MBC_e g)) (s.flag (HNG_FIFO_MBC_a g)) else s
    if writes1 mask data 34 then mailboxPop s g else s
  else plainWrite s a mask data

/-- LNE_SEEK_CFG: a write with a field out of range, or with bmin above bmax, has no effect (Table 8.23). -/
def seekWrite (s : State) (mask data : W36) : State :=
  let w := mergeWord (s.word LNE_SEEK_CFG) mask data
  if within 100 4095 (bitsOf w 24 12) && within 1 1000 (bitsOf w 14 10) && within 1 1000 (bitsOf w 4 10) &&
      decide (bitsOf w 14 10 ≤ bitsOf w 4 10) then plainWrite s LNE_SEEK_CFG mask data
  else s

/-- LNE_CTL_l (Table 8.17). A mode or power state written with the value it has changes nothing. -/
def laneWrite (s : State) (fabric : Bool) (l : Nat) (mask data : W36) : State :=
  let mode := fieldOf s mask data (LNE_CTL_mode l)
  let pwr := fieldOf s mask data (LNE_CTL_pwr_state l)
  let newMode := changes s mask data (LNE_CTL_mode l)
  let newPwr := changes s mask data (LNE_CTL_pwr_state l)
  let s := plainWrite s (LNE_CTL l) (maskOff (maskOff mask (LNE_CTL_mode l)) (LNE_CTL_pwr_state l)) data
  let s := commandIf s fabric (reaches mask (LNE_CTL_pwr_state l) && pwr != 3) (1 + l) pwr
  let s := if newMode then laneModeWrite s l mode else s
  let s :=
    if newPwr then
      match pwr with
      | 0 => laneActive s l
      | 1 => laneIdleHold s l
      | 2 => laneBanked s l
      | _ => s
    else s
  let s := if writes1 mask data 31 then retrain s l else s
  let s := if writes1 mask data 25 then (s.setWord (LNE_ERR l) 0).setWord (LNE_PKT l) 0 else s
  if s.get (LNE_CTL_pwr_state l) = 1 then autowake s l else s

/-- The logical lane that physical lane `p` serves (R193). -/
def logicalOf (s : State) (p : Nat) : Nat :=
  match (List.range 4).find? (fun k => physLane s (4 * (p / 4) + k) == p) with
  | some k => 4 * (p / 4) + k
  | none => p

/-- The LNE block (Tables 8.16 to 8.23). -/
def writeLne (s : State) (fabric : Bool) (a : Nat) (mask data : W36) : State :=
  if among a (LNE_CORD_CFG 0) 6 then
    let n := a - LNE_CORD_CFG 0
    let w := mergeWord (s.word a) mask data
    let old := s.word a
    let s := plainWrite s a (mask &&& maskOf 32 1) data
    let s := if bitsOf w 24 8 = bitsOf old 24 8 then s else cordMap s n (bitsOf w 24 8)
    cordRate s n (bitsOf w 34 2)
  else if among a (LNE_CTL 0) 24 then laneWrite s fabric (a - LNE_CTL 0) mask data
  else if among a (LNE_EQ 0) 24 then
    if s.flag (LNE_CTL_adapt_en (logicalOf s (a - LNE_EQ 0))) then s
    else (plainWrite s a mask data).put (LNE_EQ_src (a - LNE_EQ 0)) 0
  else if among a (LNE_TXEQ 0) 24 then
    let w := mergeWord (s.word a) mask data
    if bitsOf w 31 5 + bitsOf w 25 6 + bitsOf w 19 6 ≤ 63 then plainWrite s a mask data else s
  else if a = LNE_SEEK_CFG then seekWrite s mask data
  else plainWrite s a mask data

/-- A block time at a rate, in units of 1/1000 tick (Table 8.1). -/
def blockTime : Nat → Nat
  | 0 => 168960
  | 1 => 67584
  | 2 => 20480
  | _ => 8192

/-- The frame's transmit time stays within three quarters of the period (R207). -/
def frameFits (s : State) (k sb period mslots : Nat) : Bool :=
  decide (4 * (frameTime (sb + 1) (kwrWidth s k) mslots * blockTime (s.get (LNE_CORD_CFG_rate k))) ≤ 3 * (1000 * period))

/-- KWR_CFG_k (Table 9.8): mslots is bound by the period, and at most one engine steers the timebase (R207, R224). A role or a
width written acts whatever its value was (R212, R228). -/
def ringWrite (s : State) (fabric : Bool) (k : Nat) (mask data : W36) : State :=
  let role := fieldOf s mask data (KWR_CFG_role k)
  let width := fieldOf s mask data (KWR_CFG_width k)
  let rest := maskOff (maskOff mask (KWR_CFG_role k)) (KWR_CFG_width k)
  let fits := frameFits s k (s.get (KWR_CYC_sb k)) (s.get (KWR_CYC_period k)) (fieldOf s mask data (KWR_CFG_mslots k))
  let second := fieldOf s mask data (KWR_CFG_tsync k) == 1 &&
    (List.range 6).any (fun j => j != k && s.flag (KWR_CFG_tsync j))
  let rest := if fits then rest else maskOff rest (KWR_CFG_mslots k)
  let rest := if second then maskOff rest (KWR_CFG_tsync k) else rest
  let s := plainWrite s (KWR_CFG k) rest data
  let s := commandIf s fabric (reaches mask (KWR_CFG_role k) && role != 3) (25 + k) role
  let s := if reaches mask (KWR_CFG_width k) && width != 3 then kwrWidthWrite s k width else s
  if reaches mask (KWR_CFG_role k) then kwrRole s k role else s

/-- KWR_CYC_k: a value that would not fit its frame has no effect (R207). -/
def cycleWrite (s : State) (k : Nat) (mask data : W36) : State :=
  let t := plainWrite s (KWR_CYC k) mask data
  if frameFits t k (t.get (KWR_CYC_sb k)) (t.get (KWR_CYC_period k)) (t.get (KWR_CFG_mslots k)) then t else s

/-- The KWR block (Tables 9.8 to 9.17). -/
def writeKwr (s : State) (fabric : Bool) (a : Nat) (mask data : W36) : State :=
  if among a (KWR_CFG 0) 6 then ringWrite s fabric (a - KWR_CFG 0) mask data
  else if among a (KWR_CYC 0) 6 then cycleWrite s (a - KWR_CYC 0) mask data
  else if among a (KWR_CTL 0) 6 then
    let k := a - KWR_CTL 0
    let s := if writes1 mask data 35 then (s.setWord (KWR_CNT k) 0).setWord (KWR_MCNT k) 0 else s
    let s := if writes1 mask data 34 then alarmSet s k else s
    if writes1 mask data 33 then alarmClear s k else s
  else plainWrite s a mask data

/-- The DRM block (Tables 10.13 to 10.25, 11.11 to 11.16). -/
def writeDrm (s : State) (fabric : Bool) (a : Nat) (mask data : W36) : State :=
  if among a (DRM_CFG 0) 2 then
    let c := a - DRM_CFG 0
    let rate := fieldOf s mask data (DRM_CFG_rate c)
    let ppr := fieldOf s mask data (DRM_CFG_ppr_en c)
    let s := plainWrite s a (maskOff (maskOff mask (DRM_CFG_rate c)) (DRM_CFG_ppr_en c)) data
    let s := if reaches mask (DRM_CFG_ppr_en c) then
        if ppr = 1 then
          (if s.flag (DRM_CFG_ppr_en c) then s else setDram s c { dramOf s c with pprPending := true })
        else setPpr (setDram s c { dramOf s c with pprPending := false }) c false
      else s
    if reaches mask (DRM_CFG_rate c) then
      commandIf (rateRequest s c rate) fabric (rate != 3) (31 + c) rate
    else s
  else if among a (DRM_ECC_SYN 0) 2 then
    let c := a - DRM_ECC_SYN 0
    if writes1 mask data 0 then (s.setWord (DRM_ECC_LAST c) 0).setWord (DRM_ECC_SYN c) 0 else s
  else if among a (DRM_CNT 0) 2 then
    let c := a - DRM_CNT 0
    if writes1 mask data 35 then (s.setWord (DRM_ECC c) 0).setWord (DRM_CNT c) 0 else s
  else if among a (DRM_REF 0) 2 then tempSource (plainWrite s a mask data) (a - DRM_REF 0)
  else if among a (DRM_TRN_CFG 0) 2 then
    let s := plainWrite s a mask data
    if writes1 mask data 17 then sweepRequest s (a - DRM_TRN_CFG 0) else s
  else plainWrite s a mask data

/-- The tumbler register at address `a`: its tumbler and number in the order of `tmbAddr`. -/
def tumblerReg (a : Nat) : Option (Nat × Nat) :=
  if among a (PIN_TMB_CFG 0) 24 then some (a - PIN_TMB_CFG 0, 0)
  else if among a (PIN_TMB_POL 0) 24 then some (a - PIN_TMB_POL 0, 1)
  else if among a (PIN_TMB_MSK 0) 24 then some (a - PIN_TMB_MSK 0, 2)
  else if among a (PIN_TMB_EMSK 0) 24 then some (a - PIN_TMB_EMSK 0, 3)
  else if among a (PIN_TMB_PAT 0 0) 96 then some ((a - PIN_TMB_PAT 0 0) / 4, 4 + (a - PIN_TMB_PAT 0 0) % 4)
  else if among a (PIN_TMB_WIN 0) 24 then some (a - PIN_TMB_WIN 0, 8)
  else none

/-- The PIN block (Tables 12.13 to 12.20). -/
def writePin (s : State) (fabric : Bool) (a : Nat) (mask data : W36) : State :=
  let i := a - PIN_CFG 0 0
  if among a (PIN_CFG 0 0) 432 then cfgStage s (i / 36) (i % 36) (mergeWord (s.word a) mask data)
  else if among a (PIN_APPLY 0) 12 then applyGroup s (a - PIN_APPLY 0) (data &&& mask)
  else if among a (PIN_DOUT 0) 12 then queueWrite s fabric (a - PIN_DOUT 0) mask data
  else if among a (PIN_TMB_STAT 0) 24 then
    let t := a - PIN_TMB_STAT 0
    if writes1 mask data 0 then (s.put (PIN_TMB_STAT_matches t) 0).put (PIN_TMB_STAT_timeouts t) 0 else s
  else if among a (PIN_PORT 0) 48 then
    let g := a - PIN_PORT 0
    let s := plainWrite s a mask data
    if s.flag (PIN_PORT_en g) then s else setPortOut s g { portOut s g with strobe := false }
  else
    match tumblerReg a with
    | some (t, r) => tmbWrite s t r (mergeWord (s.word a) mask data)
    | none => plainWrite s a mask data

/-- The CFG block (Tables 13.11, 13.13). A write of CFG_FL_CMD starts the command with the length it gives, unless one
runs. -/
def writeCfg (s : State) (a : Nat) (mask data : W36) : State :=
  if a = CFG_CTL then
    let s := plainWrite s a mask data
    if writes1 mask data 35 then warmRecommit s else s
  else if a = CFG_RB_IDX then readbackIndex s (mergeWord (s.word a) mask data)
  else if a = CFG_FL_CMD then
    let cmd := fieldOf s mask data CFG_FL_CMD_cmd
    if s.mgcFull = false ∨ s.cfg.flashJob.isSome = true ∨ s.cfg.flashHeld.isSome = true then s
    else flashStart (plainWrite s a (maskOff mask CFG_FL_CMD_cmd) data) cmd
  else plainWrite s a mask data

/-- The scrubber follows SCB_CFG.en: 0 stops its passes, 1 lets the next one start (Table 14.12). -/
def scrubFollow (s : State) : State :=
  if s.scb.dead then s
  else if s.flag SCB_CFG_en then (if s.get SCB_STAT_state = 2 ∧ scrubTime s = true then s.put SCB_STAT_state 0 else s)
  else { s.put SCB_STAT_state 2 with scb := { s.scb with passDue := false } }

/-- The SCB block (Tables 14.12 to 14.15). -/
def writeScb (s : State) (fabric : Bool) (a : Nat) (mask data : W36) : State :=
  if a = SCB_CFG then
    let s := plainWrite s a mask data
    if reaches mask SCB_CFG_en then scrubFollow s else s
  else if a = SCB_CNT then if writes1 mask data 35 then (s.setWord SCB_CNT 0).setWord SCB_LAST 0 else s
  else if a = SCB_HRL_REQ then
    (List.range 36).foldl (fun s h =>
      if writes1 mask data h then reloadRequest s (Fin.ofNat _ h) (if fabric then .design else .firmware) false else s) s
  else if a = SCB_ISO then
    let s := (List.range 36).foldl (fun s h =>
      if mask.getLsbD h then (if data.getLsbD h then isolateWrite s h else releaseWrite s h) else s) s
    if fabric then s else isoCommanded s
  else if a = SCB_ISO_VAL then
    let w := s.word SCB_ISO_IDX
    let v := bitsOf (mergeWord (isoValWord s) mask data) 34 2
    if isoNamed w && isoSetting w v then
      { s with scb := { s.scb with isoVal := tput (fun _ => 0) s.scb.isoVal (isoWordKey w) v } }
    else s
  else if a = SCB_SDT then if writes1 mask data 35 then shutdownTest s else s
  else plainWrite s a mask data

/-- A doorbell rings: its bit reads 1 until its event hinge holds no crossing, and one event is offered on
E(1016 + i), whose refusal clears the bit (R400). -/
def ringDoorbell (s : State) (i : Nat) : State := offerEvent (s.putBit MGC_DB_OUT_ring i true) (1016 + i)

/-- The MGC block (Table 15.16). -/
def writeMgc (s : State) (a : Nat) (mask data : W36) : State :=
  if a = MGC_DB_OUT then
    (List.range 32).foldl (fun s i => if writes1 mask data i then ringDoorbell s i else s) s
  else plainWrite s a mask data

/-- The CLK block (Table 16.11); wake reads 0 but for alarm 15. -/
def writeClk (s : State) (a : Nat) (mask data : W36) : State :=
  if among a (CLK_ALM_CFG 0) 16 then
    let i := a - CLK_ALM_CFG 0
    let s := plainWrite s a (if i = 15 then mask else maskOff mask (CLK_ALM_CFG_wake i)) data
    if writes1 mask data 22 then s.put (CLK_ALM_CFG_skipped i) 0 else s
  else if among a (CLK_ALM_L 0) 16 then alarmCompareWrite s (a - CLK_ALM_L 0) (mergeWord (s.word a) mask data)
  else plainWrite s a mask data

/-- A write of a power-state code (R426); a transport's write is a commanded one unless it is refused (R433). -/
def powerWrite (s : State) (fabric : Bool) (cmd : Nat) : State :=
  let s := commandIf s fabric ((powerRefusal s).isNone && cmd != 3) 34 cmd
  match cmd with
  | 0 => cmdRun s
  | 1 => cmdSimmer s
  | 2 => cmdBanked s
  | _ => s

/-- The PWR block (Table 16.12). -/
def writePwr (s : State) (fabric : Bool) (a : Nat) (mask data : W36) : State :=
  if a = PWR_CTL then
    if reaches mask PWR_CTL_cmd then powerWrite s fabric (fieldOf s mask data PWR_CTL_cmd) else s
  else plainWrite s a mask data

/-- A masked write to the register at word address `a`: only the bits that the mask sets are written, and only they
act (R8, R136). -/
def writeRegister (s : State) (fabric : Bool) (a : Nat) (mask data : W36) : State :=
  if mask = 0 ∨ (regRange? a).isNone = true then s
  else match a / 0x80000 with
  | 0 => writeMgc s a mask data
  | 2 => writeFab s fabric a mask data
  | 4 => writeHng s a mask data
  | 6 => writeLne s fabric a mask data
  | 7 => writeKwr s fabric a mask data
  | 8 => writeDrm s fabric a mask data
  | 10 => writePin s fabric a mask data
  | 12 => writeCfg s a mask data
  | 13 => writeScb s fabric a mask data
  | 14 => writeClk s a mask data
  | 15 => writePwr s fabric a mask data
  | _ => s

/-! ## The control hinge's access (R136, R137) -/

/-- The bit of HNG_CTLH_CFG.win that opens the block of an address; the bits of CFG and MGC always read 0, and an
address outside every block has none. -/
def windowOpen (s : State) (a : Nat) : Option Bool :=
  let bit := fun n => some (bitsOf (s.word HNG_CTLH_CFG) n 1 == 1)
  match a / 0x80000 with
  | 0 | 12 => some false
  | 2 => bit 11
  | 4 => bit 12
  | 6 => bit 13
  | 7 => bit 14
  | 8 => bit 15
  | 10 => bit 16
  | 13 => bit 18
  | 14 => bit 19
  | 15 => bit 20
  | _ => none

/-- The status of an access by the fabric (Table 6.12), before it is performed. -/
def accessStatus (s : State) (op : BitVec 2) (a : Nat) : BitVec 2 :=
  if op = 3 then 3
  else if a = HNG_CTLH_CFG ∨ windowOpen s a = some false then 1
  else if (regRange? a).isNone then 2
  else 0

/-- The control-space bus performs an access of the fabric: its status, and the data of a read. -/
def busAccess (s : State) (r : CtlRequest) : State × CtlResponse :=
  let a := r.addr.toNat
  let st := accessStatus s r.op a
  if st = 1 then ((s.put HNG_CTLH_STAT_refused 1).put HNG_CTLH_STAT_last_addr a, ⟨0, st⟩)
  else if st = 0 then
    if r.op = 0 then let t := readRegister s a; (t.1, ⟨t.2, st⟩)
    else (writeRegister s true a (if r.op = 1 then BitVec.allOnes 36 else r.mask) r.data, ⟨0, st⟩)
  else (s, ⟨0, st⟩)

/-- The access edge of the request in hand: its access is performed, and its response is ready. A clocked side that takes
nothing performs none (R140). -/
def accessEdge (s : State) : State :=
  match s.hng.ctlReq with
  | none => s
  | some r =>
    if !s.hng.ctlSeal.open1 then s else
    let t := busAccess s r
    { t.1 with hng := { t.1.hng with ctlReq := none, ctlDone := some t.2 } }

def execCtlhAccessEdge (s : State) : Host.Outcome State Fault Refusal := .next (accessEdge s)

/-- A write of a whole register: by the fabric, as far as the open control hinge lets it (R11, R139), or by the MGC, which writes while
it serves in full. -/
def execRegisterWrite (fabric : Bool) (addr : Addr) (data : W36) (s : State) : Host.Outcome State Fault Refusal :=
  .next (if fabric then (if ctlOpen s then (busAccess s ⟨1, addr, data, 0⟩).1 else s)
    else if s.mgcFull then writeRegister s false addr.toNat (BitVec.allOnes 36) data else s)

def execWakeTimeWrite (t : Transport) (tb : W72) (s : State) : Host.Outcome State Fault Refusal :=
  .next (if s.mgcServing && !(t == .kwr && s.get MGC_STAT_state == 3) then wakeTimeWrite s tb else s)

def execDoorbellRing (i : Fin 32) (s : State) : Host.Outcome State Fault Refusal := .next (ringDoorbell s i.val)

end Sys2Proof.Machine
end

