-- ==== Sys2Proof/Machine/Deliver.lean ====
section
/-! DEFINITION. Deliver: what an event does at the receiver of its hinge, and the readers of the hinge FIFOs. -/
namespace Sys2Proof.Machine
open Sys2Proof

/-! ## Events out of the fabric reach their endpoints (R125, R215, R290, R295, R400) -/

/-- An event on E(1048 + i) sets bit i of MGC_DB_IN; while the bit is set a further one merges into it (R400). -/
def doorbellIn (s : State) (i : Nat) : State :=
  if s.bit MGC_DB_IN_rcvd i then s
  else
    let s := s.putBit MGC_DB_IN_rcvd i true
    if s.bit MGC_DB_EM_em i then raise s 0xA005 (packWord [(31, i)]) else s

/-- A pulse reaches the clocked endpoint of event hinge `i` (Table 6.1). -/
def endpointPulse (s : State) (i : Nat) : State :=
  if i < 864 then pinEvent s (i / 72) (i % 72 / 2) (i % 2 == 1)
  else if 936 ≤ i ∧ i < 984 then
    if i % 8 = 6 then alarmSet s ((i - 936) / 8) else if i % 8 = 7 then alarmClear s ((i - 936) / 8) else s
  else if 1048 ≤ i ∧ i < 1080 then doorbellIn s (i - 1048)
  else if 1080 ≤ i then gpevEvent s (i - 1080)
  else s

/-- The receiver side of event hinge `i` is open. -/
def receiverOpen (s : State) (i : Nat) : Bool :=
  let e := evOf s i
  if evOut s i then e.sl.open1 else e.sl.open0

/-- The receiver sees REQ high: on the clocked side it delivers a pulse and raises ACK at the same edge; on the fabric
side it presents a token once its channel is free (R125, Table 6.7). -/
def eventReqSeen (s : State) (i : Nat) : State :=
  let e := evOf s i
  if e.req = true ∧ e.rcv = .wait ∧ receiverOpen s i = true then
    if evOut s i then endpointPulse (setEv s i { e with ack := true, rcv := .held }) i
    else
      let h := s.get (HNG_EV_CFG_host i)
      let b := s.get (HNG_EV_CFG_base i)
      if portsIdle s h b 1 then presentAt (setEv s i { e with rcv := .deliver }) h b 1 0 else s
  else s

def execEventReqSeen (i : Fin 1152) (s : State) : Host.Outcome State Fault Refusal := .next (eventReqSeen s i.val)

/-! ## Readers of the hinge FIFOs (R154, R158) -/

/-- A fabric reader takes an entry onto its free entry channel: 18 data positions, then E and A (R150). -/
def popFabric (s : State) (f : Nat) : State :=
  let h := s.get (HNG_FIFO_CFG_host f)
  let b := s.get (HNG_FIFO_CFG_base f)
  if portsIdle s h b 19 then
    match fifoPop s f with
    | (s, none) => s
    | (s, some e) => presentAt s h b 19 (e.data.toNat + (b2n e.e + 2 * b2n e.a) * 2 ^ 36)
  else s

/-- The reader of FIFO `f` takes an entry, or is refused (R158): a lane, an SDRAM controller, the fabric, a pin port, or
firmware through its mailbox. -/
def readerPop (s : State) (f : Nat) : State :=
  if f < 48 then (if f % 2 = 1 then laneSend s (f / 2) else popFabric s f)
  else if f < 80 then (if f % 16 < 8 then requestTake s ((f - 48) / 16) (f % 16) else popFabric s f)
  else
    match s.get (HNG_FIFO_CFG_rkind f) with
    | 0 => popFabric s f
    | 2 => portEntry s (f - 80)
    | 3 =>
      if s.flag MGC_PUB_PORT_en && s.get MGC_PUB_PORT_g_rsp == f - 80 then s
      else if s.mgcServing then mailboxPop s (f - 80) else s
    | _ => (fifoPop s f).1

def execFifoPop (f : Fin 128) (s : State) : Host.Outcome State Fault Refusal := .next (readerPop s f.val)

/-- The reader learns of a seal; a readable transmit entry may end a lane's IDLE-HOLD (R157, R187). -/
def sealSeen (s : State) (f : Nat) : State :=
  let s := fifoSealCrossing s f
  if f < 48 ∧ f % 2 = 1 then autowake s (f / 2) else s

def execFifoSealCrossing (f : Fin 128) (s : State) : Host.Outcome State Fault Refusal := .next (sealSeen s f.val)

end Sys2Proof.Machine
end

