-- ==== Sys2Proof/Machine/Objects.lean ====
section
/-! DEFINITION. Objects: the object dictionary (15): types, access rights, the objects of every function's table, and
what a read or a write of an object does. -/
namespace Sys2Proof.Machine
open Sys2Proof

/-! ## Types and rights (R385, R386, Tables 15.3, 15.4) -/

inductive Ty where
  | bool | n9 | n18 | n36 | n72 | s36 | ticks | text | domain
deriving DecidableEq, Repr

/-- The type that a code of MGC_PUB_CFG_i names (Table 15.3). -/
def tyOf : Nat → Ty
  | 0 => .bool
  | 1 => .n9
  | 2 => .n18
  | 3 => .n36
  | 4 => .n72
  | 5 => .s36
  | 6 => .ticks
  | 7 => .text
  | _ => .domain

/-- Octets in a transfer; none for the types of variable length. -/
def Ty.octets : Ty → Option Nat
  | .bool => some 1
  | .n9 => some 2
  | .n18 => some 3
  | .n36 | .s36 => some 5
  | .n72 | .ticks => some 9
  | .text | .domain => none

/-- Bits of a value. -/
def Ty.bits : Ty → Nat
  | .bool => 1
  | .n9 => 9
  | .n18 => 18
  | .n36 | .s36 => 36
  | .n72 | .ticks => 72
  | .text | .domain => 0

inductive Right where
  | ro | rw | wo | rws
deriving DecidableEq, Repr

/-- The hasp that a write needs (R392 to R394). -/
inductive Need where
  | none | expert | cal
deriving DecidableEq, Repr

/-- Objects with a reading or a writing of their own. -/
inductive Own where
  | heartbeat | errorRegister | xhasp | xhaspOpen | chasp | chaspOpen | idleLimit
  | nodeId | bitRate | dataRate | spiEnable | emEngine | emPosition | segTimeout
  | logCount | logIndex | logTime | logCode | logDetail
  | mergeEm | jumpEm | discEm | flush | clear
  | pinWrite (b : Nat)
  | flashBuffer | keyStaged | keyExpected | keyCommand | keyArgument
  | repair | repairClear | wakeTime | bank | bankStatus
  | calSection (n : Nat)
  | published (i : Nat)
deriving DecidableEq, Repr

/-- What an object stands for: a whole register, a register field, a commanded object over a field, a fixed number or
text, live state, or an object of its own. -/
inductive Ref where
  | reg (a : Nat)
  | fld (f : Field)
  | cmd (pair : Nat) (f : Field)
  | num (n : Nat)
  | text (l : List Octet)
  | live (f : State → Nat)
  | own (o : Own)

/-- A row of an object table: objects index:lo to index:lo + n - 1. -/
structure Row where
  idx : Nat
  lo : Nat
  n : Nat
  ty : Ty
  right : Right
  need : Need
  ref : Nat → Ref

/-- One object. -/
structure Obj where
  ty : Ty
  right : Right
  need : Need
  ref : Ref

/-- Rows without a hasp. -/
def Row.basic (idx lo n : Nat) (ty : Ty) (right : Right) (ref : Nat → Ref) : Row := ⟨idx, lo, n, ty, right, .none, ref⟩

/-- Expert rows over `n` registers (R392, R409): register `i` lies at base + s1 ⌊i/n2⌋ + i mod n2. -/
def Row.expert (idx lo n base n2 s1 : Nat) : Row :=
  ⟨idx, lo, n, .n36, .rw, .expert, fun i => .reg (base + s1 * (i / n2) + i % n2)⟩

/-- Expert rows over an array of `total` registers, 128 to an index. -/
def expertArray (idx total base : Nat) : List Row :=
  (List.range ((total + 127) / 128)).map (fun q => Row.expert (idx + q) 1 (min 128 (total - 128 * q)) (base + 128 * q) 128 128)

/-! ## Live state (6000h to 6FFFh) -/

/-- How many of `0 … n - 1` satisfy `p`. -/
def countOf (n : Nat) (p : Nat → Bool) : Nat := ((List.range n).filter p).length

/-- The octets of a text. -/
def textOctets (t : String) : List Octet := t.toList.map (fun c => BitVec.ofNat 8 c.toNat)

/-- The identity and communication objects (Table 15.8). -/
def rowsId : List Row :=
  [ .basic 0x1000 0 1 .n36 .ro (fun _ => .num 0),
    .basic 0x1001 0 1 .n9 .ro (fun _ => .own .errorRegister),
    .basic 0x1008 0 1 .text .ro (fun _ => .text (textOctets "TKA2436")),
    .basic 0x1009 0 1 .text .ro (fun _ => .text (textOctets "1")),
    .basic 0x100A 0 1 .text .ro (fun _ => .text (textOctets "1." ++ textOctets (toString Config.romRelease.toNat))),
    .basic 0x1017 0 1 .n18 .rw (fun _ => .own .heartbeat),
    .basic 0x1018 1 1 .n36 .ro (fun _ => .num 0x00514E52),
    .basic 0x1018 2 1 .n36 .ro (fun _ => .num 0x2436),
    .basic 0x1018 3 1 .n36 .ro (fun _ => .num (0x10000 + Config.romRelease.toNat)),
    .basic 0x1018 4 1 .n36 .ro (fun _ => .num (bitsOf Config.serial 0 36)),
    .basic 0x1018 5 1 .n36 .ro (fun _ => .num (bitsOf Config.serial 36 36)),
    .basic 0x1F10 1 1 .n18 .wo (fun _ => .own .xhasp),
    .basic 0x1F10 2 1 .bool .ro (fun _ => .own .xhaspOpen),
    .basic 0x1F10 3 1 .n9 .rw (fun _ => .own .idleLimit),
    .basic 0x1F11 1 1 .n18 .wo (fun _ => .own .chasp),
    .basic 0x1F11 2 1 .bool .ro (fun _ => .own .chaspOpen),
    .basic 0x1F20 1 1 .n9 .rw (fun _ => .own .nodeId),
    .basic 0x1F20 2 1 .n9 .rw (fun _ => .own .bitRate),
    .basic 0x1F20 3 1 .n9 .rw (fun _ => .own .dataRate),
    .basic 0x1F21 1 1 .bool .rw (fun _ => .own .spiEnable),
    .basic 0x1F22 1 1 .n9 .rw (fun _ => .own .emEngine),
    .basic 0x1F22 2 1 .n9 .rw (fun _ => .own .emPosition),
    .basic 0x1F23 1 1 .n18 .rw (fun _ => .own .segTimeout) ]

/-- Management and calibration (Tables 15.10, 15.17). -/
def rowsMgc : List Row :=
  [ .basic 0x2000 1 1 .n18 .rw (fun _ => .fld MGC_EM_MASK_mask),
    .basic 0x2000 2 1 .n36 .wo (fun _ => .fld MGC_DB_OUT_ring),
    .basic 0x2000 3 1 .n36 .rw (fun _ => .fld MGC_DB_IN_rcvd),
    .basic 0x2000 4 1 .n36 .rw (fun _ => .fld MGC_DB_EM_em),
    .basic 0x2A00 1 1 .domain .ro (fun _ => .own .bank),
    .basic 0x2A00 2 1 .n18 .ro (fun _ => .own .bankStatus) ] ++
  (List.range 5).map (fun j => ⟨0x2A01 + j, 1, 1, .domain, .rw, .cal, fun _ => .own (.calSection (j + 1))⟩) ++
  [ .expert 0x4000 1 4 0x0 4 4, .expert 0x4000 5 5 0x10 5 5, .expert 0x4001 1 1 0x20 1 1,
    .expert 0x4002 1 128 0x100 128 128, .expert 0x4003 1 128 0x180 128 128,
    .basic 0x6000 1 1 .n9 .ro (fun _ => .fld MGC_STAT_state),
    .basic 0x6000 2 1 .n9 .ro (fun _ => .fld MGC_STAT_restarts),
    .basic 0x6000 3 1 .n18 .ro (fun _ => .fld MGC_EM_CNT_sent),
    .basic 0x6000 4 1 .n18 .ro (fun _ => .fld MGC_EM_CNT_dropped),
    .basic 0x7000 1 1 .n36 .ro (fun _ => .own .logCount),
    .basic 0x7001 1 1 .n36 .rw (fun _ => .own .logIndex),
    .basic 0x7001 2 1 .ticks .ro (fun _ => .own .logTime),
    .basic 0x7001 3 1 .n18 .ro (fun _ => .own .logCode),
    .basic 0x7001 4 1 .n36 .ro (fun _ => .own .logDetail) ]

/-- The fabric, the governor and the store blocks (Tables 2.19, 3.19, 4.17, 5.11). -/
def rowsFab : List Row :=
  [ .basic 0x2110 1 1 .n18 .rw (fun _ => .fld FAB_GOV_CFG_budget),
    .basic 0x2110 2 1 .bool .rw (fun _ => .fld FAB_GOV_CFG_en),
    .basic 0x2110 3 1 .n9 .rw (fun _ => .fld FAB_GOV_CFG_max_stretch),
    .basic 0x2110 4 1 .n36 .rw (fun _ => .fld FAB_GOV_EXEMPT_exempt),
    .basic 0x2110 5 1 .n18 .rw (fun _ => .cmd 0 FAB_VFAB_CTL_target),
    .basic 0x2110 6 1 .n36 .rw (fun _ => .fld FAB_PACE_CFG_period),
    .expert 0x4110 1 6 0x100100 6 6, .expert 0x4111 1 3 0x100110 3 3, .expert 0x4112 1 3 0x100120 3 3,
    .expert 0x4113 1 32 0x100140 32 32, .expert 0x4114 1 36 0x100200 36 36, .expert 0x4115 1 6 0x100230 6 6,
    .expert 0x4116 1 6 0x100240 6 6, .expert 0x4117 1 36 0x100250 36 36, .expert 0x4118 1 4 0x100300 4 4,
    .basic 0x6110 1 1 .n18 .ro (fun _ => .fld FAB_GOV_STAT_p_est),
    .basic 0x6110 2 1 .n18 .ro (fun _ => .fld FAB_GOV_STAT_p_leak),
    .basic 0x6110 3 1 .n18 .ro (fun _ => .fld FAB_VFAB_CTL_actual),
    .basic 0x6111 1 36 .n18 .ro (fun h => .fld (FAB_PACE_pace h)),
    .basic 0x6112 1 36 .n9 .ro (fun h => .fld (levelField h)),
    .basic 0x6113 1 36 .n9 .ro (fun h => .live (fun s => countOf 6 (fun j => (blockOf s h (96 + j)).1 != 3))) ]

/-- Hinges and hinge FIFOs (Tables 6.30, 7.20). -/
def rowsHng : List Row :=
  [ .basic 0x2210 1 4 .n18 .rw (fun k => .fld (HNG_STALL_LIM_lim k)),
    .basic 0x2210 5 1 .bool .rw (fun _ => .own .mergeEm),
    .basic 0x2210 6 1 .bool .rw (fun _ => .own .jumpEm),
    .basic 0x2210 7 1 .n18 .rw (fun _ => .fld HNG_CTLH_CFG_win),
    .basic 0x2220 1 1 .n9 .wo (fun _ => .own .flush),
    .basic 0x2220 2 1 .n9 .wo (fun _ => .own .clear),
    .basic 0x2220 3 1 .bool .rw (fun _ => .own .discEm) ] ++
  expertArray 0x4200 1152 0x200000 ++ expertArray 0x4210 1152 0x200800 ++ expertArray 0x4220 288 0x201000 ++
  expertArray 0x4224 288 0x201200 ++ expertArray 0x4228 288 0x201400 ++ expertArray 0x422C 288 0x201600 ++
  [ .expert 0x4230 1 7 0x202000 7 7, .expert 0x4230 8 2 0x202020 2 2, .expert 0x4231 1 8 0x202010 8 8,
    .expert 0x4240 1 128 0x203000 128 128, .expert 0x4241 1 128 0x203080 128 128, .expert 0x4242 1 128 0x203100 128 128,
    .expert 0x4243 1 128 0x203180 128 128, .expert 0x4244 1 128 0x203200 128 128, .expert 0x4245 1 48 0x203280 48 48,
    .expert 0x4246 1 48 0x2032C0 48 48,
    .basic 0x6210 1 1 .n18 .ro (fun _ => .live (fun s => countOf 1152 (fun i => evUsed s i && evState s i == 2))),
    .basic 0x6210 2 1 .n18 .ro (fun _ => .live (fun s => countOf 288 (fun j => wdUsed s j && wdState s j == 2))),
    .basic 0x6210 3 1 .n18 .ro (fun _ => .live (fun s => countOf 1152 (fun i => s.flag (HNG_EV_STAT_merged i)))),
    .basic 0x6210 4 1 .n18 .ro (fun _ => .live (fun s => s.hng.stalls.length)),
    .basic 0x6210 5 1 .n36 .ro (fun _ => .fld HNG_SEAL_CNT_cnt),
    .basic 0x6220 1 1 .n9 .ro (fun _ => .live (fun s => countOf 128 (fun f => fifoUsed s f && fifoState s f == 2))),
    .basic 0x6220 2 1 .n9 .ro (fun _ => .live (fun s => countOf 128 (fun f => fifoUsed s f && bitsOf (fifoStatWord s f) 33 1 == 1))),
    .basic 0x6220 3 1 .n36 .ro (fun _ =>
      .live (fun s => (List.range 128).foldl (fun n f => n + s.get (HNG_FIFO_CNT_disc_seal f)) 0)) ]

/-- Lanes and the ring (Tables 8.24, 9.18). -/
def rowsLink : List Row :=
  [ .basic 0x2300 1 6 .n9 .rws (fun n => .fld (LNE_CORD_CFG_rate n)),
    .basic 0x2310 1 24 .n9 .rws (fun l => .fld (LNE_CTL_mode l)),
    .basic 0x2311 1 24 .n9 .rw (fun l => .cmd (1 + l) (LNE_CTL_pwr_state l)),
    .basic 0x2312 1 1 .n18 .rw (fun _ => .fld LNE_SEEK_CFG_tmo),
    .basic 0x2312 2 1 .n18 .rw (fun _ => .fld LNE_SEEK_CFG_bmin),
    .basic 0x2312 3 1 .n18 .rw (fun _ => .fld LNE_SEEK_CFG_bmax),
    .expert 0x4300 1 6 0x300000 6 6, .expert 0x4301 1 24 0x300010 24 24, .expert 0x4302 1 24 0x300030 24 24,
    .expert 0x4303 1 24 0x300050 24 24, .expert 0x4304 1 24 0x300070 24 24, .expert 0x4305 1 24 0x300090 24 24,
    .expert 0x4306 1 24 0x3000B0 24 24, .expert 0x4307 1 1 0x3000D0 1 1,
    .basic 0x6310 1 24 .n9 .ro (fun l => .fld (LNE_STAT_link l)),
    .basic 0x6311 1 24 .n9 .ro (fun l => .fld (LNE_STAT_pwr_act l)),
    .basic 0x6312 1 24 .n18 .ro (fun l => .fld (LNE_STAT_attempts l)),
    .basic 0x6313 1 6 .bool .ro (fun n => .fld (LNE_CORD_CFG_pll_lock n)),
    .basic 0x2400 1 6 .n9 .rw (fun k => .cmd (25 + k) (KWR_CFG_role k)),
    .basic 0x2401 1 6 .n9 .rws (fun k => .fld (KWR_CFG_width k)),
    .basic 0x2402 1 6 .n36 .rw (fun k => .fld (KWR_CYC_period k)),
    .basic 0x2403 1 6 .n18 .rw (fun k => .fld (KWR_CFG_hop_dly k)),
    .basic 0x2404 1 6 .bool .rw (fun k => .fld (KWR_CFG_tsync k)),
    .basic 0x6400 1 6 .n9 .ro (fun k => .fld (KWR_STAT_state k)),
    .basic 0x6401 1 6 .n9 .ro (fun k => .fld (KWR_STAT_position k)),
    .basic 0x6402 1 6 .n9 .ro (fun k => .fld (KWR_STAT_nodes k)),
    .basic 0x6403 1 6 .s36 .ro (fun k => .fld (KWR_TIME_offset k)),
    .basic 0x6404 1 6 .n36 .ro (fun k => .live (fun s => (kwrOf s k).cycleNo.toNat)) ] ++
  (List.range 11).map (fun j => .expert (0x4400 + j) 1 6 (0x380000 + 8 * j) 6 6)

/-- SDRAM (Tables 10.26, 11.17). -/
def rowsDrm : List Row :=
  [ .basic 0x2500 1 2 .n9 .rw (fun c => .fld (DRM_REF_tsrc c)),
    .basic 0x2501 1 32 .n9 .rw (fun i => .fld (DRM_PORT_cls (i / 16) (i % 16))),
    .basic 0x2502 1 8 .n36 .rw (fun i => .fld (DRM_AGE_lim (i / 4) (i % 4))),
    .basic 0x2503 1 2 .n18 .rw (fun c => .fld (DRM_PATROL_period c)),
    .basic 0x2504 1 2 .bool .rw (fun c => .fld (DRM_CFG_wb c)),
    .basic 0x2505 1 2 .n9 .rw (fun c => .cmd (31 + c) (DRM_CFG_rate c)),
    .basic 0x2506 1 2 .n18 .rw (fun c => .fld (DRM_TRN_CFG_period c)),
    .basic 0x2507 1 2 .bool .wo (fun c => .fld (DRM_TRN_CFG_sweep c)),
    .expert 0x4500 1 2 0x400000 2 2, .expert 0x4501 1 6 0x400010 3 4, .expert 0x4502 1 6 0x400018 3 4,
    .expert 0x4503 1 32 0x400020 32 32, .expert 0x4504 1 8 0x400040 8 8 ] ++
  (List.range 7).map (fun j => .expert (0x4505 + j) 1 2 (0x400048 + 2 * j) 2 2) ++
  [ .expert 0x450C 1 64 0x400060 64 64, .expert 0x450D 1 2 0x400100 2 2, .expert 0x450E 1 2 0x400102 2 2,
    .expert 0x450F 1 2 0x400104 2 2, .expert 0x4510 1 6 0x400108 3 4, .expert 0x4511 1 2 0x400110 2 2,
    .expert 0x4512 1 2 0x400112 2 2, .expert 0x4513 1 2 0x400114 2 2,
    .basic 0x6500 1 2 .n9 .ro (fun c => .fld (DRM_STAT_state c)),
    .basic 0x6501 1 2 .n18 .ro (fun c => .fld (DRM_ECC_ce c)),
    .basic 0x6502 1 2 .n18 .ro (fun c => .fld (DRM_ECC_ue c)),
    .basic 0x6503 1 2 .bool .ro (fun c => .fld (DRM_REF_mode2x c)),
    .basic 0x6504 1 2 .n9 .ro (fun c => .fld (DRM_CFG_rate c)),
    .basic 0x6505 1 2 .n9 .ro (fun c => .live (fun s => freeEntries s c)),
    .basic 0x6506 1 2 .n9 .ro (fun c => .fld (DRM_TRN_STAT_min_eye c)),
    .basic 0x6507 1 2 .n9 .ro (fun c => .live (fun s => countOf 20 (fun i => s.bit (DRM_TRN_FLAG_flag c) i))),
    .basic 0x6508 1 2 .n9 .ro (fun c =>
      .live (fun s => (List.range 3).foldl (fun n r => n + s.get (DRM_TRN_SET_valid c r) * 2 ^ r) 0)) ]

/-- Pins and tumblers (Table 12.21). -/
def rowsPin : List Row :=
  [ .basic 0x2600 1 12 .n72 .wo (fun b => .own (.pinWrite b)),
    .basic 0x2601 1 12 .n36 .wo (fun b => .fld (PIN_APPLY_apply b)),
    .basic 0x2602 1 12 .bool .rw (fun b => .fld (PIN_BANK_bk_hold b)),
    .basic 0x2603 1 12 .n36 .rw (fun b => .reg (PIN_WAKE b)),
    .basic 0x2604 1 24 .bool .rw (fun t => .fld (PIN_TMB_CFG_en t)),
    .basic 0x2605 1 24 .n18 .rw (fun t => .fld (PIN_TMB_CFG_filt t)),
    .basic 0x2606 1 24 .bool .rw (fun t => .fld (PIN_TMB_CFG_irq_em t)) ] ++
  expertArray 0x4600 432 0x500000 ++
  (List.range 5).map (fun j => .expert (0x4604 + j) 1 12 (0x500200 + 16 * j) 12 12) ++
  (List.range 4).map (fun j => .expert (0x4609 + j) 1 24 (0x500300 + 32 * j) 24 24) ++
  [ .expert 0x460D 1 96 0x500380 96 96, .expert 0x460E 1 24 0x500400 24 24, .expert 0x460F 1 24 0x500420 24 24,
    .expert 0x4610 1 48 0x500500 48 48, .expert 0x4611 1 48 0x500540 48 48,
    .basic 0x6600 1 12 .n36 .ro (fun b => .fld (PIN_DIN_din b)),
    .basic 0x6601 1 12 .n36 .ro (fun b => .fld (PIN_DOUT_dout b)),
    .basic 0x6602 1 12 .n9 .ro (fun b => .fld (PIN_BANK_state b)),
    .basic 0x6603 1 12 .n9 .ro (fun b => .fld (PIN_BANK_vsense b)),
    .basic 0x6604 1 24 .n18 .ro (fun t => .fld (PIN_TMB_STAT_matches t)) ]

/-- Configuration, keyring and flash service (Table 13.14). -/
def rowsCfg : List Row :=
  [ .basic 0x2700 1 1 .n9 .rw (fun _ => .fld CFG_CTL_next),
    ⟨0x2700, 2, 1, .bool, .wo, .expert, fun _ => .fld CFG_CTL_recommit⟩,
    .basic 0x2701 1 1 .n9 .rw (fun _ => .fld CFG_FL_ADDR_target),
    .basic 0x2701 2 1 .n36 .rw (fun _ => .fld CFG_FL_ADDR_addr),
    .basic 0x2701 3 1 .domain .rw (fun _ => .own .flashBuffer),
    ⟨0x2701, 4, 1, .n9, .wo, .expert, fun _ => .fld CFG_FL_CMD_cmd⟩,
    .basic 0x2701 5 1 .n9 .ro (fun _ => .fld CFG_FL_CMD_status),
    ⟨0x2710, 1, 1, .domain, .wo, .expert, fun _ => .own .keyStaged⟩,
    ⟨0x2710, 2, 1, .n18, .wo, .expert, fun _ => .own .keyExpected⟩,
    ⟨0x2710, 3, 1, .n9, .wo, .expert, fun _ => .own .keyCommand⟩,
    ⟨0x2710, 4, 1, .n9, .wo, .expert, fun _ => .own .keyArgument⟩,
    .basic 0x2710 5 1 .n9 .ro (fun _ => .live (fun s => s.cfg.keyStatus)),
    .expert 0x4700 1 10 0x600000 10 10, .expert 0x4701 1 2 0x600010 2 2, .expert 0x4702 1 2 0x600020 2 2,
    .basic 0x6700 1 1 .n9 .ro (fun _ => .fld CFG_STAT_phase),
    .basic 0x6700 2 1 .n9 .ro (fun _ => .fld CFG_STAT_img),
    .basic 0x6700 3 1 .n9 .ro (fun _ => .fld CFG_STAT_main_cause),
    .basic 0x6700 4 1 .n9 .ro (fun _ => .fld CFG_STAT_kind_cause),
    .basic 0x6700 5 1 .n9 .ro (fun _ => .fld CFG_KEY_in_use),
    .basic 0x6700 6 1 .n18 .ro (fun _ => .fld CFG_KCV_kcv_e),
    .basic 0x6700 7 1 .n18 .ro (fun _ => .fld CFG_KCV_kcv_b),
    .basic 0x6700 8 1 .n18 .ro (fun _ => .fld CFG_VER_version) ]

/-- Scrubbing, test and repair (Table 14.16). -/
def rowsScb : List Row :=
  [ .basic 0x2800 1 1 .n18 .rw (fun _ => .fld SCB_CFG_period),
    .basic 0x2800 2 1 .bool .rw (fun _ => .fld SCB_CFG_en),
    .basic 0x2800 3 1 .bool .rw (fun _ => .fld SCB_CFG_auto),
    .basic 0x2801 1 1 .n36 .wo (fun _ => .fld SCB_HRL_REQ_req),
    .basic 0x2801 2 1 .n36 .rw (fun _ => .fld SCB_ISO_iso),
    .basic 0x2802 1 1 .n18 .rw (fun _ => .fld SCB_BIST_CFG_period),
    .basic 0x2802 2 1 .bool .rw (fun _ => .fld SCB_BIST_CFG_en),
    .basic 0x2802 3 1 .n36 .rw (fun _ => .fld SCB_ROT_HOLD_hold),
    .basic 0x2803 1 1 .bool .wo (fun _ => .fld SCB_SDT_go),
    .basic 0x2804 1 1 .domain .ro (fun _ => .own .repair),
    ⟨0x2804, 2, 1, .n9, .wo, .expert, fun _ => .own .repairClear⟩,
    .expert 0x4800 1 6 0x680000 6 6, .expert 0x4800 7 7 0x680010 7 7, .expert 0x4800 14 6 0x680020 6 6,
    .expert 0x4800 20 4 0x680030 4 4,
    .basic 0x6800 1 1 .n9 .ro (fun _ => .fld SCB_STAT_state),
    .basic 0x6800 2 1 .n18 .ro (fun _ => .fld SCB_CNT_ce),
    .basic 0x6800 3 1 .n18 .ro (fun _ => .fld SCB_RATE_est),
    .basic 0x6801 1 1 .n36 .ro (fun _ => .fld SCB_HRL_STAT_isolated),
    .basic 0x6801 2 1 .n36 .ro (fun _ => .fld SCB_HRL_BAD_bad),
    .basic 0x6802 1 1 .n9 .ro (fun _ => .fld SCB_BIST_SUM_cover),
    .basic 0x6802 2 1 .n9 .ro (fun _ => .fld SCB_SDT_status),
    .basic 0x6803 1 1 .n36 .ro (fun _ => .fld SCB_SVC_hours),
    .basic 0x6803 2 1 .n18 .ro (fun _ => .fld SCB_SVC_hot) ]

/-- Clocks, timers and power (Table 16.13). -/
def rowsPwr : List Row :=
  [ .basic 0x2900 1 1 .n9 .rw (fun _ => .cmd 34 PWR_CTL_cmd),
    .basic 0x2900 2 1 .ticks .rw (fun _ => .own .wakeTime),
    .expert 0x4900 1 3 0x700000 3 3, .expert 0x4901 1 16 0x700010 16 16, .expert 0x4902 1 16 0x700020 16 16,
    .expert 0x4903 1 16 0x700030 16 16, .expert 0x4904 1 16 0x700040 16 16, .expert 0x4910 1 3 0x780000 3 3,
    .basic 0x6900 1 1 .n9 .ro (fun _ => .fld PWR_STAT_state),
    .basic 0x6900 2 1 .ticks .ro (fun _ => .live (fun s => s.timebase.toNat)),
    .basic 0x6900 3 1 .n9 .ro (fun _ => .live (fun s => s.get PWR_STAT_wkind * 64 + s.get PWR_STAT_wsrc)),
    .basic 0x6900 4 1 .n9 .ro (fun _ => .fld CLK_STAT_cause) ]

/-- Every object that the device defines. -/
def objectRows : List Row :=
  rowsId ++ rowsMgc ++ rowsFab ++ rowsHng ++ rowsLink ++ rowsDrm ++ rowsPin ++ rowsCfg ++ rowsScb ++ rowsPwr

/-! ## Objects of the design (R401, R402) -/

/-- The published object at index:sub. -/
def publishedAt (s : State) (idx sub : Nat) : Option Nat :=
  (List.range 256).find? (fun i => s.flag (MGC_PUB_CFG_valid i) && s.get (MGC_PUB_CFG_offset i) == idx - 0x8000 &&
    s.get (MGC_PUB_CFG_sub i) == sub)

/-- The subindices that the design publishes under an index. -/
def publishedSubs (s : State) (idx : Nat) : List Nat :=
  ((List.range 256).filter (fun i => s.flag (MGC_PUB_CFG_valid i) && s.get (MGC_PUB_CFG_offset i) == idx - 0x8000)).map
    (fun i => s.get (MGC_PUB_CFG_sub i))

/-- The right that an acc code gives. -/
def accRight : Nat → Right
  | 1 => .rw
  | 2 => .wo
  | _ => .ro

/-- Published object `i`. -/
def publishedObj (s : State) (i : Nat) : Obj :=
  ⟨tyOf (s.get (MGC_PUB_CFG_type i)), accRight (s.get (MGC_PUB_CFG_acc i)), .none, .own (.published i)⟩

/-! ## Finding an object (R384, R389) -/

/-- The right of an object: an expert object is ro where its register has no writable field (R409). -/
def rowRight (r : Row) (ref : Ref) : Right :=
  match r.need, ref with
  | .expert, .reg a => if (fieldsAt a).all (fun f => f.acc == .ro) then .ro else .rw
  | _, _ => r.right

/-- The object at sub of rows of one index, or the count at subindex 00h. -/
def rowObj (rows : List Row) (sub : Nat) : Option Obj :=
  match rows.find? (fun r => decide (r.lo ≤ sub) && decide (sub < r.lo + r.n)) with
  | some r => some ⟨r.ty, rowRight r (r.ref (sub - r.lo)), r.need, r.ref (sub - r.lo)⟩
  | none =>
    if sub = 0 then some ⟨.n9, .ro, .none, .num (rows.foldl (fun n r => max n (r.lo + r.n - 1)) 0)⟩ else none

/-- An object's index and subindex find it, or an abort: no such index, or no such subindex. -/
def findObj (s : State) (idx sub : Nat) : Obj ⊕ Nat :=
  if 0x8000 ≤ idx ∧ idx < 0x9000 then
    let subs := publishedSubs s idx
    if s.flag MGC_PUB_PORT_en = false ∨ subs.isEmpty = true then .inr 0x06020000
    else if sub = 0 then .inl ⟨.n9, .ro, .none, .num (subs.foldl max 0)⟩
    else match publishedAt s idx sub with
      | some i => .inl (publishedObj s i)
      | none => .inr 0x06090011
  else
    let rows := objectRows.filter (fun r => r.idx == idx)
    if rows.isEmpty then .inr 0x06020000
    else match rowObj rows sub with
      | some o => .inl o
      | none => .inr 0x06090011

end Sys2Proof.Machine
end

