-- ==== Sys2Proof/Machine/Dictionary.lean ====
section
/-! DEFINITION. Dictionary: reading and writing objects, the hasps, and the access rules of the dictionary (15). -/
namespace Sys2Proof.Machine
open Sys2Proof

/-! ## Abort codes (Table 15.5) -/

def abToggle : Nat := 0x05030000
def abTimeout : Nat := 0x05040000
def abCommand : Nat := 0x05040001
def abWriteOnly : Nat := 0x06010001
def abReadOnly : Nat := 0x06010002
def abLength : Nat := 0x06070010
def abValue : Nat := 0x06090030
def abGeneral : Nat := 0x08000000
def abTransfer : Nat := 0x08000020
def abHasp : Nat := 0x08000021
def abState : Nat := 0x08000022
def abLog : Nat := 0x08000024

/-! ## Hasps (R393, R394) -/

/-- The calibration hasp of a transport is open. -/
def calHaspOpen (s : State) (t : Transport) : Bool := s.bit MGC_STAT_chasp (2 - t.idx)

/-- The open code: bits [17:0] of the serial number. -/
def openCode : Nat := bitsOf Config.serial 0 18

/-- The calibration hasp of a transport closes. -/
def closeCal (s : State) (t : Transport) : State := s.putBit MGC_STAT_chasp (2 - t.idx) false

/-- The expert hasp of a transport closes, and its calibration hasp with it. -/
def closeExpert (s : State) (t : Transport) : State := closeCal (s.putBit MGC_STAT_xhasp (2 - t.idx) false) t

/-- A write of 1F10h:01. -/
def expertWrite (s : State) (t : Transport) (v : Nat) : State ⊕ Nat :=
  if v = 0 then .inl (closeExpert s t)
  else if v = openCode then .inl (s.putBit MGC_STAT_xhasp (2 - t.idx) true)
  else .inr abValue

/-- A transport has read 2A00h:01 in full since power-on reset. -/
def hasRead (s : State) (t : Transport) : Bool := tget (fun _ => false) s.mgc.bankRead t.idx

/-- A write of 1F11h:01. -/
def calWrite (s : State) (t : Transport) (v : Nat) : State ⊕ Nat :=
  if v = 0 then .inl (closeCal s t)
  else if v ≠ openCode then .inr abValue
  else if haspOpen s t && hasRead s t then .inl (s.putBit MGC_STAT_chasp (2 - t.idx) true)
  else .inr abHasp

/-! ## The calibration bank (R404 to R406, Table 15.13) -/

/-- Data octets of a section. -/
def sectionLen : Nat → Nat
  | 0 => 28
  | 1 => 216
  | 2 => 972
  | 3 => 960
  | 4 => 32
  | _ => 24

/-- The factory's octets of a section: section 0 holds the serial number, the date, the format and the bank's length. -/
def factoryOctets (sec : Nat) : List Octet :=
  if sec = 0 then
    leOctets 9 Config.serial.toNat ++ [Config.factoryCal 0 9, Config.factoryCal 0 10, Config.factoryCal 0 11] ++
      leOctets 2 1 ++ leOctets 2 2256 ++ List.replicate 12 0
  else (List.range (sectionLen sec)).map (factoryOctet sec)

/-- A section with its CRC as MTP holds it. -/
def sectionImage (s : State) (sec : Nat) : List Octet :=
  let sealed := fun (l : List Octet) => l ++ leOctets 4 (crc32 l).toNat
  match tget (fun _ => CalSource.factory) s.mtp.cal sec with
  | .cut l => l
  | .written l => sealed l
  | .factory | .generic => sealed (factoryOctets sec)

/-- The whole bank: sections 0 to 5, each with its CRC. -/
def bankImage (s : State) : List Octet := (List.range 6).flatMap (sectionImage s)

/-- 2A00h:02: valid sections, and sections that hold factory values. -/
def bankStatus (s : State) : Nat :=
  (List.range 6).foldl (fun n sec => n + b2n (calValid s sec) * 2 ^ sec +
    b2n (tget (fun _ => CalSource.factory) s.mtp.cal sec == .factory) * 2 ^ (6 + sec)) 0

/-- The numbers of a repair record, part by part, as the image of 2804h:01 takes them (DESIGN CHOICE, log entry 17). -/
def repairNumbers (r : RepairRecord) : List Nat :=
  let dram := fun (l : List DramRow) => l.length :: l.flatMap (fun x =>
    [b2n x.ppr, x.rank.toNat, x.bg.toNat, x.bank.toNat, x.row.toNat, x.sbg.toNat, x.sbank.toNat])
  (r.cols.length :: r.cols.flatMap (fun e => [e.1.val, e.2.val])) ++
  (r.blks.length :: r.blks.flatMap (fun e => [e.1.val, e.2.val])) ++
  (r.rows.length :: r.rows.flatMap (fun e => [e.1.val, e.2.1.val, e.2.2.val])) ++
  dram r.dram0 ++ dram r.dram1 ++ (List.range 6).map (fun n => (tget (fun _ => 0xE4#8) r.maps n).toNat) ++
  [b2n r.ppr0, b2n r.ppr1]

/-! ## The event log (Table 15.10) -/

/-- 1001h: an emergency was raised in the last 3,200,000,000 ticks. -/
def errorRegister (s : State) : Nat :=
  match s.mgc.lastEm with
  | some t => b2n (decide ((s.timebase - t).toNat ≤ 3200000000))
  | none => 0

/-- The entry that 7001h:01 names, while it is held. -/
def logEntryAt (s : State) : Option LogEntry :=
  let n := s.mgc.logIndex.toNat
  if n < s.mgc.written then s.mgc.log[s.mgc.written - 1 - n]? else none

/-! ## Reading an object -/

/-- A number in the octets of a type: `w` is the width of what is read, for the sign of S36. -/
def valueOctets (ty : Ty) (w v : Nat) : List Octet :=
  let v := if ty = .s36 ∧ 2 ^ (w - 1) ≤ v then 2 ^ 40 - 2 ^ w + v else v
  leOctets (ty.octets.getD 0) v

/-- All of `0 … n - 1` that are used have a bit set, and some is used. -/
def allUsed (n : Nat) (used bit : Nat → Bool) : Nat :=
  b2n ((List.range n).any used && (List.range n).all (fun i => !used i || bit i))

/-- The number that an object of its own reads as, or the abort. -/
def ownNumber (s : State) (t : Transport) : Own → Nat ⊕ Nat
  | .heartbeat => .inl s.mgc.hbPeriod.toNat
  | .errorRegister => .inl (errorRegister s)
  | .xhaspOpen => .inl (b2n (haspOpen s t))
  | .chaspOpen => .inl (b2n (calHaspOpen s t))
  | .idleLimit => .inl s.mgc.idleLimit.toNat
  | .nodeId => .inl s.mtp.nodeId.toNat
  | .bitRate => .inl s.mtp.bitRate.toNat
  | .dataRate => .inl s.mtp.dataRate.toNat
  | .spiEnable => .inl (b2n s.mtp.spiEnable)
  | .emEngine => .inl s.mtp.emEngine.toNat
  | .emPosition => .inl s.mtp.emPosition.toNat
  | .segTimeout => .inl s.mtp.segTimeout.toNat
  | .logCount => .inl s.mgc.written
  | .logIndex => .inl s.mgc.logIndex.toNat
  | .logTime => (logEntryAt s).elim (.inr abLog) (fun e => .inl e.time.toNat)
  | .logCode => (logEntryAt s).elim (.inr abLog) (fun e => .inl (b2n e.emergency * 2 ^ 16 + e.code.toNat))
  | .logDetail => (logEntryAt s).elim (.inr abLog) (fun e => .inl e.detail.toNat)
  | .mergeEm => .inl (allUsed 1152 (evUsed s) (fun i => s.flag (HNG_EV_CFG_merge_em i)))
  | .jumpEm => .inl (allUsed 288 (wdUsed s) (fun j => s.flag (HNG_WD_CFG_jump_em j)))
  | .discEm => .inl (allUsed 128 (fifoUsed s) (fun f => s.flag (HNG_FIFO_CFG_disc_em f)))
  | .wakeTime => .inl (almCmp s 15).toNat
  | .bankStatus => .inl (bankStatus s)
  | .xhasp | .chasp | .flush | .clear | .pinWrite _ | .flashBuffer | .keyStaged | .keyExpected | .keyCommand
  | .keyArgument | .repair | .repairClear | .bank | .calSection _ | .published _ => .inl 0

/-- What an object reads as: the state after the read, and its octets or the abort. -/
def readObj (s : State) (t : Transport) (o : Obj) : State × (List Octet ⊕ Nat) :=
  match o.ref with
  | .reg a => let r := readRegister s a; (r.1, .inl (valueOctets o.ty 36 r.2.toNat))
  | .fld f => (s, .inl (valueOctets o.ty f.width (bitsOf (readWord s f.addr) f.lo f.width)))
  | .cmd pair f => (s, .inl (valueOctets o.ty f.width (commandedOf s pair)))
  | .num n => (s, .inl (valueOctets o.ty 72 n))
  | .text l => (s, .inl l)
  | .live f => (s, .inl (valueOctets o.ty 72 (f s)))
  | .own .flashBuffer => (s, .inl s.cfg.flashBuf)
  | .own .repair => (s, .inl ((Config.repairImage (repairNumbers s.mtp.newer)).take 4096))
  | .own .bank => (s, .inl (bankImage s))
  | .own (.calSection n) => (s, .inl ((sectionImage s n).take (sectionLen n)))
  | .own w =>
    match ownNumber s t w with
    | .inl v => (s, .inl (valueOctets o.ty 72 v))
    | .inr c => (s, .inr c)

/-! ## Writing an object -/

/-- A value from the octets of a type: its length, its unused high bits or its sign extension (R385). -/
def valueOf (ty : Ty) (l : List Octet) : Nat ⊕ Nat :=
  let v := leNat l
  if ty.octets ≠ some l.length then .inr abLength
  else if ty = .s36 then
    (if v < 2 ^ 35 then .inl v else if 2 ^ 40 - 2 ^ 35 ≤ v then .inl (v % 2 ^ 36) else .inr abValue)
  else if v < 2 ^ ty.bits then .inl v else .inr abValue

/-- A value within bounds, and what writing it does. -/
def bounded (lo hi v : Nat) (s : State) : State ⊕ Nat := if within lo hi v then .inl s else .inr abValue

/-- A write of one field (R392): a value outside its range changes nothing. -/
def fieldWrite (s : State) (f : Field) (v : Nat) : State ⊕ Nat :=
  let rw := (fieldsAt f.addr).any (fun i => i.lo == f.lo && i.acc == .rw)
  if 2 ^ f.width ≤ v ∨ (rw && !fieldTakes f.addr f.lo v) = true then .inr abValue
  else .inl (writeRegister s false f.addr (maskOf f.lo f.width) (BitVec.ofNat 36 (v * 2 ^ f.lo)))

/-- Set a field in every hinge of a kind. -/
def setAll (s : State) (n : Nat) (f : Nat → Field) (v : Nat) : State :=
  (List.range n).foldl (fun s i => s.put (f i) v) s

/-- A command of the keyring: its conditions outside the device are not operands here, so they are free. -/
def keyCommandWrite (s : State) (t : Transport) (v : Nat) : State :=
  keyCommand s.tookFree.tookFree t v (Config.freeBit s.free) (Config.freeBit (s.free + 1)) s.cfg.keyArg

/-- 2710h:04: the argument, also of the command that runs. -/
def keyArgWrite (s : State) (v : BitVec 8) : State :=
  { s with cfg := { s.cfg with keyArg := v, keyJob := s.cfg.keyJob.map (fun j => if j.cmd = 8 then { j with arg := v } else j) } }

/-- A number is written to an object of its own. -/
def ownWrite (s : State) (t : Transport) (o : Own) (v : Nat) : State ⊕ Nat :=
  let mtp := fun (m : Mtp) => ({ s with mtp := m } : State)
  match o with
  | .heartbeat => .inl { s with mgc := { s.mgc with hbPeriod := BitVec.ofNat 18 v } }
  | .xhasp => expertWrite s t v
  | .chasp => calWrite s t v
  | .idleLimit => bounded 1 240 v { s with mgc := { s.mgc with idleLimit := BitVec.ofNat 9 v } }
  | .nodeId => bounded 1 127 v (mtp { s.mtp with nodeId := BitVec.ofNat 9 v })
  | .bitRate => bounded 0 3 v (mtp { s.mtp with bitRate := BitVec.ofNat 9 v })
  | .dataRate => bounded 0 4 v (mtp { s.mtp with dataRate := BitVec.ofNat 9 v })
  | .spiEnable => .inl (mtp { s.mtp with spiEnable := v == 1 })
  | .emEngine => if v ≤ 5 ∨ v = 7 then .inl (mtp { s.mtp with emEngine := BitVec.ofNat 9 v }) else .inr abValue
  | .emPosition => bounded 0 253 v (mtp { s.mtp with emPosition := BitVec.ofNat 9 v })
  | .segTimeout => bounded 10 60000 v (mtp { s.mtp with segTimeout := BitVec.ofNat 18 v })
  | .logIndex => .inl { s with mgc := { s.mgc with logIndex := BitVec.ofNat 36 v } }
  | .mergeEm => .inl (setAll s 1152 HNG_EV_CFG_merge_em v)
  | .jumpEm => .inl (setAll s 288 HNG_WD_CFG_jump_em v)
  | .discEm => .inl (setAll s 128 HNG_FIFO_CFG_disc_em v)
  | .flush => bounded 0 127 v (flushWrite s v)
  | .clear => bounded 0 127 v (clearWrite s v)
  | .pinWrite b => .inl (queueWrite s false b (BitVec.ofNat 36 (v / 2 ^ 36)) (BitVec.ofNat 36 v))
  | .keyExpected => .inl (keyExpect s t (BitVec.ofNat 18 v))
  | .keyCommand => .inl (keyCommandWrite s t v)
  | .keyArgument => bounded 0 255 v (keyArgWrite s (BitVec.ofNat 8 v))
  | .repairClear => bounded 0 1 v (repairClear s t (Fin.ofNat _ v))
  | .wakeTime => .inl (wakeTimeWrite s (BitVec.ofNat 72 v))
  | .errorRegister | .xhaspOpen | .chaspOpen | .logCount | .logTime | .logCode | .logDetail | .flashBuffer | .keyStaged
  | .repair | .bank | .bankStatus | .calSection _ | .published _ => .inl s

/-- An object is written with octets: the state after, or the abort; an expert write of 4115h:05 with a target that R95 does
not allow is refused too. Sections of the calibration bank and published
objects answer later and are not written here. -/
def writeObj (s : State) (t : Transport) (o : Obj) (l : List Octet) : State ⊕ Nat :=
  match o.ref with
  | .own .flashBuffer =>
    if 4096 < l.length then .inr abLength
    else .inl ({ s with cfg := { s.cfg with flashBuf := l } }.put CFG_FL_CMD_len l.length)
  | .own .keyStaged => if l.length = 32 then .inl (keyStage s t (BitVec.ofNat 256 (leNat l))) else .inr abLength
  | .reg a =>
    match valueOf o.ty l with
    | .inl v =>
      if (o.need = .none ∨ a = FAB_VFAB_CTL) ∧ (fieldsAt a).any (fun f => f.acc == .rw && !fieldTakes a f.lo (v / 2 ^ f.lo % 2 ^ f.width)) = true then
        .inr abValue
      else .inl (writeRegister s false a (BitVec.allOnes 36) (BitVec.ofNat 36 v))
    | .inr c => .inr c
  | .fld f | .cmd _ f =>
    match valueOf o.ty l with
    | .inl v => fieldWrite s f v
    | .inr c => .inr c
  | .own w =>
    match valueOf o.ty l with
    | .inl v => ownWrite s t w v
    | .inr c => .inr c
  | .num _ | .text _ | .live _ => .inl s

/-! ## Who may reach an object -/

/-- What the minimal MGC of BANKED serves (Table 15.15). -/
def servedMinimal (idx : Nat) : Bool :=
  within 0x1000 0x1FFF idx || idx == 0x6000 || within 0x7000 0x7FFF idx || idx == 0x2900 || idx == 0x6900

/-- The design's objects answer: after the first commit, outside FAULT and a load, with the request FIFO not SEALED
(R403, Table 15.15). -/
def designReady (s : State) : Bool :=
  s.cfg.everCommitted && s.pwr.phase != .fault && s.cfg.load.isNone &&
    (!s.flag MGC_PUB_PORT_en || fifoState s (80 + s.get MGC_PUB_PORT_g_req) != 2)

/-- The unit of an rws object is stopped: a lane with mode OFF, a cord whose lanes are all OFF, an engine with role OFF
(R199, R231). -/
def unitStopped (s : State) : Ref → Bool
  | .fld f =>
    if among f.addr (LNE_CORD_CFG 0) 6 then
      (List.range 4).all (fun k => laneMode s (4 * (f.addr - LNE_CORD_CFG 0) + k) == 0)
    else if among f.addr (LNE_CTL 0) 24 then laneMode s (f.addr - LNE_CTL 0) == 0
    else if among f.addr (KWR_CFG 0) 6 then s.get (KWR_CFG_role (f.addr - KWR_CFG 0)) == 0
    else true
  | _ => true

/-- The abort that a hasp which an object needs gives. -/
def haspAbort (s : State) (t : Transport) : Need → Bool
  | .none => false
  | .expert => !haspOpen s t
  | .cal => !calHaspOpen s t

/-- The session of a transport. -/
def sessionOf (s : State) (t : Transport) : Session := tget (fun _ => Session.idle) s.mgc.session t.idx

/-- The answer that a transport's server owes. -/
def owedOf (s : State) (t : Transport) : Option Owed := tget (fun _ => none) s.mgc.owed t.idx

/-- A transport transfers the object. -/
def transfers (s : State) (idx sub : Nat) (t : Transport) : Bool :=
  (match sessionOf s t with
   | .idle => false
   | .down i b _ _ _ | .up i b _ _ => i.toNat == idx && b.toNat == sub) ||
  (owedOf s t).any (fun o => o.idx.toNat == idx && o.sub.toNat == sub)

/-- An object opened for a read or a write: the checks of R384 to R393 in order, before any value. -/
def openObj (s : State) (t : Transport) (idx sub : Nat) (write : Bool) : Obj ⊕ Nat :=
  if s.get MGC_STAT_state = 3 ∧ servedMinimal idx = false then .inr abState
  else if 0x8000 ≤ idx ∧ idx < 0x9000 ∧ designReady s = false then .inr abState
  else match findObj s idx sub with
    | .inr c => .inr c
    | .inl o =>
      if write = true ∧ o.right = .ro then .inr abReadOnly
      else if write = false ∧ o.right = .wo then .inr abWriteOnly
      else if write = true ∧ haspAbort s t o.need = true then .inr abHasp
      else if write = true ∧ o.right = .rws ∧ unitStopped s o.ref = false then .inr abState
      else if o.ty = .domain ∧ [Transport.can, .spi, .kwr].any (fun u => u != t && transfers s idx sub u) = true then
        .inr abTransfer
      else .inl o

end Sys2Proof.Machine
end

