-- ==== Sys2Proof/Machine/Sdo.lean ====
section
/-! DEFINITION. Sdo: the SDO servers of the three transports, objects published by the design, and writes of the
calibration bank (15 R380 to R388, R401 to R405). -/
namespace Sys2Proof.Machine
open Sys2Proof

/-! ## Answers (R381 to R383) -/

def setSession (s : State) (t : Transport) (x : Session) : State :=
  { s with mgc := { s.mgc with session := tput (fun _ => Session.idle) s.mgc.session t.idx x } }

def setOwed (s : State) (t : Transport) (x : Option Owed) : State :=
  { s with mgc := { s.mgc with owed := tput (fun _ => none) s.mgc.owed t.idx x } }

def answerOf (s : State) (t : Transport) : Option Frame := tget (fun _ => none) s.mgc.answer t.idx

def setAnswer (s : State) (t : Transport) (x : Option Frame) : State :=
  { s with mgc := { s.mgc with answer := tput (fun _ => none) s.mgc.answer t.idx x } }

/-- A frame as the two parts of a message of the ring: first, then last, with number `n` (R226). -/
def ringParts (dst src n : Nat) (l : List Octet) : List Mgmt :=
  [⟨BitVec.ofNat 8 dst, BitVec.ofNat 8 src, BitVec.ofNat 8 (4 * n + 1), BitVec.ofNat 32 (leAt l 0 4)⟩,
   ⟨BitVec.ofNat 8 dst, BitVec.ofNat 8 src, BitVec.ofNat 8 (4 * n + 3), BitVec.ofNat 32 (leAt l 4 4)⟩]

/-- Queue a message on engine `k`'s management channel. -/
def ringSend (s : State) (k dst n : Nat) (l : List Octet) : State :=
  setKwr s k { kwrOf s k with mgmtOut := (kwrOf s k).mgmtOut ++ ringParts dst (kwrPos s k) n l }

/-- The server answers: on CAN FD on 580h + n, on SPI in the response that command 02h reads, on the ring to the sender
of the request. -/
def respond (s : State) (t : Transport) (l : List Octet) : State :=
  let s := setOwed s t none
  match t with
  | .can => setAnswer s t (some ⟨0x580 + s.mtp.nodeId.toNat, l⟩)
  | .spi => setAnswer s t (some ⟨0, l⟩)
  | .kwr => ringSend (setAnswer s t (some ⟨s.mgc.ringFrom.2.1, l⟩)) s.mgc.ringFrom.1 s.mgc.ringFrom.2.1 s.mgc.ringFrom.2.2 l

/-- Octets 0 to 3 of a frame that names an object. -/
def frameHead (cs idx sub : Nat) : List Octet := BitVec.ofNat 8 cs :: leOctets 2 idx ++ leOctets 1 sub

/-- The abort frame. -/
def abortFrame (idx sub code : Nat) : List Octet := frameHead 0x80 idx sub ++ leOctets 4 code

/-- The transfer ends with an abort. -/
def abortWith (s : State) (t : Transport) (idx sub code : Nat) : State :=
  respond (setSession s t .idle) t (abortFrame idx sub code)

/-- A frame that reports the success of an initiated or expedited download. -/
def doneFrame (idx sub : Nat) : List Octet := frameHead 0x60 idx sub ++ List.replicate 4 0

/-- The frame that answers a download segment. -/
def segmentFrame (toggle : Bool) : List Octet := BitVec.ofNat 8 (0x20 + 16 * b2n toggle) :: List.replicate 7 0

/-! ## Published objects (R402, R403) -/

/-- Four octets in a word, each with its valid flag (R6). -/
def octetWord (l : List Octet) : W36 :=
  packWord ((l.take 4).zipIdx.map (fun e => (9 * e.2, 256 + e.1.toNat)))

/-- Octets as words, four to a word. -/
def octetWords : List Octet → List W36
  | [] => []
  | [a] => [octetWord [a]]
  | [a, b] => [octetWord [a, b]]
  | [a, b, c] => [octetWord [a, b, c]]
  | a :: b :: c :: d :: l => octetWord [a, b, c, d] :: octetWords l

/-- A value as the words of a packet (R402). -/
def valueWords (ty : Ty) (l : List Octet) : List W36 :=
  match ty with
  | .text | .domain => octetWords l
  | .n72 | .ticks => [BitVec.ofNat 36 (leNat l), BitVec.ofNat 36 (leNat l / 2 ^ 36)]
  | _ => [BitVec.ofNat 36 (leNat l)]

/-- The octets of a value in a response, or none where its length does not fit the type. -/
def wordsValue (ty : Ty) (ws : List W36) : Option (List Octet) :=
  match ty with
  | .text | .domain =>
    let l := ws.flatMap entryOctets
    if l.length ≤ (if ty = .text then 64 else 4096) then some l else none
  | .n72 | .ticks =>
    match ws with
    | [a, b] => some (leOctets 9 (a.toNat + b.toNat * 2 ^ 36))
    | _ => none
  | _ =>
    match ws with
    | [a] => some (valueOctets ty 36 (if ty = .s36 then a.toNat else a.toNat % 2 ^ ty.bits))
    | _ => none

/-- Entries of a packet: the last one carries E. -/
def requestEntries (ws : List W36) : List Entry :=
  (ws.dropLast).map (fun w => ⟨w, false, false⟩) ++ (ws.getLast?.toList).map (fun w => ⟨w, true, false⟩)

/-- Push the entries of requests that wait for the request FIFO, as far as it accepts them. -/
def pushRequests : Nat → State → State
  | 0, s => s
  | n + 1, s =>
    match s.mgc.pubOut with
    | [] => s
    | e :: t =>
      let r := fifoPush s (80 + s.get MGC_PUB_PORT_g_req) e
      if r.2 then pushRequests n { r.1 with mgc := { r.1.mgc with pubOut := t } } else r.1

/-- Send the request of an access: a new tag, and its packet (Table 15.12). -/
def pubSend (s : State) (a : PubAccess) : State :=
  let tag := (s.mgc.pubTag + 1) % 256
  let head := packWord [(35, b2n a.write.isSome), (27, tag), (0, a.i)]
  let ws := head :: (a.write.elim [] (valueWords (tyOf (s.get (MGC_PUB_CFG_type a.i)))))
  pushRequests 2048 { s with mgc := { s.mgc with pubTag := tag, pubNow := some a, pubOut := s.mgc.pubOut ++ requestEntries ws } }

/-- An access ends with 0800 0022h (R403). -/
def pubRefuse (s : State) (a : PubAccess) : State :=
  match owedOf s a.t with
  | some o => abortWith s a.t o.idx.toNat o.sub.toNat abState
  | none => s

/-- The next access that waits is sent, once none is in progress; while the design cannot answer, all that wait end. -/
def pubNext (s : State) : State :=
  if s.mgc.pubNow.isSome then s
  else if designReady s then
    match s.mgc.pubWait with
    | a :: t => pubSend { s with mgc := { s.mgc with pubWait := t } } a
    | [] => s
  else s.mgc.pubWait.foldl pubRefuse { s with mgc := { s.mgc with pubWait := [] } }

/-- An access to a published object begins: its answer is owed until the design answers. -/
def pubBegin (s : State) (a : PubAccess) (o : Owed) : State :=
  let s := setOwed s a.t (some o)
  pubNext { s with mgc := { s.mgc with pubWait := s.mgc.pubWait ++ [a] } }

/-! ## Downloads and uploads -/

/-- A value may be written to a published object of type `ty`. -/
def pubValue (ty : Ty) (l : List Octet) : Option Nat :=
  match ty with
  | .text => if l.length ≤ 64 then none else some abLength
  | .domain => if l.length ≤ 4096 then none else some abLength
  | _ => match valueOf ty l with
    | .inl _ => none
    | .inr c => some c

/-- A write of a section of the calibration bank begins: exactly its length, and one write at a time (R405). -/
def sectionBegin (s : State) (n : Nat) (l : List Octet) : State ⊕ Nat :=
  if l.length ≠ sectionLen n then .inr abLength
  else if s.mtp.calWrite.isSome then .inr abTransfer
  else .inl { s with mtp := { s.mtp with calWrite := some (n, l) } }

/-- A complete write reaches its object: `ok` is the frame that reports success. -/
def finishWrite (s : State) (t : Transport) (idx : BitVec 16) (sub : BitVec 8) (l ok : List Octet) : State :=
  let idx' := idx.toNat
  let sub' := sub.toNat
  match openObj s t idx' sub' true with
  | .inr c => abortWith s t idx' sub' c
  | .inl o =>
    match o.ref with
    | .own (.published i) =>
      match pubValue o.ty l with
      | some c => abortWith s t idx' sub' c
      | none => pubBegin s ⟨t, i, some l⟩ ⟨idx, sub, ok⟩
    | .own (.calSection n) =>
      match sectionBegin s n l with
      | .inr c => abortWith s t idx' sub' c
      | .inl s => setOwed s t (some ⟨idx, sub, ok⟩)
    | _ =>
      match writeObj s t o l with
      | .inr c => abortWith s t idx' sub' c
      | .inl s' => if t = .can then setAnswer (respond s' t ok) t (answerOf (respond s t ok) t) else respond s' t ok

/-- How a server takes a request now: not at all, by an abort while the firmware restarts, or in full (R17, R380). -/
inductive Serve where
  | ignore | restart | full
deriving DecidableEq, Repr

/-- CAN FD needs its bus, SPI its enable, and the ring the full MGC; a request that arrives while an answer is owed is
ignored. -/
def serveNow (s : State) (t : Transport) : Serve :=
  if s.get MGC_STAT_state = 0 ∨ (owedOf s t).isSome = true then .ignore
  else if t = .can ∧ s.flag MGC_STAT_busoff = true then .ignore
  else if t = .spi ∧ s.mtp.spiEnable = false then .ignore
  else if t = .kwr ∧ s.get MGC_STAT_state = 3 then .ignore
  else if s.get MGC_STAT_state = 2 then .restart
  else .full

/-- Serve a request about idx:sub with `f`. -/
def serve (s : State) (t : Transport) (idx sub : Nat) (f : State → State) : State :=
  match serveNow s t with
  | .ignore => s
  | .restart => abortWith s t idx sub abTransfer
  | .full => f s

/-- An expedited download: `size` counts the octets of the frame without data; without it the object's own length is
meant (R385). -/
def downloadExpedited (s : State) (t : Transport) (idx : BitVec 16) (sub : BitVec 8) (data : BitVec 32)
    (size : Option (BitVec 2)) : State :=
  serve s t idx.toNat sub.toNat (fun s =>
    let s := setSession s t .idle
    match openObj s t idx.toNat sub.toNat true with
    | .inr c => abortWith s t idx.toNat sub.toNat c
    | .inl o =>
      let n := match size with
        | some n => 4 - n.toNat
        | none => o.ty.octets.getD 5
      if 4 < n ∨ (o.ty.octets.any (fun k => decide (4 < k))) = true then abortWith s t idx.toNat sub.toNat abLength
      else finishWrite s t idx sub (leOctets n data.toNat) (doneFrame idx.toNat sub.toNat))

/-- A segmented download is initiated. -/
def downloadInitiate (s : State) (t : Transport) (idx : BitVec 16) (sub : BitVec 8) (size : Option (BitVec 32)) : State :=
  serve s t idx.toNat sub.toNat (fun s =>
    let s := setSession s t .idle
    match openObj s t idx.toNat sub.toNat true with
    | .inr c => abortWith s t idx.toNat sub.toNat c
    | .inl o =>
      if (match size, o.ty.octets with
          | some n, some k => n.toNat != k
          | some n, none => decide (4096 < n.toNat)
          | none, _ => false) then abortWith s t idx.toNat sub.toNat abLength
      else respond (setSession s t (.down idx sub [] (size.map BitVec.toNat) false)) t (doneFrame idx.toNat sub.toNat))

/-- A download segment arrives. -/
def downloadSegment (s : State) (t : Transport) (toggle : Bool) (data : List Octet) (last : Bool) : State :=
  match sessionOf s t with
  | .down idx sub got size want =>
    serve s t idx.toNat sub.toNat (fun s =>
      let l := got ++ data.take 7
      if toggle ≠ want then abortWith s t idx.toNat sub.toNat abToggle
      else if 4096 < l.length ∨ (last = true ∧ size.any (fun n => n != l.length) = true) then
        abortWith s t idx.toNat sub.toNat abLength
      else if last then finishWrite (setSession s t .idle) t idx sub l (segmentFrame toggle)
      else respond (setSession s t (.down idx sub l size (!want))) t (segmentFrame toggle))
  | .up idx sub _ _ => serve s t idx.toNat sub.toNat (fun s => abortWith s t idx.toNat sub.toNat abCommand)
  | .idle => serve s t 0 0 (fun s => abortWith s t 0 0 abCommand)

/-- A value is uploaded: expedited up to four octets, else its size and then its segments (R385). -/
def uploadValue (s : State) (t : Transport) (idx : BitVec 16) (sub : BitVec 8) (l : List Octet) : State :=
  let n := l.length
  if 1 ≤ n ∧ n ≤ 4 then
    respond s t (frameHead (0x43 + 4 * (4 - n)) idx.toNat sub.toNat ++ l ++ List.replicate (4 - n) 0)
  else
    respond (setSession s t (.up idx sub l false)) t (frameHead 0x41 idx.toNat sub.toNat ++ leOctets 4 n)

/-- An upload is initiated. -/
def uploadInitiate (s : State) (t : Transport) (idx : BitVec 16) (sub : BitVec 8) : State :=
  serve s t idx.toNat sub.toNat (fun s =>
    let s := setSession s t .idle
    match openObj s t idx.toNat sub.toNat false with
    | .inr c => abortWith s t idx.toNat sub.toNat c
    | .inl o =>
      match o.ref with
      | .own (.published i) => pubBegin s ⟨t, i, none⟩ ⟨idx, sub, []⟩
      | _ =>
        match readObj s t o with
        | (s, .inl l) => uploadValue s t idx sub l
        | (s, .inr c) => abortWith s t idx.toNat sub.toNat c)

/-- A transport has read the last octet of an object: of the whole bank it is remembered (R394). -/
def uploadEnd (s : State) (t : Transport) (idx : BitVec 16) (sub : BitVec 8) : State :=
  let s := setSession s t .idle
  if idx = 0x2A00 ∧ sub = 1 then
    { s with mgc := { s.mgc with bankRead := tput (fun _ => false) s.mgc.bankRead t.idx true } }
  else s

/-- An upload segment request returns the next seven octets. -/
def uploadSegment (s : State) (t : Transport) (toggle : Bool) : State :=
  match sessionOf s t with
  | .up idx sub l want =>
    serve s t idx.toNat sub.toNat (fun s =>
      if toggle ≠ want then abortWith s t idx.toNat sub.toNat abToggle
      else
        let part := l.take 7
        let rest := l.drop 7
        let cs := 16 * b2n toggle + 2 * (7 - part.length) + b2n rest.isEmpty
        let s := if rest.isEmpty then uploadEnd s t idx sub else setSession s t (.up idx sub rest (!want))
        respond s t (BitVec.ofNat 8 cs :: part ++ List.replicate (7 - part.length) 0))
  | .down idx sub _ _ _ => serve s t idx.toNat sub.toNat (fun s => abortWith s t idx.toNat sub.toNat abCommand)
  | .idle => serve s t 0 0 (fun s => abortWith s t 0 0 abCommand)

/-- The next segment has not arrived within 1F23h:01 (R380). -/
def segmentTimeout (s : State) (t : Transport) : State :=
  if s.mgcServing = false ∨ (owedOf s t).isSome = true then s
  else match sessionOf s t with
    | .idle => s
    | .down idx sub _ _ _ | .up idx sub _ _ => abortWith s t idx.toNat sub.toNat abTimeout

def execSdoDownloadExpedited (t : Transport) (idx : BitVec 16) (sub : BitVec 8) (data : BitVec 32) (size : Option (BitVec 2))
    (s : State) : Host.Outcome State Fault Refusal := .next (downloadExpedited s t idx sub data size)

def execSdoDownloadInitiate (t : Transport) (idx : BitVec 16) (sub : BitVec 8) (size : Option (BitVec 32)) (s : State) :
    Host.Outcome State Fault Refusal := .next (downloadInitiate s t idx sub size)

def execSdoDownloadSegment (t : Transport) (toggle : Bool) (data : List Octet) (last : Bool) (s : State) :
    Host.Outcome State Fault Refusal := .next (downloadSegment s t toggle data last)

def execSdoUploadInitiate (t : Transport) (idx : BitVec 16) (sub : BitVec 8) (s : State) :
    Host.Outcome State Fault Refusal := .next (uploadInitiate s t idx sub)

def execSdoUploadSegment (t : Transport) (toggle : Bool) (s : State) : Host.Outcome State Fault Refusal :=
  .next (uploadSegment s t toggle)

def execSdoSegmentTimeout (t : Transport) (s : State) : Host.Outcome State Fault Refusal := .next (segmentTimeout s t)

/-! ## Request frames of SPI and the ring (R382, R383) -/

/-- A request frame of CiA 301: its command specifier is in bits [7:5] of octet 0. -/
def requestFrame (s : State) (t : Transport) (l : List Octet) : State :=
  let c := (l.getD 0 0).toNat
  let idx := BitVec.ofNat 16 (leAt l 1 2)
  let sub := BitVec.ofNat 8 (leAt l 3 1)
  match c / 32 with
  | 0 => downloadSegment s t (bitN c 4) ((l.drop 1).take (7 - c / 2 % 8)) (bitN c 0)
  | 1 =>
    if bitN c 1 then
      downloadExpedited s t idx sub (BitVec.ofNat 32 (leAt l 4 4)) (if bitN c 0 then some (BitVec.ofNat 2 (c / 4)) else none)
    else downloadInitiate s t idx sub (if bitN c 0 then some (BitVec.ofNat 32 (leAt l 4 4)) else none)
  | 2 => uploadInitiate s t idx sub
  | 3 => uploadSegment s t (bitN c 4)
  | 4 => if serveNow s t = .full then setSession s t .idle else s
  | _ => serve s t idx.toNat sub.toNat (fun s => abortWith s t idx.toNat sub.toNat abCommand)

/-- A message for this member reaches the MGC while the engine is CYCLING; message number 63 carries no SDO frame. -/
def ringRequest (s : State) (k : Nat) (m : Mgmt) : State :=
  match rxMgmt s k m with
  | (s, none) => s
  | (s, some l) =>
    if kwrState s k ≠ 5 ∨ bitsOf m.seg 2 6 = 63 ∨ serveNow s .kwr = .ignore then s
    else requestFrame { s with mgc := { s.mgc with ringFrom := (k, m.src.toNat, bitsOf m.seg 2 6) } } .kwr l

def execKwrRxMgmt (k : Fin 6) (m : Mgmt) (s : State) : Host.Outcome State Fault Refusal := 
  .next (fromControl s k.val (.mgmt m) (fun s => ringRequest s k.val m))

/-! ## Answers of the design (R403) -/

/-- The answer that a transport owed for a published object, with the design's response. -/
def pubAnswer (s : State) (a : PubAccess) (status : Nat) (ws : List W36) : State :=
  match owedOf s a.t with
  | none => s
  | some o =>
    let abort := fun (c : Nat) => abortWith s a.t o.idx.toNat o.sub.toNat c
    match status, a.write with
    | 0, some _ => if ws.isEmpty then respond s a.t o.answer else abort abGeneral
    | 0, none =>
      match wordsValue (tyOf (s.get (MGC_PUB_CFG_type a.i))) ws with
      | some l => uploadValue s a.t o.idx o.sub l
      | none => abort abGeneral
    | 1, _ => if ws.isEmpty then abort abTransfer else abort abGeneral
    | 2, _ => if ws.isEmpty then abort abValue else abort abGeneral
    | 3, _ => if ws.isEmpty then abort abLength else abort abGeneral
    | _, _ => abort abGeneral

/-- A response packet: one with another tag is late and is discarded. -/
def pubTake (s : State) (head : W36) (ws : List W36) : State :=
  match s.mgc.pubNow with
  | none => s
  | some a =>
    if bitsOf head 25 8 = s.mgc.pubTag then
      pubNext (pubAnswer { s with mgc := { s.mgc with pubNow := none } } a (bitsOf head 33 3) ws)
    else s

/-- Take the entries of the next packet of FIFO `f`, up to the one with E. -/
def takePacket : Nat → State → Nat → State × List Entry
  | 0, s, _ => (s, [])
  | n + 1, s, f =>
    match fifoPop s f with
    | (s, none) => (s, [])
    | (s, some e) =>
      if e.a && !e.e then takePacket n s f
      else if e.e then (s, [e])
      else
        let r := takePacket n s f
        (r.1, e :: r.2)

/-- A whole packet stands readable in FIFO `f`. -/
def packetReady (s : State) (f : Nat) : Bool := ((unread (fifoOf s f)).take (rdepth (fifoOf s f))).any (fun e => e.e)

/-- The MGC reads one packet of the response FIFO: a response, or an event, which raises F000h + e with its detail word
(R403). An aborted packet is discarded. -/
def pubPacket (s : State) : State :=
  let f := 80 + s.get MGC_PUB_PORT_g_rsp
  if s.flag MGC_PUB_PORT_en && s.mgcFull && packetReady s f then
    let r := takePacket 4096 s f
    if r.2.any (fun e => e.a) then r.1
    else match r.2.map (fun e => e.data) with
      | [] => r.1
      | h :: ws =>
        if bitsOf h 33 3 = 7 then (if ws.length = 1 then raise r.1 (0xF000 + bitsOf h 21 12) (ws.getD 0 0) else r.1)
        else pubTake r.1 h ws
  else s

def execPubResponse (s : State) : Host.Outcome State Fault Refusal := .next (pubPacket s)

def execPubEvent (s : State) : Host.Outcome State Fault Refusal := .next (pubPacket s)

/-- No response within MGC_PUB_PORT.tmo: A006h, and the transfer aborts. -/
def pubTimeout (s : State) : State :=
  match s.mgc.pubNow with
  | none => s
  | some a =>
    if s.mgcFull then
      let s := raise s 0xA006 (packWord [(28, a.i), (20, s.mgc.pubTag)])
      let s := { s with mgc := { s.mgc with pubNow := none } }
      pubNext (match owedOf s a.t with
        | some o => abortWith s a.t o.idx.toNat o.sub.toNat abTransfer
        | none => s)
    else s

def execPubTimeout (s : State) : Host.Outcome State Fault Refusal := .next (pubTimeout s)

/-! ## The calibration bank's writes (R405) -/

/-- A section object is written with the calibration hasp open. -/
def sectionWrite (s : State) (t : Transport) (n : Nat) (l : List Octet) : State :=
  serve s t (0x2A00 + n) 1 (fun s =>
    finishWrite (setSession s t .idle) t (BitVec.ofNat 16 (0x2A00 + n)) 1 l
      (doneFrame (0x2A00 + n) 1))

/-- Section 0 has no object: index 2A00h:01 is the whole bank and ro. -/
def execCalSectionWrite (t : Transport) (sec : Fin 6) (data : List Octet) (s : State) : Host.Outcome State Fault Refusal :=
  .next (sectionWrite s t sec.val data)

/-- The MTP write ends: the section holds the new octets and its CRC, and the MGC answers. -/
def sectionDone (s : State) : State :=
  match s.mtp.calWrite with
  | none => s
  | some (n, l) =>
    let s := { s with mtp := { s.mtp with
      cal := tput (fun _ => CalSource.factory) s.mtp.cal n (.written l)
      calWrite := none } }
    [Transport.can, .spi, .kwr].foldl (fun s t =>
      match owedOf s t with
      | some o => if o.idx = BitVec.ofNat 16 (0x2A00 + n) then respond s t o.answer else s
      | none => s) s

def execCalWriteDone (s : State) : Host.Outcome State Fault Refusal := .next (sectionDone s)

/-! ## Banks of a FIFO (R153) -/

/-- The writer side learns that the drain bank is empty; a writer that waited for room goes on. -/
def bankSwapped (s : State) (f : Nat) : State :=
  let x := fifoOf s f
  if x.sl.open0 then
    let s := setFifo s f (bankSwap (pmode s f) x)
    if f < 48 then (if f % 2 = 0 then rxPayOwed s (f / 2) else s)
    else if f < 80 then (if 8 ≤ f % 16 then dramOutRetry s ((f - 48) / 16) (f % 16 - 8) else s)
    else if s.flag MGC_PUB_PORT_en ∧ f = 80 + s.get MGC_PUB_PORT_g_req then pushRequests 2048 s
    else s
  else s

def execFifoBankSwap (f : Fin 128) (s : State) : Host.Outcome State Fault Refusal := .next (bankSwapped s f.val)

end Sys2Proof.Machine
end

