-- ==== Sys2Proof/Machine/Mgc.lean ====
section
/-! DEFINITION. Mgc: restarts of the firmware, the SPI target port, emergencies on their transports, the heartbeat, the
hasps, and commanded against actual values (01 R17; 15). -/
namespace Sys2Proof.Machine
open Sys2Proof

/-! ## Restarts (R17, R407) -/

/-- The MGC is powered and clocked: from the boot of Table 1.4 step 2. -/
def mgcUp (s : State) : Bool :=
  match s.pwr.phase with
  | .cold | .supplies | .released => false
  | _ => true

/-- A transfer in progress, or an answer owed, ends with 0800 0020h. -/
def abortTransfer (s : State) (t : Transport) : State :=
  match sessionOf s t, owedOf s t with
  | .down idx sub _ _ _, _ | .up idx sub _ _, _ => abortWith s t idx.toNat sub.toNat abTransfer
  | .idle, some o => abortWith s t o.idx.toNat o.sub.toNat abTransfer
  | .idle, none => s

/-- The firmware stops: the watchdog restarts it, transfers abort, hasps close, what is staged for the keyring goes, and
a published-object request is abandoned; the restart is held for the log at this moment (R17, R335, R449). A stop in
the boot leaves the MGC in its boot. -/
def firmwareStop (s : State) : State :=
  if mgcUp s then
    let s := [Transport.can, .spi, .kwr].foldl abortTransfer s
    let s := clearStaged (closeHasps (s.bump MGC_STAT_restarts 1))
    let s := { s with mgc := { s.mgc with pubNow := none, pubWait := [] } }
    let s := if s.get MGC_STAT_state = 0 then s else s.put MGC_STAT_state 2
    raise s 0xA001 (packWord [(30, s.get MGC_STAT_restarts)])
  else s

def execMgcFirmwareStop (s : State) : Host.Outcome State Fault Refusal := .next (firmwareStop s)

/-- The restart ends: the MGC serves again, in BANKED as the minimal MGC, works through what was held, and starts a flash
command that waited. -/
def restartEnd (s : State) : State :=
  if s.get MGC_STAT_state = 2 then
    let s := s.put MGC_STAT_state
      (if s.pwr.phase = .banked ∨ (s.pwr.phase = .bankedExit ∧ s.pwr.clocked = false) then 3 else 1)
    [0, 1].foldl (startRemap 33) (flashResume (replayHeld s))
  else s

def execMgcRestartEnd (s : State) : Host.Outcome State Fault Refusal := .next (restartEnd s)

/-! ## Emergencies on a transport (R383, R398, Table 15.11) -/

/-- The emergency queue of a transport. -/
def queueOf (s : State) (t : Transport) : EmQueue := tget (fun _ => EmQueue.init) s.mgc.queues t.idx

/-- The frame of an emergency. -/
def emFrame (s : State) (e : Emergency) : List Octet :=
  leOctets 2 e.code.toNat ++ leOctets 1 (errorRegister s) ++ leOctets 5 e.detail.toNat

/-- A queue that overflowed has room again: it takes A002h, which the log and the count take too. -/
def overflowNote (s : State) (t : Transport) : State :=
  let q := queueOf s t
  if q.owed && decide (q.items.length < 32) then
    let d := packWord [(34, t.idx), (16, s.get MGC_EM_CNT_dropped)]
    let s := (logWrite s ⟨s.timebase, true, 0xA002, d⟩).bump MGC_EM_CNT_sent 1
    let s := { s with mgc := { s.mgc with lastEm := some s.timebase } }
    if s.bit MGC_EM_MASK_mask 10 then setQueue s t ⟨q.items ++ [⟨0xA002, d⟩], false⟩ else setQueue s t { q with owed := false }
  else s

/-- Take the next emergency of a transport's queue as its frame. -/
def emTake (s : State) (t : Transport) : State × Option (List Octet) :=
  match (queueOf s t).items with
  | [] => (s, none)
  | e :: rest => (overflowNote (setQueue s t { queueOf s t with items := rest }) t, some (emFrame s e))

/-- Hold the latest emergency frame sent on a transport. -/
def setEmSent (s : State) (t : Transport) (x : Frame) : State :=
  { s with mgc := { s.mgc with emSent := tput (fun _ => none) s.mgc.emSent t.idx (some x) } }

/-! ## The SPI target port (R382, Tables 15.2) -/

/-- The status octet. -/
def spiStatus (s : State) : Octet :=
  BitVec.ofNat 8 (b2n (answerOf s .spi).isSome + 2 * b2n (!(queueOf s .spi).items.isEmpty) + 4 * b2n s.mgc.spiRefused +
    128 * b2n s.mgcServing)

/-- MGC_IRQ_N is low while a response or an emergency waits. -/
def irqLow (s : State) : Bool := s.get MGC_STAT_state != 0 && ((answerOf s .spi).isSome || !(queueOf s .spi).items.isEmpty)

/-- What the port shifts out in a transaction: the status octet, then `l`. -/
def spiOut (s : State) (l : List Octet) : State := { s with mgc := { s.mgc with spiOut := spiStatus s :: l } }

/-- The port acts on a transaction: before the MGC is reachable it shifts out 00h and ignores every command, and with
1F21h:01 at 0 it takes none. -/
def spiServe (s : State) (f : State → State) : State :=
  if s.mtp.spiEnable = false then s
  else if s.get MGC_STAT_state = 0 then { s with mgc := { s.mgc with spiOut := [0] } }
  else f s

/-- Command 01h: a request frame of 8 octets, refused while a response is unread or owed. -/
def spiRequest (s : State) (l : List Octet) : State :=
  spiServe s (fun s =>
    if l.length < 8 then s
    else
      let s := spiOut s []
      let busy := (answerOf s .spi).isSome || (owedOf s .spi).isSome
      let s := { s with mgc := { s.mgc with spiRefused := busy } }
      if busy then s else requestFrame s .spi (l.take 8))

def execSpiSdoRequest (frame : List Octet) (s : State) : Host.Outcome State Fault Refusal := .next (spiRequest s frame)

/-- Command 02h: the response that waits, which is then read. -/
def spiReadResponse (s : State) : State :=
  spiServe s (fun s =>
    match answerOf s .spi with
    | some x => setAnswer (spiOut s (1 :: x.octets)) .spi none
    | none => spiOut s (0 :: List.replicate 8 0))

def execSpiReadResponse (s : State) : Host.Outcome State Fault Refusal := .next (spiReadResponse s)

/-- Command 03h: the next emergency frame. -/
def spiReadEmergency (s : State) : State :=
  spiServe s (fun s =>
    match emTake s .spi with
    | (s', some l) => setEmSent { s' with mgc := { s'.mgc with spiOut := spiStatus s :: 1 :: l } } .spi ⟨0, l⟩
    | (_, none) => spiOut s (0 :: List.replicate 8 0))

def execSpiReadEmergency (s : State) : Host.Outcome State Fault Refusal := .next (spiReadEmergency s)

/-- Command 04h: the status octet again. -/
def spiReadStatus (s : State) : State := spiServe s (fun s => spiOut s [spiStatus s])

def execSpiReadStatus (s : State) : Host.Outcome State Fault Refusal := .next (spiReadStatus s)

/-- The MGC sends the next queued emergency: on CAN FD on 080h + n unless the bus is off, on SPI as command 03h, and on
the ring by 1F22h as a message with number 63 (R398). -/
def emergencySend (s : State) (t : Transport) : State :=
  if s.mgcServing = false then s
  else match t with
    | .spi => spiReadEmergency s
    | .can =>
      if s.flag MGC_STAT_busoff then s
      else match emTake s .can with
        | (s, some l) => setEmSent s .can ⟨0x80 + s.mtp.nodeId.toNat, l⟩
        | (s, none) => s
    | .kwr =>
      let k := s.mtp.emEngine.toNat
      if k < 6 ∧ kwrState s k = 5 ∧ s.get MGC_STAT_state = 1 then
        match emTake s .kwr with
        | (s, some l) => ringSend (setEmSent s .kwr ⟨s.mtp.emPosition.toNat, l⟩) k s.mtp.emPosition.toNat 63 l
        | (s, none) => s
      else s

def execEmergencySend (t : Transport) (s : State) : Host.Outcome State Fault Refusal := .next (emergencySend s t)

/-! ## The heartbeat (Table 15.8) -/

/-- The heartbeat octet, where Table 15.8 gives one. -/
def heartbeatOctet (s : State) : Option Octet :=
  if s.cfg.load.isSome then some 0x7F
  else match s.pwr.phase with
    | .run | .simmerEntry | .simmer | .simmerExit => some 0x05
    | .fault | .banked => some 0x04
    | .discovery | .loading => some 0x7F
    | _ => none

/-- A heartbeat period elapses. In the phases for which no octet is stated it is free. -/
def heartbeat (s : State) : State :=
  if s.mgc.hbPeriod = 0 ∨ s.mgcServing = false ∨ s.flag MGC_STAT_busoff = true then s
  else match heartbeatOctet s with
    | some o => { s with mgc := { s.mgc with heartbeat := some o } }
    | none =>
      { s.tookFree with mgc := { s.mgc with heartbeat := some (BitVec.ofNat 8 (Config.freeWord s.free).toNat) } }

def execHeartbeatTimer (s : State) : Host.Outcome State Fault Refusal := .next (heartbeat s)

/-! ## CAN FD bus-off (R381) -/

/-- The controller enters bus-off: traffic on CAN FD waits. -/
def busOff (s : State) (tec : BitVec 9) : State :=
  if s.get MGC_STAT_state = 0 then s
  else { s.put MGC_STAT_busoff 1 with mgc := { s.mgc with tec := tec } }

def execCanBusOff (tec : BitVec 9) (s : State) : Host.Outcome State Fault Refusal := .next (busOff s tec)

/-- The controller has recovered: A007h. -/
def busBack (s : State) : State :=
  if s.flag MGC_STAT_busoff then raise (s.put MGC_STAT_busoff 0) 0xA007 (packWord [(27, s.mgc.tec.toNat)]) else s

def execCanBusOffRecovered (s : State) : Host.Outcome State Fault Refusal := .next (busBack s)

/-! ## Hasps (R393, R394) -/

/-- A write through a transport that is served now; an abort changes nothing. -/
def whenServed (s : State) (t : Transport) (r : State ⊕ Nat) : State :=
  match serveNow s t, r with
  | .full, .inl s' => s'
  | _, _ => s

def execExpertHaspOpen (t : Transport) (code : BitVec 18) (s : State) : Host.Outcome State Fault Refusal :=
  .next (whenServed s t (expertWrite s t code.toNat))

def execExpertHaspClose (t : Transport) (s : State) : Host.Outcome State Fault Refusal :=
  .next (whenServed s t (expertWrite s t 0))

/-- The idle limit passes without an expert write: the hasps of the transport close. -/
def execHaspIdleTimeout (t : Transport) (s : State) : Host.Outcome State Fault Refusal := .next (closeExpert s t)

def execCalHaspOpen (t : Transport) (code : BitVec 18) (s : State) : Host.Outcome State Fault Refusal :=
  .next (whenServed s t (calWrite s t code.toNat))

def execCalHaspClose (t : Transport) (s : State) : Host.Outcome State Fault Refusal :=
  .next (whenServed s t (calWrite s t 0))

/-! ## Commanded and actual (R395, R396, Table 15.9) -/

/-- One pair: what is commanded and actual, whether they agree, the settle timeout at this moment, the commanded object,
and the live object that shows the actual value with its subsystem. -/
structure Pair where
  actual : Nat
  agree : Bool
  settle : Nat
  idx : Nat
  sub : Nat
  live : Nat
  liveSub : Nat

/-- The hearths with a reload running. -/
def reloadingMask (s : State) : W36 :=
  BitVec.ofNat 36 ((List.range 36).foldl (fun n h => n + b2n (s.scb.reloads.any (fun r => r.h.val == h)) * 2 ^ h) 0)

/-- Pair `p`, numbered as in Machine/Ops.lean. -/
def pairOf (s : State) (p : Nat) : Pair :=
  let c := commandedOf s p
  if p = 0 then
    let a := s.get FAB_VFAB_CTL_actual
    let d := max a c - min a c
    ⟨a, decide (d ≤ 25), 32000 * ((d + 4) / 5) + 3200000, 0x2110, 5, 0x6110, 3⟩
  else if p ≤ 24 then
    let a := s.get (LNE_STAT_pwr_act (p - 1))
    ⟨a, a == c, 16000000, 0x2311, p, 0x6311, p⟩
  else if p ≤ 30 then
    let a := kwrState s (p - 25)
    ⟨a, if c = 0 then a == 0 else a == 5, 320000000, 0x2400, p - 24, 0x6400, p - 24⟩
  else if p ≤ 32 then
    let a := s.get (DRM_CFG_rate (p - 31))
    ⟨a, a == c, 3200000, 0x2505, p - 30, 0x6504, p - 30⟩
  else if p = 33 then
    let a := s.word SCB_HRL_STAT
    ⟨a.toNat, (a ^^^ BitVec.ofNat 36 c) &&& ~~~ reloadingMask s == 0, 32000000, 0x2801, 2, 0x6801, 1⟩
  else
    let a := s.get PWR_STAT_state
    ⟨a, a == c, 32000000, 0x2900, 1, 0x6900, 1⟩

/-- The moment by which a pair that disagrees has to agree. -/
def settleBy (s : State) (p : Nat) : Option W72 := tget (fun _ => none) s.mgc.settleBy p

def setSettle (s : State) (p : Nat) (x : Option W72) : State :=
  { s with mgc := { s.mgc with settleBy := tput (fun _ => none) s.mgc.settleBy p x } }

/-- A003h stands raised for a pair. -/
def disagreed (s : State) (p : Nat) : Bool := tget (fun _ => false) s.mgc.disagreed p

def setDisagreed (s : State) (p : Nat) (b : Bool) : State :=
  { s with mgc := { s.mgc with disagreed := tput (fun _ => false) s.mgc.disagreed p b } }

/-- The log has yet to take the agreement that follows an A003h. -/
def setAgreeDue (s : State) (p : Nat) (b : Bool) : State :=
  { s with mgc := { s.mgc with agreeDue := tput (fun _ => false) s.mgc.agreeDue p b } }

/-- A sweep of an SDRAM channel extends the timeout of its pair (Table 15.9). -/
def pairRestart (s : State) (p : Nat) : State :=
  if 31 ≤ p ∧ p ≤ 32 ∧ dramState s (p - 31) = 1 then setSettle s p none
  else s

/-- One pair is compared: A003h once when it has disagreed for longer than its timeout; the log takes the moment of
agreement after that. -/
def pairCheck (s : State) (p : Nat) : State :=
  let s := pairRestart s p
  let x := pairOf s p
  if x.agree then
    let was := tget (fun _ => false) s.mgc.agreeDue p
    let s := setAgreeDue (setDisagreed (setSettle s p none) p false) p false
    if was then logState s (x.live / 256 % 16) x.live x.liveSub x.actual else s
  else
    match settleBy s p with
    | none => setSettle s p (some (s.timebase + BitVec.ofNat 72 x.settle))
    | some t =>
      if t < s.timebase ∧ disagreed s p = false then
        raise (setAgreeDue (setDisagreed s p true) p true) 0xA003 (packWord [(20, x.idx), (12, x.sub), (0, x.actual % 4096)])
      else s

/-- The MGC compares the pairs: the minimal MGC the power state alone. -/
def commandedCheck (s : State) : State :=
  if s.mgcFull then (List.range 35).foldl pairCheck s
  else if s.get MGC_STAT_state = 3 then pairCheck s 34
  else s

def execCommandedActualCheck (s : State) : Host.Outcome State Fault Refusal := .next (commandedCheck s)

end Sys2Proof.Machine
end

