-- ==== Sys2Proof/Machine/Dispatch.lean ====
section
/-! DEFINITION. Dispatch: one arm for each command, each a call of its meaning. -/
namespace Sys2Proof.Machine
open Sys2Proof

def exec (i : Instr) (s : State) : Host.Outcome State Fault Refusal :=
  match i with
  | .supplyRise => Sys2Proof.Machine.execSupplyRise s
  | .powerOnResetRelease pdc forceKindN => Sys2Proof.Machine.execPowerOnResetRelease pdc forceKindN s
  | .rootPllLock => Sys2Proof.Machine.execRootPllLock s
  | .mgcBootDone vout => Sys2Proof.Machine.execMgcBootDone vout s
  | .startupBistDone fails eligible incomplete ms => Sys2Proof.Machine.execStartupBistDone fails eligible incomplete ms s
  | .runReached => Sys2Proof.Machine.execRunReached s
  | .porst => Sys2Proof.Machine.execPorst s
  | .brownout => Sys2Proof.Machine.execBrownout s
  | .refLost => Sys2Proof.Machine.execRefLost s
  | .rootPllLockLost => Sys2Proof.Machine.execRootPllLockLost s
  | .mgcFirmwareStop => Sys2Proof.Machine.execMgcFirmwareStop s
  | .mgcRestartEnd => Sys2Proof.Machine.execMgcRestartEnd s
  | .handshakeRequest rails => Sys2Proof.Machine.execHandshakeRequest rails s
  | .handshakeAck dsts => Sys2Proof.Machine.execHandshakeAck dsts s
  | .handshakeRelease srcs => Sys2Proof.Machine.execHandshakeRelease srcs s
  | .handshakeReady dsts => Sys2Proof.Machine.execHandshakeReady dsts s
  | .cellFire c => Sys2Proof.Machine.execCellFire c s
  | .particleUpset u => Sys2Proof.Machine.execParticleUpset u s
  | .userResetRequest h => Sys2Proof.Machine.execUserResetRequest h s
  | .boundaryWaitEnd h => Sys2Proof.Machine.execBoundaryWaitEnd h s
  | .boundaryWaitTimeout h => Sys2Proof.Machine.execBoundaryWaitTimeout h s
  | .tokLastClear => Sys2Proof.Machine.execTokLastClear s
  | .tokCntClear => Sys2Proof.Machine.execTokCntClear s
  | .xbLastClear => Sys2Proof.Machine.execXbLastClear s
  | .xbCntClear => Sys2Proof.Machine.execXbCntClear s
  | .probeEnable p w => Sys2Proof.Machine.execProbeEnable p w s
  | .probeDisable p w => Sys2Proof.Machine.execProbeDisable p w s
  | .probeSelWrite p w => Sys2Proof.Machine.execProbeSelWrite p w s
  | .paceWindowStart => Sys2Proof.Machine.execPaceWindowStart s
  | .paceWindowEnd h a b => Sys2Proof.Machine.execPaceWindowEnd h a b s
  | .governorPeriod silent tempMax => Sys2Proof.Machine.execGovernorPeriod silent tempMax s
  | .governorWarmEnd => Sys2Proof.Machine.execGovernorWarmEnd s
  | .governorEnable => Sys2Proof.Machine.execGovernorEnable s
  | .governorDisable => Sys2Proof.Machine.execGovernorDisable s
  | .vfabTargetWrite mv => Sys2Proof.Machine.execVfabTargetWrite mv s
  | .vfabRampStep ack => Sys2Proof.Machine.execVfabRampStep ack s
  | .vfabReadVout mv status => Sys2Proof.Machine.execVfabReadVout mv status s
  | .pmbAlert => Sys2Proof.Machine.execPmbAlert s
  | .vfabMismatchTimeout => Sys2Proof.Machine.execVfabMismatchTimeout s
  | .storeRead h slot port => Sys2Proof.Machine.execStoreRead h slot port s
  | .storeWrite h slot port => Sys2Proof.Machine.execStoreWrite h slot port s
  | .storeExchange h slot port => Sys2Proof.Machine.execStoreExchange h slot port s
  | .storeRequestFault h slot port => Sys2Proof.Machine.execStoreRequestFault h slot port s
  | .storeResponse h slot port => Sys2Proof.Machine.execStoreResponse h slot port s
  | .blockHandoverQuiesced h slot => Sys2Proof.Machine.execBlockHandoverQuiesced h slot s
  | .blockHandoverSwitch h slot => Sys2Proof.Machine.execBlockHandoverSwitch h slot s
  | .blockHandoverTimeout h slot => Sys2Proof.Machine.execBlockHandoverTimeout h slot s
  | .eventOffered e => Sys2Proof.Machine.execEventOffered e s
  | .eventReqSeen e => Sys2Proof.Machine.execEventReqSeen e s
  | .eventTaken e => Sys2Proof.Machine.execEventTaken e s
  | .eventAckSeen e => Sys2Proof.Machine.execEventAckSeen e s
  | .eventReqLowSeen e => Sys2Proof.Machine.execEventReqLowSeen e s
  | .eventCrossingComplete e => Sys2Proof.Machine.execEventCrossingComplete e s
  | .wordValueWrite j v => Sys2Proof.Machine.execWordValueWrite j v s
  | .wordValueVisible j => Sys2Proof.Machine.execWordValueVisible j s
  | .wordSampleRequest j => Sys2Proof.Machine.execWordSampleRequest j s
  | .wordOutToken j => Sys2Proof.Machine.execWordOutToken j s
  | .wordOutWrite j => Sys2Proof.Machine.execWordOutWrite j s
  | .wordValidRestore j => Sys2Proof.Machine.execWordValidRestore j s
  | .ctlhRead => Sys2Proof.Machine.execCtlhRead s
  | .ctlhWrite => Sys2Proof.Machine.execCtlhWrite s
  | .ctlhMaskedWrite => Sys2Proof.Machine.execCtlhMaskedWrite s
  | .ctlhReservedOp => Sys2Proof.Machine.execCtlhReservedOp s
  | .ctlhAccessEdge => Sys2Proof.Machine.execCtlhAccessEdge s
  | .ctlhResponse => Sys2Proof.Machine.execCtlhResponse s
  | .reseatSxSeen g => Sys2Proof.Machine.execReseatSxSeen g s
  | .reseatXRelease g => Sys2Proof.Machine.execReseatXRelease g s
  | .reseatYOpen g => Sys2Proof.Machine.execReseatYOpen g s
  | .reseatXOpen g => Sys2Proof.Machine.execReseatXOpen g s
  | .hingeSideReset w => Sys2Proof.Machine.execHingeSideReset w s
  | .hingeSideResetEnd g => Sys2Proof.Machine.execHingeSideResetEnd g s
  | .userClockEnable k w => Sys2Proof.Machine.execUserClockEnable k w s
  | .userClockLost k => Sys2Proof.Machine.execUserClockLost k s
  | .userClockPresent k => Sys2Proof.Machine.execUserClockPresent k s
  | .hingeStall g => Sys2Proof.Machine.execHingeStall g s
  | .evStatClear e => Sys2Proof.Machine.execEvStatClear e s
  | .wdStatClear j => Sys2Proof.Machine.execWdStatClear j s
  | .stallLastClear => Sys2Proof.Machine.execStallLastClear s
  | .ctlhStatClear => Sys2Proof.Machine.execCtlhStatClear s
  | .fifoPush f e => Sys2Proof.Machine.execFifoPush f e s
  | .fifoSealTimeout f => Sys2Proof.Machine.execFifoSealTimeout f s
  | .fifoSealCrossing f => Sys2Proof.Machine.execFifoSealCrossing f s
  | .fifoPop f => Sys2Proof.Machine.execFifoPop f s
  | .fifoBankSwap f => Sys2Proof.Machine.execFifoBankSwap f s
  | .fifoParityError f readerSide => Sys2Proof.Machine.execFifoParityError f readerSide s
  | .fifoFlushPkt f => Sys2Proof.Machine.execFifoFlushPkt f s
  | .fifoFlushPoint f => Sys2Proof.Machine.execFifoFlushPoint f s
  | .fifoFlushReader f => Sys2Proof.Machine.execFifoFlushReader f s
  | .fifoClearNow f => Sys2Proof.Machine.execFifoClearNow f s
  | .fifoClearPoint f => Sys2Proof.Machine.execFifoClearPoint f s
  | .fifoClearReader f => Sys2Proof.Machine.execFifoClearReader f s
  | .fifoCntClear f => Sys2Proof.Machine.execFifoCntClear f s
  | .fifoSealToWrite f sealPre sealTo => Sys2Proof.Machine.execFifoSealToWrite f sealPre sealTo s
  | .mailboxPush g e a => Sys2Proof.Machine.execMailboxPush g e a s
  | .mailboxPop g => Sys2Proof.Machine.execMailboxPop g s
  | .cordRefLost n refStopped => Sys2Proof.Machine.execCordRefLost n refStopped s
  | .cordPllLock n => Sys2Proof.Machine.execCordPllLock n s
  | .cordRateWrite n rate => Sys2Proof.Machine.execCordRateWrite n rate s
  | .cordMapWrite n map => Sys2Proof.Machine.execCordMapWrite n map s
  | .laneModeWrite l mode => Sys2Proof.Machine.execLaneModeWrite l mode s
  | .laneRetrain l => Sys2Proof.Machine.execLaneRetrain l s
  | .laneSetActive l => Sys2Proof.Machine.execLaneSetActive l s
  | .laneSetIdleHold l => Sys2Proof.Machine.execLaneSetIdleHold l s
  | .laneSetBanked l => Sys2Proof.Machine.execLaneSetBanked l s
  | .laneCntClear l => Sys2Proof.Machine.execLaneCntClear l s
  | .signalDetected l => Sys2Proof.Machine.execSignalDetected l s
  | .signalLost l => Sys2Proof.Machine.execSignalLost l s
  | .alignInvalidHeader l gap => Sys2Proof.Machine.execAlignInvalidHeader l gap s
  | .alignHuntDone l => Sys2Proof.Machine.execAlignHuntDone l s
  | .alignLocked l => Sys2Proof.Machine.execAlignLocked l s
  | .adaptFreeze l => Sys2Proof.Machine.execAdaptFreeze l s
  | .adaptResume l => Sys2Proof.Machine.execAdaptResume l s
  | .rxIdleBlock l => Sys2Proof.Machine.execRxIdleBlock l s
  | .rxStartBlock l => Sys2Proof.Machine.execRxStartBlock l s
  | .rxDataBlock l bits => Sys2Proof.Machine.execRxDataBlock l bits s
  | .rxEndBlock l content => Sys2Proof.Machine.execRxEndBlock l content s
  | .rxTrainBlock l content => Sys2Proof.Machine.execRxTrainBlock l content s
  | .rxHoldBlock l => Sys2Proof.Machine.execRxHoldBlock l s
  | .rxInvalidBlock l blk => Sys2Proof.Machine.execRxInvalidBlock l blk s
  | .rxHoldExit l => Sys2Proof.Machine.execRxHoldExit l s
  | .rxHoldTimeout l => Sys2Proof.Machine.execRxHoldTimeout l s
  | .trainAdaptDone l => Sys2Proof.Machine.execTrainAdaptDone l s
  | .trainSuccess l skew => Sys2Proof.Machine.execTrainSuccess l skew s
  | .trainTimeout l => Sys2Proof.Machine.execTrainTimeout l s
  | .backoffElapsed l => Sys2Proof.Machine.execBackoffElapsed l s
  | .ethHiBer l ended => Sys2Proof.Machine.execEthHiBer l ended s
  | .ethRxBlock l blk => Sys2Proof.Machine.execEthRxBlock l blk s
  | .kwrRoleWrite k role => Sys2Proof.Machine.execKwrRoleWrite k role s
  | .kwrWidthWrite k width => Sys2Proof.Machine.execKwrWidthWrite k width s
  | .kwrCycleBoundary k => Sys2Proof.Machine.execKwrCycleBoundary k s
  | .kwrRxCycle k cycle pos alarm counting => Sys2Proof.Machine.execKwrRxCycle k cycle pos alarm counting s
  | .kwrRxCycleEnd k n late => Sys2Proof.Machine.execKwrRxCycleEnd k n late s
  | .kwrRxTime k tb dly residence frac => Sys2Proof.Machine.execKwrRxTime k tb dly residence frac s
  | .kwrRxTimeHigh k hi hop => Sys2Proof.Machine.execKwrRxTimeHigh k hi hop s
  | .kwrTimebaseSlew k => Sys2Proof.Machine.execKwrTimebaseSlew k s
  | .kwrRxSuperblock k sb err => Sys2Proof.Machine.execKwrRxSuperblock k sb err s
  | .kwrRxAck k seq pos nak => Sys2Proof.Machine.execKwrRxAck k seq pos nak s
  | .kwrRxReplay k seq restart => Sys2Proof.Machine.execKwrRxReplay k seq restart s
  | .kwrRxMgmt k m => Sys2Proof.Machine.execKwrRxMgmt k m s
  | .kwrRxSlot k => Sys2Proof.Machine.execKwrRxSlot k s
  | .kwrRxFill k copies => Sys2Proof.Machine.execKwrRxFill k copies s
  | .kwrInsertPacket k => Sys2Proof.Machine.execKwrInsertPacket k s
  | .kwrAckTimer k => Sys2Proof.Machine.execKwrAckTimer k s
  | .kwrHopReseat k => Sys2Proof.Machine.execKwrHopReseat k s
  | .kwrBufferInvalid k => Sys2Proof.Machine.execKwrBufferInvalid k s
  | .kwrCycleMissed k => Sys2Proof.Machine.execKwrCycleMissed k s
  | .kwrFrameNotReturned k => Sys2Proof.Machine.execKwrFrameNotReturned k s
  | .kwrAlarmWrite k => Sys2Proof.Machine.execKwrAlarmWrite k s
  | .kwrAlarmClear k => Sys2Proof.Machine.execKwrAlarmClear k s
  | .kwrCntClear k => Sys2Proof.Machine.execKwrCntClear k s
  | .sdramRead c p => Sys2Proof.Machine.execSdramRead c p s
  | .sdramWrite c p => Sys2Proof.Machine.execSdramWrite c p s
  | .sdramMaskedWrite c p => Sys2Proof.Machine.execSdramMaskedWrite c p s
  | .sdramRequestFault c p => Sys2Proof.Machine.execSdramRequestFault c p s
  | .sdramAccessDone c p idx flips => Sys2Proof.Machine.execSdramAccessDone c p idx flips s
  | .sdramRequestAged c p idx => Sys2Proof.Machine.execSdramRequestAged c p idx s
  | .sdramRequestLate c p idx => Sys2Proof.Machine.execSdramRequestLate c p idx s
  | .sdramRefreshDue c rank => Sys2Proof.Machine.execSdramRefreshDue c rank s
  | .sdramTempRead c die mpr => Sys2Proof.Machine.execSdramTempRead c die mpr s
  | .sdramRefresh1x c => Sys2Proof.Machine.execSdramRefresh1x c s
  | .sdramPatrolRead c flips => Sys2Proof.Machine.execSdramPatrolRead c flips s
  | .sdramSelfRefreshEnter c => Sys2Proof.Machine.execSdramSelfRefreshEnter c s
  | .sdramSelfRefreshExit c => Sys2Proof.Machine.execSdramSelfRefreshExit c s
  | .sdramLiveRemapDone c => Sys2Proof.Machine.execSdramLiveRemapDone c s
  | .sdramPprRequest c => Sys2Proof.Machine.execSdramPprRequest c s
  | .sdramPprWithdraw c => Sys2Proof.Machine.execSdramPprWithdraw c s
  | .sdramPprRecorded c => Sys2Proof.Machine.execSdramPprRecorded c s
  | .sdramParityAlert c => Sys2Proof.Machine.execSdramParityAlert c s
  | .sdramAlertRelease c => Sys2Proof.Machine.execSdramAlertRelease c s
  | .sdramEccClear c => Sys2Proof.Machine.execSdramEccClear c s
  | .sdramCntClear c => Sys2Proof.Machine.execSdramCntClear c s
  | .sweepStepDone c passes ppr => Sys2Proof.Machine.execSweepStepDone c passes ppr s
  | .sweepRequest c => Sys2Proof.Machine.execSweepRequest c s
  | .gatheringStart c => Sys2Proof.Machine.execGatheringStart c s
  | .trainingPause c => Sys2Proof.Machine.execTrainingPause c s
  | .pauseEnd c probes => Sys2Proof.Machine.execPauseEnd c probes s
  | .sdramRateRequest c rate => Sys2Proof.Machine.execSdramRateRequest c rate s
  | .rateChangeBegin c => Sys2Proof.Machine.execRateChangeBegin c s
  | .sdramCheckDone c pauses => Sys2Proof.Machine.execSdramCheckDone c pauses s
  | .bankSupplyChange b mv => Sys2Proof.Machine.execBankSupplyChange b mv s
  | .bankSupplyAgreed b => Sys2Proof.Machine.execBankSupplyAgreed b s
  | .bankSupplyLost b => Sys2Proof.Machine.execBankSupplyLost b s
  | .pinLevelChange b p level => Sys2Proof.Machine.execPinLevelChange b p level s
  | .pinMaskedWrite b mask v => Sys2Proof.Machine.execPinMaskedWrite b mask v s
  | .pinDoutWrite fabric b v => Sys2Proof.Machine.execPinDoutWrite fabric b v s
  | .pinDoutApply b => Sys2Proof.Machine.execPinDoutApply b s
  | .pinPulseEnd b p => Sys2Proof.Machine.execPinPulseEnd b p s
  | .pinCfgStage b p w => Sys2Proof.Machine.execPinCfgStage b p w s
  | .pinApply b mask => Sys2Proof.Machine.execPinApply b mask s
  | .pinSwitchTake b => Sys2Proof.Machine.execPinSwitchTake b s
  | .gpevPulseEnd b p => Sys2Proof.Machine.execGpevPulseEnd b p s
  | .portInputStrobe g => Sys2Proof.Machine.execPortInputStrobe g s
  | .portOutputEntry g => Sys2Proof.Machine.execPortOutputEntry g s
  | .tumblerFilterExpiry t pat => Sys2Proof.Machine.execTumblerFilterExpiry t pat s
  | .tumblerWindowTimeout t => Sys2Proof.Machine.execTumblerWindowTimeout t s
  | .tumblerStrictReturn t => Sys2Proof.Machine.execTumblerStrictReturn t s
  | .tumblerConfigWrite t r w => Sys2Proof.Machine.execTumblerConfigWrite t r w s
  | .tumblerStatClear t => Sys2Proof.Machine.execTumblerStatClear t s
  | .wakePinEdge b slot => Sys2Proof.Machine.execWakePinEdge b slot s
  | .discoveryDone a b => Sys2Proof.Machine.execDiscoveryDone a b s
  | .chunkRead errs => Sys2Proof.Machine.execChunkRead errs s
  | .wardCheckDone => Sys2Proof.Machine.execWardCheckDone s
  | .configClearDone => Sys2Proof.Machine.execConfigClearDone s
  | .warmRecommit => Sys2Proof.Machine.execWarmRecommit s
  | .hearthStreamRead => Sys2Proof.Machine.execHearthStreamRead s
  | .hearthStreamCheckDone => Sys2Proof.Machine.execHearthStreamCheckDone s
  | .keyStage t key => Sys2Proof.Machine.execKeyStage t key s
  | .keyExpectedKcv t kcv => Sys2Proof.Machine.execKeyExpectedKcv t kcv s
  | .keyringProgramEfuse t inRange => Sys2Proof.Machine.execKeyringProgramEfuse t inRange s
  | .keyringWriteBbram t vbat => Sys2Proof.Machine.execKeyringWriteBbram t vbat s
  | .keyringZeroize t => Sys2Proof.Machine.execKeyringZeroize t s
  | .keyringBlowKeySrc t inRange => Sys2Proof.Machine.execKeyringBlowKeySrc t inRange s
  | .keyringBlowBbramOff t inRange => Sys2Proof.Machine.execKeyringBlowBbramOff t inRange s
  | .keyringBlowRbOff t inRange => Sys2Proof.Machine.execKeyringBlowRbOff t inRange s
  | .keyringBlowMinVer t inRange => Sys2Proof.Machine.execKeyringBlowMinVer t inRange s
  | .keyringProgramKindBase t inRange arg => Sys2Proof.Machine.execKeyringProgramKindBase t inRange arg s
  | .keyringCommandDone ok => Sys2Proof.Machine.execKeyringCommandDone ok s
  | .vbatLow => Sys2Proof.Machine.execVbatLow s
  | .readbackIndexWrite w => Sys2Proof.Machine.execReadbackIndexWrite w s
  | .readbackRead => Sys2Proof.Machine.execReadbackRead s
  | .flashEraseSector => Sys2Proof.Machine.execFlashEraseSector s
  | .flashEraseBlock => Sys2Proof.Machine.execFlashEraseBlock s
  | .flashProgram => Sys2Proof.Machine.execFlashProgram s
  | .flashCompare => Sys2Proof.Machine.execFlashCompare s
  | .flashRead => Sys2Proof.Machine.execFlashRead s
  | .flashServiceDone ok => Sys2Proof.Machine.execFlashServiceDone ok s
  | .peatPassStart => Sys2Proof.Machine.execPeatPassStart s
  | .frameRead votes mapBad romBad => Sys2Proof.Machine.execFrameRead votes mapBad romBad s
  | .scrubPriorityReport frame => Sys2Proof.Machine.execScrubPriorityReport frame s
  | .scrubHeartbeatCheck => Sys2Proof.Machine.execScrubHeartbeatCheck s
  | .scrubCntClear => Sys2Proof.Machine.execScrubCntClear s
  | .hearthIsolate h => Sys2Proof.Machine.execHearthIsolate h s
  | .hearthIsolateRelease h => Sys2Proof.Machine.execHearthIsolateRelease h s
  | .hearthReloadRequest h cause => Sys2Proof.Machine.execHearthReloadRequest h cause s
  | .hearthReloadRetry h => Sys2Proof.Machine.execHearthReloadRetry h s
  | .bistSliceStart => Sys2Proof.Machine.execBistSliceStart s
  | .columnPrecopyDone => Sys2Proof.Machine.execColumnPrecopyDone s
  | .columnQuiesced => Sys2Proof.Machine.execColumnQuiesced s
  | .columnQuiesceTimeout => Sys2Proof.Machine.execColumnQuiesceTimeout s
  | .columnScanCopyDone ok => Sys2Proof.Machine.execColumnScanCopyDone ok s
  | .columnTestDone run => Sys2Proof.Machine.execColumnTestDone run s
  | .blockTestDone run => Sys2Proof.Machine.execBlockTestDone run s
  | .laneTestDone run => Sys2Proof.Machine.execLaneTestDone run s
  | .fifoTestDone run => Sys2Proof.Machine.execFifoTestDone run s
  | .repairRecordWriteDone ok => Sys2Proof.Machine.execRepairRecordWriteDone ok s
  | .repairClearSdram t c => Sys2Proof.Machine.execRepairClearSdram t c s
  | .shutdownTest => Sys2Proof.Machine.execShutdownTest s
  | .fullTestDone fails eligible incomplete ms => Sys2Proof.Machine.execFullTestDone fails eligible incomplete ms s
  | .serviceHour hot => Sys2Proof.Machine.execServiceHour hot s
  | .serviceHoursSave => Sys2Proof.Machine.execServiceHoursSave s
  | .jtagExtest en => Sys2Proof.Machine.execJtagExtest en s
  | .jtagIdcode en => Sys2Proof.Machine.execJtagIdcode en s
  | .jtagSamplePreload en => Sys2Proof.Machine.execJtagSamplePreload en s
  | .jtagClamp en => Sys2Proof.Machine.execJtagClamp en s
  | .jtagHighz en => Sys2Proof.Machine.execJtagHighz en s
  | .jtagExtestPulse en => Sys2Proof.Machine.execJtagExtestPulse en s
  | .jtagExtestTrain en => Sys2Proof.Machine.execJtagExtestTrain en s
  | .jtagBypass en => Sys2Proof.Machine.execJtagBypass en s
  | .jtagInstructionEnd => Sys2Proof.Machine.execJtagInstructionEnd s
  | .sdoDownloadExpedited t idx sub data size => Sys2Proof.Machine.execSdoDownloadExpedited t idx sub data size s
  | .sdoDownloadInitiate t idx sub size => Sys2Proof.Machine.execSdoDownloadInitiate t idx sub size s
  | .sdoDownloadSegment t toggle data last => Sys2Proof.Machine.execSdoDownloadSegment t toggle data last s
  | .sdoUploadInitiate t idx sub => Sys2Proof.Machine.execSdoUploadInitiate t idx sub s
  | .sdoUploadSegment t toggle => Sys2Proof.Machine.execSdoUploadSegment t toggle s
  | .sdoSegmentTimeout t => Sys2Proof.Machine.execSdoSegmentTimeout t s
  | .pubResponse => Sys2Proof.Machine.execPubResponse s
  | .pubEvent => Sys2Proof.Machine.execPubEvent s
  | .pubTimeout => Sys2Proof.Machine.execPubTimeout s
  | .spiSdoRequest frame => Sys2Proof.Machine.execSpiSdoRequest frame s
  | .spiReadResponse => Sys2Proof.Machine.execSpiReadResponse s
  | .spiReadEmergency => Sys2Proof.Machine.execSpiReadEmergency s
  | .spiReadStatus => Sys2Proof.Machine.execSpiReadStatus s
  | .canBusOff tec => Sys2Proof.Machine.execCanBusOff tec s
  | .canBusOffRecovered => Sys2Proof.Machine.execCanBusOffRecovered s
  | .expertHaspOpen t code => Sys2Proof.Machine.execExpertHaspOpen t code s
  | .expertHaspClose t => Sys2Proof.Machine.execExpertHaspClose t s
  | .haspIdleTimeout t => Sys2Proof.Machine.execHaspIdleTimeout t s
  | .calHaspOpen t code => Sys2Proof.Machine.execCalHaspOpen t code s
  | .calHaspClose t => Sys2Proof.Machine.execCalHaspClose t s
  | .commandedActualCheck => Sys2Proof.Machine.execCommandedActualCheck s
  | .emergencySend t => Sys2Proof.Machine.execEmergencySend t s
  | .heartbeatTimer => Sys2Proof.Machine.execHeartbeatTimer s
  | .doorbellRing d => Sys2Proof.Machine.execDoorbellRing d s
  | .calSectionWrite t sec data => Sys2Proof.Machine.execCalSectionWrite t sec data s
  | .calWriteDone => Sys2Proof.Machine.execCalWriteDone s
  | .timebaseRead => Sys2Proof.Machine.execTimebaseRead s
  | .alarmFire a => Sys2Proof.Machine.execAlarmFire a s
  | .alarmCompareWrite a w => Sys2Proof.Machine.execAlarmCompareWrite a w s
  | .alarmSkippedClear a => Sys2Proof.Machine.execAlarmSkippedClear a s
  | .wakeTimeWrite t tb => Sys2Proof.Machine.execWakeTimeWrite t tb s
  | .hearthWakeSlot => Sys2Proof.Machine.execHearthWakeSlot s
  | .singleHearthWake h => Sys2Proof.Machine.execSingleHearthWake h s
  | .pwrCmdSimmer => Sys2Proof.Machine.execPwrCmdSimmer s
  | .pwrCmdRun => Sys2Proof.Machine.execPwrCmdRun s
  | .pwrCmdBanked => Sys2Proof.Machine.execPwrCmdBanked s
  | .simmerClockDivide => Sys2Proof.Machine.execSimmerClockDivide s
  | .simmerConfirmTimeout => Sys2Proof.Machine.execSimmerConfirmTimeout s
  | .bankedEntryComplete => Sys2Proof.Machine.execBankedEntryComplete s
  | .bankedWake src => Sys2Proof.Machine.execBankedWake src s
  | .bankedSuppliesReady => Sys2Proof.Machine.execBankedSuppliesReady s
  | .bankedSupplyLate supplies => Sys2Proof.Machine.execBankedSupplyLate supplies s
  | .registerWrite fabric addr data => Sys2Proof.Machine.execRegisterWrite fabric addr data s

end Sys2Proof.Machine
end

