-- ==== Sys2Proof/Machine/Step.lean ====
section
/-! DEFINITION. Step: one step takes the command at the front of the queue; with none waiting, time passes. -/
namespace Sys2Proof.Machine
open Sys2Proof

/-- One step: the command at the front of the queue acts on the state with the queue's rest; on an empty queue the device
idles for a tick (DESIGN CHOICE, log entry 2). -/
def step (s : State) : Host.Outcome State Fault Refusal :=
  match s.pending with
  | [] => .next (tick s)
  | c :: rest => exec c { s with pending := rest }

/-- The state with the command that a word spells in front of its queue; unchanged where the word spells none. -/
def State.withFetchWord (s : State) (nbits w : Nat) : State :=
  match decodeTableWord nbits w with
  | some c => { s with pending := c :: s.pending }
  | none => s

end Sys2Proof.Machine
end

