-- ==== Sys2Proof/Safety.lean ====
section
/-! DEFINITION. Safety: what holds of every state that a run reaches, in the terms that claims use. -/
namespace Sys2Proof.Machine
open Sys2Proof

/-- The register table is in canonical form: each listed address once, rising, none at its reset word. -/
def RegsCanonical (s : State) : Prop := twf resetWord s.regs = true

/-- The event log keeps the latest 1,024 entries (R399), the hold queue 256 (R449) and each transport's emergency queue 32
(R398). -/
def QueuesBounded (s : State) : Prop :=
  s.mgc.log.length ≤ 1024 ∧ s.mgc.hold.length ≤ 256 ∧
    ∀ k, (tget (fun _ => EmQueue.init) s.mgc.queues k).items.length ≤ 32

/-- The addressed memories are in canonical form: store blocks, both flashes, both SDRAM channels and the configuration
frames (what an unlisted address of each reads as is a DESIGN CHOICE, log entry 8). -/
def Memory.wf (s : State) : Bool :=
  twf (fun _ => 0) s.store.content && twf (fun _ => 0xFF) s.cfg.flashA && twf (fun _ => 0xFF) s.cfg.flashB &&
    twf (fun _ => 0) (dramOf s 0).mem && twf (fun _ => 0) (dramOf s 1).mem && twf (fun _ => 0) s.fab.frames

/-- What every step keeps. -/
def Inv (s : State) : Prop := RegsCanonical s ∧ QueuesBounded s ∧ Memory.wf s = true

end Sys2Proof.Machine
end

