-- ==== Sys2Proof/Certificates/Slice0/Obligations.lean ====
section
/-! DEFINITION. Obligations: the statements for the provers, taken from the spec's rules family by family. An equation
`exec c s = .next t` says all that the command does: whatever `t` does not name is unchanged. Where `t` is an `if`, its
condition is the spec's own, and the command is without effect in the other states (DESIGN CHOICE, log entry 1). -/
open Sys2Proof Sys2Proof.Machine

/-! ## Start-up, resets and the MGC's boot (Tables 1.4, 16.2, 16.4) -/

/-- Table 16.4: the supplies rise, power-on reset releases with the straps sampled and the timebase at 0 (R414), and the
root PLL locks. The bits of PWR_SUP for the supplies that SUPPLY_RISE does not name are free (DESIGN CHOICE, log entry 4). -/
def Obligations.StartUpStepsToTheRootLock : Prop :=
  (∀ s : State, exec .supplyRise s = .next (if s.pwr.phase = .cold then
    let t := (s.put PWR_SUP_sup (240 + Config.freeNat s.free % 16)).tookFree
    t.setPwr { t.pwr with phase := .supplies, pwrRun := true } else s)) ∧
  (∀ (s : State) (pdc : BitVec 12) (n : Bool), exec (.powerOnResetRelease pdc n) s = .next (if s.pwr.phase = .supplies then
    let t := (List.range 12).foldl (fun s b => s.put (PIN_BANK_pdc b) (b2n (pdc.getLsbD b))) s
    let t := t.put CFG_STAT_forcekind (b2n !n)
    { t with timebase := 0 }.setPwr { t.pwr with phase := .released } else s)) ∧
  (∀ s : State, exec .rootPllLock s = .next (if s.pwr.phase = .released then
    let t := (s.put CLK_STAT_ref_ok 1).put CLK_STAT_lock 1
    updateSeals (t.setPwr { t.pwr with phase := .locked, clocked := true }) else s))

/-- Table 16.2: PORST_N, a brownout, a lost reference and a lost root lock take a cold reset with their cause code and
their point of re-entry; in BANKED the loss of the reference is no reset (R413). -/
def Obligations.ColdResetCauses : Prop :=
  (∀ s : State, exec .porst s = .next (if s.pwr.phase = .cold then s else coldReset s 1 .supplies)) ∧
  (∀ s : State, exec .brownout s = .next (if s.pwr.phase = .cold then s else
    { (coldReset s 3 .cold).put PWR_SUP_sup 0 with pwr := { (coldReset s 3 .cold).pwr with pwrRun := false } })) ∧
  (∀ s : State, exec .refLost s = .next (if s.flag CLK_STAT_ref_ok = false then s
    else if s.pwr.phase = .banked then s.put CLK_STAT_ref_ok 0
    else { coldReset s 2 .released with mgc := { (coldReset s 2 .released).mgc with refCause := some true } })) ∧
  (∀ s : State, exec .rootPllLockLost s = .next (if s.pwr.phase = .run ∨ s.pwr.phase = .simmerEntry ∨
    s.pwr.phase = .simmer ∨ s.pwr.phase = .simmerExit then
      { coldReset s 2 .released with mgc := { (coldReset s 2 .released).mgc with refCause := some false } } else s))

/-- A cold reset keeps the queue of commands, the flashes, the keys (R332), the repair record, the shutdown test record,
the hours and the node-ID (R391), clears the event log, leaves the timebase at 0, goes on from the phase it names, and
records its cause in the three bits of CLK_STAT.cause (Table 16.2). -/
def Obligations.ColdResetKeepsWhatLasts : Prop :=
  ∀ (s : State) (cause : Nat) (p : Phase),
    (coldReset s cause p).pending = s.pending ∧ (coldReset s cause p).cfg.flashA = s.cfg.flashA ∧
    (coldReset s cause p).cfg.flashB = s.cfg.flashB ∧ (coldReset s cause p).cfg.efuse = s.cfg.efuse ∧
    (coldReset s cause p).cfg.bbKey = s.cfg.bbKey ∧ (coldReset s cause p).mtp.repair = s.mtp.repair ∧
    (coldReset s cause p).mtp.shutdown = s.mtp.shutdown ∧ (coldReset s cause p).mtp.hours = s.mtp.hours ∧
    (coldReset s cause p).mtp.nodeId = s.mtp.nodeId ∧ (coldReset s cause p).mgc.log = [] ∧
    (coldReset s cause p).pwr.phase = p ∧ (coldReset s cause p).timebase = 0 ∧
    (cause < 8 → (coldReset s cause p).get CLK_STAT_cause = cause)

/-- Table 1.4 steps 2 to 9: the MGC's boot applies the calibration, the repair record and the shutdown test record, reads the
regulator's format and commands 800 mV (R94); a quick start goes to flash discovery, a full start to the start-up test, whose
end starts the load; RUN follows the staggered wake and every start-up sweep. -/
def Obligations.BootGoesOnToRun : Prop :=
  (∀ (s : State) (v : VoutMode), exec (.mgcBootDone v) s = .next (if s.pwr.phase = .locked then
      let a := showPhys (bootRepair (bootCal s))
      let x := bootRecord a
      let t := mgcReady (vfabBoot (keyStatus ((x.1.put SCB_SVC_hours a.mtp.hours.toNat).put SCB_SVC_hot a.mtp.hot.toNat)) v)
      if x.2 then loadStart (setPhase t .discovery) false (t.flag CFG_STAT_forcekind) else setPhase t .bist
    else s)) ∧
  (∀ (s : State) (fails : List TestResult) (eligible incomplete : BitVec 24) (ms : BitVec 17),
    exec (.startupBistDone fails eligible incomplete ms) s = .next (if s.pwr.phase = .bist then
      let t := (fullTest s fails eligible.toNat incomplete.toNat ms.toNat).1
      loadStart ((List.range 6).foldl pllUpdate (setPhase t .discovery)) false (t.flag CFG_STAT_forcekind)
    else s)) ∧
  (∀ s : State, s.pwr.phase = .waking → exec .runReached s =
    .next (if s.pwr.wakeSlot.isSome ∨ sweeping s = true then s
      else powerResume (passStart (startLinks (setPhase s .run))))) ∧
  (∀ (s : State) (m : VoutMode), vfabBoot s m = (
      let s := vfabCommand s 800
      if s.flag FAB_VFAB_PMB_en && m != .ulinear16 then vfabFault s else s))

/-- R17: when the firmware stops, transfers in progress abort, the hasps close, what is staged for the keyring and the
published requests go, and the restart is counted and reported by A001h. When the restart ends, what was held is worked
through (R449), a flash command that waited starts, and the live remaps that waited go on (R253). -/
def Obligations.FirmwareRestart : Prop :=
  (∀ s : State, exec .mgcFirmwareStop s = .next (if mgcUp s then
      let t := clearStaged (closeHasps (([Transport.can, .spi, .kwr].foldl abortTransfer s).bump MGC_STAT_restarts 1))
      let t := { t with mgc := { t.mgc with pubNow := none, pubWait := [] } }
      let t := if t.get MGC_STAT_state = 0 then t else t.put MGC_STAT_state 2
      raise t 0xA001 (packWord [(30, t.get MGC_STAT_restarts)])
    else s)) ∧
  (∀ s : State, exec .mgcRestartEnd s = .next (if s.get MGC_STAT_state = 2 then
      startRemap 33 (startRemap 33 (flashResume (replayHeld (s.put MGC_STAT_state
        (if s.pwr.phase = .banked ∨ (s.pwr.phase = .bankedExit ∧ s.pwr.clocked = false) then 3 else 1)))) 0) 1
    else s)) ∧
  (∀ (s : State), clearStaged s = ({ s with cfg := { s.cfg with staged := none, expected := none } })) ∧
  (∀ (s : State), closeHasps s = ((s.put MGC_STAT_xhasp 0).put MGC_STAT_chasp 0))

/-- R17: a stop of the firmware leaves the fabric, the hinges, the pins, the lanes, the SDRAM channels, the store blocks and
the timebase as they are. -/
def Obligations.FirmwareStopLeavesTheArray : Prop :=
  ∀ s t : State, exec .mgcFirmwareStop s = .next t → t.fab = s.fab ∧ t.hng = s.hng ∧ t.pins = s.pins ∧ t.dram = s.dram ∧
    t.lane = s.lane ∧ t.store = s.store ∧ t.timebase = s.timebase

/-! ## The fabric: handshakes, cells, faults, resets (02, 03) -/

/-- R22 to R24: each of the four phases of a token channel acts once every position of the channel permits it, and changes
nothing otherwise. A producer raises rails only from phase 0, exactly one per position, in a committed fabric, and only the
token stage of a cell that runs does so by this command, with the rails of its digit (R20, R26): the store blocks, the hinges
and the carry chain raise theirs within their own commands. -/
def Obligations.HandshakePhases : Prop :=
  (∀ (s : State) (l : List (Src × Rails)), exec (.handshakeRequest l) s = .next (watchHandover s
    (if l.all (fun e => mayRequest s e.1 e.2) then
      l.foldl (fun s e => checkInputs s e.1) (l.foldl (fun s e => drive s e.1 e.2) s) else s))) ∧
  (∀ (s : State) (l : List Dst), exec (.handshakeAck l) s = .next
    (if l.all (mayAck s) then settled (l.foldl (fun s d => moveAck s d true) s) else s)) ∧
  (∀ (s : State) (l : List Src), exec (.handshakeRelease l) s = .next
    (if l.all (mayRelease s l) then settled (l.foldl (fun s x => match x with
      | .cell c => setStage (drive s x 0) c none
      | .side _ _ _ | .hinge _ _ | .gate _ _ | .carry _ => drive s x 0) s) else s)) ∧
  (∀ (s : State) (l : List Dst), exec (.handshakeReady l) s = .next
    (if l.all (mayReady s l) then settled (l.foldl (fun s d => moveAck s d false) s) else s)) ∧
  (∀ (s : State) (x : Src) (r : Rails), mayRequest s x r = true →
    s.fab.committed = true ∧ phase0 s x = true ∧ (onlyBit r.toNat).isSome = true ∧
    ∃ c, x = .cell c ∧ hearthSt s c.h.val = .awake ∧ stageOf s c = some (digitOf r))

/-- A cell with an empty token stage in an awake hearth fires by its mode (Table 2.4): FUNCTION and INITIAL TOKEN look up,
PASS copies, GUARDED PASS may consume, ARITH adds, MUX ROOT selects; every other mode is silent. A firing cell acknowledges
every port in use (R26; DEDUCED for PASS and GUARDED PASS, log entry 63). -/
def Obligations.CellFiresByItsMode : Prop :=
  (∀ (s : State) (c : Cell), exec (.cellFire c) s = .next (settled
    (if cellRuns s c = true ∧ stageOf s c = none then
      (if cellMode s c = 1 ∨ cellMode s c = 7 then fireFunction s c else if cellMode s c = 2 then firePass s c
       else if cellMode s c = 3 then fireGuarded s c else if cellMode s c = 4 then fireArith s c
       else if cellMode s c = 6 then fireRoot s c else s)
     else s))) ∧
  (∀ (s : State) (c : Cell) (a b k : Digit), portDigits s c [inUse s c 0, inUse s c 1, inUse s c 2] = some [a, b, k] →
    firePass s c = ackSlots (countEvent (setStage s c (some a)) c.h.val 0 1) c ((List.range 3).filter (inUse s c)) ∧
    fireGuarded s c = ackSlots (if (if recBits s c 169 1 = 0 then b else k).toNat % 2 = recBits s c 168 1 then s
      else countEvent (setStage s c (some a)) c.h.val 0 1) c ((List.range 3).filter (inUse s c))) ∧
  (∀ (s : State) (c : Cell), portDigits s c [inUse s c 0, inUse s c 1, inUse s c 2] = none →
    firePass s c = s ∧ fireGuarded s c = s ∧ fireFunction s c = s ∧ fireArith s c = s)

/-- R29: in FUNCTION mode a cell whose ports in use hold the digits a, b and c (a port that is not in use counts as 0) forms
the index 32 a1 + 16 a0 + 8 b1 + 4 b0 + 2 c1 + c0, and its output digit, the one its token stage then holds, is
2 lut_o1[i] + lut_o0[i], with lut_o0 in bits 0 to 63 and lut_o1 in bits 64 to 127 of its record (Table 2.8). -/
def Obligations.FunctionModeLooksUp : Prop :=
  ∀ (s : State) (c : Cell) (x y z : Digit), cellRuns s c = true → stageOf s c = none → cellMode s c = 1 →
    portDigits s c [inUse s c 0, inUse s c 1, inUse s c 2] = some [x, y, z] →
    ∃ t v, exec (.cellFire c) s = .next t ∧ stageOf t c = some v ∧
      (let i := 32 * bitsOf x 1 1 + 16 * bitsOf x 0 1 + 8 * bitsOf y 1 1 + 4 * bitsOf y 0 1 + 2 * bitsOf z 1 1 + bitsOf z 0 1
       v.toNat = 2 * recBits s c (64 + i) 1 + recBits s c i 1)

/-- R23: an acknowledge changes nothing while one of its positions is not valid, a return to neutral changes nothing while a
position of its channel has not seen the acknowledge or is not returned with it, and the acknowledge falls nowhere while a
position of its channel is not neutral. -/
def Obligations.HandshakesWaitForEveryPosition : Prop :=
  (∀ (s : State) (l : List Dst) (d : Dst), d ∈ l → validAt s d = false → exec (.handshakeAck l) s = .next s) ∧
  (∀ (s : State) (l : List Src) (x : Src), x ∈ l → joinOf s x = false → exec (.handshakeRelease l) s = .next s) ∧
  (∀ (s : State) (l : List Src) (x y : Src), x ∈ l → y ∈ srcMates s x → (joinOf s y = false ∨ y ∉ l) →
    exec (.handshakeRelease l) s = .next s) ∧
  (∀ (s : State) (l : List Dst) (d : Dst), d ∈ l → seen s d ≠ 0 → exec (.handshakeReady l) s = .next s) ∧
  (∀ (s : State) (l : List Dst) (d e : Dst), d ∈ l → e ∈ dstMates s d → (seen s e ≠ 0 ∨ e ∉ l) →
    exec (.handshakeReady l) s = .next s)

/-- An upset flips one stored bit, or inverts rails of a producer for its consumers (R344, R25). -/
def Obligations.UpsetsFlipOneBit : Prop :=
  (∀ (s : State) (a : FrameAddr) (bit : Fin 1308), exec (.particleUpset (.frameBit a bit)) s =
    .next (watchHandover s
      (writeFrame s a (frameOf s a.h.val a.col.val a.row.val a.f.val ^^^ BitVec.ofNat 1308 (2 ^ bit.val))))) ∧
  (∀ (s : State) (x : Src) (r : Rails), exec (.particleUpset (.wire x r)) s = .next (watchHandover s
      (checkInputs (watched s { s with fab := { s.fab with
        wires := tput (fun _ => 0) s.fab.wires (srcKey x) r } }) x)))

/-- Table 2.10: a user reset of an awake hearth drains it and waits for its boundary; it is discarded while the hearth has
no configuration (Table 2.12). The wait ends with the reinsertion of the initial tokens; a wait beyond FAB_URST_LIM is
reported by 1103h and goes on (R43). -/
def Obligations.UserResetRuns : Prop :=
  (∀ (s : State) (h : Fin 36), exec (.userResetRequest h) s = .next (
    if s.bit SCB_HRL_BAD_bad h.val then s
    else if hearthSt s h.val = .inert ∨ hearthSt s h.val = .waiting then s
    else if hearthSt s h.val = .awake then
      (if handoverIn s h.val then { s.putBit FAB_URST_REQ_req h.val true with scb := { s.scb with
          waiting := if s.scb.waiting.contains h then s.scb.waiting else s.scb.waiting ++ [h] } }
       else boundaryEnd (drain (s.putBit FAB_URST_REQ_req h.val true) h.val .boundary) h.val)
    else s.putBit FAB_URST_REQ_req h.val true)) ∧
  (∀ (s : State) (h : Fin 36), exec (.boundaryWaitEnd h) s = .next (
    if hearthSt s h.val = .boundary ∧ boundaryCount s h.val = 0 then reinsert s h.val else s)) ∧
  (∀ (s : State) (h : Fin 36), exec (.boundaryWaitTimeout h) s = .next (
    if hearthSt s h.val = .boundary ∧ s.get FAB_URST_LIM_lim ≠ 0 then
      raise (s.putBit FAB_URST_STAT_bwait_over h.val true) 0x1103 (packWord [(30, h.val), (0, boundaryCount s h.val)])
    else s)) ∧
  (∀ (s : State) (h : Nat), boundaryEnd s h = (if hearthSt s h = .boundary ∧ boundaryCount s h = 0 then reinsert s h else s)) ∧
  (∀ (s : State) (h : Nat), reinsert s h = (setHearth (insertTokens s h) h .rejoin))

/-- A write of 1 to the clear bit of the token and crossbar fault registers leaves their word or their count 0, and every
other register as it was (Tables 2.17, 2.18, 3.12, 3.13). -/
def Obligations.FaultRegistersClear : Prop :=
  (∀ s : State, exec .tokLastClear s = .next (s.setWord FAB_TOK_LAST 0)) ∧
  (∀ s : State, exec .tokCntClear s = .next (s.put FAB_TOK_CNT_cnt 0)) ∧
  (∀ s : State, exec .xbLastClear s = .next (s.setWord FAB_XB_LAST 0)) ∧
  (∀ s : State, exec .xbCntClear s = .next (s.put FAB_XB_CNT_cnt 0)) ∧
  (∀ s t : State, (exec .tokLastClear s = .next t → ∀ a, a ≠ FAB_TOK_LAST → t.word a = s.word a) ∧
    (exec .tokCntClear s = .next t → t.get FAB_TOK_CNT_cnt = 0) ∧
    (exec .xbLastClear s = .next t → t.word FAB_XB_LAST = 0) ∧ (exec .xbCntClear s = .next t → t.get FAB_XB_CNT_cnt = 0))

/-- Staggered and single-hearth wakes: slot k wakes hearth 7 k mod 36 unless it is isolated or reloading, and the wake ends
with slot 35 (R424); a hearth whose tokens are reinserted wakes alone outside a staggered wake, ending its reset or reload
(R425). Isolation (R354): while the management controller serves writes (R17), a 1 sets the hearth's bit of SCB_ISO and
isolates the hearth unless a reload runs; a 0 has no effect while SCB_HRL_BAD has the bit, and otherwise ends the isolation
with the initial tokens reinserted; each is a commanded value for the comparison of R396 (log entry 58). -/
def Obligations.HearthsWakeAndIsolate : Prop :=
  (∀ (s : State) (h : Fin 36), s.mgcFull = false →
    exec (.hearthIsolate h) s = .next s ∧ exec (.hearthIsolateRelease h) s = .next s) ∧
  (∀ (s : State) (h : Fin 36), s.mgcFull = true → exec (.hearthIsolate h) s = .next (isoCommanded (
    let t := s.putBit SCB_ISO_iso h.val true
    if t.bit SCB_HRL_REQ_req h.val then t else isoStat (isolate t h.val) h.val))) ∧
  (∀ (s : State) (h : Fin 36), s.bit SCB_HRL_BAD_bad h.val = true → exec (.hearthIsolateRelease h) s = .next s) ∧
  (∀ (s : State) (h : Fin 36), s.mgcFull = true → s.bit SCB_HRL_BAD_bad h.val = false →
    exec (.hearthIsolateRelease h) s = .next (isoCommanded (
    let t := s.putBit SCB_ISO_iso h.val false
    if t.bit SCB_HRL_REQ_req h.val && !t.scb.written.contains h then t
    else if hearthSt t h.val = .isolated then
      let u := isoStat (reinsert t h.val) h.val
      { u with scb := { u.scb with written := u.scb.written.filter (· != h) } }
    else t))) ∧
  (∀ s : State, exec .hearthWakeSlot s = .next (match s.pwr.wakeSlot with
    | none => s
    | some k =>
      let t := if hearthSt s (7 * k % 36) = .waiting then wakeHearth s (7 * k % 36) else s
      { t with pwr := { t.pwr with wakeSlot := if k < 35 then some (k + 1) else none } })) ∧
  (∀ (s : State) (h : Fin 36), exec (.singleHearthWake h) s = .next (
    if hearthSt s h.val = .rejoin ∧ s.pwr.wakeSlot.isSome = false then
      ((wakeHearth s h.val).putBit FAB_URST_REQ_req h.val false).putBit SCB_HRL_REQ_req h.val false else s))

/-- Hearth reloads (R355, R356): a request is discarded while no configuration is in force and merged while one runs for
the hearth; otherwise it is accepted, or held during a handover in the hearth. A retry takes the hearth's entry. -/
def Obligations.ReloadRequests : Prop :=
  (∀ (s : State) (h : Fin 36) (c : ReloadCause), exec (.hearthReloadRequest h c) s = .next (
    if s.get CFG_STAT_phase ≠ 4 ∨ s.fab.committed = false ∨ s.bit SCB_HRL_REQ_req h.val = true then s
    else
      let t := s.putBit SCB_HRL_REQ_req h.val true
      if handoverIn t h.val then { t with scb := { t.scb with held := t.scb.held ++ [⟨h, c, false, s.timebase⟩] } }
      else reloadAccept t ⟨h, c, false, s.timebase⟩)) ∧
  (∀ (s : State) (h : Fin 36), exec (.hearthReloadRetry h) s = .next (match s.scb.retryDue.find? (fun e => e.1 == h) with
    | some e => reloadRequest { s with scb := { s.scb with retryDue := s.scb.retryDue.filter (fun e => e.1 != h) } } h e.2 true
    | none => s)) ∧
  (∀ (s : State) (rl : Reload), reloadAccept s rl = (
      let h := rl.h.val
      let s := isoStat (isolate (isoByDevice s (s.putBit SCB_ISO_iso h false)) h) h
      let s := { s with scb := { s.scb with
        reloads := s.scb.reloads ++ [rl], waiting := s.scb.waiting.filter (· != rl.h),
        written := s.scb.written.filter (· != rl.h) } }
      reloadLast s rl 0))

/-- Probes (R68 to R71): a disable stores the pin with en and refused at 0; an enable of a usable pin with a valid select
starts the probe, with its edge count at 0 unless it drove this pin already (DESIGN CHOICE, log entry 73), and any other enable
is refused; the select register holds what is written. -/
def Obligations.ProbeCommands : Prop :=
  (∀ (s : State) (q : Fin 16) (w : W36), ∃ v : W36, exec (.probeDisable q w) s = .next (s.setWord (FAB_PRB_PIN q.val) v) ∧
    bitsOf v 35 1 = 0 ∧ bitsOf v 33 1 = 0 ∧ bitsOf v 0 10 = bitsOf w 0 10) ∧
  (∀ (s : State) (q : Fin 16) (w : W36), ∃ (t : State) (v : W36),
    t = s.setWord (FAB_PRB_PIN q.val) v ∧ bitsOf v 35 1 = 0 ∧ bitsOf v 33 1 = 0 ∧ bitsOf v 0 10 = bitsOf w 0 10 ∧
    bitsOf v 30 3 = bitsOf w 30 3 ∧
    exec (.probeEnable q w) s = .next (
      if bitsOf w 6 4 < 12 ∧ bitsOf w 0 6 < 36 ∧ pinFn t (bitsOf w 6 4) (bitsOf w 0 6) = 0 ∧
        clockOn t (bitsOf w 6 4) (bitsOf w 0 6) = false ∧ t.get (PIN_BANK_vsense (bitsOf w 6 4)) ≠ 0 ∧
        probeOn t (bitsOf w 6 4) (bitsOf w 0 6) = none ∧ probeValid t q.val (bitsOf w 30 3) = true
      then (if bitsOf (s.word (FAB_PRB_PIN q.val)) 35 1 = 1 ∧
          bitsOf (s.word (FAB_PRB_PIN q.val)) 0 10 = bitsOf w 0 10 then t
        else { t with fab := { t.fab with edges := tput (fun _ => 0) t.fab.edges q.val 0 } }).put (FAB_PRB_PIN_en q.val) 1
      else t.put (FAB_PRB_PIN_refused q.val) 1)) ∧
  (∀ (s : State) (q : Fin 16) (w : W36), exec (.probeSelWrite q w) s = .next (s.setWord (FAB_PRB_SEL q.val) w))


/-! ## Pace, the governor, VFAB (04) -/

/-- Pace windows (R79 to R81). A window starts in every hearth while a configuration is in force and the period is not 0. A
hearth's window, whose two loops passed na and nb tokens in 20.48 us, ends with the lower of the two trimmed rates as the pace, the
factor 2,048,000 / pace and status 1 where the two agree within 12.5 %; the third window in a row in which they do not sets
status 2 and raises 1107h, once. A period of 0 stops the counters. How the trim scales a count and which of two counts the
12.5 % are of is read from the text (DEDUCED, log entries 14 and 69). A window that confirms SIMMER is followed at once by the next
(Table 16.6 step 4), and two windows that agree confirm the hearth. -/
def Obligations.PaceWindows : Prop :=
  (∀ s : State, s.fab.committed = true → s.get FAB_PACE_CFG_period ≠ 0 → ∃ t, exec .paceWindowStart s = .next t ∧
    t = s.setPace { s.pace with windows := t.pace.windows } ∧
    ∀ h, h < 36 → tget (fun _ => false) t.pace.windows h = true) ∧
  (∀ s : State, s.fab.committed = false ∨ s.get FAB_PACE_CFG_period = 0 → exec .paceWindowStart s = .next s) ∧
  (∀ (s : State) (h : Fin 36) (na nb : Nat), tget (fun _ => false) s.pace.windows h.val = true →
    s.get FAB_PACE_CFG_period ≠ 0 → s.pwr.phase ≠ .simmerEntry →
    let a := na * 25 * paceTrim s h.val false / (512 * 65536)
    let b := nb * 25 * paceTrim s h.val true / (512 * 65536)
    0 < min a b → min a b < 4096 → 2048000 / min a b < 4096 → 8 * (max a b - min a b) ≤ min a b →
      exec (.paceWindowEnd h na nb) s = .next ((s.setPace { s.pace with
        windows := tput (fun _ => false) s.pace.windows h.val false, bad := tput (fun _ => 0) s.pace.bad h.val 0,
        reported := tput (fun _ => false) s.pace.reported h.val false }).setWord (FAB_PACE h.val)
          (packWord [(24, min a b), (12, 2048000 / min a b), (10, 1)]))) ∧
  (∀ (s : State) (h : Fin 36) (na nb : Nat), tget (fun _ => false) s.pace.windows h.val = true →
    s.get FAB_PACE_CFG_period ≠ 0 → s.pwr.phase ≠ .simmerEntry →
    let a := na * 25 * paceTrim s h.val false / (512 * 65536)
    let b := nb * 25 * paceTrim s h.val true / (512 * 65536)
    0 < min a b → min a b < 4096 → 2048000 / min a b < 4096 → min a b < 8 * (max a b - min a b) →
    tget (fun _ => 0) s.pace.bad h.val = 2 → tget (fun _ => false) s.pace.reported h.val = false →
      exec (.paceWindowEnd h na nb) s = .next (raise ((s.setPace { s.pace with
        windows := tput (fun _ => false) s.pace.windows h.val false, bad := tput (fun _ => 0) s.pace.bad h.val 3,
        reported := tput (fun _ => false) s.pace.reported h.val true }).setWord (FAB_PACE h.val)
          (packWord [(24, min a b), (12, 2048000 / min a b), (10, 2)]))
        0x1107 (packWord [(30, h.val), (18, a % 4096), (6, b % 4096)]))) ∧
  (∀ (s : State) (h : Fin 36) (na nb : Nat), (tget (fun _ => false) s.pace.windows h.val = false ∨
      (s.get FAB_PACE_CFG_period = 0 ∧ s.pwr.phase ≠ .simmerEntry)) → exec (.paceWindowEnd h na nb) s = .next s) ∧
  (∀ (s : State) (h : Fin 36) (na nb : Nat), tget (fun _ => false) s.pace.windows h.val = true →
    let a := trimmedRate s h.val false na
    let b := trimmedRate s h.val true nb
    let t := paceEnd s h.val a b
    exec (.paceWindowEnd h na nb) s = .next (
      if t.pwr.phase = .simmerEntry ∧ t.pwr.rampDone = true then
        let n := tget (fun _ => 0) t.pwr.agree h.val
        let n := if n = 0 then 1 else if paceAgrees (s.get (FAB_PACE_pace h.val)) (min a b) then 2 else 1
        let t := t.setPwr { t.pwr with agree := tput (fun _ => 0) t.pwr.agree h.val n }
        let t := if t.flag FAB_VFAB_PMB_en then
            t.setPace { t.pace with windows := tput (fun _ => false) t.pace.windows h.val true } else t
        simmerConfirm t
      else t)) ∧
  (∀ (s : State) (h : Nat) (b : Bool) (n : Nat), trimmedRate s h b n = n * 25 * paceTrim s h b / (512 * 65536)) ∧
  (∀ (s : State) (h a b : Nat), paceEnd s h a b = (
      if tget (fun _ => false) s.pace.windows h = false ∨ (s.get FAB_PACE_CFG_period = 0 ∧ s.pwr.phase ≠ .simmerEntry) then s
      else
        let p := min a b
        let f := paceFactor s p
        let s := if p = 0 ∨ 4096 ≤ 2048000 / p then s.tookFree else s
        let bad := if paceDiffer a b then tget (fun _ => 0) s.pace.bad h + 1 else 0
        let rep := tget (fun _ => false) s.pace.reported h
        let st := if paceDiffer a b then (if 3 ≤ bad ∨ rep = true then 2 else 1) else 1
        let s := s.setPace { s.pace with
          windows := tput (fun _ => false) s.pace.windows h false,
          bad := tput (fun _ => 0) s.pace.bad h bad,
          reported := tput (fun _ => false) s.pace.reported h (paceDiffer a b && (rep || decide (3 ≤ bad))) }
        let s := s.setWord (FAB_PACE h) (packWord [(24, p % 4096), (12, f), (10, st)])
        if paceDiffer a b && decide (3 ≤ bad) && !rep then
          raise s 0x1107 (packWord [(30, h), (18, a % 4096), (6, b % 4096)])
        else s))

/-- The governor's switches (R89, Table 4.7): en from 0 to 1 zeroes every level and starts a warm millisecond, en = 0 is
stored, and the end of the warm millisecond clears warm. A period while en is 0 leaves every level 0 (R88). The governor runs
once a configuration is in force and while CK100 runs; outside that a period, and the end of the warm millisecond, have no
effect. A period measures, raises the levels while the estimate is above the limit and lowers the highest where it is well
below. -/
def Obligations.GovernorSwitches : Prop :=
  (∀ s : State, exec .governorEnable s = .next (if s.flag FAB_GOV_CFG_en then s else
    (zeroLevels (s.put FAB_GOV_CFG_en 1)).put FAB_GOV_STAT_warm 1)) ∧
  (∀ s : State, exec .governorDisable s = .next (s.put FAB_GOV_CFG_en 0)) ∧
  (∀ s : State, s.fab.committed = true → s.pwr.clocked = true →
    exec .governorWarmEnd s = .next (s.put FAB_GOV_STAT_warm 0)) ∧
  (∀ (s : State) (e : List (Fin 36)) (tempMax : Int), s.fab.committed = true → s.pwr.clocked = true →
    ∃ t, exec (.governorPeriod e tempMax) s = .next t ∧
    t.pending = s.pending ∧ t.get FAB_GOV_CFG_en = s.get FAB_GOV_CFG_en ∧ t.pace.counts = [] ∧
    (s.flag FAB_GOV_CFG_en = false → ∀ h, h < 36 → level t h = 0)) ∧
  (∀ (s : State) (e : List (Fin 36)) (tempMax : Int), s.fab.committed = false ∨ s.pwr.clocked = false →
    exec (.governorPeriod e tempMax) s = .next s ∧ exec .governorWarmEnd s = .next s) ∧
  (∀ (s : State) (silent : List (Fin 36)) (tempMax : Int), governorPeriod s silent tempMax = (
      if governorRuns s then
        let s := estimators s silent
        let s := s.put FAB_GOV_STAT_stale (b2n ((List.range 36).any (stale s)))
        let v := governorVfab s
        let leak := leakage tempMax * v * v * v * 10
        let est := (List.range 36).foldl (fun a h => a + tget (fun _ => 0) s.pace.pdyn h) 0 + leak
        let s := s.put FAB_GOV_STAT_p_leak (min 4095 (leak / (125000 * microwatt)))
        let s := s.put FAB_GOV_STAT_p_est (min 4095 (est / (125000 * microwatt)))
        let limit := limitUw s * microwatt
        let s := clampLevels s
        let calm := if limit < est then 0 else s.pace.calm + 1
        let s := s.setPace { s.pace with calm := calm, capped := s.pace.capped && decide (calm < 1000) }
        if s.flag FAB_GOV_CFG_en = false then s
        else if limit < est then capReached (raiseLevels (byPower s) ((est - limit) * excessScale) s)
        else if est < limit - s.get FAB_GOV_CFG_budget * 125000 * microwatt / 32 then lowerHighest s
        else s
      else s))

/-- R90: in a period of the running governor (R89, Table 4.7), whatever it measures, every exempt hearth goes to level 0, while
p_est still counts the p_dyn of all 36 hearths, the exempt ones among them, beside the leakage at the voltage of the period. -/
def Obligations.ExemptHearthsAreNotStretched : Prop :=
  ∀ (s : State) (e : List (Fin 36)) (tempMax : Int), s.fab.committed = true → s.pwr.clocked = true →
    ∃ t, exec (.governorPeriod e tempMax) s = .next t ∧
    (∀ h, h < 36 → exempt s h = true → level t h = 0) ∧
    t.get FAB_GOV_STAT_p_est = min 4095 (((List.range 36).foldl (fun a h => a + tget (fun _ => 0) t.pace.pdyn h) 0 +
      leakage tempMax * governorVfab s * governorVfab s * governorVfab s * 10) / (125000 * microwatt))

/-- VFAB (R95, R96), while the management controller serves (R17): a target from 650 to 900 mV in steps of 5 is stored, ends the
hold of a fault and, outside SIMMER, sets ramping while the commanded value differs; any other target has no effect. A step
moves the commanded value 5 mV toward the goal and ramping falls there; the ramp of a SIMMER entry that ends with the clocks
divided goes on in `rampEnd`. A regulator fault (R96): an alert, a NACK of a step or of a read, a status that is not 0 (DESIGN
CHOICE, log entry 69), or an actual value more than 25 mV off stops the stepping at the commanded value, sets fault, clears
ramping and raises 1106h with both values and the status, once. -/
def Obligations.VfabAndItsFaults : Prop :=
  (∀ (s : State) (mv : BitVec 10), s.mgcFull = true → 650 ≤ mv.toNat → mv.toNat ≤ 900 → mv.toNat % 5 = 0 →
    exec (.vfabTargetWrite mv) s = .next (
      let t := (commandIf s false true 0 mv.toNat).put FAB_VFAB_CTL_target mv.toNat
      let t := { t with pace := { t.pace with stopped := false } }
      if inSimmer t && t.flag FAB_VFAB_PMB_en then t
      else if t.flag FAB_VFAB_PMB_en then setRamping t (t.pace.commanded != vfabGoal t)
      else t.put FAB_VFAB_CTL_actual (t.get FAB_VFAB_CTL_target))) ∧
  (∀ (s : State) (mv : BitVec 10), s.mgcFull = false ∨ mv.toNat < 650 ∨ 900 < mv.toNat ∨ mv.toNat % 5 ≠ 0 →
    exec (.vfabTargetWrite mv) s = .next s) ∧
  (∀ (s : State) (ack : Bool), exec (.vfabRampStep ack) s = .next (
    let t := vfabWatch s (if s.flag FAB_VFAB_CTL_ramping && !s.pace.stopped && s.mgcServing then
        (if ack then
          let c' := if s.pace.commanded < vfabGoal s then min (vfabGoal s) (s.pace.commanded + 5)
            else max (vfabGoal s) (s.pace.commanded - 5)
          setRamping (s.setPace { s.pace with commanded := c' }) (c' != vfabGoal s)
        else vfabFault s)
      else s)
    if s.flag FAB_VFAB_CTL_ramping && !t.flag FAB_VFAB_CTL_ramping && t.pwr.phase == .simmerEntry && t.flag CLK_STAT_div
    then rampEnd t else t)) ∧
  (∀ s : State, setRamping s true = s.put FAB_VFAB_CTL_ramping 1) ∧
  (∀ s : State, ∃ a, setRamping s false =
    (s.put FAB_VFAB_CTL_ramping 0).setPace { s.pace with addr := a } ∧ a.toNat = s.get FAB_VFAB_PMB_addr) ∧
  (∀ s : State, vfabGoal s = if s.pwr.phase = .simmerEntry ∨ s.pwr.phase = .simmer then 650
    else s.get FAB_VFAB_CTL_target) ∧
  (∀ s : State, exec .pmbAlert s = .next (if s.flag FAB_VFAB_PMB_en then vfabWatch s (vfabFault s) else s)) ∧
  (∀ (s : State) (mv : Option (BitVec 10)) (st : BitVec 16), exec (.vfabReadVout mv st) s = .next (if s.mgcServing then
    simmerConfirm (vfabWatch s (if s.flag FAB_VFAB_PMB_en then (match mv with
      | none => vfabFault s
      | some v =>
        let t := (s.setPace { s.pace with statusWord := st }).put FAB_VFAB_CTL_actual v.toNat
        if st = 0 then t else vfabFault t) else s)) else s)) ∧
  (∀ s : State, exec .vfabMismatchTimeout s = .next (vfabWatch s (if s.flag FAB_VFAB_PMB_en &&
    decide (25 < max (s.get FAB_VFAB_CTL_actual) s.pace.commanded - min (s.get FAB_VFAB_CTL_actual) s.pace.commanded)
    then vfabFault s else s))) ∧
  (∀ s : State, s.pace.stopped = true → vfabFault s = s) ∧
  (∀ s : State, s.pace.stopped = false → vfabFault s =
    let t := setRamping ((s.setPace { s.pace with stopped := true }).put FAB_VFAB_CTL_fault 1) false
    raise t 0x1106 (packWord [(26, t.pace.commanded), (16, t.get FAB_VFAB_CTL_actual), (0, t.pace.statusWord.toNat)]))

/-! ## Store blocks (05) -/

/-- Store ports (R106 to R110): the request that a port takes is the one its positions spell once every one of them is valid
(R105, Table 5.2). A read, a write and an exchange are served as one whole access, their every position acknowledged, when the
hearth is awake, the port is free (R107) and no valid request of the other port is for the same row; they are held while the
slot or the port's side column is in HANDOVER, and left waiting otherwise; of two colliding requests the one that Table 5.3 lets
go first is served whole before the other. A port's response comes from phase 0 (R107). A fault stalls the port, is recorded,
and raises 1108h (R118); the frame it reports and a fault during the copy are the model's choice (log entry 65). Block handover
(R114, Table 5.5): the copy begins once both ports hold no access whose response is still to be delivered; the switch copies all
1,024 rows, steers the slot to the spare and the spare's slot to the freed block, and the held requests proceed; a timeout of the
wait leaves the steering, and the slice ends INCOMPLETE. -/
def Obligations.StoreAccessesAndHandover : Prop :=
  (∀ (s : State) (h : Fin 36) (b : Fin 96) (port : Bool) (r : StoreCall), requestOf s h.val b.val port = some r →
    hearthSt s h.val = .awake → portBusy s h.val b.val port = false → (portOf s h.val b.val port).faulted = false →
    (blockOf s h.val b.val).1 ≠ 2 → bandHeld s h.val b.val port = false → rivalOf s h.val b.val port r = none →
    let w := portWidth s h.val b.val port
    let pb := (blockOf s h.val b.val).2
    let it := itemOf w r.addr
    let old := blockRow s h.val pb it.1
    let put := setRow s h.val pb it.1 (mergeItem old r.data w r.addr r.mask)
    let got := fun (t : State) => setPort t h.val b.val port
      { portOf s h.val b.val port with read := some (itemValue old w r.addr) }
    let done := fun (t : State) => settled ((requestDsts s h.val b.val port).foldl (fun t d => moveAck t d true)
      (countEvent t h.val 7 (nonetsOf w r)))
    (r.op = 0 → exec (.storeRead h b port) s = .next (done (got s))) ∧
    (r.op = 1 → exec (.storeWrite h b port) s = .next (done put)) ∧
    (r.op = 2 → exec (.storeExchange h b port) s = .next (done (got put)))) ∧
  (∀ (s : State) (h : Fin 36) (b : Fin 96) (port : Bool), exec (.storeRead h b port) s =
      .next (settled (storeRequest s h.val b.val port 0)) ∧
    exec (.storeWrite h b port) s = .next (settled (storeRequest s h.val b.val port 1)) ∧
    exec (.storeExchange h b port) s = .next (settled (storeRequest s h.val b.val port 2))) ∧
  (∀ (s : State) (h b : Nat) (port : Bool) (op : Nat), requestOf s h b port = none → storeRequest s h b port op = s) ∧
  (∀ (s : State) (h b : Nat) (port : Bool) (op : Nat) (r : StoreCall), requestOf s h b port = some r →
    storeRequest s h b port op =
    if r.op ≠ op ∨ hearthSt s h ≠ .awake ∨ portBusy s h b port = true ∨ (portOf s h b port).faulted = true then s
    else if (blockOf s h b).1 = 2 ∨ bandHeld s h b port = true then
      setPort s h b port { portOf s h b port with held := true }
    else match rivalOf s h b port r with
      | none => storeServe s h b port
      | some _ =>
        if firstGoes s h b port then storeServe s.tookFree h b port
        else storeServe (storeServe s.tookFree h b (!port)) h b port) ∧
  (∀ (s : State) (h b : Nat), (slotConfig s h b 6 2 = 1 → firstGoes s h b false = true ∧ firstGoes s h b true = false) ∧
    (slotConfig s h b 6 2 = 2 → firstGoes s h b false = false ∧ firstGoes s h b true = true)) ∧
  (∀ (s : State) (h : Fin 36) (slot : Fin 96) (port : Bool), exec (.storeRequestFault h slot port) s = .next (
    if hearthSt s h.val == .awake && !portBusy s h.val slot.val port && !(portOf s h.val slot.val port).faulted &&
        (requestOf s h.val slot.val port).any (fun r => r.op == 3) then
      let s := storeFault s h slot port 2
      if s.scb.handover = .blockWait h slot then afterHandover (blockAbandon s h.val slot.val) else s
    else s)) ∧
  (∀ (s : State) (h : Fin 36) (slot : Fin 96) (port : Bool) (v : W36), (portOf s h.val slot.val port).read = some v →
    (responseSrcs s h.val slot.val port).all (phase0 s) = true →
    exec (.storeResponse h slot port) s = .next (
      let l := (responseSrcs s h.val slot.val port).zip (valueRails (responseSrcs s h.val slot.val port).length v.toNat)
      let t := l.foldl (fun s e => drive s e.1 e.2)
        (setPort s h.val slot.val port { portOf s h.val slot.val port with read := none })
      l.foldl (fun s e => checkInputs s e.1) t)) ∧
  (∀ (s : State) (h : Fin 36) (slot : Fin 96) (port : Bool), ((portOf s h.val slot.val port).read = none ∨
    (responseSrcs s h.val slot.val port).all (phase0 s) = false) → exec (.storeResponse h slot port) s = .next s) ∧
  (∀ (s : State) (h : Fin 36) (slot : Fin 96), exec (.blockHandoverQuiesced h slot) s = .next (
    if s.scb.handover = .blockWait h slot ∧ portsQuiet s h.val slot.val = true then
      { s with scb := { s.scb with handover := .blockCopy h slot } }
    else s)) ∧
  (∀ (s : State) (h : Fin 36) (slot : Fin 96), exec (.blockHandoverSwitch h slot) s =
    .next (if s.scb.handover = .blockCopy h slot then afterHandover (blockSwitch s h.val slot.val) else s)) ∧
  (∀ (s : State) (h : Fin 36) (slot : Fin 96), exec (.blockHandoverTimeout h slot) s =
    .next (if s.scb.handover = .blockWait h slot then afterHandover (blockAbandon s h.val slot.val) else s)) ∧
  (∀ (s : State) (h b : Nat), blockAbandon s h b =
    storeResume (sliceEnd (setBlock s h b (0, (blockOf s h b).2)) 2) h b) ∧
  (∀ (s : State) (h b : Nat),
    let t := copyBlock s h (blockOf s h b).2 (blockOf s h s.scb.spare).2
    let t := setBlock (setBlock t h b (0, (blockOf s h s.scb.spare).2)) h s.scb.spare (1, (blockOf s h b).2)
    blockSwitch s h b = storeResume
      { t with scb := { t.scb with handover := .blockTest (Fin.ofNat _ h) (Fin.ofNat _ (blockOf s h b).2) } } h b) ∧
  (∀ (s : State) (h : Fin 36) (b : Fin 96) (port : Bool) (kind : Nat), storeFault s h b port kind = (
      let s := setPort s h.val b.val port { portOf s h.val b.val port with faulted := true }
      let w := packWord [(30, h.val), (23, b.val), (22, b2n port), (20, kind)]
      let s := (s.putBit FAB_SB_FLT_flt h.val true).setWord FAB_SB_LAST w
      let s := scrubReport s ⟨h, Fin.ofNat _ (b.val / 32), Fin.ofNat _ (b.val % 32), 10⟩
      raise s 0x1108 w))

/-- R104, Table 5.2: an item is a nonet, two or four nonets of its row at x9, x18 and x36; a write stores the masked nonets
of its item (the item always at x9) and leaves every other nonet of its row, and a read changes no row. A row of a block
reads what was last stored there. -/
def Obligations.StoreReadsAndWrites : Prop :=
  (∀ (row data : W36) (addr mask k : Nat), k < 4 → bitsOf (mergeItem row data 2 addr mask) (9 * k) 9 =
    if bitN mask k then bitsOf data (9 * k) 9 else bitsOf row (9 * k) 9) ∧
  (∀ (row data : W36) (addr mask k : Nat), k < 4 → bitsOf (mergeItem row data 0 addr mask) (9 * k) 9 =
    if k = addr % 4 then bitsOf data 0 9 else bitsOf row (9 * k) 9) ∧
  (∀ (row data : W36) (addr mask k : Nat), k < 4 → bitsOf (mergeItem row data 1 addr mask) (9 * k) 9 =
    if k / 2 = addr % 2 ∧ bitN mask (k % 2) = true then bitsOf data (9 * (k % 2)) 9 else bitsOf row (9 * k) 9) ∧
  (∀ (s : State) (h pb row h' pb' row' : Nat) (v : W36), row < 1024 → row' < 1024 → pb < 102 → pb' < 102 →
    blockRow (setRow s h pb row v) h' pb' row' = if h' = h ∧ pb' = pb ∧ row' = row then v else blockRow s h' pb' row') ∧
  (∀ (s : State) (r : StoreCall) (h b h' pb row : Nat) (port : Bool), r.op = 0 →
    blockRow (storeAccess s h b port r) h' pb row = blockRow s h' pb row)


/-! ## Hinges (06) and hinge FIFOs (07) -/

/-- Event hinges (R125 to R128, Tables 6.6, 6.7): an event offered to an idle sender starts a crossing, one offered while a
crossing is under way sets the pending slot or merges into it, and a sealed clocked sender refuses and counts it; the four
edges of REQ and ACK follow in their order, and a pending event starts the next crossing. A write of 1 to clr leaves the
three counts 0 (Table 6.18). -/
def Obligations.EventHinges : Prop :=
  (∀ (s : State) (i : Fin 1152), exec (.eventOffered i) s = .next (tokensTaken (
    if !evUsed s i.val then doorbellDone s i.val
    else if evOut s i.val && !eventToken s i.val then s
    else if !senderOpen s i.val then
      if evOut s i.val then s else doorbellDone (s.bump (HNG_EV_STAT_refused i.val) 1) i.val
    else
      let e := evOf s i.val
      let s := takeEvent s i.val
      match e.snd with
      | .idle => setEv s i.val { e with req := true, snd := .request }
      | .request | .release =>
        if s.flag (HNG_EV_STAT_pending i.val) then mergeEvent s i.val else s.put (HNG_EV_STAT_pending i.val) 1))) ∧
  (∀ (s : State) (i : Fin 1152), exec (.eventReqSeen i) s = .next (
    let e := evOf s i.val
    if e.req = true ∧ e.rcv = .wait ∧ receiverOpen s i.val = true then
      if evOut s i.val then endpointPulse (setEv s i.val { e with ack := true, rcv := .held }) i.val
      else
        let h := s.get (HNG_EV_CFG_host i.val)
        let b := s.get (HNG_EV_CFG_base i.val)
        if portsIdle s h b 1 then presentAt (setEv s i.val { e with rcv := .deliver }) h b 1 0 else s
    else s)) ∧
  (∀ (s : State) (i : Fin 1152), exec (.eventTaken i) s = .next (
    let e := evOf s i.val
    if e.rcv = .deliver ∧ (evOut s i.val || joinOf s (evSrc s i.val)) = true then setEv s i.val { e with ack := true, rcv := .held } else s)) ∧
  (∀ (s : State) (i : Fin 1152), exec (.eventAckSeen i) s = .next (
    let e := evOf s i.val
    if e.snd = .request ∧ e.ack = true then setEv s i.val { e with req := false, snd := .release } else s)) ∧
  (∀ (s : State) (i : Fin 1152), exec (.eventReqLowSeen i) s = .next (
    let e := evOf s i.val
    if e.rcv = .held ∧ e.req = false ∧ (evOut s i.val || phase0 s (evSrc s i.val)) = true then
      setEv s i.val { e with ack := false, rcv := .wait }
    else s)) ∧
  (∀ (s : State) (i : Fin 1152), exec (.eventCrossingComplete i) s = .next (
    let e := evOf s i.val
    if e.snd = .release ∧ e.ack = false then
      let s := stallDone s 0 i.val
      if s.flag (HNG_EV_STAT_pending i.val) then
        setEv (s.put (HNG_EV_STAT_pending i.val) 0) i.val { e with req := true, snd := .request }
      else doorbellDone (setEv s i.val { e with snd := .idle }) i.val
    else s)) ∧
  (∀ (s : State) (i : Fin 1152), exec (.evStatClear i) s = .next
    (((s.put (HNG_EV_STAT_mcount i.val) 0).put (HNG_EV_STAT_disc i.val) 0).put (HNG_EV_STAT_refused i.val) 0))

/-- Word hinges (R130 to R134): a value one step away enters the Gray register and a larger step is a counted jump that holds
the visible value; a stable value becomes visible, with a change notice in on-change mode; a sample request returns the
visible value as one token; out of the fabric a token waits for its permit and is written, a jump lowers valid, and valid
comes back with the endpoint's new value. A write of 1 to clr leaves both counts 0 (Table 6.20). -/
def Obligations.WordHinges : Prop :=
  (∀ (s : State) (j : Fin 288) (v : W36), exec (.wordValueWrite j v) s = .next (
    let w := wdOf s j.val
    let wid := wdWidth s j.val
    let v := lowBits wid (wordSource s j.val v)
    if wdOut s j.val || !wdUsed s j.val then s
    else if j.val < 8 then
      let changed := v != s.word (HNG_WD_VAL j.val)
      let s := (setWd s j.val { w with gray := grayOf v }).setWord (HNG_WD_VAL j.val) v
      if changed && s.flag (HNG_WD_CFG_mode j.val) then wdNotify s j.val else s
    else if oneStep wid v (binOf w.gray) then setWd s j.val { w with gray := grayOf v }
    else countJump (setWd s j.val { w with gray := grayOf v, hold := true }) j.val)) ∧
  (∀ (s : State) (j : Fin 288), exec (.wordValueVisible j) s = .next (
    let w := wdOf s j.val
    if wdOut s j.val || !wdUsed s j.val then s
    else
      let v := binOf w.gray
      let changed := v != s.word (HNG_WD_VAL j.val)
      let s := (setWd s j.val { w with hold := false }).setWord (HNG_WD_VAL j.val) v
      if changed && s.flag (HNG_WD_CFG_mode j.val) then wdNotify s j.val else s)) ∧
  (∀ (s : State) (j : Fin 288), exec (.wordSampleRequest j) s = .next (tokensTaken (
    let w := wdOf s j.val
    let h := s.get (HNG_WD_CFG_host j.val)
    let p := wdPorts s j.val
    if wdUsed s j.val && !wdOut s j.val && !s.flag (HNG_WD_CFG_mode j.val) && w.sl.open0 && w.sl.open1
        && portsIdle s h p.1 p.2 && (tokenAt s h (s.get (HNG_WD_CFG_base j.val)) [.event]).isSome then
      takeAt (wdPresent s j.val) h (s.get (HNG_WD_CFG_base j.val)) [.event]
    else s))) ∧
  (∀ (s : State) (j : Fin 288) (l : List Digit), wdUsed s j.val = true → wdOut s j.val = true →
    (wdOf s j.val).waiting = none → valueToken s j.val = some l → exec (.wordOutToken j) s = .next
      (setWd s j.val { wdOf s j.val with waiting := some (lowBits (wdWidth s j.val) (BitVec.ofNat 36 (digitsNat l))) })) ∧
  (∀ (s : State) (j : Fin 288), (wdUsed s j.val = false ∨ wdOut s j.val = false ∨ (wdOf s j.val).waiting.isSome = true ∨
    valueToken s j.val = none) → exec (.wordOutToken j) s = .next s) ∧
  (∀ (s : State) (j : Fin 288), exec (.wordOutWrite j) s = .next (tokensTaken (
    let w := wdOf s j.val
    match w.waiting with
    | none => s
    | some v =>
      if !(w.sl.open0 && w.sl.open1) then s
      else
        let s := stallDone (takeAt s (s.get (HNG_WD_CFG_host j.val)) (s.get (HNG_WD_CFG_base j.val))
          (valueKinds (wdWidth s j.val))) 1 j.val
        let w := { w with waiting := none }
        if v = binOf w.gray then setWd s j.val w
        else if oneStep (wdWidth s j.val) v (binOf w.gray) then
          (setWd s j.val { w with gray := grayOf v, endpoint := if w.hold then w.endpoint else v }).setWord
            (HNG_WD_VAL j.val) v
        else
          countJump ((setWd s j.val { w with gray := grayOf v, hold := true }).setWord (HNG_WD_VAL j.val) v) j.val))) ∧
  (∀ (s : State) (j : Fin 288), exec (.wordValidRestore j) s = .next (
    let w := wdOf s j.val
    if wdOut s j.val && w.hold && w.sl.open1 then setWd s j.val { w with hold := false, endpoint := binOf w.gray } else s)) ∧
  (∀ (s : State) (j : Fin 288), exec (.wdStatClear j) s = .next
    ((s.put (HNG_WD_STAT_jcount j.val) 0).put (HNG_WD_STAT_disc j.val) 0)) ∧
  (∀ (s : State) (h p : Nat) (ks : List PosKind), (tokenAt s h p ks).isSome = true →
    takeAt s h p ks = (hingeDsts h p ks.length).foldl (fun s d => moveAck s d true) s) ∧
  (∀ (s : State) (h p n v : Nat), portsIdle s h p n = true → presentAt s h p n v =
    let l := (hingeSrcs h p n).zip (valueRails n v)
    l.foldl (fun s e => checkInputs s e.1) (l.foldl (fun s e => drive s e.1 e.2) s))

/-- The control hinge (R135, R136, Tables 6.3, 6.11, 6.12): hosted, with its side open and no request, result or response in hand,
it captures the request that its 49 positions spell, by its operation code, and acknowledges them; otherwise the request waits.
The access takes place with the other side open, and its response goes out from phase 0 on the 19 positions after those. The
operation code 3 answers status 3; an address whose window is closed, as those of MGC and CFG are, or of the control hinge's own
configuration, is refused with status 1, which sets refused and last_addr; an access of status 0 reads, writes whole, or writes as
far as its mask. A register write by firmware takes place while it serves in full, one by the fabric while the control hinge is
open (R139, R144). A write of 1 to clr clears last_addr. -/
def Obligations.ControlHingeRequests : Prop :=
  (∀ (s : State) (r : CtlRequest), ctlToken s = some r → hingeHosted s = true → s.hng.ctlSeal.open0 = true →
    s.hng.ctlReq = none → s.hng.ctlDone = none → s.hng.ctlResp = none →
    let t := tokensTaken (takeAt { s with hng := { s.hng with ctlReq := some r } } (s.get HNG_CTLH_CFG_host)
      (s.get HNG_CTLH_CFG_base) (List.replicate 49 .digit))
    (r.op = 0 → exec .ctlhRead s = .next t) ∧ (r.op = 1 → exec .ctlhWrite s = .next t) ∧
    (r.op = 2 → exec .ctlhMaskedWrite s = .next t) ∧ (r.op = 3 → exec .ctlhReservedOp s = .next t)) ∧
  (∀ s : State, exec .ctlhRead s = .next (tokensTaken (ctlCapture s 0)) ∧
    exec .ctlhWrite s = .next (tokensTaken (ctlCapture s 1)) ∧
    exec .ctlhMaskedWrite s = .next (tokensTaken (ctlCapture s 2)) ∧
    exec .ctlhReservedOp s = .next (tokensTaken (ctlCapture s 3))) ∧
  (∀ (s : State) (op : BitVec 2), ctlCapture s op = match ctlToken s with
    | none => s
    | some r =>
      if r.op = op ∧ (hingeHosted s && s.hng.ctlSeal.open0 && s.hng.ctlReq.isNone && s.hng.ctlDone.isNone &&
          s.hng.ctlResp.isNone) = true then
        takeAt { s with hng := { s.hng with ctlReq := some r } } (s.get HNG_CTLH_CFG_host) (s.get HNG_CTLH_CFG_base)
          (List.replicate 49 .digit)
      else s) ∧
  (∀ (s : State) (l : List Digit), tokenAt s (s.get HNG_CTLH_CFG_host) (s.get HNG_CTLH_CFG_base)
    (List.replicate 49 .digit) = some l → ctlToken s = some (ctlRequestOf l)) ∧
  (∀ (s : State) (r : CtlResponse), s.hng.ctlDone = some r → s.hng.ctlSeal.open0 = true →
    portsIdle s (s.get HNG_CTLH_CFG_host) (s.get HNG_CTLH_CFG_base + 49) 19 = true →
    exec .ctlhResponse s = .next (presentAt { s with hng := { s.hng with ctlDone := none, ctlResp := some r } }
      (s.get HNG_CTLH_CFG_host) (s.get HNG_CTLH_CFG_base + 49) 19 (r.data.toNat + r.status.toNat * 2 ^ 36))) ∧
  (∀ s : State, (s.hng.ctlDone = none ∨ s.hng.ctlSeal.open0 = false ∨
    portsIdle s (s.get HNG_CTLH_CFG_host) (s.get HNG_CTLH_CFG_base + 49) 19 = false) →
    exec .ctlhResponse s = .next s) ∧
  (∀ s : State, exec .ctlhStatClear s = .next (s.put HNG_CTLH_STAT_last_addr 0)) ∧
  (∀ (s : State) (r : CtlRequest), s.hng.ctlReq = some r → s.hng.ctlSeal.open1 = true → exec .ctlhAccessEdge s = .next (
    { (busAccess s r).1 with hng := { (busAccess s r).1.hng with ctlReq := none, ctlDone := some (busAccess s r).2 } })) ∧
  (∀ s : State, (s.hng.ctlReq = none ∨ s.hng.ctlSeal.open1 = false) → exec .ctlhAccessEdge s = .next s) ∧
  (∀ (s : State) (fabric : Bool) (addr : Addr) (data : W36), exec (.registerWrite fabric addr data) s = .next (
    if fabric then
      (if hingeHosted s && s.hng.ctlSeal.open0 && s.hng.ctlSeal.open1 then (busAccess s ⟨1, addr, data, 0⟩).1 else s)
    else if s.mgcFull then writeRegister s false addr.toNat (BitVec.allOnes 36) data else s)) ∧
  (∀ (s : State) (a : Addr) (d m : W36), (busAccess s ⟨3, a, d, m⟩).2 = ⟨0, 3⟩ ∧ (busAccess s ⟨3, a, d, m⟩).1 = s) ∧
  (∀ (s : State) (op : BitVec 2) (a : Addr) (d m : W36), op ≠ 3 →
    (a.toNat / 0x80000 = 0 ∨ a.toNat / 0x80000 = 12 ∨ a.toNat = HNG_CTLH_CFG) →
    busAccess s ⟨op, a, d, m⟩ =
      ((s.put HNG_CTLH_STAT_refused 1).put HNG_CTLH_STAT_last_addr a.toNat, ⟨0, 1⟩)) ∧
  (∀ (s : State) (op : BitVec 2) (a : Addr) (d m : W36), accessStatus s op a.toNat = 0 →
    busAccess s ⟨op, a, d, m⟩ = if op = 0 then ((readRegister s a.toNat).1, ⟨(readRegister s a.toNat).2, 0⟩)
      else (writeRegister s true a.toNat (if op = 1 then BitVec.allOnes 36 else m) d, ⟨0, 0⟩))

/-- Sealing and re-seat (R138 to R142, Table 6.15): the survivor sees the seal line, discards the items in flight and raises its
own; the side that reset lowers its line after its reset; the other side opens; the side that reset opens last, and
HNG_SEAL_CNT counts it unless it is the first opening. A write to HNG_SIDE_RST has no effect while go reads 1 (Table 6.25). -/
def Obligations.SealsAndReseats : Prop :=
  (∀ (s : State) (g : HingeId), exec (.reseatSxSeen g) s = .next (
    let x := sealOf s g
    if x.line0 && !x.line1 then sealDiscard (setSeal s g { x with line1 := true, open1 := false }) g
    else if x.line1 && !x.line0 then sealDiscard (setSeal s g { x with line0 := true, open0 := false }) g
    else s)) ∧
  (∀ (s : State) (g : HingeId), exec (.reseatXRelease g) s = .next (
    let x := sealOf s g
    if x.line0 && x.line1 && !x.rst0 && x.x0 then setSeal s g { x with line0 := false, x1 := false }
    else if x.line0 && x.line1 && !x.rst1 && x.x1 then setSeal s g { x with line1 := false, x0 := false }
    else s)) ∧
  (∀ (s : State) (g : HingeId), exec (.reseatYOpen g) s = .next (
    let x := sealOf s g
    if x.line1 && !x.line0 && !x.rst1 && !x.open0 && !x.x1 then setSeal s g { x with line1 := false, open1 := true }
    else if x.line0 && !x.line1 && !x.rst0 && !x.open1 && !x.x0 then setSeal s g { x with line0 := false, open0 := true }
    else s)) ∧
  (∀ (s : State) (g : HingeId), exec (.reseatXOpen g) s = .next (
    let x := sealOf s g
    if !x.line0 && !x.line1 && (x.open0 != x.open1) then
      let s := setSeal s g { x with open0 := true, open1 := true, x0 := false, x1 := false, first := false }
      let s := if x.first then s else logState (s.bump HNG_SEAL_CNT_cnt 1) 2 0x6210 5 (s.get HNG_SEAL_CNT_cnt + 1)
      let s := if s.hng.sideRst.contains g = false ∧ s.flag HNG_SIDE_RST_go = true ∧
          (s.get HNG_SIDE_RST_kind, s.get HNG_SIDE_RST_index) = hingeKind g then s.put HNG_SIDE_RST_go 0 else s
      reseated (stallDone s (hingeKind g).1 (hingeKind g).2) g
    else s)) ∧
  (∀ (s : State) (w : W36), exec (.hingeSideReset w) s = .next (
    if s.flag HNG_SIDE_RST_go then s
    else
      match namedHinge (bitsOf w 34 2) (bitsOf w 23 11) with
      | none => s
      | some g =>
        let s := (s.put HNG_SIDE_RST_kind (bitsOf w 34 2)).put HNG_SIDE_RST_index (bitsOf w 23 11)
        if bitsOf w 0 1 = 1 ∧ hingeUsed s g = true then
          updateSeal { s.put HNG_SIDE_RST_go 1 with hng := { s.hng with sideRst := g :: s.hng.sideRst } } g
        else s)) ∧
  (∀ (s : State) (g : HingeId), exec (.hingeSideResetEnd g) s =
    .next (updateSeal { s with hng := { s.hng with sideRst := s.hng.sideRst.filter (· != g) } } g))

/-- User clocks (R124): lost sets lost, clears present and raises 2104h, once until the clock shows an edge again; present follows
en; a pin that another function claims refuses the clock. A stall (R143) is recorded with its side in the hinge and in
HNG_STALL_LAST and raises 2101h, with its limit, where the hinge is in use, its limit is not 0, it is not stalled already, and
its state names a stalled side (Tables 6.16 and 7.11). A write of 1 to clr of HNG_STALL_LAST leaves the register 0. -/
def Obligations.UserClocksAndStalls : Prop :=
  (∀ (s : State) (k : Fin 8) (w : W36), exec (.userClockEnable k w) s = .next (
    let b := bitsOf w 6 4
    let p := bitsOf w 0 6
    let old := s.word (HNG_UCLK k.val)
    let lost := if bitsOf w 33 1 = 1 then 0 else bitsOf old 33 1
    let refused := bitsOf w 35 1 == 1 && (pinClaimed s b p || (probeOn s b p).isSome)
    let en := if refused then 0 else bitsOf w 35 1
    let changed := en != bitsOf old 35 1 || bitsOf w 0 10 != bitsOf old 0 10
    let pres := if changed then 0 else bitsOf old 34 1
    let s := if changed then setGone s k.val false else s
    updateSeals (s.setWord (HNG_UCLK k.val) (packWord
      [(35, en), (34, pres), (33, lost), (32, b2n refused), (6, b), (0, p)])))) ∧
  (∀ (s : State) (k : Fin 8), s.flag (HNG_UCLK_en k.val) = true → tget (fun _ => false) s.hng.gone k.val = false →
    exec (.userClockLost k) s = .next (
      let t := setGone ((s.put (HNG_UCLK_lost k.val) 1).put (HNG_UCLK_present k.val) 0) k.val true
      logState (raise (userClockChanged t) 0x2104 (packWord [(33, k.val)])) 2 0x6210 1 0)) ∧
  (∀ (s : State) (k : Fin 8), (s.flag (HNG_UCLK_en k.val) = false ∨ tget (fun _ => false) s.hng.gone k.val = true) →
    exec (.userClockLost k) s = .next s) ∧
  (∀ (s : State) (k : Fin 8), exec (.userClockPresent k) s = .next (if s.flag (HNG_UCLK_en k.val) then
    userClockChanged (setGone (s.put (HNG_UCLK_present k.val) 1) k.val false) else s)) ∧
  (∀ (s : State) (g : HingeId) (side : Bool), stallLimit s g ≠ 0 → hingeUsed s g = true →
    s.hng.stalls.contains (hingeKind g) = false → stalledSide s g = some side → exec (.hingeStall g) s = .next (
      let k := hingeKind g
      let place := stallPlace s g side
      let t := match g with
        | .ev i => (s.put (HNG_EV_STAT_stall i.val) 1).put (HNG_EV_STAT_stall_side i.val) (b2n side)
        | .wd j => (s.put (HNG_WD_STAT_stall j.val) 1).put (HNG_WD_STAT_stall_side j.val) (b2n side)
        | .fifo f => (s.put (HNG_FIFO_STAT_stall f.val) 1).put (HNG_FIFO_STAT_stall_side f.val) (b2n side)
        | .ctl => (s.put HNG_CTLH_STAT_stall 1).put HNG_CTLH_STAT_stall_side (b2n side)
      let t := t.setWord HNG_STALL_LAST (packWord [(34, k.1), (23, k.2), (22, place), (21, 1), (20, 1)])
      let t := { t with hng := { t.hng with stalls := k :: t.hng.stalls } }
      logState (raise t 0x2101 (packWord [(34, k.1), (23, k.2), (22, place), (12, stallLimit s g)])) 2 0x6210 4
        t.hng.stalls.length)) ∧
  (∀ (s : State) (g : HingeId), (stallLimit s g = 0 ∨ hingeUsed s g = false ∨ s.hng.stalls.contains (hingeKind g) = true ∨
    stalledSide s g = none) → exec (.hingeStall g) s = .next s) ∧
  (∀ (s : State) (g : HingeId), stallLimit s g = s.get (HNG_STALL_LIM_lim (match g with
    | .ev i => s.get (HNG_EV_CFG_stall_sel i.val)
    | .wd j => s.get (HNG_WD_CFG_stall_sel j.val)
    | .fifo f => s.get (HNG_FIFO_CFG_stall_sel f.val)
    | .ctl => s.get HNG_CTLH_CFG_stall_sel))) ∧
  (∀ s : State, exec .stallLastClear s = .next (s.setWord HNG_STALL_LAST 0))

/-- Hinge FIFOs (R150, R153 to R158, R167): an entry that a fabric writer's 19 positions spell, or that another writer pushes, is
stored, refused while full or sealed, or dropped after a clear point, and a fabric writer's token is acknowledged when it is
accepted; the reader takes the head of the banks it knows to be sealed: a fabric reader as a token on 19 positions, a lane, an
SDRAM port or a pin port in its own form, the management controller through its mailbox; seals and the bank swap cross with their
own edges; the seal timer seals a bank that holds data; a parity error resets the clocked sides and raises 2106h (R152). The two
control writes store their values. -/
def Obligations.FifoEntries : Prop :=
  (∀ (s : State) (f : Fin 128) (e : Entry), exec (.fifoPush f e) s = .next (tokensTaken (
    if s.get (HNG_FIFO_CFG_wkind f.val) = 0 then
      match offeredEntry s f.val with
      | none => s
      | some e =>
        let r := fifoPush s f.val e
        if r.2 then takeAt r.1 (s.get (HNG_FIFO_CFG_host f.val)) (s.get (HNG_FIFO_CFG_base f.val)) entryKinds else r.1
    else (fifoPush s f.val e).1))) ∧
  (∀ (s : State) (f : Nat) (e : Entry), fifoUsed s f = true → (fifoOf s f).sl.open0 = true →
    s.flag (HNG_FIFO_STAT_wdrop f) = false → (beforePush s f (fifoOf s f)).full = none →
    fifoPush s f e = (let t := setFifo s f (writeEntry s f (beforePush s f (fifoOf s f)) e)
      (if readerWaits t f then t else stallDone t 2 f, true))) ∧
  (∀ (s : State) (f : Nat) (e : Entry), fifoUsed s f = false ∨ (fifoOf s f).sl.open0 = false →
    fifoPush s f e = (s, false)) ∧
  (∀ (s : State) (f : Fin 128), exec (.fifoPop f) s = .next (
    if f.val < 48 then (if f.val % 2 = 1 then laneSend s (f.val / 2) else popFabric s f.val)
    else if f.val < 80 then (if f.val % 16 < 8 then requestTake s ((f.val - 48) / 16) (f.val % 16) else popFabric s f.val)
    else
      match s.get (HNG_FIFO_CFG_rkind f.val) with
      | 0 => popFabric s f.val
      | 2 => portEntry s (f.val - 80)
      | 3 =>
        if s.flag MGC_PUB_PORT_en && s.get MGC_PUB_PORT_g_rsp == f.val - 80 then s
        else if s.mgcServing then mailboxPop s (f.val - 80) else s
      | _ => (fifoPop s f.val).1)) ∧
  (∀ (s : State) (f : Nat), portsIdle s (s.get (HNG_FIFO_CFG_host f)) (s.get (HNG_FIFO_CFG_base f)) 19 = true →
    popFabric s f = match fifoPop s f with
      | (t, none) => t
      | (t, some e) => presentAt t (s.get (HNG_FIFO_CFG_host f)) (s.get (HNG_FIFO_CFG_base f)) 19
          (e.data.toNat + (b2n e.e + 2 * b2n e.a) * 2 ^ 36)) ∧
  (∀ (s : State) (f : Fin 128), exec (.fifoSealTimeout f) s =
    let x := fifoOf s f.val
    let held := match x.slot with
      | some p => decide (p + 1 < x.fill.length) || decide (0 < p)
      | none => !x.fill.isEmpty
    .next (if x.sl.open0 && held && x.knowsEmpty && x.full.isNone && s.get (HNG_FIFO_CTL_seal_to f.val) != 0 then
      setFifo s f.val (sealBank (pmode s f.val) x) else s)) ∧
  (∀ (s : State) (f : Fin 128), exec (.fifoSealCrossing f) s = .next (
    let s := fifoSealCrossing s f.val
    if f.val < 48 ∧ f.val % 2 = 1 then autowake s (f.val / 2) else s)) ∧
  (∀ (s : State) (f : Fin 128), exec (.fifoBankSwap f) s = .next (
    let x := fifoOf s f.val
    if x.sl.open0 then
      let s := setFifo s f.val (bankSwap (pmode s f.val) x)
      if f.val < 48 then (if f.val % 2 = 0 then rxPayOwed s (f.val / 2) else s)
      else if f.val < 80 then (if 8 ≤ f.val % 16 then dramOutRetry s ((f.val - 48) / 16) (f.val % 16 - 8) else s)
      else if s.flag MGC_PUB_PORT_en ∧ f.val = 80 + s.get MGC_PUB_PORT_g_req then pushRequests 2048 s
      else s
    else s)) ∧
  (∀ (s : State) (f : Fin 128) (readerSide : Bool), exec (.fifoParityError f readerSide) s =
    if fifoUsed s f.val then
      .next (raise (updateSeal { s with hng := { s.hng with sideRst := .fifo f :: s.hng.sideRst } } (.fifo f))
        0x2106 (packWord [(34, 2), (23, f.val), (22, b2n readerSide)]))
    else .next s) ∧
  (∀ (s : State) (f : Fin 128) (pre : Bool) (lim : BitVec 24),
    exec (.fifoCntClear f) s = .next (s.setWord (HNG_FIFO_CNT f.val) 0) ∧
    exec (.fifoSealToWrite f pre lim) s = .next
      ((s.put (HNG_FIFO_CTL_seal_pre f.val) (b2n pre)).put (HNG_FIFO_CTL_seal_to f.val) lim.toNat))

/-- R153, R158: entries leave a FIFO first in, first out: an entry taken is the oldest that was not read, and the
others stay in their order; sealing a bank, a bank swap and a seal's crossing lose no entry in stream mode and reorder none. -/
def Obligations.FifoReadsInOrder : Prop :=
  (∀ (x y : Fifo) (e : Entry), takeHead x = some (e, y) → unread x = e :: unread y) ∧
  (∀ x : Fifo, x.slot = none → x.full = none → (x.knowsEmpty = true → x.drain = []) →
    unread (sealBank false x) = unread x) ∧
  (∀ x : Fifo, x.slot = none → unread (bankSwap false x) = unread x) ∧
  (∀ x : Fifo, unread (sealCrossing x) = unread x) ∧
  (∀ (x : Fifo) (e : Entry), x.inPkt = true → x.slot = none → x.full = none →
    unread (storeEntry false x e) = unread x ++ [e])

/-- Flush and clear (R161 to R163): flush_pkt is ignored while the FIFO is sealed or a clear runs, clear_now while it is sealed;
the writer side fixes the point, and the reader side discards up to it, counted, and finishes the packet it is inside. A
mailbox push or pop moves MBD, e and a, and ok tells whether it was accepted (R167). -/
def Obligations.FifoFlushClearAndMailbox : Prop :=
  (∀ (s : State) (f : Fin 128), exec (.fifoFlushPkt f) s = .next (
    let x := fifoOf s f.val
    if !fifoOpen x || s.flag (HNG_FIFO_CTL_clear_now f.val) || !fifoUsed s f.val then s
    else s.put (HNG_FIFO_CTL_flush_pkt f.val) 1)) ∧
  (∀ (s : State) (f : Fin 128), exec (.fifoFlushPoint f) s = .next (
    let x := fifoOf s f.val
    if s.flag (HNG_FIFO_CTL_flush_pkt f.val) && x.flushAt.isNone && fifoOpen x then
      setFifo s f.val { x with flushAt := some (pointIn (pmode s f.val) (unread x)), cleared := false }
    else s)) ∧
  (∀ (s : State) (f : Fin 128), exec (.fifoFlushReader f) s = .next (
    let x := fifoOf s f.val
    match x.flushAt with
    | none => s
    | some n =>
      if x.cleared then s
      else
        let l := (unread x).take n
        let keep := if s.flag (HNG_FIFO_STAT_rmid f.val) then
            min n ((l.takeWhile (fun e => !endsPacket (pmode s f.val) e)).length + 1) else 0
        let s := s.bump (HNG_FIFO_CNT_disc_flush f.val) (n - keep)
        endFlushes (setFifo s f.val { cutRange x keep n with flushAt := some keep, cleared := true }) f.val)) ∧
  (∀ (s : State) (f : Fin 128), exec (.fifoClearNow f) s =
    .next (if !fifoOpen (fifoOf s f.val) || !fifoUsed s f.val then s else s.put (HNG_FIFO_CTL_clear_now f.val) 1)) ∧
  (∀ (s : State) (f : Fin 128), exec (.fifoClearPoint f) s = .next (
    let x := fifoOf s f.val
    if s.flag (HNG_FIFO_CTL_clear_now f.val) && x.clearAt.isNone && !x.abortOwed && fifoOpen x then
      let s := s.bump (HNG_FIFO_CNT_disc_flush f.val) (if x.full.isSome then 0 else x.fill.length)
      let s := s.put (HNG_FIFO_STAT_wdrop f.val) (b2n (x.inPkt || s.flag (HNG_FIFO_STAT_wdrop f.val)))
      setFifo s f.val { x with fill := [], slot := none, inPkt := false, later := false, flushAt := none, clearAt := some (x.drain.length + (x.full.getD []).length) }
    else s)) ∧
  (∀ (s : State) (f : Fin 128), exec (.fifoClearReader f) s = .next (
    let x := fifoOf s f.val
    match x.clearAt with
    | none => s
    | some n =>
      let s := s.bump (HNG_FIFO_CNT_disc_flush f.val) n
      let y := { cutRange x 0 n with clearAt := none, abortOwed := s.flag (HNG_FIFO_STAT_rmid f.val) }
      let s := setFifo s f.val y
      if y.abortOwed then s
      else (s.put (HNG_FIFO_CTL_clear_now f.val) 0).put (HNG_FIFO_CTL_flush_pkt f.val) 0)) ∧
  (∀ (s : State) (g : Fin 48) (e : Bool) (a : Bool), exec (.mailboxPush g e a) s = .next (
    let s := (s.put (HNG_FIFO_MBC_e g.val) (b2n e)).put (HNG_FIFO_MBC_a g.val) (b2n a)
    if fifoUsed s (80 + g.val) && s.get (HNG_FIFO_CFG_wkind (80 + g.val)) == 3 && !publication s g.val then
      let r := fifoPush s (80 + g.val) ⟨s.word (HNG_FIFO_MBD g.val), e, a⟩
      r.1.put (HNG_FIFO_MBC_ok g.val) (b2n r.2)
    else s.put (HNG_FIFO_MBC_ok g.val) 0)) ∧
  (∀ (s : State) (g : Fin 48), exec (.mailboxPop g) s = .next (
    if fifoUsed s (80 + g.val) && s.get (HNG_FIFO_CFG_rkind (80 + g.val)) == 3 && !publication s g.val then
      match fifoPop s (80 + g.val) with
      | (s, none) => s.put (HNG_FIFO_MBC_ok g.val) 0
      | (s, some e) =>
        (((s.setWord (HNG_FIFO_MBD g.val) e.data).put (HNG_FIFO_MBC_e g.val) (b2n e.e)).put
          (HNG_FIFO_MBC_a g.val) (b2n e.a)).put (HNG_FIFO_MBC_ok g.val) 1
    else s.put (HNG_FIFO_MBC_ok g.val) 0))


/-! ## Lanes and cords (08) -/

/-- Cords (R171, R172, R193, R194): a lost reference unlocks the PLL, sets ref_lost and raises 3102h, for each of the three cords
that a reference input feeds where the input stops (Table 8.2); a lock starts the cord's lanes; a rate is taken only while every lane of the cord is off, and then presets the cord; a map is taken only if it is a
permutation, and a lane that moves retrains. Lanes (R175, R186 to R189): a mode write takes the link down and starts the lane in
its new mode; retrain starts a new attempt of a link that is not OFF; while the management controller serves writes (R17) the
three power states are stored and acted on, in a BANKED device at its return (Table 8.15), and IDLE-HOLD in ETHERNET mode has no
effect; a write of 1 to clr leaves both counter words 0. -/
def Obligations.CordAndLaneControl : Prop :=
  (∀ (s : State) (n : Fin 6) (stopped : Bool), exec (.cordRefLost n stopped) s = .next (if stopped then (List.range 3).foldl (fun s i => cordRefLost s (3 * (n.val / 3) + i) true) s else cordRefLost s n.val false)) ∧
  (∀ (s : State) (n : Fin 6), exec (.cordPllLock n) s = .next (
    if pllNeeded s n.val then
      let s := updateSeals (s.put (LNE_CORD_CFG_pll_lock n.val) 1)
      (List.range 4).foldl (fun s k => laneKick s (4 * n.val + k)) s
    else s)) ∧
  (∀ (s : State) (n : Fin 6) (rate : BitVec 2), exec (.cordRateWrite n rate) s = .next (
    if s.get (LNE_CORD_CFG_rate n.val) = rate.toNat then s
    else if (List.range 4).all (fun k => laneMode s (4 * n.val + k) == 0) then
      (List.range 4).foldl (fun s k => setLane s (4 * n.val + k) { laneOf s (4 * n.val + k) with keepEq := false })
        (presetCord (s.put (LNE_CORD_CFG_rate n.val) rate.toNat) n.val)
    else s)) ∧
  (∀ (s : State) (n : Fin 6) (map : BitVec 8), exec (.cordMapWrite n map) s = .next (
    if (List.range 4).all (fun p => (List.range 4).any (fun k => mapAt map.toNat k == p)) then
      let s := laneSliceAbandon s (fun l => l / 4 == n.val)
      (List.range 4).foldl (fun s k =>
        if s.get (mapField n.val k) = mapAt map.toNat k then s
        else
          let s := (s.put (mapField n.val k) (mapAt map.toNat k)).put (LNE_STAT_phys (4 * n.val + k)) (mapAt map.toNat k)
          let s := setLane s (4 * n.val + k) { laneOf s (4 * n.val + k) with keepEq := false }
          if laneMode s (4 * n.val + k) = 0 then s else retrain s (4 * n.val + k)) s
    else s)) ∧
  (∀ (s : State) (l : Fin 24) (mode : BitVec 2), exec (.laneModeWrite l mode) s = .next (
    let s := laneSliceAbandon s (fun m => m == l.val)
    let s := if laneMode s l.val = 0 then s else (linkOff (pulseSeals s l.val) l.val).put (LNE_STAT_align l.val) 0
    let s := s.put (LNE_CTL_mode l.val) mode.toNat
    let s := updateSeals (pllUpdate s (l.val / 4))
    kwrFollow (laneKick s l.val) (l.val / 4))) ∧
  (∀ (s : State) (l : Fin 24), exec (.laneRetrain l) s = .next (
    if link s l.val = 0 then s
    else
      let wasUp := link s l.val == 3
      let s := idleEnds (txClear (rxAbort s l.val) l.val) l.val
      let s := if wasUp then newSequence s l.val else s
      kwrFollow (startAttempt (s.put (LNE_STAT_rx_hold l.val) 0) l.val true) (l.val / 4))) ∧
  (∀ (s : State) (l : Fin 24), s.mgcFull = true → exec (.laneSetActive l) s = .next (
    let s := (setCommanded (fresh s l.val) (1 + l.val) 0).put (LNE_CTL_pwr_state l.val) 0
    let s := if deviceBanked s then s else leaveBanked s l.val
    if s.get (LNE_STAT_pwr_act l.val) = 1 then txWake s l.val else s)) ∧
  (∀ (s : State) (l : Fin 24), s.mgcFull = true → exec (.laneSetIdleHold l) s = .next (
    let s := setCommanded (fresh s l.val) (1 + l.val) 1
    if laneMode s l.val = 3 then s
    else
      let s := s.put (LNE_CTL_pwr_state l.val) 1
      autowake (idleHold (if deviceBanked s then s else leaveBanked s l.val) l.val) l.val)) ∧
  (∀ (s : State) (l : Fin 24), s.mgcFull = true → exec (.laneSetBanked l) s = .next (
    let s := setCommanded (fresh s l.val) (1 + l.val) 2
    laneGoBanked (s.put (LNE_CTL_pwr_state l.val) 2) l.val)) ∧
  (∀ (s : State) (l : Fin 24), s.mgcFull = false → exec (.laneSetActive l) s = .next s ∧
    exec (.laneSetIdleHold l) s = .next s ∧ exec (.laneSetBanked l) s = .next s) ∧
  (∀ (s : State) (l : Fin 24), exec (.laneCntClear l) s =
    .next ((s.setWord (LNE_ERR l.val) 0).setWord (LNE_PKT l.val) 0)) ∧
  (∀ (s : State) (l : Nat), laneKick s l = (
      if laneMode s l ≠ 0 ∧ s.get (LNE_STAT_pwr_act l) ≠ 2 ∧ lanesRun s = true then
        let s := if align s l = 0 ∧ (laneOf s l).signal = true then s.put (LNE_STAT_align l) 1 else s
        if link s l = 0 ∧ s.flag (LNE_CORD_CFG_pll_lock (l / 4)) = true then startAttempt (newSequence s l) l (!(laneOf s l).keepEq) else s
      else s)) ∧
  (∀ (s : State) (l : Nat) (presets : Bool), startAttempt s l presets = (
      let s := if presets then presetEq s (physLane s l) (laneRate s l) else s
      let s := attemptClear s l
      let s := showFrozen (setLane s l { laneOf s l with iced := false, keepEq := false }) l
      setLink (s.put (LNE_STAT_backoff l) 0) l 1)) ∧
  (∀ (s : State) (l : Nat), idleHold s l = (
      let x := laneOf s l
      if s.get (LNE_CTL_pwr_state l) = 1 ∧ link s l = 3 ∧ x.txIn = false ∧ x.txIdle = false ∧ laneMode s l ≠ 3 then
        let holds := List.replicate 16 holdBlock
        let s := if laneMode s l = 1 then emitNative s l holds else emitBlocks s l holds
        (setLane s l { laneOf s l with txIdle := true }).put (LNE_STAT_pwr_act l) 1
      else s)) ∧
  (∀ (s : State) (l : Nat), laneGoBanked s l = (
      let s := s.put (LNE_STAT_pwr_act l) 2
      let s := (updateSeals s)
      let s := (linkOff s l).put (LNE_STAT_align l) 0
      let s := setLane s l { laneOf s l with keepEq := false }
      updateSeals (pllUpdate s (l / 4))))

/-- Block alignment (R182 to R184, Table 8.6): the states follow the signal and the headers; 24 invalid headers in 1,024 blocks lose
the lock, counted; a signal lost outside hold takes the link down (R188); adaptation freezes only in an UP link. Training (R191,
R192, Tables 8.11, 8.12): an attempt that succeeds clears the attempts, resets the backoff and brings the link UP; one that times
out is counted, waits its backoff, and raises 3103h once at the maximum; the backoff doubles up to bmax. -/
def Obligations.LaneAlignmentAndTraining : Prop :=
  (∀ (s : State) (l : Fin 24), exec (.signalDetected l) s = .next (
    let s := setLane s l.val { laneOf s l.val with signal := true }
    if align s l.val = 0 ∧ s.get (LNE_STAT_pwr_act l.val) ≠ 2 ∧ laneMode s l.val ≠ 0 ∧ lanesRun s = true then
      s.put (LNE_STAT_align l.val) 1
    else s)) ∧
  (∀ (s : State) (l : Fin 24), exec (.signalLost l) s = .next (
    let s := setLane s l.val { laneOf s l.val with signal := false }
    if s.flag (LNE_STAT_rx_hold l.val) then s else linkDown (lockLostAttempt (s.put (LNE_STAT_align l.val) 0) l.val) l.val 1)) ∧
  (∀ (s : State) (l : Fin 24) (gap : Nat), exec (.alignInvalidHeader l gap) s = .next (
    if align s l.val = 1 ∨ align s l.val = 2 then (slipOne s l.val).put (LNE_STAT_align l.val) 1
    else if align s l.val = 3 then
      let s := s.bump (LNE_ERR_hdr l.val) 1
      let s := setLane s l.val { laneOf s l.val with berCount := (laneOf s l.val).berCount + 1 }
      if s.flag (LNE_STAT_rx_hold l.val) then s
      else
        let w := 0 :: ((laneOf s l.val).window.map (· + gap)).filter (· < 1024)
        if 24 ≤ w.length then
          let s := setLane s l.val { laneOf s l.val with window := [] }
          linkDown (lockLostAttempt ((s.put (LNE_STAT_align l.val) 1).bump (LNE_PKT_lockloss l.val) 1) l.val) l.val 0
        else setLane s l.val { laneOf s l.val with window := w }
    else s)) ∧
  (∀ (s : State) (l : Fin 24), exec (.alignHuntDone l) s = .next (if align s l.val = 1 then adapt (s.put (LNE_STAT_align l.val) 2) l.val else s)) ∧
  (∀ (s : State) (l : Fin 24), exec (.alignLocked l) s = .next (
    if align s l.val = 2 then
      let s := adapt s l.val
      let s := setLane (s.put (LNE_STAT_align l.val) 3) l.val { laneOf s l.val with window := [], berCount := 0 }
      if link s l.val = 2 then
        startAttempt (setLane s l.val { laneOf s l.val with backoff := s.get LNE_SEEK_CFG_bmin }) l.val true
      else s
    else s)) ∧
  (∀ (s : State) (l : Fin 24), exec (.adaptFreeze l) s = .next (
    if link s l.val = 3 ∧ s.flag (LNE_CTL_adapt_en l.val) = true ∧ 2 ≤ align s l.val ∧ s.flag (LNE_STAT_rx_hold l.val) = false then
      showFrozen (setLane s l.val { laneOf s l.val with iced := true }) l.val
    else s)) ∧
  (∀ (s : State) (l : Fin 24), exec (.adaptResume l) s = .next (showFrozen (setLane s l.val { laneOf s l.val with iced := false }) l.val)) ∧
  (∀ (s : State) (l : Fin 24), exec (.rxHoldExit l) s = .next (if (laneOf s l.val).signal then showFrozen (s.put (LNE_STAT_rx_hold l.val) 0) l.val else s)) ∧
  (∀ (s : State) (l : Fin 24), exec (.rxHoldTimeout l) s = .next (
    if s.flag (LNE_STAT_rx_hold l.val) && (laneOf s l.val).signal then
      linkDown (lockLostAttempt (showFrozen ((s.put (LNE_STAT_rx_hold l.val) 0).put (LNE_STAT_align l.val) 1) l.val) l.val) l.val 0
    else s)) ∧
  (∀ (s : State) (l : Fin 24), exec (.trainAdaptDone l) s = .next (
    if link s l.val = 1 ∧ align s l.val = 3 then
      let s := adapt s l.val
      trainReady (setLane s l.val { laneOf s l.val with adapted := true }) l.val
    else s)) ∧
  (∀ (s : State) (l : Fin 24) (skew : BitVec 8), exec (.trainSuccess l skew) s = .next (
    let s := kwrFresh s (l.val / 4)
    if trained s l.val then
      let s := (s.put (LNE_STAT_attempts l.val) 0).put (LNE_STAT_partner l.val) 1
      let s := setLane s l.val { laneOf s l.val with backoff := s.get LNE_SEEK_CFG_bmin, maxRaised := false }
      let s := setLink s l.val 3
      let s := if laneMode s l.val = 1 then emitNative s l.val [idleBlock] else s
      let s := if laneMode s l.val = 2 then
          setKwr s (l.val / 4) { kwrOf s (l.val / 4) with deskewed := decide (skew.toNat ≤ 16) } else s
      kwrFollow (autowake (idleHold s l.val) l.val) (l.val / 4)
    else s)) ∧
  (∀ (s : State) (l : Fin 24), exec (.trainTimeout l) s = .next (
    if link s l.val = 1 then
      let s := s.bump (LNE_STAT_attempts l.val) 1
      let x := laneOf s l.val
      let s := setLink (s.put (LNE_STAT_backoff l.val) x.backoff) l.val 2
      if s.get LNE_SEEK_CFG_bmax ≤ x.backoff ∧ x.maxRaised = false then
        raise (setLane s l.val { laneOf s l.val with maxRaised := true }) 0x3103
          (packWord [(31, l.val), (21, s.get (LNE_STAT_attempts l.val))])
      else s
    else s)) ∧
  (∀ (s : State) (l : Fin 24), exec (.backoffElapsed l) s = .next (
    if link s l.val = 2 then
      let s := setLane s l.val { laneOf s l.val with backoff := min (2 * (laneOf s l.val).backoff) (s.get LNE_SEEK_CFG_bmax) }
      startAttempt s l.val true
    else s)) ∧
  (∀ (s : State) (l cause : Nat), linkDown s l cause = (
      if link s l = 3 then
        let s := idleEnds (txClear (rxAbort s l) l) l
        let s := raise s 0x3101 (packWord [(31, l), (29, cause)])
        let s := startAttempt (newSequence (s.put (LNE_STAT_rx_hold l) 0) l) l false
        kwrFollow s (l / 4)
      else s)) ∧
  (∀ (s : State) (l : Nat) (presets : Bool), startAttempt s l presets = (
      let s := if presets then presetEq s (physLane s l) (laneRate s l) else s
      let s := attemptClear s l
      let s := showFrozen (setLane s l { laneOf s l with iced := false, keepEq := false }) l
      setLink (s.put (LNE_STAT_backoff l) 0) l 1)) ∧
  (∀ (s : State) (l : Nat), trained s l = (
      let x := laneOf s l
      link s l == 1 && align s l == 3 &&
        (if laneMode s l = 3 then x.adapted && !x.hiBer
         else x.ready && decide (16 ≤ x.trainCount) && decide (16 ≤ x.trainSent))))


/-- Received blocks (R176 to R181, R188, Table 8.5): START opens a packet, DATA cuts words of 36 bits and runs the CRC, END
closes it with its length and CRC checked, HOLD aborts it and holds, TRAIN in an UP link with ready = 0 takes it down, and a
block that its place forbids, or no block at all, is counted as a block error; in Ethernet mode hi_ber takes the link down with
cause 3 (R195). A block acts as the descrambler gives it; in near-end loopback only the lane's own blocks arrive, in their order,
and in far-end loopback what arrives is also sent back (R197). -/
def Obligations.LaneReceivesBlocks : Prop :=
  (∀ (s : State) (l : Fin 24), exec (.rxIdleBlock l) s = .next (fromLine s l.val idleBlock (fun s =>
    if rxNative s l.val then adapt s l.val else rxAlien s l.val))) ∧
  (∀ (s : State) (l : Fin 24), exec (.rxStartBlock l) s = .next (fromLine s l.val startBlock (fun s =>
    if rxNative s l.val then
      let s := adapt s l.val
      if link s l.val = 3 then rxBegin (rxAbort s l.val) l.val else s
    else rxAlien s l.val))) ∧
  (∀ (s : State) (l : Fin 24) (bits : BitVec 64), exec (.rxDataBlock l bits) s = .next (fromLine s l.val (dataBlock bits) (fun s =>
    if rxNative s l.val then
      let s := adapt s l.val
      let x := laneOf s l.val
      if x.rxIn then
        let s := x.rxHeld.foldl (fun s w => rxWrite s l.val ⟨w, false, false⟩) s
        let r := cutWords 3 (x.rxAcc + bits.toNat * 2 ^ x.rxAccLen) (x.rxAccLen + 64)
        let crcs := (r.1.foldl (fun (p : List (BitVec 32) × BitVec 32) w =>
          let c := crc32Word p.2 w
          (p.1 ++ [c], c)) ([], x.rxCrc))
        setLane s l.val { laneOf s l.val with
          rxHeld := r.1, rxAcc := r.2.1, rxAccLen := r.2.2, rxWords := x.rxWords + r.1.length,
          rxCrcs := crcs.1, rxCrc := crcs.2 }
      else blockError s l.val
    else s))) ∧
  (∀ (s : State) (l : Fin 24) (content : BitVec 56), exec (.rxEndBlock l content) s = .next (fromLine s l.val (controlBlock 0x66 content.toNat) (fun s =>
    if rxNative s l.val then
      let s := adapt s l.val
      let x := laneOf s l.val
      if !x.rxIn then blockError s l.val
      else if x.rxDrop then rxClear s l.val
      else
        let n := bitsOf content 4 20
        let before := x.rxWords - x.rxHeld.length
        if before < n ∧ n ≤ x.rxWords then
          let k := n - before
          let bad := (~~~ (x.rxCrcs.getD (k - 1) 0)).toNat != bitsOf content 24 32
          let s := rxFinish s l.val (x.rxHeld.take k) (content.getLsbD 0 || bad || x.rxBad)
          rxClear (if bad then s.bump (LNE_PKT_crc l.val) 1 else s) l.val
        else
          rxClear ((rxFinish s l.val x.rxHeld true).bump (LNE_PKT_crc l.val) 1) l.val
    else rxAlien s l.val))) ∧
  (∀ (s : State) (l : Fin 24) (content : BitVec 56), exec (.rxTrainBlock l content) s = .next (fromLine s l.val (controlBlock 0x99 content.toNat) (fun s =>
    if (laneMode s l.val = 1 ∨ laneMode s l.val = 2) ∧ align s l.val = 3 then
      let s := adapt s l.val
      let rdy := content.getLsbD 0
      let x := laneOf s l.val
      if link s l.val = 3 then
        if rdy then (if x.rxIn then blockError s l.val else s) else linkDown s l.val 2
      else if link s l.val = 0 then s
      else
        let s := s.put (LNE_STAT_partner l.val) 1
        let same := bitsOf content 1 2 == l.val % 4
        let s := setLane s l.val { x with
          partnerOk := same && bitsOf content 3 2 == laneRate s l.val, trainCount := if rdy then x.trainCount + 1 else 0 }
        let s := trainReady s l.val
        if same then s
        else
          let s := s.put (LNE_STAT_spare_ref l.val) 1
          if x.spareRaised then s
          else raise (setLane s l.val { laneOf s l.val with spareRaised := true }) 0x3104
            (packWord [(31, l.val), (29, physLane s l.val % 4), (27, bitsOf content 1 2)])
    else s))) ∧
  (∀ (s : State) (l : Fin 24), exec (.rxHoldBlock l) s = .next (fromLine s l.val holdBlock (fun s =>
    if (laneMode s l.val = 1 ∨ laneMode s l.val = 2) ∧ align s l.val = 3 then
      showFrozen ((rxAbort (adapt s l.val) l.val).put (LNE_STAT_rx_hold l.val) 1) l.val
    else s))) ∧
  (∀ (s : State) (l : Fin 24) (b : Block), exec (.rxInvalidBlock l b) s = .next (fromLine s l.val b (fun s =>
    if laneMode s l.val ≠ 0 ∧ align s l.val = 3 then blockError s l.val else s))) ∧
  (∀ (s : State) (l : Nat) (b : Block) (f : State → State), (fresh s l).get (LNE_CTL_loop l) = 0 ∨
    (fresh s l).get (LNE_CTL_loop l) = 3 → fromLine s l b f = f (fresh s l)) ∧
  (∀ (s : State) (l : Nat) (b : Block) (f : State → State), (fresh s l).get (LNE_CTL_loop l) = 2 →
    fromLine s l b f = if link (f (fresh s l)) l ≠ 0 then emitBlocks (f (fresh s l)) l [b] else f (fresh s l)) ∧
  (∀ (s : State) (l : Nat) (b x : Block) (r : List Block) (f : State → State), (fresh s l).get (LNE_CTL_loop l) = 1 →
    (laneOf (fresh s l) l).back = x :: r → fromLine s l b f =
      if x = b then f (setLane (fresh s l) l { laneOf (fresh s l) l with back := r }) else fresh s l) ∧
  (∀ (s : State) (l : Fin 24) (ended : Bool), exec (.ethHiBer l ended) s = .next (
    if laneMode s l.val = 3 then
      let x := laneOf s l.val
      let hi := decide (berLimit s l.val ≤ x.berCount)
      let s := setLane s l.val { x with
        hiBer := if ended then hi else x.hiBer || hi, berCount := if ended then 0 else x.berCount }
      if (laneOf s l.val).hiBer then linkDown s l.val 3 else s
    else s)) ∧
  (∀ (s : State) (l : Fin 24) (b : Block), exec (.ethRxBlock l b) s = .next (fromLine s l.val b (fun s => rxPayOwed (ethBlock s l.val b) l.val)))


/-! ## The kiln-watch ring (09) -/

/-- Ring control (R201, R212, R215, R219 to R221, R225): while the management controller serves writes (R17), a role written takes
the port down and starts it again in the new role; the role 3 has no effect; a width is stored while the port is OFF and
otherwise starts it again (Table 9.7); the buffer's loss and a hop's re-seat are counted and reported by 4103h and 4102h; the
alarm is set by its write and cleared at a head, or at a node once the ring's alarm is 0; clr leaves both counter words 0. -/
def Obligations.KwrControl : Prop :=
  (∀ (s : State) (k : Fin 6) (role : BitVec 2), s.mgcFull = true → role ≠ 3 → exec (.kwrRoleWrite k role) s = .next (
    let s := commandIf s false true (25 + k.val) role.toNat
    let s := kwrOff (kwrFresh (s.put (KWR_CFG_role k.val) role.toNat) k.val) k.val 3
    if role.toNat = 0 then s else kwrLanesUp (kwrGo s k.val 1 0) k.val)) ∧
  (∀ (s : State) (k : Fin 6) (role : BitVec 2), s.mgcFull = false ∨ role = 3 →
    exec (.kwrRoleWrite k role) s = .next s) ∧
  (∀ (s : State) (k : Fin 6) (w : BitVec 2), exec (.kwrWidthWrite k w) s = .next (
    if w.toNat = 3 then s
    else if s.get (KWR_CFG_role k.val) = 0 then s.put (KWR_CFG_width k.val) w.toNat
    else kwrLanesUp (kwrGo (kwrOff (kwrFresh s k.val).tookFree k.val (freeCause s)) k.val 1 0) k.val)) ∧
  (∀ (s : State) (k : Fin 6), exec (.kwrHopReseat k) s = .next (
    let used := (kwrOf s k.val).replay.length
    if 0 < used ∧ kwrOn s k.val = true then
      let s := s.bump (KWR_CNT_reseat k.val) 1
      let s := raise s 0x4102 (packWord [(33, k.val), (18, used)])
      retrainGroup s k.val
    else s)) ∧
  (∀ (s : State) (k : Fin 6), exec (.kwrBufferInvalid k) s = .next (
    let lost := ((kwrOf s k.val).frames.filter (0 < ·)).length
    let s := dropReplay s k.val
    let s := s.bump (KWR_CNT_lost k.val) lost
    let s := offerEvent s (939 + 8 * k.val)
    let s := raise s 0x4103 (packWord [(33, k.val), (24, min lost 511)])
    retrainGroup s k.val)) ∧
  (∀ (s : State) (k : Fin 6), exec (.kwrAlarmWrite k) s = .next (setKwr s k.val { kwrOf s k.val with alarm := true })) ∧
  (∀ (s : State) (k : Fin 6), exec (.kwrAlarmClear k) s = .next (if isHead s k.val || !s.flag (KWR_STAT_alarm k.val) then setKwr s k.val { kwrOf s k.val with alarm := false } else s)) ∧
  (∀ (s : State) (k : Fin 6), exec (.kwrCntClear k) s = .next ((s.setWord (KWR_CNT k.val) 0).setWord (KWR_MCNT k.val) 0)) ∧
  (∀ (s : State) (k : Fin 6), exec (.kwrAckTimer k) s = .next (if kwrOn s k.val && decide (0 < (kwrOf s k.val).frameWords) then sendAck (kwrFresh s k.val) k.val false else s)) ∧
  (∀ (s : State) (k : Fin 6), exec (.kwrInsertPacket k) s = .next (if s.get (KWR_CFG_role k.val) = 0 then s else readPacket 1100 s k.val)) ∧
  (∀ (s : State) (k st cause : Nat), kwrGo s k st cause = (
      let old := kwrState s k
      if old = st then s
      else
        let s := offerEvent (s.put (KWR_STAT_state k) st) (938 + 8 * k)
        let s := setKwr s k { kwrOf s k with windows := st == 5, alignRun := 0, offRun := 0 }
        if old = 5 then raise s 0x4101 (packWord [(33, k), (30, cause)]) else s)) ∧
  (∀ (s : State) (k cause : Nat), kwrOff s k cause = (
      let s := kwrGo s k 0 cause
      let s := kwrAligned s k false
      let x := kwrOf s k
      let s := setKwr s k { Kwr.init with
        deskewed := x.deskewed, alarm := x.alarm, mgmtOut := x.mgmtOut, cycleNo := x.cycleNo }
      let s := ((s.put (KWR_STAT_position k) 0).put (KWR_STAT_nodes k) 0).put (KWR_STAT_bp k) 0
      s.setWord (KWR_RPL k) 0)) ∧
  (∀ (s : State) (k : Nat) (nak : Bool), sendAck s k nak = (
      match ackDest s k with
      | some d =>
        let s := kwrNow1 s k (.ack (kwrOf s k).expect (BitVec.ofNat 8 d) nak)
        setKwr s k { kwrOf s k with sinceAck := 0 }
      | none => s))

/-- Cycles and time (R207, R212 to R214, R222 to R224): at a boundary of its timebase the head opens a cycle, or notes one that waits
for the last to leave; a node counts, forwards and reports cycles; TIME gives the offset, TIME HIGH one step of a timebase more
than 64 ticks away, and the slew one tick more or less where it is due; a gap of two periods counts a missed cycle, one of 16
takes the port back, and so do 16 frames that do not return. A block of the ring acts at an engine that takes part; on lanes in
near-end loopback only the group's own blocks arrive, in their order (R197). -/
def Obligations.KwrCyclesAndTime : Prop :=
  (∀ (s : State) (k : Fin 6), exec (.kwrCycleBoundary k) s = .next (
    if isHead s k.val && kwrOn s k.val && atBoundary s k.val then
      let s := kwrFresh s k.val
      let x := kwrOf s k.val
      let s := setKwr s k.val { x with period := s.get (KWR_CYC_period k.val) }
      if x.queue.isEmpty then frameBegin s k.val false else setKwr s k.val { kwrOf s k.val with due := x.due + 1 }
    else s)) ∧
  (∀ (s : State) (k : Fin 6) (n : W36) (pos : BitVec 8) (alarm : Bool) (counting : Bool), exec (.kwrRxCycle k n pos alarm counting) s = .next (fromControl s k.val (.cycle n pos alarm counting) (fun s =>
    let s := setKwr s k.val { kwrOf s k.val with period := periodSeen s k.val, refTime := s.timebase, gapSeen := false }
    let s := alarmSeen s k.val alarm
    if isHead s k.val then headCycle s k.val n pos alarm counting
    else wordWrite (offerEvent (nodeCycle s k.val n pos.toNat alarm counting) (936 + 8 * k.val)) (8 + k.val) n))) ∧
  (∀ (s : State) (k : Fin 6) (n : BitVec 10) (late : Bool), exec (.kwrRxCycleEnd k n late) s = .next (fromControl s k.val (.cycleEnd n.toNat late) (fun s =>
    let s := if isHead s k.val && late && !(kwrOf s k.val).late then countMissed s k.val else s
    let s := if holding (kwrOf s k.val) then s else extractWrite s k.val
    let s := kwrForward s k.val (.cycleEnd n.toNat late)
    let s := if 0 < (kwrOf s k.val).sinceAck then sendAck s k.val false else s
    heldRelease s k.val))) ∧
  (∀ (s : State) (k : Fin 6) (tb : BitVec 28) (dly : BitVec 28) (residence : BitVec 12) (frac : BitVec 4), exec (.kwrRxTime k tb dly residence frac) s = .next (fromControl s k.val (.time tb dly) (fun s =>
    let off := offsetOf s k.val tb.toNat dly.toNat frac.toNat
    let s := s.put (KWR_TIME_offset k.val) (sat16 off)
    let s := kwrForward s k.val
      (.time tb (dly + BitVec.ofNat 28 (4 * hopDelay s k.val + residence.toNat) - delayAt (kwrOf s k.val).refTime))
    let s := setKwr s k.val { kwrOf s k.val with rxTb := tb, rxDly := dly }
    let s := if isHead s k.val then loopMeasure s k.val (16 * (kwrOf s k.val).loopTicks + frac.toNat) dly.toNat else s
    alignCycle s k.val (decide (off.natAbs ≤ 25))))) ∧
  (∀ (s : State) (k : Fin 6) (hi : BitVec 44) (hop : BitVec 12), exec (.kwrRxTimeHigh k hi hop) s = .next (fromControl s k.val (.timeHigh hi hop) (fun s =>
    if isHead s k.val then s
    else
      let s := kwrForward s k.val (.timeHigh hi hop)
      let s := firstTime s k.val hi.toNat
      setKwr s k.val { kwrOf s k.val with autoHop := hop }))) ∧
  (∀ (s : State) (k : Fin 6), exec (.kwrTimebaseSlew k) s = .next (
    if slewDue s k.val then
      let s := { s with timebase := s.timebase + if s.get (KWR_TIME_offset k.val) < 32768 then 2 else 0 }
      timebaseViews (setKwr s k.val { kwrOf s k.val with lastSlew := some s.timebase })
    else s)) ∧
  (∀ (s : State) (k : Fin 6), exec (.kwrCycleMissed k) s = .next (
    let st := kwrState s k.val
    let x := kwrOf s k.val
    let gap := (s.timebase - x.refTime).toNat
    if isHead s k.val = false ∧ 3 ≤ st ∧ st ≤ 5 ∧ 0 < x.period ∧ 2 * x.period ≤ gap then
      let s := if x.gapSeen then s else countMissed (setKwr s k.val { x with gapSeen := true }) k.val
      if 16 * x.period ≤ gap then kwrGo (s.put (KWR_STAT_position k.val) 0) k.val 3 1 else s
    else s)) ∧
  (∀ (s : State) (k : Fin 6), exec (.kwrFrameNotReturned k) s = .next (
    if frameOverdue s k.val then
      let s := countMissed s k.val
      let x := kwrOf s k.val
      let s := setKwr s k.val { x with
        lostRun := x.lostRun + 1, flight := x.flight.drop 1, overdue := x.overdue ++ x.flight.take 1 }
      if 16 ≤ x.lostRun + 1 ∧ 4 ≤ kwrState s k.val then
        kwrGo (setKwr s k.val { kwrOf s k.val with counting := true, lostRun := 0 }) k.val 2 2
      else s
    else s)) ∧
  (∀ (s : State) (k : Nat) (b : KwrBlock) (f : State → State),
    fromControl s k b f = fromRing s k (fun _ _ => [kwrControl b]) f) ∧
  (∀ (s : State) (k : Nat) (line : Nat → Nat → List Block) (f : State → State),
    (∀ j, j < kwrWidth (kwrFresh s k) k → (kwrFresh s k).get (LNE_CTL_loop (4 * k + j)) ≠ 1) →
    fromRing s k line f =
      let t := (List.range (kwrWidth (kwrFresh s k) k)).foldl (fun s j => ringLane s (4 * k + j) (line (kwrWidth (kwrFresh s k) k) j))
        (kwrFresh s k)
      if kwrOn t k then f t else t)

/-- Frames and messages (R205, R208, R210, R216 to R219, R225, R226): a superblock with a bad check is counted and asked for again; an
acknowledge with this position frees the replay buffer, and a NAK resends it; REPLAY sets the expected number or restarts; a
management slot is filled from the queue; a FILL leaves as none, one or two; a request from the ring goes to the MGC. -/
def Obligations.KwrFramesAndMessages : Prop :=
  (∀ (s : State) (k : Fin 6) (sb : BitVec 512) (err : Bool), exec (.kwrRxSuperblock k sb err) s = .next (fromRing s k.val (fun w j => superOn sb w j) (fun s =>
    let x := kwrOf s k.val
    let stomped := !err && superCrc sb == ~~~ crc8 sb
    let failed := err || (superCrc sb != crc8 sb && !stomped)
    let ws := superWords sb
    let s := if failed then s.bump (KWR_MCNT_bad k.val) 1 else s
    if x.waiting then s
    else if x.skipFrame || (!isHead s k.val && kwrBp x) then passOver s k.val stomped
    else if stomped then stompOn s k.val ws
    else if failed then
      let s := stompOn s k.val ws
      sendAck (setKwr s k.val { kwrOf s k.val with waiting := true }) k.val true
    else goodSuper s k.val ws))) ∧
  (∀ (s : State) (k : Fin 6) (seq : BitVec 24) (pos : BitVec 8) (nak : Bool), exec (.kwrRxAck k seq pos nak) s = .next (fromControl s k.val (.ack seq pos nak) (fun s =>
    if kwrMine s k.val pos.toNat then
      let s := setKwr s k.val (ackTo (kwrOf s k.val) seq)
      let s := if isHead s k.val then s else kwrNow1 s k.val .fill
      let s := if nak then kwrNow (s.bump (KWR_CNT_replay k.val) 1) k.val (resend (kwrOf s k.val)) else s
      frameDue ((kwrOf s k.val).due + 1) (kwrSend s k.val []) k.val
    else kwrNow1 s k.val (.ack seq pos nak)))) ∧
  (∀ (s : State) (k : Fin 6) (seq : BitVec 24) (restart : Bool), exec (.kwrRxReplay k seq restart) s = .next (fromControl s k.val (.replay seq restart) (fun s =>
    let x := kwrOf s k.val
    if restart then
      setKwr s k.val { x with
        expect := 0, rxSeq := 0, waiting := false, held := [], extract := [], sinceAck := 0,
        skipFrame := decide (0 < x.frameWords) }
    else heldRelease (setKwr s k.val { x with rxSeq := seq, waiting := x.waiting && !seqLe seq x.expect }) k.val))) ∧
  (∀ (s : State) (k : Fin 6) (m : Mgmt), exec (.kwrRxMgmt k m) s = .next (fromControl s k.val (.mgmt m) (fun s =>
    match rxMgmt s k.val m with
    | (s, none) => s
    | (s, some l) =>
      if kwrState s k.val ≠ 5 ∨ bitsOf m.seg 2 6 = 63 ∨ serveNow s .kwr = .ignore then s
      else requestFrame { s with mgc := { s.mgc with ringFrom := (k.val, m.src.toNat, bitsOf m.seg 2 6) } } .kwr l))) ∧
  (∀ (s : State) (k : Fin 6), exec (.kwrRxSlot k) s = .next (fromControl s k.val .slot (fun s =>
    if isHead s k.val then s
    else
      match kwrPlaced s k.val, (kwrOf s k.val).mgmtOut with
      | true, m :: t => kwrForward (setKwr s k.val { kwrOf s k.val with mgmtOut := t }) k.val (.mgmt m)
      | _, _ => kwrForward s k.val .slot))) ∧
  (∀ (s : State) (k : Fin 6) (copies : Fin 3), exec (.kwrRxFill k copies) s = .next (fromControl s k.val .fill (fun s =>
    if isHead s k.val then s else kwrNow s k.val (List.replicate copies.val .fill)))) ∧
  (∀ (s : State) (k : Nat) (ws : List W36), goodSuper s k ws = (
      let x := kwrOf s k
      if x.rxSeq = x.expect then
        let i := x.frameWords
        let s := setKwr s k { x with
          rxSeq := x.rxSeq + 14, expect := x.expect + 14, sinceAck := x.sinceAck + 1, frameWords := i + 14 }
        let s := extractWords s k i ws
        let s := if isHead s k then s else kwrSend s k [.super (insertWords x i ws) false]
        let s := if 64 ≤ (kwrOf s k).sinceAck then sendAck s k false else s
        heldRelease s k
      else setKwr s k { x with rxSeq := x.rxSeq + 14 })) ∧
  (∀ (s : State) (k : Nat) (ws : List W36), stompOn s k ws = (
      let x := kwrOf s k
      if isHead s k then s else kwrSend s k [.super (insertWords x x.frameWords ws) true])) ∧
  (∀ (s : State) (k : Nat) (m : Mgmt), rxMgmt s k m = (
      let x := kwrOf s k
      if kwrMine s k m.dst.toNat then mgmtPart (kwrForward s k .slot) k m
      else if isHead s k then
        if m.dst.toNat ≤ m.src.toNat then
          if x.mgmtAgain.length < 64 then (setKwr s k { x with mgmtAgain := x.mgmtAgain ++ [m] }, none)
          else (s.bump (KWR_MCNT_ins_err k) 1, none)
        else (s, none)
      else (kwrForward s k (.mgmt m), none)))


/-! ## The SDRAM channels (10, 11) -/

/-- SDRAM requests (R238 to R244): the whole packet at the head of a request FIFO, of the operation and the port it names, sound
and not aborted, enters the queue of its port by its arrival and its port, with its class; a line beyond the capacity or in a
reserved row is an address error; a packet that breaks the format, or ends with A, is counted as a request fault, and answered
unless it was aborted. An access is done whole, in the order of the schedule (R245), where its line has no older request, its
row is not held and its answer has room: a read returns its words, a write stores its masked words, and the errors of the doubles
are counted and corrected; a waiting request ages into class 0 and is late beyond its limit. -/
def Obligations.SdramRequests : Prop :=
  (∀ (s : State) (c : Fin 2) (p : Fin 16),
    exec (.sdramRead c p) s = .next (sdramRequest s c.val p.val 0) ∧
    exec (.sdramWrite c p) s = .next (sdramRequest s c.val p.val 1) ∧
    exec (.sdramMaskedWrite c p) s = .next (sdramRequest s c.val p.val 2)) ∧
  (∀ (s : State) (c p op : Nat) (r : DramRequest) (l : DramLoc), let t := packetTake s c (p / 2)
    requestHere t c (p / 2) = some r → dramTakes t c = true → r.port = p → r.op = op → r.sound = true → r.aborted = false →
    let u := packetGone t c (p / 2)
    decodeAddr u c r.addr = some l → reservedRow u c l = false →
    let q : DramReq := ⟨p, op, r.addr, r.n, r.tag, requestMask op r.addr r.n r.mask,
      List.replicate (r.addr % 16) 0 ++ r.data, u.get (DRM_PORT_cls c p), u.timebase, false, false, none⟩
    sdramRequest s c p op = dramSettle (setDram u c { dramOf u c with reqs := insertReq q (dramOf u c).reqs }) c) ∧
  (∀ (s : State) (c p op : Nat) (r : DramRequest), let t := packetTake s c (p / 2)
    requestHere t c (p / 2) = some r → dramTakes t c = true → r.port = p → r.op = op → r.sound = true → r.aborted = false →
    let u := packetGone t c (p / 2)
    (decodeAddr u c r.addr = none ∨ ∃ l, decodeAddr u c r.addr = some l ∧ reservedRow u c l = true) →
    sdramRequest s c p op = answerOnly u c p r.n r.tag 3) ∧
  (∀ (s : State) (c p op : Nat), (requestHere (packetTake s c (p / 2)) c (p / 2) = none ∨
      dramTakes (packetTake s c (p / 2)) c = false) → sdramRequest s c p op = packetTake s c (p / 2)) ∧
  (∀ (s : State) (c : Fin 2) (p : Fin 16), exec (.sdramRequestFault c p) s = .next (
    let s := packetTake s c.val (p.val / 2)
    match requestHere s c.val (p.val / 2) with
    | none => s
    | some r =>
      if dramTakes s c.val = false ∨ r.port ≠ p.val ∨ (r.sound && !r.aborted) = true then s
      else
        let s := (packetGone s c.val (p.val / 2)).bump (DRM_CNT_req_err c.val) 1
        if r.aborted then s else answerOnly s c.val p.val r.n r.tag 4)) ∧
  (∀ (s : State) (c : Fin 2) (p : Fin 16) (idx : Nat) (flips : List DramFlip), exec (.sdramAccessDone c p idx flips) s = .next (
    let s := if dramServes s c.val then ageAll s c.val else s
    match requestAt s c.val p.val idx with
    | none => s
    | some (k, r) =>
      match decodeAddr s c.val r.addr with
      | none => s
      | some l =>
        if dramServes s c.val = false ∨ schedReady s c.val k r = false ∨ schedRival s c.val k r = true then s
        else
          let l' := remapped s c.val l
          let s := openRow (setDram s c.val (flipBits (dramOf s c.val) l' flips)) c.val (bankNumber l') l'.row
          let reads := r.op == 0 || !wholeDoubles r
          let ds := readLine s c.val l
          let s := if reads then countLine s c.val l false false ds else s
          let s := if r.op = 0 then (if s.flag (DRM_CFG_wb c.val) then writeBack s c.val l ds else s)
            else setDram s c.val (writeLine (dramOf s c.val) l' r ds)
          let status := if reads then lineStatus ds else 0
          let data := if r.op = 0 then ((lineWords ds).drop (r.addr % 16)).take r.n else []
          let es := packetOf (respHeader status p.val r.n r.tag r.aged r.late (if reads then ueBits ds else 0) :: data)
          let answer := r.op == 0 || s.flag (DRM_PORT_wack c.val p.val) || status != 0
          let y := dramOf s c.val
          let s := setDram s c.val { y with
            reqs := if answer then y.reqs.set k { r with resp := some es } else y.reqs.eraseIdx k }
          dramSettle s c.val)) ∧
  (∀ (s : State) (c : Fin 2) (p : Fin 16) (idx : Nat), exec (.sdramRequestAged c p idx) s = .next (
    match requestAt s c.val p.val idx with
    | none => s
    | some (k, r) =>
      if r.resp = none ∧ 0 < r.cls ∧ s.get (DRM_AGE_lim c.val r.cls) < waited s r then
        setDram s c.val { dramOf s c.val with reqs := (dramOf s c.val).reqs.set k { r with cls := 0, aged := true } }
      else s)) ∧
  (∀ (s : State) (c : Fin 2) (p : Fin 16) (idx : Nat), exec (.sdramRequestLate c p idx) s = .next (
    match requestAt s c.val p.val idx with
    | none => s
    | some (k, r) =>
      if r.resp = none ∧ r.cls = 0 ∧ r.late = false ∧ s.get (DRM_AGE_lim c.val 0) < waited s r then
        let s := setDram s c.val { dramOf s c.val with reqs := (dramOf s c.val).reqs.set k { r with late := true } }
        offerEvent (s.bump (DRM_CNT_late c.val) 1) (987 + 8 * c.val)
      else s)) ∧
  (∀ (s : State) (c p n : Nat) (tag : BitVec 9) (status : Nat), answerOnly s c p n tag status = (
      let x := dramOf s c
      let r : DramReq := ⟨p, 0, 0, n, tag, 0, [], 0, s.timebase, false, false,
        some (packetOf [respHeader status p n tag false false 0])⟩
      dramSettle (setDram s c { x with reqs := insertReq r x.reqs }) c))

/-- Refresh, temperature, patrol and self-refresh (R248 to R250): a refresh is postponed up to eight times; the 2x mode starts at its
temperature and ends below its own; the patrol writes back what it read and moves on; self-refresh is entered with no request
queued and left through a check or a rate change (R274). Post-package repair is marked, withdrawn and recorded with ppr_en
(R252); a parity alert is counted, rings its event, and at 16 within a second raises 5104h once (Table 10.12); clr leaves the
error words and counters 0. -/
def Obligations.SdramUpkeepAndRepair : Prop :=
  (∀ (s : State) (c : Fin 2) (rank : Fin 2), exec (.sdramRefreshDue c rank) s = .next (
    let st := dramState s c.val
    let x := dramOf s c.val
    if (st = 2 ∨ st = 4) ∧ rank.val < ranksOf s c.val then
      let n := s.get (DRM_REF_postponed c.val)
      let rs := rankReqs s c.val rank.val
      if x.alert then s.put (DRM_REF_postponed c.val) (min 8 (n + 1))
      else if (rs.any (fun r => decide (r.cls ≤ 1)) || x.pausing) && decide (n < 8) then
        s.put (DRM_REF_postponed c.val) (n + 1)
      else
        closeRows (if rs.isEmpty then s.put (DRM_REF_postponed c.val) (n - 1) else s) c.val (some rank.val)
    else s)) ∧
  (∀ (s : State) (c : Fin 2) (die : BitVec 10) (mpr : Option (BitVec 10)), exec (.sdramTempRead c die mpr) s = .next (
    let own : Nat := ((die.toNat : Int) + 4 * signed7 (s.get (DRM_REF_toff c.val))).toNat
    let t := match mpr with
      | some v => if s.get (DRM_REF_tsrc c.val) = 1 then v.toNat else own
      | none => own
    let s := setDram (s.put (DRM_REF_temp c.val) (min t 1023)) c.val { dramOf s c.val with die := die.toNat }
    if s.get (DRM_REF_tsrc c.val) = 2 ∨ 596 ≤ t then setMode2x s c.val true else s)) ∧
  (∀ (s : State) (c : Fin 2), exec (.sdramRefresh1x c) s = .next (if s.get (DRM_REF_tsrc c.val) ≠ 2 ∧ s.get (DRM_REF_temp c.val) ≤ 584 then setMode2x s c.val false else s)) ∧
  (∀ (s : State) (c : Fin 2) (flips : List DramFlip), exec (.sdramPatrolRead c flips) s = .next (
    let x := dramOf s c.val
    let l := patrolLoc s c.val x.patrolPos
    let a := encodeAddr s c.val l
    if s.get (DRM_PATROL_period c.val) = 0 ∨ dramServes s c.val = false ∨ rowHeld s c.val l = true ∨
        x.reqs.any (fun r => r.resp.isNone && r.addr / 16 == a / 16) = true ∨
        wouldClose s c.val (bankNumber (remapped s c.val l)) (remapped s c.val l).row 3 = true then s
    else
      let s := openRow (setDram s c.val (flipBits x (remapped s c.val l) flips)) c.val (bankNumber (remapped s c.val l))
        (remapped s c.val l).row
      let ds := readLine s c.val l
      let s := writeBack (countLine s c.val l true false ds) c.val l ds
      let total := rankLines s c.val * 2 ^ rankBits s c.val
      let pos := (x.patrolPos + 1) % total
      (setDram s c.val { dramOf s c.val with patrolPos := pos }).put (DRM_PATROL_progress c.val) (pos * 100 / total))) ∧
  (∀ (s : State) (c : Fin 2), exec (.sdramSelfRefreshEnter c) s = .next (
    let st := dramState s c.val
    let x := dramOf s c.val
    if (st = 2 ∨ st = 4) ∧ refreshWanted s c.val = true ∧ x.reqs = [] ∧ x.out = [] ∧ x.alert = false ∧
        (s.get (DRM_TRN_STAT_phase c.val) = 0 ∨ s.get (DRM_TRN_STAT_phase c.val) = 2) then
      let s := closeRows (setDram s c.val { x with
        before := st, exiting := false, pausing := false, samples := [], abandoned := false,
        modes := x.modes.map (fun m => { m with extendedTemp := s.flag (DRM_REF_mode2x c.val) }) }) c.val none
      setDramState (s.put (DRM_TRN_STAT_phase c.val) 0) c.val 3
    else s)) ∧
  (∀ (s : State) (c : Fin 2), exec (.sdramSelfRefreshExit c) s = .next (
    if dramState s c.val = 3 ∧ refreshWanted s c.val = false then
      let x := dramOf s c.val
      let s := setDram s c.val { x with exiting := true }
      if x.rateReq.isSome then rateBegin s c.val else s.put (DRM_TRN_STAT_phase c.val) 3
    else s)) ∧
  (∀ (s : State) (c : Fin 2), exec (.sdramLiveRemapDone c) s = .next (if dramServes s c.val then liveRemapDone s c.val else s)) ∧
  (∀ (s : State) (c : Fin 2), exec (.sdramPprRequest c) s = .next (if s.flag (DRM_CFG_ppr_en c.val) then s else setDram s c.val { dramOf s c.val with pprPending := true })) ∧
  (∀ (s : State) (c : Fin 2), exec (.sdramPprWithdraw c) s = .next (
    let s := setDram s c.val { dramOf s c.val with pprPending := false }
    let r := s.mtp.repair
    let s := { s with mtp := { s.mtp with
      repair := (if c.val = 0 then { r with ppr0 := false } else { r with ppr1 := false }), writing := true } }
    s.put (DRM_CFG_ppr_en c.val) (b2n false))) ∧
  (∀ (s : State) (c : Fin 2), exec (.sdramPprRecorded c) s = .next (if (dramOf s c.val).pprPending then
    setPpr (setDram s c.val { dramOf s c.val with pprPending := false }) c.val true else s)) ∧
  (∀ (s : State) (c : Fin 2), exec (.sdramParityAlert c) s = .next (
    let x := dramOf s c.val
    if dramState s c.val = 0 ∨ dramState s c.val = 5 then s
    else
      let recent := fun (t : W72) => decide ((s.timebase - t).toNat < 3200000000)
      let al := s.timebase :: x.alerts.filter recent
      let s := setDram s c.val { x with alert := true, alerts := al, abandoned := x.abandoned || x.pausing }
      let s := offerEvent (s.bump (DRM_CNT_ca_alert c.val) 1) (991 + 8 * c.val)
      let quiet := match x.alertRaised with
        | none => true
        | some t => !recent t
      if 16 ≤ al.length ∧ quiet = true then
        raise (setDram s c.val { dramOf s c.val with alertRaised := some s.timebase }) 0x5104
          (packWord [(35, c.val), (24, min 2047 al.length)])
      else s)) ∧
  (∀ (s : State) (c : Fin 2), exec (.sdramAlertRelease c) s = .next (
    closeRows (setDram s c.val { dramOf s c.val with alert := false }) c.val none)) ∧
  (∀ (s : State) (c : Fin 2), exec (.sdramEccClear c) s = .next ((s.setWord (DRM_ECC_LAST c.val) 0).setWord (DRM_ECC_SYN c.val) 0)) ∧
  (∀ (s : State) (c : Fin 2), exec (.sdramCntClear c) s = .next ((s.setWord (DRM_ECC c.val) 0).setWord (DRM_CNT c.val) 0)) ∧
  (∀ (s : State) (c : Nat) (b : Bool), setMode2x s c b = (
      if s.flag (DRM_REF_mode2x c) = b then s
      else logState (offerEvent (s.put (DRM_REF_mode2x c) (b2n b)) (988 + 8 * c)) 5 0x6503 (1 + c) (b2n b))) ∧
  (∀ (s : State) (c : Nat), liveRemapDone s c = (
      let x := dramOf s c
      match x.remap with
      | none => s
      | some (i, l, d) =>
        let s := (List.range 128).foldl (fun s k =>
          let m := { l with col := k }
          countLine s c m false true ((List.range 8).map (fun j => decodeDouble (memDouble (dramOf s c) m j)))) s
        let y := (List.range 128).foldl (fun x k => copyLine x l d k) (dramOf s c)
        let s := setDram s c { y with remap := none }
        let s := s.setWord (DRM_RMP c i) (packWord [(35, 1), (33, l.rank), (31, l.bg), (29, l.bank), (12, l.row),
          (10, d.bg), (8, d.bank)])
        let row : DramRow := ⟨false, BitVec.ofNat 1 l.rank, BitVec.ofNat 2 l.bg, BitVec.ofNat 2 l.bank,
          BitVec.ofNat 17 l.row, BitVec.ofNat 2 d.bg, BitVec.ofNat 2 d.bank⟩
        let s := setDramRows s c (dramRows s c ++ [row])
        let s := { s with mtp := { s.mtp with writing := true } }
        let s := raise (offerEvent s (990 + 8 * c)) 0x5102 (remapDetail s c l)
        startRemap 33 s c))

/-- Training (R262 to R274): a sweep takes its 40 steps a rank one by one; a request starts one from READY or DEGRADED, or is marked while
one runs; a gathering takes a pause and its samples two a rank; a rate is requested, held by a sweep, and begun by switching
or by a sweep; the check after it keeps the stored set only if every eye is at least 12 wide. -/
def Obligations.TrainingSteps : Prop :=
  (∀ (s : State) (c : Fin 2) (v : BitVec 512) (ppr : List Bool), exec (.sweepStepDone c v ppr) s = .next (
    if s.get (DRM_TRN_STAT_phase c.val) = 1 ∧ dramState s c.val = 1 ∧ (dramOf s c.val).alert = false then
      let x := dramOf s c.val
      let s := match x.sweepKind, x.sweepResults with
        | .startUp, [] => pprRun s c.val ppr
        | _, _ => s
      let x := dramOf s c.val
      let l := x.sweepResults ++ [stepResult s.free x.sweepResults.length v]
      let s := setDram s.tookFree c.val { x with sweepResults := l }
      if 40 * ranksOf s c.val ≤ l.length then sweepEnd s c.val else s.put (DRM_TRN_STAT_step c.val) l.length
    else s)) ∧
  (∀ (s : State) (c : Fin 2), exec (.sweepRequest c) s = .next (
    let st := dramState s c.val
    if st = 1 then s.put (DRM_TRN_CFG_sweep c.val) 1
    else if st = 2 ∨ st = 4 then
      let s := s.put (DRM_TRN_CFG_sweep c.val) 1
      if (dramOf s c.val).pausing || s.get (DRM_TRN_STAT_phase c.val) == 4 then
        setDram s c.val { dramOf s c.val with sweepDue := true, abandoned := true }
      else sweepStart s c.val (rateNow s c.val) (.requested st)
    else s)) ∧
  (∀ (s : State) (c : Fin 2), exec (.gatheringStart c) s = .next (
    let st := dramState s c.val
    if (st = 2 ∨ st = 4) ∧ s.get (DRM_TRN_STAT_phase c.val) = 0 ∧ s.get (DRM_TRN_CFG_period c.val) ≠ 0 ∧
        (dramOf s c.val).rateReq = none then
      setDram (s.put (DRM_TRN_STAT_phase c.val) 2) c.val { dramOf s c.val with
        pauses := 0, samples := [], abandoned := false, pausing := false }
    else s)) ∧
  (∀ (s : State) (c : Fin 2), exec (.trainingPause c) s = .next (if s.get (DRM_TRN_STAT_phase c.val) = 2 ∧ (dramOf s c.val).alert = false ∧
      (dramOf s c.val).rateReq = none then
    setDram s c.val { dramOf s c.val with pausing := true } else s)) ∧
  (∀ (s : State) (c : Fin 2) (l : List (BitVec 17 × BitVec 17)), exec (.pauseEnd c l) s = .next (
    let x := dramOf s c.val
    if x.pausing && !x.alert then
      let s := setDram s c.val { x with
        pausing := false, pauses := x.pauses + 1, samples := x.samples ++ pauseSamples s c.val (rateNow s c.val) x.pauses l }
      if x.sweepDue then sweepStart s c.val (rateNow s c.val) (.requested (dramState s c.val))
      else if x.abandoned then (setDram s c.val { dramOf s c.val with abandoned := false }).put (DRM_TRN_STAT_phase c.val) 0
      else if 2 * ranksOf s c.val ≤ x.pauses + 1 then gatherEnd s c.val
      else s
    else s)) ∧
  (∀ (s : State) (c : Fin 2) (r : BitVec 2), s.mgcFull = false → exec (.sdramRateRequest c r) s = .next s) ∧
  (∀ (s : State) (c : Fin 2) (r : BitVec 2), s.mgcFull = true → exec (.sdramRateRequest c r) s = .next (
    let s := commandIf s false (r != 3) (31 + c.val) r.toNat
    let st := dramState s c.val
    let x := dramOf s c.val
    if r.toNat = 3 ∨ st = 0 ∨ st = 5 then s
    else if r.toNat = rateNow s c.val ∧ x.rateReq = none ∧ x.rateTo = none then s
    else
      let s := setDram s c.val { x with rateReq := some r.toNat, abandoned := x.abandoned || x.pausing }
      if s.get (DRM_TRN_STAT_phase c.val) = 1 then s.put (DRM_TRN_STAT_held c.val) 1 else s)) ∧
  (∀ (s : State) (c : Fin 2), exec (.rateChangeBegin c) s = .next (
    let x := dramOf s c.val
    let st := dramState s c.val
    match x.rateReq with
    | none => s
    | some r =>
      if x.pausing then s
      else if s.get (DRM_TRN_STAT_phase c.val) = 1 then
        let k := match x.sweepKind with
          | .startUp => SweepKind.startUp
          | .fromRefresh => .fromRefresh
          | .newRate a b => .newRate a b
          | .requested b => .newRate (rateNow s c.val) b
        sweepStart ((setDram s c.val { x with rateReq := none }).put (DRM_TRN_STAT_held c.val) 0) c.val r k
      else if st = 2 ∨ st = 4 ∨ (st = 3 ∧ x.exiting = true) then
        let before := if st = 3 then x.before else st
        let s := setDram s c.val { x with rateReq := none, rateTo := some r, before := before, samples := [], abandoned := false }
        if s.flag (DRM_TRN_SET_valid c.val r) then (closeRows (setModes s c.val r) c.val none).put (DRM_TRN_STAT_phase c.val) 4
        else sweepStart s c.val r (.newRate (rateNow s c.val) before)
      else s)) ∧
  (∀ (s : State) (c : Fin 2) (l : List (List (BitVec 17 × BitVec 17))), exec (.sdramCheckDone c l) s = .next (
    let ph := s.get (DRM_TRN_STAT_phase c.val)
    let x := dramOf s c.val
    if (ph = 3 ∨ ph = 4) ∧ x.alert = false then
      let r := x.rateTo.getD (rateNow s c.val)
      let samples := (List.range (2 * ranksOf s c.val)).flatMap (fun n => pauseSamples s c.val r n (l.getD n []))
      let valid := s.flag (DRM_TRN_SET_valid c.val r)
      let s := if valid then gathered s c.val r samples else s
      if valid && samples.all (fun p => decide (12 ≤ sampleWidth p)) then
        dramReady (s.put (DRM_CFG_rate c.val) r) c.val x.before
      else
        let s := s.put (DRM_TRN_SET_valid c.val r) 0
        sweepStart s c.val r (if ph = 4 then .newRate (rateNow s c.val) x.before else .fromRefresh)
    else s)) ∧
  (∀ (s : State) (c r : Nat) (k : SweepKind), sweepStart s c r k = (
      let s := setDram s c { dramOf s c with
        sweepKind := k, sweepRate := r, sweepResults := [], sweepDue := false, pausing := false, pauses := 0,
        samples := [], abandoned := false }
      let s := (s.put (DRM_TRN_STAT_phase c) 1).put (DRM_TRN_STAT_step c) 0
      setDramState (closeRows (setModes s c r) c none) c 1)) ∧
  (∀ (s : State) (c : Nat), sweepEnd s c = (
      let x := dramOf s c
      let l := x.sweepResults
      let s := (setDram s c { x with swept := x.swept || x.sweepKind == .startUp }).put (DRM_TRN_STAT_step c) 0
      match l.zipIdx.find? (fun e => !stepWorks e.2 e.1) with
      | none =>
        let s := storeSet s c x.sweepRate l
        let s := (s.put (DRM_CFG_rate c) x.sweepRate).put (DRM_TRN_CFG_sweep c) 0
        dramReady ((setDram s c { dramOf s c with runs := [] }).put (DRM_TRN_FLAG_run c) 0) c 2
      | some e => sweepFail s c e.2 e.1)) ∧
  (∀ (s : State) (c : Nat), gatherEnd s c = ((gathered s c (rateNow s c) (dramOf s c).samples).put (DRM_TRN_STAT_phase c) 0))


/-! ## Pins, ports and tumblers (12) -/

/-- Bank supplies and inputs (R280 to R283, R304): a supply's level sets vsense, and a probe on a pin whose bank loses its supply is refused; a
bank in use whose supply no longer agrees goes to its state 2 and raises 6102h; it comes back once the supply agrees. A pin's
level reaches PIN_DIN and what listens to the pin only while the bank is on, and an undefined level is free (DESIGN CHOICE, log entry 4). A
wake slot that is enabled wakes on its edge. -/
def Obligations.BankSuppliesAndPinLevels : Prop :=
  (∀ (s : State) (b : Fin 12) (mv : BitVec 13), exec (.bankSupplyChange b mv) s = .next (
    let s := s.setPins { s.pins with vccio := tput (fun _ => 0) s.pins.vccio b.val mv.toNat }
    let s := s.put (PIN_BANK_vsense b.val) (senseCode mv.toNat)
    let s := if senseCode mv.toNat = 0 then
        (List.range 16).foldl (fun s q =>
          if s.flag (FAB_PRB_PIN_en q) && s.get (FAB_PRB_PIN_bank q) == b.val then probeRefuse s q else s) s
      else s
    if senseCode mv.toNat = 0 ∧ s.pwr.phase = .banked then bankHot s b.val 0 else s)) ∧
  (∀ (s : State) (b : Fin 12), exec (.bankSupplyAgreed b) s = .next (
    if bankState s b.val = 2 ∧ supplyAgrees s b.val = true then
      s.setPins { s.pins with returning := tput (fun _ => false) s.pins.returning b.val true }
    else s)) ∧
  (∀ (s : State) (b : Fin 12), exec (.bankSupplyLost b) s =
    .next (if bankOn s b.val && !supplyAgrees s b.val then raise (bankHot s b.val 2) 0x6102 (bankDetail s b.val) else s)) ∧
  (∀ (s : State) (b : Fin 12) (p : Fin 36) (level : Option Bool), exec (.pinLevelChange b p level) s = .next (
    let v := level.getD (Config.freeBit s.free)
    let s := if level.isNone then s.tookFree else s
    let s0 := s
    let w := maskAt s.pins.ball b.val
    let s := s.setPins { s.pins with ball := setMask s.pins.ball b.val (if v then w ||| pinBit p.val else w &&& ~~~ pinBit p.val) }
    if w.getLsbD p.val = v ∨ bankOn s b.val = false then s
    else
      let s := s.setWord (PIN_DIN b.val) (maskAt s.pins.ball b.val)
      let s := if pinLive s b.val p.val then pinInput s b.val p.val v else s
      (List.range 24).foldl (fun s t => tmbLevel s0 s b.val p.val t) s)) ∧
  (∀ (s : State) (b : Fin 12) (k : Fin 4), exec (.wakePinEdge b k) s = .next (
    let w := s.word (PIN_WAKE b.val)
    if bitsOf w (9 * k.val + 8) 1 = 1 ∧ s.get (PIN_BANK_vsense b.val) ≠ 0 ∧ bitsOf w (9 * k.val) 2 ≠ 3 then
      wakeEvent s 1 (4 * b.val + k.val)
    else s))

/-- PIN_DOUT (R288, R289): writes of the fabric and of the MGC in one period are applied at its end, the fabric's first, each only
where its mask is 1; a masked write is lost while the firmware restarts; the pulses of pins and of GPEV endpoints end pin by pin
(R290, R295). PIN_CFG and PIN_APPLY (R292 to R294): a configuration is staged; an apply takes every pin that may have it, refuses
the others with arefused and 6104h for the first of them, and is held while a switch is under way; the switch puts every pin of
its group in force and then takes what was held. -/
def Obligations.PinOutputsAndConfiguration : Prop :=
  (∀ (s : State) (b : Fin 12) (m : W36) (v : W36), exec (.pinMaskedWrite b m v) s = .next (if s.mgcFull then queueWrite s false b.val m v else s)) ∧
  (∀ (s : State) (fabric : Bool) (b : Fin 12) (v : W36), exec (.pinDoutWrite fabric b v) s = .next (if (if fabric then pinWindow s else s.mgcFull) then queueWrite s fabric b.val (BitVec.allOnes 36) v else s)) ∧
  (∀ (s : State) (b : Fin 12), exec (.pinDoutApply b) s = .next (
    let p := s.pins
    let l := tget (fun _ => []) p.fabWrites b.val ++ tget (fun _ => []) p.mgcWrites b.val
    let s := s.setWord (PIN_DOUT b.val) (l.foldl (fun d e => maskedWrite d e.1 e.2) (s.word (PIN_DOUT b.val)))
    s.setPins { s.pins with
      fabWrites := tput (fun _ => []) s.pins.fabWrites b.val [], mgcWrites := tput (fun _ => []) s.pins.mgcWrites b.val [] })) ∧
  (∀ (s : State) (b : Fin 12) (p : Fin 36), exec (.pinPulseEnd b p) s = .next (
    s.setPins { s.pins with
      pulse := setMask s.pins.pulse b.val (maskAt s.pins.pulse b.val &&& ~~~ pinBit p.val) })) ∧
  (∀ (s : State) (b : Fin 12) (p : Fin 36), exec (.gpevPulseEnd b p) s = .next (
    s.setPins { s.pins with
      gpev := setMask s.pins.gpev b.val (maskAt s.pins.gpev b.val &&& ~~~ pinBit p.val) })) ∧
  (∀ (s : State) (b : Fin 12) (p : Fin 36) (w : W36), exec (.pinCfgStage b p w) s =
    .next (setStg (s.setWord (PIN_CFG b.val p.val) (withBits w 0 6 0)) b.val p.val)) ∧
  (∀ (s : State) (b : Fin 12) (m : W36), exec (.pinApply b m) s = .next (
    if maskAt s.pins.switching b.val ≠ 0 then
      let s := s.setPins { s.pins with heldApply := setMask s.pins.heldApply b.val (maskAt s.pins.heldApply b.val ||| m) }
      s.setWord (PIN_APPLY b.val) (s.word (PIN_APPLY b.val) ||| m)
    else
      let bad := (pinsOf m).filter (applyRefused s b.val)
      let good := (pinsOf m).filter (fun p => !applyRefused s b.val p)
      let s := good.foldl (fun s p => applyPin s b.val p) s
      match bad with
      | [] => s
      | p :: _ =>
        let s := bad.foldl (fun s p => s.putBit (PIN_APPLY_apply b.val) p false) s
        raise (s.put (PIN_BANK_arefused b.val) 1) 0x6104 (packWord [(32, b.val), (26, p)]))) ∧
  (∀ (s : State) (b : Fin 12), exec (.pinSwitchTake b) s = .next (
    let q := s.pins
    if s.flag SCB_JTAG_ext then s
    else if tget (fun _ => false) q.returning b.val then
      if supplyAgrees s b.val then
        let ab := maskAt q.abandoned b.val
        let s := (pinsOf ab).foldl (fun s p => putForce s b.val p (cfgStaged s b.val p)) s
        let s := s.setPins { s.pins with
          abandoned := setMask s.pins.abandoned b.val 0, returning := tput (fun _ => false) s.pins.returning b.val false }
        bankConfigured s b.val
      else s.setPins { q with returning := tput (fun _ => false) q.returning b.val false }
    else if maskAt q.switching b.val = 0 then s
    else
      let m := maskAt q.switching b.val
      let s := (pinsOf m).foldl (fun s p =>
        (putForce s b.val p (tget (fun _ => 0) q.target (36 * b.val + p))).putBit (PIN_APPLY_apply b.val) p false) s
      let held := maskAt s.pins.heldApply b.val
      let s := s.setPins { s.pins with
        switching := setMask s.pins.switching b.val 0, heldApply := setMask s.pins.heldApply b.val 0,
        target := tdrop (fun k => k / 36 == b.val) s.pins.target }
      let s := wordInputs s b.val
      if held = 0 then s else applyGroup s b.val held))

/-- Ports (R296) and tumblers (R297 to R302): a strobe pushes the masked word of its port, and an overflow is counted and reported by 6105h once in
a row; an output entry is popped while the far side is ready. A tumbler's filter, its window and its strict return act only
while it runs; a configuration write restarts the pair, and one with an illegal mode or size has no effect; clr leaves both
counts 0. -/
def Obligations.PortsAndTumblers : Prop :=
  (∀ (s : State) (g : Fin 48), exec (.portInputStrobe g) s = .next (
    if portOn s g.val && s.get (PIN_PORT_dir g.val) == 0 && portActive s g.val (s.get (PIN_PORT_stb g.val)) then
      let d := portWord s g.val &&& s.word (PIN_PMSK g.val)
      let e := s.flag (PIN_PORT_e_use g.val) && portPin s g.val (s.get (PIN_PORT_epin g.val))
      let r := fifoPush s (80 + g.val) ⟨d, e, false⟩
      let dropped := tget (fun _ => false) s.pins.portDropped g.val
      let s := r.1.setPins { r.1.pins with portDropped := tput (fun _ => false) r.1.pins.portDropped g.val (!r.2) }
      if r.2 then s
      else
        let s := s.bump (PIN_PORT_ovf g.val) 1
        if dropped then s else raise s 0x6105 (packWord [(30, g.val), (21, s.get (PIN_PORT_ovf g.val))])
    else s)) ∧
  (∀ (s : State) (g : Fin 48), exec (.portOutputEntry g) s = .next (
    if portOn s g.val && s.get (PIN_PORT_dir g.val) == 1 then
      if s.flag (PIN_PORT_rdy_use g.val) && !portActive s g.val (s.get (PIN_PORT_rdy g.val)) then
        setPortOut s g.val { portOut s g.val with strobe := false }
      else
        match popData ((rdepth (fifoOf s (80 + g.val))) + 1) s (80 + g.val) with
        | (s, some e) => setPortOut s g.val ⟨e.data &&& s.word (PIN_PMSK g.val), e.e, true⟩
        | (s, none) => setPortOut s g.val { portOut s g.val with strobe := false }
    else s)) ∧
  (∀ (s : State) (t : Fin 24) (pat : Fin 4), exec (.tumblerFilterExpiry t pat) s =
    .next (if tmbRuns s t.val then tmbFilter s t.val pat.val (tmbRaw s t.val pat.val) else s)) ∧
  (∀ (s : State) (t : Fin 24), exec (.tumblerWindowTimeout t) s =
    .next (if tmbRuns s t.val && (tmbOf s t.val).window then tmbReturn (s.bump (PIN_TMB_STAT_timeouts t.val) 1) t.val else s)) ∧
  (∀ (s : State) (t : Fin 24), exec (.tumblerStrictReturn t) s = .next (
    let st := tmbStep s t.val
    if tmbRuns s t.val && s.flag (PIN_TMB_CFG_strict t.val) && decide (0 < st) && s.get (PIN_TMB_CFG_mode t.val) == 2 &&
        !tmbRaw s t.val (st - 1) && !tmbRaw s t.val st then tmbReturn s t.val
    else s)) ∧
  (∀ (s : State) (t : Fin 24) (r : Fin 9) (w : W36), exec (.tumblerConfigWrite t r w) s = .next (
    if r.val = 0 ∧ bitsOf w 29 2 = 3 then s
    else
      let paired := tmbPaired s t.val
      let s := tmbRestart (s.setWord (tmbAddr t.val r.val) (tmbStored s t.val r.val w)) t.val
      if paired || tmbPaired s t.val then tmbRestart s (if t.val % 2 = 1 then t.val - 1 else t.val + 1) else s)) ∧
  (∀ (s : State) (t : Fin 24), exec (.tumblerStatClear t) s =
    .next ((s.put (PIN_TMB_STAT_matches t.val) 0).put (PIN_TMB_STAT_timeouts t.val) 0))


/-! ## Loading, keys, the flashes (13) -/

/-- Loading (R312 to R331): discovery takes the flashes found, with 7104h for one that is not octal, and starts the reader; the
check of the ward ends in a commit or in the load's failure by its cause; configuration memory is cleared before a load; a
warm re-commit starts from RUN, FAULT or SHUTDOWN while no load runs; a hearth's stream is read for the first reload waiting. -/
def Obligations.LoadSteps : Prop :=
  (∀ (s : State) (a : FlashInfo) (b : FlashInfo), exec (.discoveryDone a b) s = .next (
    match s.cfg.load with
    | none => s
    | some ld =>
      if s.get CFG_STAT_phase ≠ 1 ∨ ld.clearing = true ∨ s.cfg.reader.isSome = true then s
      else
        let s := { s with cfg := { s.cfg with foundA := a, foundB := b } }
        if a.present = false ∨ (b.present = true ∧ flashesAgree a b = false) then imageFail s ld.img 1 0
        else
          let slow := fun (s : State) (which : Bool) => raise s 0x7104 (packWord [(35, b2n which), (34, b2n ld.img)])
          let s := if a.octal then s else slow s false
          let s := if b.present && !b.octal then slow s true else s
          let s := (s.put CFG_STAT_dual (b2n b.present)).put CFG_STAT_clk (if a.octal then 2 else 3)
          let s := s.put CFG_STAT_phase 2
          let s := if s.pwr.phase = .discovery then setPhase s .loading else s
          setReader s (some (newReader none ld.img b.present 0 none)))) ∧
  (∀ (s : State) (errs : List (Fin 4096 × Octet)), exec (.chunkRead errs) s =
    .next (flashResume (chunkRead s errs))) ∧
  (∀ s : State, exec .wardCheckDone s = .next (
    match s.cfg.reader with
    | none => s
    | some r =>
      if r.complete = false ∨ r.hearth.isSome = true then s
      else if tagOk s r = false then readFail s r 5
      else match r.failure <|> wholeCheck (streamState s r) r with
        | some w => wardFail s r w
        | none => commit s r)) ∧
  (∀ s : State, exec .configClearDone s = .next (
    match s.cfg.load with
    | some ld =>
      if ld.clearing then
        let s := { clearMemory s with cfg := { s.cfg with load := some { ld with clearing := false } } }
        s.put CFG_STAT_phase 1
      else s
    | none => s)) ∧
  (∀ s : State, exec .warmRecommit s = .next (
    if s.cfg.load.isSome then s
    else match s.pwr.phase with
      | .run | .fault | .shutdown =>
        let s := { s.put CFG_CTL_recommit 1 with pwr := { s.pwr with phase := .loading } }
        let s := closeHasps (stopDesign s)
        let s := { s with scb := { s.scb with pendList := [], fullRaised := false } }
        let s := if s.cfg.flashHeld.isSome then
            { s.put CFG_FL_CMD_status 4 with cfg := { s.cfg with flashHeld := none } }
          else s
        loadStart (s.put SCB_RATE_pend 0) true (s.flag CFG_CTL_next)
      | _ => s)) ∧
  (∀ s : State, exec .hearthStreamRead s = .next (
    match s.scb.reloads with
    | [] => s
    | rl :: _ =>
      if s.get CFG_STAT_phase ≠ 4 ∨ s.cfg.reader.isSome = true ∨ s.cfg.flashJob.isSome = true then s
      else
        let h := rl.h.val
        let img := s.flag CFG_STAT_img
        let first := dirFirst s.cfg.inForce h
        let n := dirCount s.cfg.inForce h
        let r := newReader (some rl.h) img s.cfg.inForceDual first (some n)
        if s.get CFG_STAT_hsrc_ok ≠ 1 then readFail s r 1
        else if n = 0 ∨ chunkFits s img s.cfg.inForceDual (first + n - 1) = false then readFail s r 7
        else setReader s (some r))) ∧
  (∀ s : State, exec .hearthStreamCheckDone s = .next (flashResume (hearthCheckDone s))) ∧
  (∀ (s : State) (errs : List (Fin 4096 × Octet)), chunkRead s errs = (
      match s.cfg.reader with
      | none => s
      | some r =>
        if r.complete then s
        else
          let l := readChunk s r errs
          if !chunkCrcOk l then chunkFailed s r true
          else if leAt l 4088 4 ≠ r.chunk then chunkFailed s r false
          else chunkTaken s r l)) ∧
  (∀ (s : State), hearthCheckDone s = (
      match s.cfg.reader with
      | none => s
      | some r =>
        match r.hearth with
        | none => s
        | some h =>
          if r.complete = false then s
          else if tagOk s r = false then readFail s r 5
          else match r.failure <|> wholeCheck s r with
            | some w => wardFail s r w
            | none => reloadDone s h)) ∧
  (∀ (s : State) (img : Bool) (cause chunk : Nat), imageFail s img cause chunk = (
      let cls := if cause = 6 then wardClass (s.word CFG_WARD_LOC) else 0
      let s := s.put (if img then CFG_STAT_kind_cause else CFG_STAT_main_cause) cause
      let s := s.setWord CFG_FAULT_LOC (packWord [(35, b2n img), (31, cause), (8, chunk)])
      let s := setReader s none
      let s := if img then { s with cfg := { s.cfg with kindClass := cls } } else { s with cfg := { s.cfg with mainClass := cls } }
      match s.cfg.load with
      | none => s
      | some ld =>
        if ld.fallback then deviceFault s
        else
          let s := { s with cfg := { s.cfg with load := some { ld with fallback := true, clearing := true, img := !img } } }
          raise s 0x7101 (packWord [(35, b2n img), (31, cause), (8, chunk), (0, cls)])))

/-- The keyring (R333 to R335, Table 13.14): staging needs an open hasp; a command runs only with an open hasp and none running,
clears what was staged, and answers 4 where a key does not match its expected check value, 3 where its condition fails, and
1 while it runs; its end takes the effect with status 2, or leaves status 5 with 7107h. -/
def Obligations.KeyringCommands : Prop :=
  (∀ (s : State) (t : Transport) (r v : Bool),
    exec (.keyringProgramEfuse t r) s = .next (keyCommand s t 1 r true 0) ∧
    exec (.keyringWriteBbram t v) s = .next (keyCommand s t 2 true v 0) ∧
    exec (.keyringZeroize t) s = .next (keyCommand s t 3 true true 0) ∧
    exec (.keyringBlowKeySrc t r) s = .next (keyCommand s t 4 r true 0)) ∧
  (∀ (s : State) (t : Transport) (r : Bool) (b : BitVec 8),
    exec (.keyringBlowBbramOff t r) s = .next (keyCommand s t 5 r true 0) ∧
    exec (.keyringBlowRbOff t r) s = .next (keyCommand s t 6 r true 0) ∧
    exec (.keyringBlowMinVer t r) s = .next (keyCommand s t 7 r true 0) ∧
    exec (.keyringProgramKindBase t r b) s = .next (keyCommand s t 8 r true b)) ∧
  (∀ (s : State) (t : Transport) (cmd : Nat) (r v : Bool) (b : BitVec 8), keyCommand s t cmd r v b =
    if haspOpen s t = false ∨ s.mgcFull = false ∨ s.cfg.keyJob.isSome = true then s
    else
      let matched := (s.cfg.staged.map kcvOf).isSome && s.cfg.staged.map kcvOf == s.cfg.expected
      let s1 := clearStaged s
      if (cmd = 1 ∨ cmd = 2) ∧ matched = false then { s1 with cfg := { s1.cfg with keyStatus := 4 } }
      else if keyCondition s cmd r v = false then { s1 with cfg := { s1.cfg with keyStatus := 3 } }
      else { s1 with cfg := { s1.cfg with keyStatus := 1, keyJob := some ⟨cmd, b, s.cfg.staged.getD 0⟩ } }) ∧
  (∀ (s : State) (t : Transport) (key : BitVec 256), exec (.keyStage t key) s =
    .next (if haspOpen s t && s.mgcFull then { s with cfg := { s.cfg with staged := some key } } else s)) ∧
  (∀ (s : State) (t : Transport) (kcv : BitVec 18), exec (.keyExpectedKcv t kcv) s =
    .next (if haspOpen s t && s.mgcFull then { s with cfg := { s.cfg with expected := some kcv } } else s)) ∧
  (∀ (s : State) (ok : Bool), exec (.keyringCommandDone ok) s = .next (
    match s.cfg.keyJob with
    | none => s
    | some j =>
      let s := { s with cfg := { s.cfg with keyJob := none } }
      if ok || j.cmd == 2 || j.cmd == 3 then
        let s := keyEffect s j
        { s with cfg := { s.cfg with keyStatus := 2 } }
      else
        let s := if j.cmd = 1 then
            keyStatus { s.tookFree with cfg := { s.cfg with efuse := Config.freeKey s.free } }
          else s
        raise { s with cfg := { s.cfg with keyStatus := 5 } } 0x7107 (packWord [(32, j.cmd)]))) ∧
  (∀ s : State, exec .vbatLow s = .next (keyStatus { s with cfg := { s.cfg with vbatLow := true } }))

/-- Flash service and readback (R336, R338): a command starts while none runs; one that is malformed, or
meets a load, stores its code with status 4; another is status 1 until it is done, waits while the loader reads, and where it
touches the image in force clears hsrc_ok with 7106h. A readback is refused, with the data 0, outside RUN, with rb_off blown
or the image's bit set; otherwise it returns the frame's word and moves on to the next. -/
def Obligations.FlashService : Prop :=
  (∀ s : State, exec .flashEraseSector s = .next (flashStart s 1) ∧ exec .flashEraseBlock s = .next (flashStart s 2) ∧
    exec .flashProgram s = .next (flashStart s 3) ∧ exec .flashCompare s = .next (flashStart s 4)) ∧
  (∀ s : State, exec .flashRead s = .next (flashStart s 5)) ∧
  (∀ (s : State) (cmd : Nat), flashStart s cmd =
    let j : FlashJob := ⟨cmd, s.get CFG_FL_ADDR_target, s.get CFG_FL_ADDR_addr, s.get CFG_FL_CMD_len⟩
    if s.mgcFull = false ∨ s.cfg.flashJob.isSome = true ∨ s.cfg.flashHeld.isSome = true then s
    else if s.cfg.load.isSome ∨ cmd = 0 ∨ 5 < cmd ∨ j.target = 3 ∨ (j.target = 2 ∧ j.addr % 4 ≠ 0) ∨
        (3 ≤ cmd ∧ (j.len = 0 ∨ 4096 < j.len)) then (s.put CFG_FL_CMD_cmd cmd).put CFG_FL_CMD_status 4
    else
      let s := (s.put CFG_FL_CMD_cmd cmd).put CFG_FL_CMD_status 1
      if s.cfg.reader.isSome then { s with cfg := { s.cfg with flashHeld := some cmd } }
      else
        let s := { s with cfg := { s.cfg with flashJob := some j } }
        if cmd ≤ 3 ∧ s.get CFG_STAT_hsrc_ok = 1 ∧ s.get CFG_STAT_phase = 4 ∧ touchesImage s j = true then
          raise (s.put CFG_STAT_hsrc_ok 0) 0x7106 (packWord [(35, s.get CFG_STAT_img), (3, j.addr)])
        else s) ∧
  (∀ (s : State) (ok : Bool), exec (.flashServiceDone ok) s = .next (
    match s.cfg.flashJob with
    | none => s
    | some j =>
      let e := if ok then flashEffect s j else (flashError s j, 3)
      let s := { e.1 with cfg := { e.1.cfg with flashJob := none } }
      s.put CFG_FL_CMD_status e.2)) ∧
  (∀ (s : State) (w : W36), exec (.readbackIndexWrite w) s = .next (s.setWord CFG_RB_IDX (withBits w 0 8 0))) ∧
  (∀ s : State, exec .readbackRead s = .next (
    if s.flag CFG_KEY_rb_off || bitN (hdrFlags s.cfg.inForce) 1 || s.pwr.phase != .run then
      (s.put CFG_RB_IDX_refused 1).setWord CFG_RB_DAT 0
    else
      let n := s.get CFG_RB_IDX_word
      let w := frameWord s (s.get CFG_RB_IDX_hearth) (s.get CFG_RB_IDX_column) (s.get CFG_RB_IDX_row) (s.get CFG_RB_IDX_frame) n
      (s.setWord CFG_RB_DAT w).put CFG_RB_IDX_word (if 36 ≤ n then 0 else n + 1)))


/-! ## Scrubbing, slices, test, service, JTAG (14) -/

/-- The scrubber (R345 to R351): a pass starts while en is set and none runs; a frame read is judged and corrected; a priority
report waits among at most sixteen; a heartbeat that stands still restarts the scrubber; clr leaves both words 0. -/
def Obligations.ScrubCommands : Prop :=
  (∀ s : State, exec .peatPassStart s = .next (
    if s.flag SCB_CFG_en && scrubTime s && !s.scb.dead then
      (if s.get SCB_STAT_state = 1 then { s with scb := { s.scb with passDue := true } } else passBegin s)
    else s)) ∧
  (∀ (s : State) (votes : BitVec 8) (mapBad : Bool) (romBad : Bool), exec (.frameRead votes mapBad romBad) s =
    .next (watchHandover s (frameRead s votes.toNat mapBad romBad))) ∧
  (∀ (s : State) (frame : FrameAddr), exec (.scrubPriorityReport frame) s =
    .next (if s.scb.prio.length < 16 then { s with scb := { s.scb with prio := s.scb.prio ++ [frame] } } else s)) ∧
  (∀ s : State, exec .scrubHeartbeatCheck s = .next (
    if s.mgcServing = false ∨ scrubTime s = false ∨ s.scb.dead = true then s
    else
      let stuck := s.scb.halted || (s.get SCB_STAT_state == 1 && s.scb.beat == s.scb.beatSeen)
      let s := { s with scb := { s.scb with beatSeen := s.scb.beat } }
      if stuck then scrubRestart s else s)) ∧
  (∀ s : State, exec .scrubCntClear s = .next ((s.setWord SCB_CNT 0).setWord SCB_LAST 0)) ∧
  (∀ (s : State) (votes : Nat) (mapBad romBad : Bool), frameRead s votes mapBad romBad = (
      if s.scb.dead || s.scb.halted || !scrubTime s then s
      else
        let s := s.bump SCB_STAT_votes votes
        if romBad then { s with scb := { s.scb with halted := true } }
        else
          match s.scb.prio with
          | a :: rest =>
            let s := { s with scb := { s.scb with prio := rest, beat := s.scb.beat + 1 } }
            let s := s.setWord SCB_POS (frameLoc a)
            if frameSkipped s a || reloading s a.h.val then s else frameAct s a mapBad
          | [] =>
            if s.get SCB_STAT_state ≠ 1 then s
            else
              let a := walkFrame s.scb.pos
              let s := { s with scb := { s.scb with beat := s.scb.beat + 1 } }
              let s := s.setWord SCB_POS (frameLoc a)
              walkOn (if frameSkipped s a then s else frameAct s a mapBad))) ∧
  (∀ (s : State), passBegin s = (
      { (s.put SCB_STAT_state 1).setWord SCB_POS (frameLoc (walkFrame 0)) with scb := { s.scb with
        pos := 0, passDue := false, corrections := 0 } })) ∧
  (∀ (s : State), scrubRestart s = (
      let s := s.bump SCB_STAT_restarts 1
      let recent := (s.scb.restartTimes.filter (fun t => decide ((s.timebase - t).toNat ≤ 32000000000))).take 2
      let detail := frameLoc (walkFrame s.scb.pos) ||| packWord [(10, s.get SCB_STAT_restarts)]
      let s := { s with scb := { s.scb with halted := false, restartTimes := s.timebase :: recent } }
      let s := raise s 0x8104 detail
      if recent.length < 2 then s
      else raise { s.put SCB_STAT_state 3 with scb := { s.scb with dead := true, prio := [] } } 0x8105 detail))

/-- Slices (R358 to R366, R368): a slice starts in RUN with none under way, a column just replaced first; a
column is copied, waited for, scanned and switched, or abandoned at its timeout; each kind of test ends with PASS, FAIL or
INCOMPLETE, and a failure is repaired where a spare is left, recorded, and reported. -/
def Obligations.TestSlices : Prop :=
  (∀ s : State, exec .bistSliceStart s = .next (
    if s.flag SCB_BIST_CFG_en && s.pwr.phase == .run && s.scb.handover == .idle then
      match s.scb.testNext.find? (fun e => sliceHearth s e.1.val &&
          [64, 65].any (fun c => steerOf s e.1.val c == (1, e.2.val))) with
      | some (h, p) =>
        let slot := if steerOf s h.val 64 = (1, p.val) then 64 else 65
        let s := { s with scb := { s.scb with
          testNext := s.scb.testNext.filter (· != (h, p)), handover := .colTest h p, spare := slot, extra := true } }
        sliceStat s 1 h.val p.val
      | none =>
        let r := nextSlice 5762 s
        match r.2 with
        | some x => sliceBegin r.1 x
        | none => r.1
    else s)) ∧
  (∀ s : State, exec .columnPrecopyDone s = .next (
    match s.scb.handover with
    | .colCopy h c =>
      if s.pwr.phase ≠ .run ∨ hearthSt s h.val ≠ .awake ∨ reloading s h.val = true then sliceAbandon s else
      let p := (steerOf s h.val c.val).2
      let s := copyFrames s h.val p (steerOf s h.val s.scb.spare).2
      holdPorts (setSteer s h.val c.val (2, p)) h.val c.val p (.colWait h c)
    | .idle | .colWait _ _ | .colScan _ _ | .colTest _ _ | .blockWait _ _ | .blockCopy _ _ | .blockTest _ _
    | .laneTest _ | .fifoTest _ => s)) ∧
  (∀ s : State, exec .columnQuiesced s = .next (
    match s.scb.handover with
    | .colWait h c =>
      let p := (steerOf s h.val c.val).2
      if bandQuiet s h.val p && columnQuiet s h.val p then { s with scb := { s.scb with handover := .colScan h c } } else s
    | .idle | .colCopy _ _ | .colScan _ _ | .colTest _ _ | .blockWait _ _ | .blockCopy _ _ | .blockTest _ _
    | .laneTest _ | .fifoTest _ => s)) ∧
  (∀ s : State, exec .columnQuiesceTimeout s = .next (
    match s.scb.handover with
      | .colWait _ _ => afterHandover (sliceAbandon s)
      | .idle | .colCopy _ _ | .colScan _ _ | .colTest _ _ | .blockWait _ _ | .blockCopy _ _ | .blockTest _ _
      | .laneTest _ | .fifoTest _ => s)) ∧
  (∀ (s : State) (ok : Bool), exec (.columnScanCopyDone ok) s = .next (afterHandover (columnScanned s ok))) ∧
  (∀ (s : State) (run : TestRun), exec (.columnTestDone run) s = .next (
    match s.scb.handover with
    | .colTest h p =>
      let res := runResult run
      let s := testedFrames s h.val p.val
      let s := if res = 1 then
          match recordColumn s h p with
          | some s => testFail (setSteer s h.val s.scb.spare (3, 127)) (packWord [(27, h.val), (20, p.val)]) run.bits true
          | none => testFail s (packWord [(27, h.val), (20, p.val)]) run.bits false
        else s
      sliceResult s res
    | .idle | .colCopy _ _ | .colWait _ _ | .colScan _ _ | .blockWait _ _ | .blockCopy _ _ | .blockTest _ _
    | .laneTest _ | .fifoTest _ => s)) ∧
  (∀ (s : State) (run : TestRun), exec (.blockTestDone run) s = .next (
    match s.scb.handover with
    | .blockTest h p =>
      let res := runResult run
      let unit := packWord [(33, 3), (27, h.val), (20, p.val)]
      let s := if res = 1 then
          match recordRows s h p run.rows with
          | some s => testFail s unit run.bits true
          | none =>
            match recordBlock s h p with
            | some s => testFail (setBlock s h.val s.scb.spare (3, 127)) unit run.bits true
            | none => testFail s unit run.bits false
        else s
      sliceResult s res
    | .idle | .colCopy _ _ | .colWait _ _ | .colScan _ _ | .colTest _ _ | .blockWait _ _ | .blockCopy _ _
    | .laneTest _ | .fifoTest _ => s)) ∧
  (∀ (s : State) (run : TestRun), exec (.laneTestDone run) s = .next (
    match s.scb.handover with
    | .laneTest l =>
      let res := runResult run
      let s := if res = 1 then testFail s (packWord [(33, 5), (20, l.val)]) run.bits false else s
      pllUpdate (sliceResult s res) (l.val / 4)
    | .idle | .colCopy _ _ | .colWait _ _ | .colScan _ _ | .colTest _ _ | .blockWait _ _ | .blockCopy _ _
    | .blockTest _ _ | .fifoTest _ => s)) ∧
  (∀ (s : State) (run : TestRun), exec (.fifoTestDone run) s = .next (
    match s.scb.handover with
    | .fifoTest f =>
      let res := runResult run
      let s := if res = 1 then testFail s (packWord [(33, 4), (20, f.val)]) run.bits false else s
      sliceResult s res
    | .idle | .colCopy _ _ | .colWait _ _ | .colScan _ _ | .colTest _ _ | .blockWait _ _ | .blockCopy _ _
    | .blockTest _ _ | .laneTest _ => s)) ∧
  (∀ (s : State) (ok : Bool), columnScanned s ok = (
      match s.scb.handover with
      | .colScan h c =>
        let p := (steerOf s h.val c.val).2
        let q := (steerOf s h.val s.scb.spare).2
        if ok then
          let t := scanCopy s h.val p q
          let t := (setSteer (setSteer t h.val c.val (0, q)) h.val t.scb.spare (1, p)).bump FAB_STEER_CHG_cnt 1
          let t := portsReleased s { t with scb := { t.scb with handover := .colTest h (Fin.ofNat _ p) } }
          columnResume t h.val c.val
        else sliceAbandon (markSpare s h (Fin.ofNat _ q))
      | .idle | .colCopy _ _ | .colWait _ _ | .colTest _ _ | .blockWait _ _ | .blockCopy _ _ | .blockTest _ _
      | .laneTest _ | .fifoTest _ => s)) ∧
  (∀ (r : TestRun), runResult r = (if r.fault then 1 else if !r.complete then 2 else if r.signature then 0 else 1)) ∧
  (∀ (s : State) (unit : W36) (bits : List W36) (repaired : Bool), testFail s unit bits repaired = (
      let d := match bits with
        | b :: _ => b
        | [] => unit ||| (Config.freeWord s.free &&& 0xFFFFF#36)
      let s := if bits = [] then s.tookFree else s
      let s := raise (addResults s bits) 0x8106 d
      if repaired then s else raise s 0x8107 d)) ∧
  (∀ (s : State) (result : Nat), sliceResult s result = (
      let s := sliceEnd s result
      if s.scb.extra then { s with scb := { s.scb with extra := false } }
      else if result = 2 then s
      else roundOn { s with scb := { s.scb with tested := s.scb.tested + 1 } }))

/-- The repair record is written to the copy that is not the newer one, and a failed write raises 8108h; a row repair is cleared
with the hasp open; the shutdown test stops the design and its end records status 4, 5, 3 or 2; the service hours count in
RUN and SIMMER (R367 to R371), free beyond 20 bits (DESIGN CHOICE, log entry 4). -/
def Obligations.RecordsAndService : Prop :=
  (∀ (s : State) (ok : Bool), exec (.repairRecordWriteDone ok) s = .next (
    let m := s.mtp
    if m.writing = false then s
    else
      let toB := if m.copyA && m.copyB then !m.newB else m.copyA
      let a := if toB then m.copyA else ok
      let b := if toB then ok else m.copyB
      let m := { m with copyA := a, copyB := b, writing := false, writes := m.writes + 1 }
      if ok then repStat { s with mtp := { m with newB := toB, newer := m.repair } }
      else raise (repStat { s with mtp := m }) 0x8108 (packWord [(35, b2n a), (34, b2n b), (33, 1)]))) ∧
  (∀ (s : State) (t : Transport) (c : Fin 2), exec (.repairClearSdram t c) s = .next (
    if haspOpen s t && !s.mtp.clearRows.contains c then
      { s with mtp := { s.mtp with clearRows := s.mtp.clearRows ++ [c] } }
    else s)) ∧
  (∀ s : State, exec .shutdownTest s = .next (
    if s.cfg.load.isSome then s
    else match s.pwr.phase with
      | .waking | .run | .simmerEntry | .simmer | .simmerExit | .fault =>
        let ramp := inSimmer s
        let s := setPhase (stopDesign s) .shutdown
        let s := { s.put CLK_STAT_div 0 with pwr := { s.pwr with held := none } }
        let s := if ramp then vfabStart s else s
        flashResume ((s.put SCB_SDT_go 1).put SCB_SDT_status 1)
      | _ => s)) ∧
  (∀ (s : State) (fails : List TestResult) (eligible : BitVec 24) (incomplete : BitVec 24) (ms : BitVec 17), exec (.fullTestDone fails eligible incomplete ms) s = .next (
    if s.pwr.phase = .shutdown ∧ s.get SCB_SDT_status = 1 then
      let x := fullTest s fails eligible.toNat incomplete.toNat ms.toNat
      let rec_ : ShutdownRecord :=
        ⟨false, incomplete.toNat != 0, x.2.2, BitVec.ofNat 64 (s.get CFG_IMG_design_id)⟩
      let s := hoursSave x.1
      let s := { s with mtp := { s.mtp with shutdown := some rec_ } }
      let st := if x.2.2 then 4 else if incomplete.toNat ≠ 0 then 5 else if x.2.1 then 3 else 2
      testEnd (((s.put SCB_SDT_go 0).put SCB_SDT_status st).put SCB_SDT_rec_valid 1)
    else s)) ∧
  (∀ (s : State) (hot : Bool), exec (.serviceHour hot) s = .next (
    match s.pwr.phase with
    | .run | .simmer =>
      let s := if hot then s.bump SCB_SVC_hot 1 else s
      let n := s.get SCB_SVC_hours + 1
      if n < 2 ^ 20 then s.put SCB_SVC_hours n
      else (s.put SCB_SVC_hours (Config.freeNat s.free)).tookFree
    | _ => s)) ∧
  (∀ s : State, exec .serviceHoursSave s = .next (if s.mgcServing then hoursSave s else s)) ∧
  (∀ (s : State), hoursSave s = (
      { s with mtp := { s.mtp with
        hours := BitVec.ofNat 20 (s.get SCB_SVC_hours), hot := BitVec.ofNat 16 (s.get SCB_SVC_hot) } }))

/-- JTAG (R373, R374): an instruction's opcode and the register between TDI and TDO; one that controls pins acts as
BYPASS while en_pin is 0, takes the pins when it starts, and the pins return when another instruction or the end of JTAG
control follows. Which data register each instruction selects, and BYPASS once JTAG control has ended, are PRESUMED (log entry 30). -/
def Obligations.JtagInstructions : Prop :=
  (∀ (s : State) (en : Bool), exec (.jtagExtest en) s = .next (jtagCurrent s 0x00 true .boundary en) ∧
    exec (.jtagIdcode en) s = .next (jtagCurrent s 0x01 false .idcode en) ∧
    exec (.jtagSamplePreload en) s = .next (jtagCurrent s 0x02 false .boundary en) ∧
    exec (.jtagClamp en) s = .next (jtagCurrent s 0x04 true .bypass en)) ∧
  (∀ (s : State) (en : Bool), exec (.jtagHighz en) s = .next (jtagCurrent s 0x05 true .bypass en) ∧
    exec (.jtagExtestPulse en) s = .next (jtagCurrent s 0x0A true .boundary en) ∧
    exec (.jtagExtestTrain en) s = .next (jtagCurrent s 0x0B true .boundary en) ∧
    exec (.jtagBypass en) s = .next (jtagCurrent s 0xFF false .bypass en)) ∧
  (∀ (s : State) (op : BitVec 8) (controls : Bool) (reg : JtagReg) (en : Bool), jtagCurrent s op controls reg en =
    let t := s.put SCB_JTAG_en_pin (b2n en)
    let t := { t with jtag := if en || !controls then ⟨op, reg⟩ else ⟨0xFF, .bypass⟩ }
    if t.flag SCB_JTAG_ext = false ∧ (en && controls) = true then jtagTake t
    else if t.flag SCB_JTAG_ext = true ∧ (en && controls) = false then jtagRelease t
    else t) ∧
  (∀ s : State, exec .jtagInstructionEnd s = .next (
      let s := if s.flag SCB_JTAG_ext then jtagRelease s else s
      { s with jtag := ⟨0xFF, .bypass⟩ }))


/-! ## The MGC's transports (15) -/

/-- SDO transfers (R380, R387, R388): an initiate ends the transport's session and opens its object or aborts; a download of up to
four octets is written at once, a longer one segment by segment with its toggle, size and length checked; an upload's segments
carry up to seven octets each; a segment without a session, or of the other direction, aborts with the command code; a
timeout aborts with its code. -/
def Obligations.SdoTransfers : Prop :=
  (∀ (s : State) (t : Transport) (idx : BitVec 16) (sub : BitVec 8) (data : BitVec 32) (size : Option (BitVec 2)), exec (.sdoDownloadExpedited t idx sub data size) s = .next (
    serve s t idx.toNat sub.toNat (fun s =>
      let s := setSession s t .idle
      match openObj s t idx.toNat sub.toNat true with
      | .inr c => abortWith s t idx.toNat sub.toNat c
      | .inl o =>
        let n := match size with
          | some n => 4 - n.toNat
          | none => o.ty.octets.getD 5
        if 4 < n ∨ (o.ty.octets.any (fun k => decide (4 < k))) = true then abortWith s t idx.toNat sub.toNat abLength
        else finishWrite s t idx sub (leOctets n data.toNat) (doneFrame idx.toNat sub.toNat)))) ∧
  (∀ (s : State) (t : Transport) (idx : BitVec 16) (sub : BitVec 8) (size : Option (BitVec 32)), exec (.sdoDownloadInitiate t idx sub size) s = .next (
    serve s t idx.toNat sub.toNat (fun s =>
      let s := setSession s t .idle
      match openObj s t idx.toNat sub.toNat true with
      | .inr c => abortWith s t idx.toNat sub.toNat c
      | .inl o =>
        if (match size, o.ty.octets with
            | some n, some k => n.toNat != k
            | some n, none => decide (4096 < n.toNat)
            | none, _ => false) then abortWith s t idx.toNat sub.toNat abLength
        else respond (setSession s t (.down idx sub [] (size.map BitVec.toNat) false)) t (doneFrame idx.toNat sub.toNat)))) ∧
  (∀ (s : State) (t : Transport) (toggle : Bool) (data : List Octet) (last : Bool), exec (.sdoDownloadSegment t toggle data last) s = .next (
    match sessionOf s t with
    | .down idx sub got size want =>
      serve s t idx.toNat sub.toNat (fun s =>
        let l := got ++ data.take 7
        if toggle ≠ want then abortWith s t idx.toNat sub.toNat abToggle
        else if 4096 < l.length ∨ (last = true ∧ size.any (fun n => n != l.length) = true) then
          abortWith s t idx.toNat sub.toNat abLength
        else if last then finishWrite (setSession s t .idle) t idx sub l (segmentFrame toggle)
        else respond (setSession s t (.down idx sub l size (!want))) t (segmentFrame toggle))
    | .up idx sub _ _ => serve s t idx.toNat sub.toNat (fun s => abortWith s t idx.toNat sub.toNat abCommand)
    | .idle => serve s t 0 0 (fun s => abortWith s t 0 0 abCommand))) ∧
  (∀ (s : State) (t : Transport) (idx : BitVec 16) (sub : BitVec 8), exec (.sdoUploadInitiate t idx sub) s = .next (
    serve s t idx.toNat sub.toNat (fun s =>
      let s := setSession s t .idle
      match openObj s t idx.toNat sub.toNat false with
      | .inr c => abortWith s t idx.toNat sub.toNat c
      | .inl o =>
        match o.ref with
        | .own (.published i) => pubBegin s ⟨t, i, none⟩ ⟨idx, sub, []⟩
        | _ =>
          match readObj s t o with
          | (s, .inl l) => uploadValue s t idx sub l
          | (s, .inr c) => abortWith s t idx.toNat sub.toNat c))) ∧
  (∀ (s : State) (t : Transport) (toggle : Bool), exec (.sdoUploadSegment t toggle) s = .next (
    match sessionOf s t with
    | .up idx sub l want =>
      serve s t idx.toNat sub.toNat (fun s =>
        if toggle ≠ want then abortWith s t idx.toNat sub.toNat abToggle
        else
          let part := l.take 7
          let rest := l.drop 7
          let cs := 16 * b2n toggle + 2 * (7 - part.length) + b2n rest.isEmpty
          let s := if rest.isEmpty then uploadEnd s t idx sub else setSession s t (.up idx sub rest (!want))
          respond s t (BitVec.ofNat 8 cs :: part ++ List.replicate (7 - part.length) 0))
    | .down idx sub _ _ _ => serve s t idx.toNat sub.toNat (fun s => abortWith s t idx.toNat sub.toNat abCommand)
    | .idle => serve s t 0 0 (fun s => abortWith s t 0 0 abCommand))) ∧
  (∀ (s : State) (t : Transport), exec (.sdoSegmentTimeout t) s = .next (
    if s.mgcServing = false ∨ (owedOf s t).isSome = true then s
    else match sessionOf s t with
      | .idle => s
      | .down idx sub _ _ _ | .up idx sub _ _ => abortWith s t idx.toNat sub.toNat abTimeout)) ∧
  (∀ (s : State) (t : Transport) (idx sub : Nat) (f : State → State), serve s t idx sub f = (
      match serveNow s t with
      | .ignore => s
      | .restart => abortWith s t idx sub abTransfer
      | .full => f s)) ∧
  (∀ (s : State) (t : Transport) (idx sub code : Nat), abortWith s t idx sub code = (respond (setSession s t .idle) t (abortFrame idx sub code)))

/-- Published objects (R401 to R403) and SPI (R382): a packet of the design is an event of code Fxxxh or the answer to the object
asked for, one with an aborted entry is dropped, and a late answer raises A006h and aborts the transfer. Over SPI a request is
refused while an answer is due, a response is read once, an emergency is taken from its queue, and the status is read at any
time. -/
def Obligations.PublishedObjectsAndSpi : Prop :=
  (∀ s : State, exec .pubResponse s = .next (
    let f := 80 + s.get MGC_PUB_PORT_g_rsp
    if s.flag MGC_PUB_PORT_en && s.mgcFull && packetReady s f then
      let r := takePacket 4096 s f
      if r.2.any (fun e => e.a) then r.1
      else match r.2.map (fun e => e.data) with
        | [] => r.1
        | h :: ws =>
          if bitsOf h 33 3 = 7 then (if ws.length = 1 then raise r.1 (0xF000 + bitsOf h 21 12) (ws.getD 0 0) else r.1)
          else pubTake r.1 h ws
    else s)) ∧
  (∀ s : State, exec .pubEvent s = .next (
    let f := 80 + s.get MGC_PUB_PORT_g_rsp
    if s.flag MGC_PUB_PORT_en && s.mgcFull && packetReady s f then
      let r := takePacket 4096 s f
      if r.2.any (fun e => e.a) then r.1
      else match r.2.map (fun e => e.data) with
        | [] => r.1
        | h :: ws =>
          if bitsOf h 33 3 = 7 then (if ws.length = 1 then raise r.1 (0xF000 + bitsOf h 21 12) (ws.getD 0 0) else r.1)
          else pubTake r.1 h ws
    else s)) ∧
  (∀ s : State, exec .pubTimeout s = .next (
    match s.mgc.pubNow with
    | none => s
    | some a =>
      if s.mgcFull then
        let s := raise s 0xA006 (packWord [(28, a.i), (20, s.mgc.pubTag)])
        let s := { s with mgc := { s.mgc with pubNow := none } }
        pubNext (match owedOf s a.t with
          | some o => abortWith s a.t o.idx.toNat o.sub.toNat abTransfer
          | none => s)
      else s)) ∧
  (∀ (s : State) (frame : List Octet), exec (.spiSdoRequest frame) s = .next (
    spiServe s (fun s =>
      if frame.length < 8 then s
      else
        let s := spiOut s []
        let busy := (answerOf s .spi).isSome || (owedOf s .spi).isSome
        let s := { s with mgc := { s.mgc with spiRefused := busy } }
        if busy then s else requestFrame s .spi (frame.take 8)))) ∧
  (∀ s : State, exec .spiReadResponse s = .next (
    spiServe s (fun s =>
      match answerOf s .spi with
      | some x => setAnswer (spiOut s (1 :: x.octets)) .spi none
      | none => spiOut s (0 :: List.replicate 8 0)))) ∧
  (∀ s : State, exec .spiReadEmergency s = .next (
    spiServe s (fun s =>
      match emTake s .spi with
      | (s', some l) => setEmSent { s' with mgc := { s'.mgc with spiOut := spiStatus s :: 1 :: l } } .spi ⟨0, l⟩
      | (_, none) => spiOut s (0 :: List.replicate 8 0)))) ∧
  (∀ s : State, exec .spiReadStatus s = .next (spiServe s (fun s => spiOut s [spiStatus s])))

/-- Bus-off is entered with its count and its end raises A007h (R381); a hasp opens and closes by its code while the
transport is served in full, and its idle timeout closes the expert and the calibration hasp of that transport (R393, R394). -/
def Obligations.BusOffAndHasps : Prop :=
  (∀ (s : State) (tec : BitVec 9), exec (.canBusOff tec) s = .next (
    if s.get MGC_STAT_state = 0 then s
    else { s.put MGC_STAT_busoff 1 with mgc := { s.mgc with tec := tec } })) ∧
  (∀ s : State, exec .canBusOffRecovered s =
    .next (if s.flag MGC_STAT_busoff then raise (s.put MGC_STAT_busoff 0) 0xA007 (packWord [(27, s.mgc.tec.toNat)]) else s)) ∧
  (∀ (s : State) (t : Transport) (code : BitVec 18), exec (.expertHaspOpen t code) s = .next (
    match serveNow s t, (expertWrite s t code.toNat) with
    | .full, .inl s' => s'
    | _, _ => s)) ∧
  (∀ (s : State) (t : Transport), exec (.expertHaspClose t) s = .next (
    match serveNow s t, (expertWrite s t 0) with
    | .full, .inl s' => s'
    | _, _ => s)) ∧
  (∀ (s : State) (t : Transport), exec (.haspIdleTimeout t) s =
    .next (closeCal (s.putBit MGC_STAT_xhasp (2 - t.idx) false) t)) ∧
  (∀ (s : State) (t : Transport) (code : BitVec 18), exec (.calHaspOpen t code) s = .next (
    match serveNow s t, (calWrite s t code.toNat) with
    | .full, .inl s' => s'
    | _, _ => s)) ∧
  (∀ (s : State) (t : Transport), exec (.calHaspClose t) s = .next (
    match serveNow s t, (calWrite s t 0) with
    | .full, .inl s' => s'
    | _, _ => s)) ∧
  (∀ (s : State) (t : Transport) (v : Nat), expertWrite s t v = (
      if v = 0 then .inl (closeExpert s t)
      else if v = openCode then .inl (s.putBit MGC_STAT_xhasp (2 - t.idx) true)
      else .inr abValue)) ∧
  (∀ (s : State) (t : Transport) (v : Nat), calWrite s t v = (
      if v = 0 then .inl (closeCal s t)
      else if v ≠ openCode then .inr abValue
      else if haspOpen s t && hasRead s t then .inl (s.putBit MGC_STAT_chasp (2 - t.idx) true)
      else .inr abHasp))

/-- The MGC's own work: the pairs of commanded and actual state are compared, all in full service and the power pair in MINIMAL
(R396); a transport sends the oldest entry of its queue (R398); the heartbeat goes out with its octet (R391); a doorbell rings its
event (R400); a calibration section is written through its object and answers when the write is done (R404). -/
def Obligations.ReportsAndCalibration : Prop :=
  (∀ s : State, exec .commandedActualCheck s = .next (
    if s.mgcFull then (List.range 35).foldl pairCheck s
    else if s.get MGC_STAT_state = 3 then pairCheck s 34
    else s)) ∧
  (∀ (s : State) (t : Transport), exec (.emergencySend t) s = .next (
    if s.mgcServing = false then s
    else match t with
      | .spi => spiReadEmergency s
      | .can =>
        if s.flag MGC_STAT_busoff then s
        else match emTake s .can with
          | (s, some l) => setEmSent s .can ⟨0x80 + s.mtp.nodeId.toNat, l⟩
          | (s, none) => s
      | .kwr =>
        let k := s.mtp.emEngine.toNat
        if k < 6 ∧ kwrState s k = 5 ∧ s.get MGC_STAT_state = 1 then
          match emTake s .kwr with
          | (s, some l) => ringSend (setEmSent s .kwr ⟨s.mtp.emPosition.toNat, l⟩) k s.mtp.emPosition.toNat 63 l
          | (s, none) => s
        else s)) ∧
  (∀ s : State, exec .heartbeatTimer s = .next (
    if s.mgc.hbPeriod = 0 ∨ s.mgcServing = false ∨ s.flag MGC_STAT_busoff = true then s
    else match heartbeatOctet s with
      | some o => { s with mgc := { s.mgc with heartbeat := some o } }
      | none =>
        { s.tookFree with mgc := { s.mgc with heartbeat := some (BitVec.ofNat 8 (Config.freeWord s.free).toNat) } })) ∧
  (∀ (s : State) (i : Fin 32), exec (.doorbellRing i) s =
    .next (offerEvent (s.putBit MGC_DB_OUT_ring i.val true) (1016 + i.val))) ∧
  (∀ (s : State) (t : Transport) (sec : Fin 6) (data : List Octet), exec (.calSectionWrite t sec data) s = .next (
    serve s t (0x2A00 + sec.val) 1 (fun s =>
      finishWrite (setSession s t .idle) t (BitVec.ofNat 16 (0x2A00 + sec.val)) 1 data
        (doneFrame (0x2A00 + sec.val) 1)))) ∧
  (∀ s : State, exec .calWriteDone s = .next (
    match s.mtp.calWrite with
    | none => s
    | some (n, l) =>
      let s := { s with mtp := { s.mtp with
        cal := tput (fun _ => CalSource.factory) s.mtp.cal n (.written l)
        calWrite := none } }
      [Transport.can, .spi, .kwr].foldl (fun s t =>
        match owedOf s t with
        | some o => if o.idx = BitVec.ofNat 16 (0x2A00 + n) then respond s t o.answer else s
        | none => s) s))


/-! ## Clock and power (16) -/

/-- The timebase (R7, R415 to R417): a read latches its 72 bits into CLK_TB_L and CLK_TB_H; an alarm whose compare value is reached
fires and offers its event, in BANKED only alarm 15 with its wake bit; a write of the low word forms the compare value with
the high one; the wake time is written while the MGC serves. -/
def Obligations.TimebaseAndAlarms : Prop :=
  (∀ s : State, exec .timebaseRead s = .next (
    (s.setWord CLK_TB_L (BitVec.ofNat 36 s.timebase.toNat)).setWord CLK_TB_H
      (BitVec.ofNat 36 (s.timebase.toNat >>> 36)))) ∧
  (∀ (s : State) (a : Fin 16), exec (.alarmFire a) s = .next (
    let x := evOf s (1000 + a.val)
    if s.pwr.phase = .banked then
      if a.val = 15 ∧ s.flag (CLK_ALM_CFG_wake 15) = true ∧ almDue s 15 = true then
        let s := almFire s 15
        wakeEvent { s with pwr := { s.pwr with alm15Owed := true } } 3 0
      else s
    else if s.pwr.clocked = false ∨ (evUsed s (1000 + a.val) = true ∧ x.sl.first = true ∧ s.pwr.phase = .bankedExit) then s
    else if a.val = 15 ∧ s.pwr.alm15Owed = true then
      if x.sl.open0 && x.sl.open1 then
        offerEvent { s with pwr := { s.pwr with alm15Owed := false } } 1015
      else s
    else if almDue s a.val then offerEvent (almFire s a.val) (1000 + a.val)
    else s)) ∧
  (∀ (s : State) (a : Fin 16) (w : W36), exec (.alarmCompareWrite a w) s =
    .next (setAlmCmp s a.val (BitVec.ofNat 72 (w.toNat + s.get (CLK_ALM_H_cmp_h a.val) * 2 ^ 36)))) ∧
  (∀ (s : State) (a : Fin 16), exec (.alarmSkippedClear a) s = .next (s.put (CLK_ALM_CFG_skipped a.val) 0)) ∧
  (∀ (s : State) (t : Transport) (tb : W72), exec (.wakeTimeWrite t tb) s =
    .next (if s.mgcServing && !(t == .kwr && s.get MGC_STAT_state == 3) then wakeTimeWrite s tb else s)) ∧
  (∀ (s : State) (tb : W72), wakeTimeWrite s tb = (
      let s := setAlmCmp s 15 tb
      let s := s.setWord (CLK_ALM_H 15) (BitVec.ofNat 36 (tb.toNat >>> 36))
      ((s.put (CLK_ALM_CFG_en 15) 1).put (CLK_ALM_CFG_wake 15) 1).put (CLK_ALM_CFG_per 15) 0))

/-- Power states (R426 to R433): a command that is refused says why; SIMMER and BANKED are requested and held until they can
start, RUN leaves SIMMER or wakes BANKED; SIMMER divides the clocks once every lane and channel is ready, ramps VFAB and
confirms; BANKED is entered with both SDRAM channels at rest and left once the supplies are ready, a late supply reported by
9103h. -/
def Obligations.PowerStates : Prop :=
  (∀ s : State, s.mgcServing = false → exec .pwrCmdSimmer s = .next s ∧ exec .pwrCmdRun s = .next s ∧
    exec .pwrCmdBanked s = .next s) ∧
  (∀ s : State, s.mgcServing = true → exec .pwrCmdSimmer s = .next (
    let s := commandIf s false (powerRefusal s).isNone 34 1
    match powerRefusal s with
    | some why => powerRefuse s 1 why
    | none =>
      match s.pwr.phase with
      | .bankedEntry | .banked => s
      | .simmerEntry | .simmer => (s.put PWR_CTL_cmd 1).setPwr { s.pwr with held := none }
      | _ => powerResume ((s.put PWR_CTL_cmd 1).setPwr { s.pwr with held := some 1 }))) ∧
  (∀ s : State, s.mgcServing = true → exec .pwrCmdRun s = .next (
    let s := commandIf s false (powerRefusal s).isNone 34 0
    match powerRefusal s with
    | some why => powerRefuse s 0 why
    | none =>
      let s := (s.put PWR_CTL_cmd 0).setPwr { s.pwr with held := none }
      match s.pwr.phase with
      | .simmerEntry | .simmer => simmerLeave s
      | .bankedEntry | .banked => wakeEvent s 4 0
      | _ => s)) ∧
  (∀ s : State, s.mgcServing = true → exec .pwrCmdBanked s = .next (
    let s := commandIf s false (powerRefusal s).isNone 34 2
    match powerRefusal s with
    | some why => powerRefuse s 2 why
    | none =>
      match s.pwr.phase with
      | .bankedEntry | .banked => s
      | _ => powerResume ((s.put PWR_CTL_cmd 2).setPwr { s.pwr with held := some 2 }))) ∧
  (∀ s : State, exec .simmerClockDivide s = .next (
    if s.pwr.phase = .simmerEntry ∧ s.flag CLK_STAT_div = false ∧ simmerRefreshed s = true then
      let s := s.put CLK_STAT_div 1
      if s.flag FAB_VFAB_PMB_en then
        let s := vfabStart s
        if s.flag FAB_VFAB_CTL_ramping then s else rampEnd s
      else simmerConfirm (s.setPwr { s.pwr with rampDone := true, agree := [] })
    else s)) ∧
  (∀ s : State, exec .simmerConfirmTimeout s =
    .next (if s.pwr.phase = .simmerEntry ∧ s.pwr.rampDone = true ∧ s.mgcServing = true then simmerFail s else s)) ∧
  (∀ s : State, exec .bankedEntryComplete s = .next (
    if s.pwr.phase = .bankedEntry ∧ s.get MGC_STAT_state = 1 ∧
        [0, 1].all (fun c => dramState s c != 1 && dramState s c != 2 && dramState s c != 4) = true then
      wakeLatched (bankedOff (suppliesAs (bankedCut s) 0))
    else s)) ∧
  (∀ s : State, exec .bankedSuppliesReady s = .next (
    if s.pwr.phase = .bankedExit ∧ s.pwr.clocked = false then
      let s := ((suppliesAs s 3).put CLK_STAT_lock 1).put MGC_STAT_state
        (if s.get MGC_STAT_state = 2 then 2 else 1)
      let s := s.setPwr { s.pwr with clocked := true }
      let s := setRamping (vfabCommand s (s.get FAB_VFAB_CTL_target)) false
      let s := match s.pwr.lateSup with
        | some v => raise (s.setPwr { s.pwr with lateSup := none }) 0x9103 (packWord [(28, v.toNat)])
        | none => s
      commitCore (pinsReturn s)
    else s)) ∧
  (∀ (s : State) (supplies : BitVec 2), exec (.bankedSupplyLate supplies) s = .next (
    if s.pwr.phase = .bankedExit ∧ s.pwr.clocked = false then
      let s := suppliesAs s supplies.toNat
      s.setPwr { s.pwr with lateSup := some (BitVec.ofNat 8 (s.get PWR_SUP_sup)) }
    else s)) ∧
  (∀ (s : State) (b : Fin 12) (k : Fin 4) (t : Fin 4) (m : Transport),
    exec (.bankedWake (.pin b k)) s = .next (wakePin s b.val k.val) ∧
    exec (.bankedWake (.tumbler t)) s = .next
      (if s.flag (PIN_TMB_CFG_wake t.val) && s.flag (PIN_TMB_CFG_en t.val) then wakeEvent s 2 t.val else s) ∧
    exec (.bankedWake .alarm) s = .next (if s.pwr.phase = .banked then alarmFire s 15 else s) ∧
    exec (.bankedWake (.management m)) s = .next (if m = .kwr then s else wakeEvent s 4 0)) ∧
  (∀ (s : State) (kind src : Nat), s.pwr.phase = .banked → s.flag CLK_STAT_ref_ok = true → wakeEvent s kind src =
    let t := setCommanded (((s.put PWR_STAT_wkind kind).put PWR_STAT_wsrc src).put PWR_CTL_cmd 0) 34 0
    setPhase { t with pwr := { t.pwr with pwrRun := true } } .bankedExit) ∧
  (∀ (s : State), powerRefusal s = (
      if s.pwr.phase = .shutdown then some 0
      else if s.pwr.phase = .fault then some 1
      else if s.flag SCB_JTAG_ext then some 2
      else none)) ∧
  (∀ (s : State), simmerLeave s = ((powerPhase (s.setPwr { s.pwr with rampDone := false, agree := [] }) .simmerExit).put CLK_STAT_div 0)) ∧
  (∀ (s : State), rampEnd s = (
      let s := s.setPwr { s.pwr with rampDone := true, agree := [] }
      let t := (List.range 36).foldl (fun t h => tput (fun _ => false) t h (hearthSt s h == .awake)) s.pace.windows
      simmerConfirm (s.setPace { s.pace with windows := t }))) ∧
  (∀ (s : State), simmerFail s = (
      let h := ((List.range 36).find? (fun h => !hearthConfirmed s h)).getD 63
      let d := packWord [(30, h), (20, s.get FAB_VFAB_CTL_actual), (19, b2n s.pace.stopped)]
      raise (simmerLeave s) 0x9102 d)) ∧
  (∀ (s : State) (b k : Nat), wakePin s b k = (
      let w := s.word (PIN_WAKE b)
      if bitsOf w (9 * k + 8) 1 = 1 ∧ s.get (PIN_BANK_vsense b) ≠ 0 ∧ bitsOf w (9 * k) 2 ≠ 3 then
        wakeEvent s 1 (4 * b + k)
      else s))


/-! ## Loading commits only what checks (13) -/

/-- R323: after the last body octet a tag that does not match fails the image with cause 5, whatever the ward check found; a
ward check failure with a matching tag fails it with cause 6; only a stream with a matching tag and no failure commits. -/
def Obligations.OnlyAMatchingTagCommits : Prop :=
  ∀ (s : State) (r : Reader), s.cfg.reader = some r → r.complete = true → r.hearth = none →
    (tagOk s r = false → exec .wardCheckDone s = .next (imageFail s r.img 5 (r.chunk - 1))) ∧
    (tagOk s r = true → exec .wardCheckDone s = .next (match r.failure <|> wholeCheck (streamState s r) r with
      | some w => imageFail (s.setWord CFG_WARD_LOC w) r.img 6 (r.chunk - 1)
      | none => commit s r))

/-! ## The whole machine -/

/-- A step with a command in front of the queue is that command's effect on the state with the queue's rest; with an empty
queue the device idles for a tick (log entry 2, a DESIGN CHOICE). No word of the table spells a command: the table gives its
rows no bits. -/
def Obligations.StepRunsTheFrontCommand : Prop :=
  (∀ (s : State) (c : Instr) (rest : List Instr), s.pending = c :: rest → step s = exec c { s with pending := rest }) ∧
  (∀ s : State, s.pending = [] → step s = .next (tick s)) ∧
  (∀ (s : State) (nbits w : Nat), decodeTableWord nbits w = none ∧ s.withFetchWord nbits w = s)

/-- The state at reset meets the invariant of the registers, the queues and the memories; no command waits, the supplies are down, the timebase reads 0 (R414), logical
column c maps to physical column c (R62), slot b to physical block b (R103), and every cord map is the identity (R193). -/
def Obligations.ResetMeetsTheInvariant : Prop :=
  Inv State.reset ∧ State.reset.pending = [] ∧ State.reset.pwr.phase = .cold ∧ State.reset.timebase = 0 ∧
  (∀ h, h < 36 → (∀ c, c < 66 → (steerOf State.reset h c).2 = c) ∧ (∀ b, b < 102 → (blockOf State.reset h b).2 = b)) ∧
  (∀ n, n < 6 → ∀ k, k < 4 → State.reset.get (mapField n k) = k)

/-- Every step keeps the invariant: each register is listed once, in order, and only where it differs from its reset word; the
event log holds at most 1,024 entries (R399), the hold queue 256 (R449), and each transport's emergency queue 32 (R398); and
the addressed memories (store blocks, flashes, SDRAM, configuration frames) are listed in their canonical form (what a byte
that nothing has written reads as is a DESIGN CHOICE, log entry 8). -/
def Obligations.EveryStepKeepsTheInvariant : Prop :=
  ∀ s t : State, Inv s → step s = .next t → Inv t

/-- No command touches the queue of commands, and the count of free values never goes back, so that no free value is used
twice (DESIGN CHOICE, log entry 4). -/
def Obligations.CommandsLeaveTheQueue : Prop :=
  ∀ (c : Instr) (s t : State), Inv s → exec c s = .next t → t.pending = s.pending ∧ s.free ≤ t.free
end

