-- ==== Sys2Proof/Laws/Bits.lean ====
section
/-! SUPPORT. Laws of bit fields: what a field reads after it or another field is written. -/
namespace Sys2Proof.Machine
open Sys2Proof

theorem maskOf_getLsbD (lo width i : Nat) (hi : i < 36) :
    (maskOf lo width).getLsbD i = (decide (lo ≤ i) && decide (i < lo + width)) := by
  simp only [maskOf, BitVec.getLsbD_ofNat, hi, decide_true, Bool.true_and, Nat.testBit_shiftLeft, Nat.testBit_two_pow_sub_one,
    ge_iff_le]
  by_cases h : lo ≤ i
  · simp only [h, decide_true, Bool.true_and]
    congr 1
    apply propext
    omega
  · simp [h]

theorem withBits_getLsbD (w : W36) (lo width v i : Nat) (hi : i < 36) :
    (withBits w lo width v).getLsbD i =
      if lo ≤ i ∧ i < lo + width then v.testBit (i - lo) else w.getLsbD i := by
  simp only [withBits, BitVec.getLsbD_or, BitVec.getLsbD_and, BitVec.getLsbD_not, hi, decide_true, Bool.true_and,
    maskOf_getLsbD lo width i hi, BitVec.getLsbD_ofNat, Nat.testBit_shiftLeft, Nat.testBit_mod_two_pow, ge_iff_le]
  by_cases h : lo ≤ i
  · by_cases h2 : i < lo + width
    · have : i - lo < width := by omega
      simp [h, h2, this]
    · have : ¬ (i - lo < width) := by omega
      simp [h, h2, this]
  · simp [h]

/-- A field just written reads the low bits of what was written. -/
theorem bitsOf_withBits_self (w : W36) (lo width v : Nat) (h : lo + width ≤ 36) :
    bitsOf (withBits w lo width v) lo width = v % 2 ^ width := by
  apply Nat.eq_of_testBit_eq
  intro i
  simp only [bitsOf, Nat.testBit_mod_two_pow, Nat.testBit_shiftRight]
  by_cases hi : i < width
  · have := withBits_getLsbD w lo width v (lo + i) (by omega)
    rw [BitVec.getLsbD] at this
    rw [this]
    simp [hi]
  · simp [hi]

/-- A field is not touched by a write of another. -/
theorem bitsOf_withBits_other (w : W36) (lo width v lo' width' : Nat) (h : lo + width ≤ lo' ∨ lo' + width' ≤ lo) :
    bitsOf (withBits w lo width v) lo' width' = bitsOf w lo' width' := by
  apply Nat.eq_of_testBit_eq
  intro i
  simp only [bitsOf, Nat.testBit_mod_two_pow, Nat.testBit_shiftRight]
  by_cases hi : i < width'
  · by_cases h36 : lo' + i < 36
    · have := withBits_getLsbD w lo width v (lo' + i) h36
      rw [BitVec.getLsbD] at this
      rw [this, if_neg (by omega), BitVec.getLsbD]
    · have h1 : (withBits w lo width v).toNat.testBit (lo' + i) = false :=
        Nat.testBit_lt_two_pow (lt_of_lt_of_le (withBits w lo width v).isLt (Nat.pow_le_pow_right (by omega) (by omega)))
      have h2 : w.toNat.testBit (lo' + i) = false :=
        Nat.testBit_lt_two_pow (lt_of_lt_of_le w.isLt (Nat.pow_le_pow_right (by omega) (by omega)))
      rw [h1, h2]
  · simp [hi]

end Sys2Proof.Machine
end

