-- ==== Sys2Proof/Laws/Tbl.lean ====
section
/-! SUPPORT. Laws of tables: a read after a write, and the canonical form that every write keeps. -/
namespace Sys2Proof.Machine
variable {α : Type}

theorem tget_tinsert (d : Nat → α) (x : Nat) (v : α) (t : Tbl α) (y : Nat) (h : ∀ e ∈ t, e.1 ≠ x) :
    tget d (tinsert x v t) y = if y = x then v else tget d t y := by
  induction t with
  | nil => simp only [tinsert, tget, eq_comm]
  | cons e t ih =>
    obtain ⟨k, w⟩ := e
    have hk : k ≠ x := h (k, w) (by simp)
    have ht := ih (fun e he => h e (by simp [he]))
    unfold tinsert
    split
    · simp only [tget, eq_comm (a := x)]
    · by_cases hy : k = y
      · subst hy
        simp [tget, hk]
      · simp only [tget, if_neg hy, ht]

theorem tget_terase (d : Nat → α) (t : Tbl α) (x y : Nat) :
    tget d (terase t x) y = if y = x then d y else tget d t y := by
  induction t with
  | nil => simp [terase, tget]
  | cons e t ih =>
    obtain ⟨k, w⟩ := e
    unfold terase at ih ⊢
    by_cases hk : k = x
    · subst hk
      simp only [List.filter_cons, bne_self_eq_false, Bool.false_eq_true, ↓reduceIte, ih, tget]
      by_cases hy : y = k
      · simp [hy]
      · simp [hy, Ne.symm hy]
    · simp only [List.filter_cons, bne_iff_ne, ne_eq, hk, not_false_eq_true, ↓reduceIte, tget, ih]
      by_cases hy : k = y
      · subst hy
        simp [hk]
      · simp [hy]

theorem terase_ne (t : Tbl α) (x : Nat) : ∀ e ∈ terase t x, e.1 ≠ x := by
  intro e he
  simpa [terase] using (List.mem_filter.mp he).2

/-- A read after a write. -/
theorem tget_tput [DecidableEq α] (d : Nat → α) (t : Tbl α) (x y : Nat) (v : α) :
    tget d (tput d t x v) y = if y = x then v else tget d t y := by
  unfold tput
  split
  · rename_i h
    rw [tget_terase]
    split
    · rename_i hy; rw [h, hy]
    · rfl
  · rw [tget_tinsert d x v _ y (terase_ne t x), tget_terase]
    by_cases hy : y = x <;> simp [hy]

@[simp] theorem tget_tput_self [DecidableEq α] (d : Nat → α) (t : Tbl α) (x : Nat) (v : α) :
    tget d (tput d t x v) x = v := by simp [tget_tput]

theorem tget_tput_ne [DecidableEq α] (d : Nat → α) (t : Tbl α) {x y : Nat} (v : α) (h : y ≠ x) :
    tget d (tput d t x v) y = tget d t y := by simp [tget_tput, h]

@[simp] theorem tget_nil (d : Nat → α) (x : Nat) : tget d [] x = d x := rfl

theorem twfFrom_mono [DecidableEq α] (d : Nat → α) {a b : Nat} (h : a ≤ b) :
    ∀ (t : Tbl α), twfFrom d b t = true → twfFrom d a t = true
  | [], _ => rfl
  | (k, v) :: t, ht => by
    simp only [twfFrom, Bool.and_eq_true, decide_eq_true_eq] at ht ⊢
    exact ⟨⟨le_trans h ht.1.1, ht.1.2⟩, ht.2⟩

theorem twfFrom_filter [DecidableEq α] (d : Nat → α) (p : Nat × α → Bool) :
    ∀ (lo : Nat) (t : Tbl α), twfFrom d lo t = true → twfFrom d lo (t.filter p) = true
  | _, [], _ => rfl
  | lo, (k, v) :: t, ht => by
    simp only [twfFrom, Bool.and_eq_true, decide_eq_true_eq] at ht
    have hr := twfFrom_filter d p (k + 1) t ht.2
    by_cases hp : p (k, v) = true
    · simp only [List.filter_cons, hp, ↓reduceIte, twfFrom, Bool.and_eq_true, decide_eq_true_eq]
      exact ⟨ht.1, hr⟩
    · simp only [List.filter_cons, hp, Bool.false_eq_true, ↓reduceIte]
      exact twfFrom_mono d (by omega) _ hr

theorem twfFrom_tinsert [DecidableEq α] (d : Nat → α) (x : Nat) (v : α) (hv : v ≠ d x) :
    ∀ (lo : Nat) (t : Tbl α), lo ≤ x → (∀ e ∈ t, e.1 ≠ x) → twfFrom d lo t = true →
      twfFrom d lo (tinsert x v t) = true
  | lo, [], hx, _, _ => by simp [tinsert, twfFrom, hx, hv]
  | lo, (k, w) :: t, hx, hne, ht => by
    have hk : k ≠ x := hne (k, w) (by simp)
    simp only [twfFrom, Bool.and_eq_true, decide_eq_true_eq] at ht
    unfold tinsert
    split
    · rename_i h
      simp only [twfFrom, Bool.and_eq_true, decide_eq_true_eq]
      exact ⟨⟨hx, hv⟩, ⟨by omega, ht.1.2⟩, ht.2⟩
    · simp only [twfFrom, Bool.and_eq_true, decide_eq_true_eq]
      exact ⟨ht.1, twfFrom_tinsert d x v hv (k + 1) t (by omega) (fun e he => hne e (by simp [he])) ht.2⟩

/-- Every write keeps the canonical form. -/
theorem twf_tput [DecidableEq α] (d : Nat → α) (t : Tbl α) (x : Nat) (v : α) (h : twf d t = true) :
    twf d (tput d t x v) = true := by
  unfold tput
  split
  · exact twfFrom_filter d _ 0 t h
  · rename_i hv
    exact twfFrom_tinsert d x v hv 0 _ (Nat.zero_le x) (terase_ne t x) (twfFrom_filter d _ 0 t h)

/-- Dropping entries keeps the canonical form. -/
theorem twf_tdrop [DecidableEq α] (d : Nat → α) (p : Nat → Bool) (t : Tbl α) (h : twf d t = true) :
    twf d (tdrop p t) = true := twfFrom_filter d _ 0 t h

@[simp] theorem twf_nil [DecidableEq α] (d : Nat → α) : twf d ([] : Tbl α) = true := rfl

end Sys2Proof.Machine
end

