-- ==== Sys2Proof/Laws/State.lean ====
section
/-! SUPPORT. Laws of State: what each named operation over registers leaves of every field, and what a register or a
field reads after a write. -/
namespace Sys2Proof.Machine
open Sys2Proof

/-! ## Registers -/

theorem word_setWord (s : State) (a b : Nat) (w : W36) : (s.setWord a w).word b = if b = a then w else s.word b := by
  simp only [State.word, State.setWord, tget_tput]

@[simp] theorem word_setWord_self (s : State) (a : Nat) (w : W36) : (s.setWord a w).word a = w := by simp [word_setWord]

theorem word_setWord_ne (s : State) {a b : Nat} (w : W36) (h : b ≠ a) : (s.setWord a w).word b = s.word b := by
  simp [word_setWord, h]

theorem word_put_ne (s : State) (f : Field) (v : Nat) {a : Nat} (h : a ≠ f.addr) : (s.put f v).word a = s.word a :=
  word_setWord_ne s _ h

/-- A field just written reads the low bits of what was written. -/
theorem get_put_self (s : State) (f : Field) (v : Nat) (h : f.lo + f.width ≤ 36) : (s.put f v).get f = v % 2 ^ f.width := by
  simp only [State.get, State.put, word_setWord_self, bitsOf_withBits_self _ _ _ _ h]

/-- A field of another register keeps its value. -/
theorem get_put_addr (s : State) (f g : Field) (v : Nat) (h : g.addr ≠ f.addr) : (s.put f v).get g = s.get g := by
  simp only [State.get, word_put_ne s f v h]

/-- A field beside the one written keeps its value. -/
theorem get_put_lo (s : State) (f g : Field) (v : Nat) (ha : g.addr = f.addr)
    (h : f.lo + f.width ≤ g.lo ∨ g.lo + g.width ≤ f.lo) : (s.put f v).get g = s.get g := by
  simp only [State.get, State.put, ha, word_setWord_self, bitsOf_withBits_other _ _ _ _ _ _ h]

/-! ## One lemma for each field and update -/

section frames
variable (s : State) (a : Nat) (w : W36) (f : Field) (v : Nat)

@[simp] theorem setWord_pending : (s.setWord a w).pending = s.pending := rfl
@[simp] theorem setWord_free : (s.setWord a w).free = s.free := rfl
@[simp] theorem setWord_timebase : (s.setWord a w).timebase = s.timebase := rfl
@[simp] theorem setWord_fab : (s.setWord a w).fab = s.fab := rfl
@[simp] theorem setWord_hng : (s.setWord a w).hng = s.hng := rfl
@[simp] theorem setWord_pace : (s.setWord a w).pace = s.pace := rfl
@[simp] theorem setWord_store : (s.setWord a w).store = s.store := rfl
@[simp] theorem setWord_fifo : (s.setWord a w).fifo = s.fifo := rfl
@[simp] theorem setWord_lane : (s.setWord a w).lane = s.lane := rfl
@[simp] theorem setWord_kwr : (s.setWord a w).kwr = s.kwr := rfl
@[simp] theorem setWord_dram : (s.setWord a w).dram = s.dram := rfl
@[simp] theorem setWord_pins : (s.setWord a w).pins = s.pins := rfl
@[simp] theorem setWord_scb : (s.setWord a w).scb = s.scb := rfl
@[simp] theorem setWord_mtp : (s.setWord a w).mtp = s.mtp := rfl
@[simp] theorem setWord_mgc : (s.setWord a w).mgc = s.mgc := rfl
@[simp] theorem setWord_cfg : (s.setWord a w).cfg = s.cfg := rfl
@[simp] theorem setWord_pwr : (s.setWord a w).pwr = s.pwr := rfl
@[simp] theorem setWord_jtag : (s.setWord a w).jtag = s.jtag := rfl
@[simp] theorem put_pending : (s.put f v).pending = s.pending := rfl
@[simp] theorem put_free : (s.put f v).free = s.free := rfl
@[simp] theorem put_timebase : (s.put f v).timebase = s.timebase := rfl
@[simp] theorem put_fab : (s.put f v).fab = s.fab := rfl
@[simp] theorem put_hng : (s.put f v).hng = s.hng := rfl
@[simp] theorem put_pace : (s.put f v).pace = s.pace := rfl
@[simp] theorem put_store : (s.put f v).store = s.store := rfl
@[simp] theorem put_fifo : (s.put f v).fifo = s.fifo := rfl
@[simp] theorem put_lane : (s.put f v).lane = s.lane := rfl
@[simp] theorem put_kwr : (s.put f v).kwr = s.kwr := rfl
@[simp] theorem put_dram : (s.put f v).dram = s.dram := rfl
@[simp] theorem put_pins : (s.put f v).pins = s.pins := rfl
@[simp] theorem put_scb : (s.put f v).scb = s.scb := rfl
@[simp] theorem put_mtp : (s.put f v).mtp = s.mtp := rfl
@[simp] theorem put_mgc : (s.put f v).mgc = s.mgc := rfl
@[simp] theorem put_cfg : (s.put f v).cfg = s.cfg := rfl
@[simp] theorem put_pwr : (s.put f v).pwr = s.pwr := rfl
@[simp] theorem put_jtag : (s.put f v).jtag = s.jtag := rfl
@[simp] theorem bump_pending (k : Nat) : (s.bump f k).pending = s.pending := rfl
@[simp] theorem bump_timebase (k : Nat) : (s.bump f k).timebase = s.timebase := rfl
@[simp] theorem bump_mgc (k : Nat) : (s.bump f k).mgc = s.mgc := rfl
@[simp] theorem bump_mtp (k : Nat) : (s.bump f k).mtp = s.mtp := rfl
@[simp] theorem putBit_pending (i : Nat) (b : Bool) : (s.putBit f i b).pending = s.pending := rfl
@[simp] theorem putBit_mgc (i : Nat) (b : Bool) : (s.putBit f i b).mgc = s.mgc := rfl
@[simp] theorem tookFree_regs : s.tookFree.regs = s.regs := rfl
@[simp] theorem tookFree_mgc : s.tookFree.mgc = s.mgc := rfl
@[simp] theorem tookFree_free : s.tookFree.free = s.free + 1 := rfl

end frames

end Sys2Proof.Machine
end

