-- ==== Sys2Proof/Laws/Kept.lean ====
section
/-! SUPPORT. Laws of what every operation keeps: the queue of commands, the canonical form of the registers, the bounds of
the event log, the hold queue and the emergency queues, the canonical form of the addressed memories, and a free counter that
never goes back. `Kept c` speaks of all of
them at once, for a queue `c.1` and a count `c.2`. -/
set_option linter.unusedTactic false
set_option linter.unreachableTactic false
namespace Sys2Proof.Machine
open Sys2Proof

/-- The queue and the least free count that an operation keeps. -/
abbrev Keep := List Instr × Nat

def QueueOk (c : Keep) (l : List Instr) : Prop := l = c.1
def FreshOk (c : Keep) (k : Nat) : Prop := c.2 ≤ k
def RegsOk (_ : Keep) (t : Tbl W36) : Prop := twf resetWord t = true
def LogOk (_ : Keep) (l : List LogEntry) : Prop := l.length ≤ 1024
def HoldOk (_ : Keep) (l : List LogEntry) : Prop := l.length ≤ 256
def QueuesOk (_ : Keep) (t : Tbl EmQueue) : Prop := ∀ k, (tget (fun _ => EmQueue.init) t k).items.length ≤ 32
def MgcOk (c : Keep) (m : Mgc) : Prop := LogOk c m.log ∧ HoldOk c m.hold ∧ QueuesOk c m.queues

/-! The addressed memories are in canonical form: frames, store blocks, flashes, and the content of an SDRAM channel. -/
def FramesOk (_ : Keep) (t : Tbl (BitVec 1308)) : Prop := twf (fun _ => 0) t = true
def FabOk (c : Keep) (f : Fab) : Prop := FramesOk c f.frames
def ContentOk (_ : Keep) (t : Tbl W36) : Prop := twf (fun _ => 0) t = true
def StoreOk (c : Keep) (x : Store) : Prop := ContentOk c x.content
def FlashOk (_ : Keep) (t : Tbl Octet) : Prop := twf (fun _ => 0xFF) t = true
def CfgOk (c : Keep) (x : Cfg) : Prop := FlashOk c x.flashA ∧ FlashOk c x.flashB
def MemOk (_ : Keep) (t : Tbl (BitVec 80)) : Prop := twf (fun _ => 0) t = true
def DramOk (c : Keep) (x : Dram) : Prop := MemOk c x.mem
def DramsOk (c : Keep) (t : Tbl Dram) : Prop := ∀ k, DramOk c (tget (fun _ => Dram.init) t k)

structure Kept (c : Keep) (s : State) : Prop where
  queue : QueueOk c s.pending
  fresh : FreshOk c s.free
  regs : RegsOk c s.regs
  mgc : MgcOk c s.mgc
  fab : FabOk c s.fab
  store : StoreOk c s.store
  cfg : CfgOk c s.cfg
  dram : DramsOk c s.dram

def KeptP {α : Type} (c : Keep) (p : State × α) : Prop := Kept c p.1
def KeptO (c : Keep) (o : Option State) : Prop := ∀ t, o = some t → Kept c t
def KeptS {α : Type} (c : Keep) (x : State ⊕ α) : Prop := ∀ t, x = .inl t → Kept c t
def KeptR (c : Keep) (o : Host.Outcome State Fault Refusal) : Prop := ∀ t, o = .next t → Kept c t

variable {c : Keep}

/-! ## Parts -/

theorem queueOk_of {s : State} (h : Kept c s) : QueueOk c s.pending := h.queue
theorem freshOk_of {s : State} (h : Kept c s) : FreshOk c s.free := h.fresh
theorem freshOk_add {k n : Nat} (h : FreshOk c k) : FreshOk c (k + n) := le_trans h (Nat.le_add_right k n)
theorem regsOk_of {s : State} (h : Kept c s) : RegsOk c s.regs := h.regs
theorem regsOk_tput {t : Tbl W36} {a : Nat} {w : W36} (h : RegsOk c t) : RegsOk c (tput resetWord t a w) := twf_tput _ _ _ _ h
theorem regsOk_nil : RegsOk c [] := rfl
theorem mgcOk_of {s : State} (h : Kept c s) : MgcOk c s.mgc := h.mgc
theorem logOk_of {m : Mgc} (h : MgcOk c m) : LogOk c m.log := h.1
theorem holdOk_of {m : Mgc} (h : MgcOk c m) : HoldOk c m.hold := h.2.1
theorem queuesOk_of {m : Mgc} (h : MgcOk c m) : QueuesOk c m.queues := h.2.2
theorem logOk_nil : LogOk c [] := Nat.zero_le _
theorem logOk_take {l : List LogEntry} : LogOk c (l.take 1024) := by simp [LogOk]
theorem holdOk_nil : HoldOk c [] := Nat.zero_le _
theorem queuesOk_nil : QueuesOk c [] := fun _ => Nat.zero_le _

theorem queuesOk_tput {t : Tbl EmQueue} {k : Nat} {q : EmQueue} (h : QueuesOk c t) (hq : q.items.length ≤ 32) :
    QueuesOk c (tput (fun _ => EmQueue.init) t k q) := by
  intro j
  rw [tget_tput]
  split
  · exact hq
  · exact h j

theorem mgcOk_mk {log written hold queues cal session owed answer spiRefused spiOut ringFrom emSent heartbeat lastEm hbPeriod
    idleLimit logIndex bankRead tec pubTag pubNow pubWait pubOut commanded settleBy disagreed agreeDue refCause}
    (h1 : LogOk c log) (h2 : HoldOk c hold) (h3 : QueuesOk c queues) :
    MgcOk c (Mgc.mk log written hold queues cal session owed answer spiRefused spiOut ringFrom emSent heartbeat lastEm hbPeriod
      idleLimit logIndex bankRead tec pubTag pubNow pubWait pubOut commanded settleBy disagreed agreeDue refCause) :=
  ⟨h1, h2, h3⟩

theorem fabOk_of {s : State} (h : Kept c s) : FabOk c s.fab := h.fab
theorem framesOk_of {f : Fab} (h : FabOk c f) : FramesOk c f.frames := h
theorem framesOk_nil : FramesOk c [] := rfl
theorem framesOk_tput {t : Tbl (BitVec 1308)} {k : Nat} {v : BitVec 1308} (h : FramesOk c t) :
    FramesOk c (tput (fun _ => 0) t k v) := twf_tput _ _ _ _ h
theorem framesOk_tdrop {t : Tbl (BitVec 1308)} {p : Nat → Bool} (h : FramesOk c t) : FramesOk c (tdrop p t) :=
  twf_tdrop _ _ _ h
theorem fabOk_mk {committed frames rails wires join acks stage stalled muxStalled keepers holds steer hearths edges}
    (h : FramesOk c frames) : FabOk c (Fab.mk committed frames rails wires join acks stage stalled muxStalled keepers holds steer hearths edges) := h

theorem fabOk_foldl {α : Type} {f : Fab → α → Fab} {l : List α} {x : Fab} (h : FabOk c x)
    (hf : ∀ x a, FabOk c x → FabOk c (f x a)) : FabOk c (l.foldl f x) := by
  induction l generalizing x with
  | nil => exact h
  | cons a l ih => exact ih (hf x a h)

theorem storeOk_of {s : State} (h : Kept c s) : StoreOk c s.store := h.store
theorem contentOk_of {x : Store} (h : StoreOk c x) : ContentOk c x.content := h
theorem contentOk_nil : ContentOk c [] := rfl
theorem contentOk_tput {t : Tbl W36} {k : Nat} {v : W36} (h : ContentOk c t) : ContentOk c (tput (fun _ => 0) t k v) :=
  twf_tput _ _ _ _ h
theorem contentOk_tdrop {t : Tbl W36} {p : Nat → Bool} (h : ContentOk c t) : ContentOk c (tdrop p t) := twf_tdrop _ _ _ h
theorem storeOk_mk {content steer rowsUsed ports} (h : ContentOk c content) : StoreOk c (Store.mk content steer rowsUsed ports) := h

theorem cfgOk_of {s : State} (h : Kept c s) : CfgOk c s.cfg := h.cfg
theorem flashAOk_of {x : Cfg} (h : CfgOk c x) : FlashOk c x.flashA := h.1
theorem flashBOk_of {x : Cfg} (h : CfgOk c x) : FlashOk c x.flashB := h.2
theorem flashOk_tput {t : Tbl Octet} {k : Nat} {v : Octet} (h : FlashOk c t) : FlashOk c (tput (fun _ => 0xFF) t k v) :=
  twf_tput _ _ _ _ h
theorem cfgOk_mk {everCommitted load reader foundA foundB flashA flashB inForce chunks inForceDual pinPairs key efuse bbKey
    bbIntact vbatLow staged expected keyArg keyJob keyStatus done faultLow flashBuf flashHeld flashJob
    mainClass kindClass}
    (h1 : FlashOk c flashA) (h2 : FlashOk c flashB) : CfgOk c (Cfg.mk everCommitted load reader foundA foundB flashA flashB inForce chunks inForceDual pinPairs key efuse bbKey
    bbIntact vbatLow staged expected keyArg keyJob keyStatus done faultLow flashBuf flashHeld flashJob
    mainClass kindClass) := ⟨h1, h2⟩

theorem dramsOk_of {s : State} (h : Kept c s) : DramsOk c s.dram := h.dram
theorem dramsOk_nil : DramsOk c [] := fun _ => rfl
theorem dramOk_tget {t : Tbl Dram} {k : Nat} (h : DramsOk c t) : DramOk c (tget (fun _ => Dram.init) t k) := h k
theorem dramOk_dramOf {s : State} {k : Nat} (h : Kept c s) : DramOk c (dramOf s k) := h.dram k
theorem memOk_of {x : Dram} (h : DramOk c x) : MemOk c x.mem := h
theorem memOk_nil : MemOk c [] := rfl
theorem memOk_tput {t : Tbl (BitVec 80)} {k : Nat} {v : BitVec 80} (h : MemOk c t) : MemOk c (tput (fun _ => 0) t k v) :=
  twf_tput _ _ _ _ h
theorem memOk_ite {p : Prop} [Decidable p] {t u : Tbl (BitVec 80)} (h1 : MemOk c t) (h2 : MemOk c u) :
    MemOk c (if p then t else u) := by
  split <;> assumption
theorem dramOk_init : DramOk c Dram.init := rfl
theorem dramOk_mk {mem reqs inbox out openRows tracker cands remap stuck patrolPos alert alerts alertRaised before exiting
    pprPending swept modes iface die sets sweepKind sweepRate sweepResults sweepDue pausing pauses samples
    abandoned runs rateReq rateTo}
    (h : MemOk c mem) : DramOk c (Dram.mk mem reqs inbox out openRows tracker cands remap stuck patrolPos alert alerts alertRaised before exiting
    pprPending swept modes iface die sets sweepKind sweepRate sweepResults sweepDue pausing pauses samples
    abandoned runs rateReq rateTo) := h
theorem dramOk_foldl {α : Type} {f : Dram → α → Dram} {l : List α} {x : Dram} (h : DramOk c x)
    (hf : ∀ x a, DramOk c x → DramOk c (f x a)) : DramOk c (l.foldl f x) := by
  induction l generalizing x with
  | nil => exact h
  | cons a l ih => exact ih (hf x a h)

theorem dramsOk_tput {t : Tbl Dram} {k : Nat} {x : Dram} (h : DramsOk c t) (hx : DramOk c x) :
    DramsOk c (tput (fun _ => Dram.init) t k x) := by
  intro j
  rw [tget_tput]
  split
  · exact hx
  · exact h j

theorem kept_mk {pending free timebase regs fab hng pace store fifo lane kwr dram pins scb mtp mgc cfg pwr jtag}
    (h1 : QueueOk c pending) (h2 : FreshOk c free) (h3 : RegsOk c regs) (h4 : MgcOk c mgc) (h5 : FabOk c fab)
    (h6 : StoreOk c store) (h7 : CfgOk c cfg) (h8 : DramsOk c dram) :
    Kept c (State.mk pending free timebase regs fab hng pace store fifo lane kwr dram pins scb mtp mgc cfg pwr jtag) :=
  ⟨h1, h2, h3, h4, h5, h6, h7, h8⟩

/-! ## Shapes of definitions -/

theorem kept_ite {p : Prop} [Decidable p] {s t : State} (h1 : Kept c s) (h2 : Kept c t) : Kept c (if p then s else t) := by
  split <;> assumption

theorem keptP_ite {α : Type} {p : Prop} [Decidable p] {s t : State × α} (h1 : KeptP c s) (h2 : KeptP c t) :
    KeptP c (if p then s else t) := by
  split <;> assumption

theorem keptO_ite {p : Prop} [Decidable p] {s t : Option State} (h1 : KeptO c s) (h2 : KeptO c t) :
    KeptO c (if p then s else t) := by
  split <;> assumption

theorem keptS_ite {α : Type} {p : Prop} [Decidable p] {s t : State ⊕ α} (h1 : KeptS c s) (h2 : KeptS c t) :
    KeptS c (if p then s else t) := by
  split <;> assumption

theorem keptR_ite {p : Prop} [Decidable p] {s t : Host.Outcome State Fault Refusal} (h1 : KeptR c s) (h2 : KeptR c t) :
    KeptR c (if p then s else t) := by
  split <;> assumption

theorem keptP_mk {α : Type} {s : State} {x : α} (h : Kept c s) : KeptP c (s, x) := h
theorem kept_fst {α : Type} {p : State × α} (h : KeptP c p) : Kept c p.1 := h
theorem kept_fst_eq {α : Type} {p : State × α} {t : State} {x : α} (e : p = (t, x)) (h : KeptP c p) : Kept c t := by
  rw [e] at h
  exact h
theorem keptO_none : KeptO c none := fun _ h => nomatch h
theorem keptO_some {s : State} (h : Kept c s) : KeptO c (some s) := fun _ e => Option.some.inj e ▸ h
theorem kept_some_eq {o : Option State} {t : State} (e : o = some t) (h : KeptO c o) : Kept c t := h t e
theorem keptS_inl {α : Type} {s : State} (h : Kept c s) : KeptS (α := α) c (.inl s) := fun _ e => Sum.inl.inj e ▸ h
theorem keptS_inr {α : Type} {x : α} : KeptS c (.inr x) := fun _ e => nomatch e
theorem kept_inl_eq {α : Type} {x : State ⊕ α} {t : State} (e : x = .inl t) (h : KeptS c x) : Kept c t := h t e
theorem keptR_next {s : State} (h : Kept c s) : KeptR c (.next s) := fun _ e => Host.Outcome.next.inj e ▸ h

theorem kept_cut {s : State} {P : Prop} (h : Kept c s) (k : Kept c s → P) : P := k h
theorem keptP_cut {α : Type} {p : State × α} {P : Prop} (h : KeptP c p) (k : KeptP c p → P) : P := k h
theorem kept_fst_cut {α : Type} {p : State × α} {t : State} {x : α} {P : Prop} (e : p = (t, x)) (h : KeptP c p)
    (k : Kept c t → P) : P := k (kept_fst_eq e h)
theorem kept_some_cut {o : Option State} {t : State} {P : Prop} (e : o = some t) (h : KeptO c o) (k : Kept c t → P) : P :=
  k (h t e)
theorem kept_inl_cut {α : Type} {x : State ⊕ α} {t : State} {P : Prop} (e : x = .inl t) (h : KeptS c x) (k : Kept c t → P) :
    P := k (h t e)

theorem kept_elim {α : Type} {o : Option α} {s : State} {f : α → State} (h : Kept c s) (hf : ∀ x, Kept c (f x)) :
    Kept c (o.elim s f) := by
  cases o with
  | none => exact h
  | some x => exact hf x

theorem kept_foldl {α : Type} {f : State → α → State} {l : List α} {s : State} (h : Kept c s)
    (hf : ∀ s x, Kept c s → Kept c (f s x)) : Kept c (l.foldl f s) := by
  induction l generalizing s with
  | nil => exact h
  | cons x l ih => exact ih (hf s x h)

theorem keptP_foldl {α β : Type} {f : State × β → α → State × β} {l : List α} {p : State × β} (h : KeptP c p)
    (hf : ∀ p x, KeptP c p → KeptP c (f p x)) : KeptP c (l.foldl f p) := by
  induction l generalizing p with
  | nil => exact h
  | cons x l ih => exact ih (hf p x h)

/-! ## The named operations -/

theorem kept_setWord {s : State} {a : Nat} {w : W36} (h : Kept c s) : Kept c (s.setWord a w) :=
  ⟨h.queue, h.fresh, regsOk_tput h.regs, h.mgc, h.fab, h.store, h.cfg, h.dram⟩

theorem kept_put {s : State} {f : Field} {v : Nat} (h : Kept c s) : Kept c (s.put f v) := kept_setWord h
theorem kept_bump {s : State} {f : Field} {k : Nat} (h : Kept c s) : Kept c (s.bump f k) := kept_put h
theorem kept_putBit {s : State} {f : Field} {i : Nat} {b : Bool} (h : Kept c s) : Kept c (s.putBit f i b) := kept_put h
theorem kept_tookFree {s : State} (h : Kept c s) : Kept c s.tookFree := ⟨h.queue, freshOk_add h.fresh, h.regs, h.mgc, h.fab, h.store, h.cfg, h.dram⟩

theorem kept_logWrite {s : State} {e : LogEntry} (h : Kept c s) : Kept c (logWrite s e) :=
  ⟨h.queue, h.fresh, h.regs, ⟨logOk_take, h.mgc.2.1, h.mgc.2.2⟩, h.fab, h.store, h.cfg, h.dram⟩

theorem kept_setQueue {s : State} {t : Transport} {q : EmQueue} (h : Kept c s) (hq : q.items.length ≤ 32) :
    Kept c (setQueue s t q) := ⟨h.queue, h.fresh, h.regs, ⟨h.mgc.1, h.mgc.2.1, queuesOk_tput h.mgc.2.2 hq⟩, h.fab, h.store,
    h.cfg, h.dram⟩

theorem kept_enqueueOn {s : State} {t : Transport} {e : Emergency} (h : Kept c s) : Kept c (enqueueOn s t e) := by
  unfold enqueueOn
  have hq := h.mgc.2.2 t.idx
  dsimp only
  split
  · refine kept_setQueue h ?_
    simp only [List.length_append, List.length_singleton]
    omega
  · exact kept_bump (kept_setQueue h hq)

theorem kept_holdEntry {s : State} {e : LogEntry} (h : Kept c s) : Kept c (holdEntry s e) := by
  unfold holdEntry
  split
  · refine ⟨h.queue, h.fresh, h.regs, ⟨h.mgc.1, ?_, h.mgc.2.2⟩, h.fab, h.store, h.cfg, h.dram⟩
    simp only [HoldOk, List.length_append, List.length_singleton]
    omega
  · exact kept_bump h

end Sys2Proof.Machine
end

