-- ==== Sys2Proof/Laws/KeptOps.lean ====
section
/-! SUPPORT. What every operation of Machine/Ops.lean keeps (Laws/Kept.lean). -/
set_option linter.unusedTactic false
set_option linter.unreachableTactic false
namespace Sys2Proof.Machine
open Sys2Proof

theorem kept_sendEmergency {c : Keep} : ∀ x0 x1 x2, Kept c x0 → Kept c (sendEmergency x0 x1 x2) := by
  intros
  unfold sendEmergency
  repeat' (with_reducible first
    | assumption
    | intro _
    | (extract_lets +onlyGivenNames xl; first | (refine kept_cut (c := c) (s := xl) ?_ ?_ <;> [subst xl; (intro hx; clear_value xl)]) | (refine keptP_cut (c := c) (p := xl) ?_ ?_ <;> [subst xl; (intro hx; clear_value xl)]) | subst xl)
    | apply kept_bump | apply kept_enqueueOn | apply kept_ite
    | split
    | apply kept_mk | apply queueOk_of | apply freshOk_of | apply freshOk_add | apply regsOk_of | apply mgcOk_of | apply fabOk_of | apply storeOk_of | apply cfgOk_of | apply dramsOk_of | apply mgcOk_mk | apply logOk_of | apply holdOk_of | apply queuesOk_of | exact logOk_nil | exact holdOk_nil | exact queuesOk_nil)

theorem kept_raise {c : Keep} : ∀ x0 x1 x2, Kept c x0 → Kept c (raise x0 x1 x2) := by
  intros
  unfold raise
  repeat' (with_reducible first
    | assumption
    | intro _
    | (extract_lets +onlyGivenNames xl; first | (refine kept_cut (c := c) (s := xl) ?_ ?_ <;> [subst xl; (intro hx; clear_value xl)]) | (refine keptP_cut (c := c) (p := xl) ?_ ?_ <;> [subst xl; (intro hx; clear_value xl)]) | subst xl)
    | apply kept_sendEmergency | apply kept_logWrite | apply kept_holdEntry | apply kept_ite
    | split)

theorem kept_logState {c : Keep} : ∀ x0 x1 x2 x3 x4, Kept c x0 → Kept c (logState x0 x1 x2 x3 x4) := by
  intros
  unfold logState
  repeat' (with_reducible first
    | assumption
    | intro _
    | (extract_lets +onlyGivenNames xl; first | (refine kept_cut (c := c) (s := xl) ?_ ?_ <;> [subst xl; (intro hx; clear_value xl)]) | (refine keptP_cut (c := c) (p := xl) ?_ ?_ <;> [subst xl; (intro hx; clear_value xl)]) | subst xl)
    | apply kept_logWrite | apply kept_holdEntry | apply kept_ite
    | split)

theorem kept_replayHeld {c : Keep} : ∀ x0, Kept c x0 → Kept c (replayHeld x0) := by
  intros
  unfold replayHeld
  repeat' (with_reducible first
    | assumption
    | intro _
    | (rename _ = (_, _) => hq; first | (refine kept_fst_cut (c := c) hq ?_ ?_ <;> [clear hq; (clear hq; intro hr)]) | clear hq)
    | (extract_lets +onlyGivenNames xl; first | (refine kept_cut (c := c) (s := xl) ?_ ?_ <;> [subst xl; (intro hx; clear_value xl)]) | (refine keptP_cut (c := c) (p := xl) ?_ ?_ <;> [subst xl; (intro hx; clear_value xl)]) | subst xl)
    | apply kept_logWrite | apply kept_sendEmergency | apply kept_ite | apply keptP_ite | apply keptP_mk
    | apply kept_foldl | apply keptP_foldl
    | split
    | apply kept_mk | apply queueOk_of | apply freshOk_of | apply freshOk_add | apply regsOk_of | apply mgcOk_of | apply fabOk_of | apply storeOk_of | apply cfgOk_of | apply dramsOk_of | apply mgcOk_mk | apply logOk_of | apply holdOk_of | apply queuesOk_of | exact logOk_nil | exact holdOk_nil | exact queuesOk_nil)

theorem kept_stallDone {c : Keep} : ∀ x0 x1 x2, Kept c x0 → Kept c (stallDone x0 x1 x2) := by
  intros
  unfold stallDone
  repeat' (with_reducible first
    | assumption
    | intro _
    | (extract_lets +onlyGivenNames xl; first | (refine kept_cut (c := c) (s := xl) ?_ ?_ <;> [subst xl; (intro hx; clear_value xl)]) | (refine keptP_cut (c := c) (p := xl) ?_ ?_ <;> [subst xl; (intro hx; clear_value xl)]) | subst xl)
    | apply kept_put | apply kept_ite
    | split
    | apply kept_mk | apply queueOk_of | apply freshOk_of | apply freshOk_add | apply regsOk_of | apply mgcOk_of | apply fabOk_of | apply storeOk_of | apply cfgOk_of | apply dramsOk_of)

theorem kept_setCommanded {c : Keep} : ∀ x0 x1 x2, Kept c x0 → Kept c (setCommanded x0 x1 x2) := by
  intros
  unfold setCommanded
  repeat' (with_reducible first
    | assumption
    | intro _
    | apply kept_ite
    | split
    | apply kept_mk | apply queueOk_of | apply freshOk_of | apply freshOk_add | apply regsOk_of | apply mgcOk_of | apply fabOk_of | apply storeOk_of | apply cfgOk_of | apply dramsOk_of | apply mgcOk_mk | apply logOk_of | apply holdOk_of | apply queuesOk_of | exact logOk_nil | exact holdOk_nil | exact queuesOk_nil)

theorem kept_commandIf {c : Keep} : ∀ x0 x1 x2 x3 x4, Kept c x0 → Kept c (commandIf x0 x1 x2 x3 x4) := by
  intros
  unfold commandIf
  repeat' (with_reducible first
    | assumption
    | intro _
    | apply kept_setCommanded | apply kept_ite
    | split)

theorem kept_isoCommanded {c : Keep} : ∀ x0, Kept c x0 → Kept c (isoCommanded x0) :=
  fun _ h => kept_setCommanded _ _ _ h

theorem kept_isoByDevice {c : Keep} : ∀ x0 x1, Kept c x1 → Kept c (isoByDevice x0 x1) := by
  intro x0 x1 h
  unfold isoByDevice
  split
  · exact h
  · exact kept_isoCommanded _ h

end Sys2Proof.Machine
end

