-- ==== Sys2Proof/Laws/KeptFabric.lean ====
section
/-! SUPPORT. What every operation of Machine/Fabric.lean keeps (Laws/Kept.lean). -/
set_option linter.unusedTactic false
set_option linter.unreachableTactic false
namespace Sys2Proof.Machine
open Sys2Proof

theorem kept_setHearth {c : Keep} : ∀ x0 x1 x2, Kept c x0 → Kept c (setHearth x0 x1 x2) := by
  intros
  unfold setHearth
  repeat' (with_reducible first
    | assumption
    | intro _
    | apply kept_ite
    | split
    | apply kept_mk | apply queueOk_of | apply freshOk_of | apply freshOk_add | apply regsOk_of | apply mgcOk_of | apply fabOk_of | apply storeOk_of | apply cfgOk_of | apply dramsOk_of
    | apply fabOk_mk | apply framesOk_of)

theorem kept_watched {c : Keep} : ∀ x0 x1, Kept c x0 → Kept c x1 → Kept c (watched x0 x1) := by
  intros
  unfold watched
  repeat' (with_reducible first
    | assumption
    | intro _
    | apply kept_ite
    | split
    | apply kept_mk | apply queueOk_of | apply freshOk_of | apply freshOk_add | apply regsOk_of | apply mgcOk_of | apply fabOk_of | apply storeOk_of | apply cfgOk_of | apply dramsOk_of
    | apply fabOk_mk | apply framesOk_of)

theorem kept_countEvent {c : Keep} : ∀ x0 x1 x2 x3, Kept c x0 → Kept c (countEvent x0 x1 x2 x3) := by
  intros
  unfold countEvent
  repeat' (with_reducible first
    | assumption
    | intro _
    | (extract_lets +onlyGivenNames xl; first | (refine kept_cut (c := c) (s := xl) ?_ ?_ <;> [subst xl; (intro hx; clear_value xl)]) | (refine keptP_cut (c := c) (p := xl) ?_ ?_ <;> [subst xl; (intro hx; clear_value xl)]) | subst xl)
    | apply kept_ite
    | split
    | apply kept_mk | apply queueOk_of | apply freshOk_of | apply freshOk_add | apply regsOk_of | apply mgcOk_of | apply fabOk_of | apply storeOk_of | apply cfgOk_of | apply dramsOk_of)

theorem kept_countRoute {c : Keep} : ∀ x0 x1, Kept c x0 → Kept c (countRoute x0 x1) := by
  intros
  unfold countRoute
  repeat' (with_reducible first
    | assumption
    | intro _
    | (rename _ = (_, _) => hq; first | (refine kept_fst_cut (c := c) hq ?_ ?_ <;> [clear hq; (clear hq; intro hr)]) | clear hq)
    | (extract_lets +onlyGivenNames xl; first | (refine kept_cut (c := c) (s := xl) ?_ ?_ <;> [subst xl; (intro hx; clear_value xl)]) | (refine keptP_cut (c := c) (p := xl) ?_ ?_ <;> [subst xl; (intro hx; clear_value xl)]) | subst xl)
    | apply kept_countEvent | apply kept_ite | apply keptP_ite | apply keptP_mk
    | apply kept_foldl | apply keptP_foldl
    | split
    | apply kept_mk | apply queueOk_of | apply freshOk_of | apply freshOk_add | apply regsOk_of | apply mgcOk_of | apply fabOk_of | apply storeOk_of | apply cfgOk_of | apply dramsOk_of)

theorem kept_drive {c : Keep} : ∀ x0 x1 x2, Kept c x0 → Kept c (drive x0 x1 x2) := by
  intros
  unfold drive
  repeat' (with_reducible first
    | assumption
    | intro _
    | apply kept_watched | apply kept_ite
    | split
    | apply kept_mk | apply queueOk_of | apply freshOk_of | apply freshOk_add | apply regsOk_of | apply mgcOk_of | apply fabOk_of | apply storeOk_of | apply cfgOk_of | apply dramsOk_of
    | apply fabOk_mk | apply framesOk_of)

theorem kept_setAck {c : Keep} : ∀ x0 x1 x2, Kept c x0 → Kept c (setAck x0 x1 x2) := by
  intros
  unfold setAck
  repeat' (with_reducible first
    | assumption
    | intro _
    | apply kept_watched | apply kept_ite
    | split
    | apply kept_mk | apply queueOk_of | apply freshOk_of | apply freshOk_add | apply regsOk_of | apply mgcOk_of | apply fabOk_of | apply storeOk_of | apply cfgOk_of | apply dramsOk_of
    | apply fabOk_mk | apply framesOk_of)

theorem kept_rejoin {c : Keep} : ∀ x0 x1, Kept c x0 → Kept c (rejoin x0 x1) := by
  intros
  unfold rejoin
  repeat' (with_reducible first
    | assumption
    | intro _
    | apply kept_ite
    | split
    | apply kept_mk | apply queueOk_of | apply freshOk_of | apply freshOk_add | apply regsOk_of | apply mgcOk_of | apply fabOk_of | apply storeOk_of | apply cfgOk_of | apply dramsOk_of
    | apply fabOk_mk | apply framesOk_of)

theorem kept_moveAck {c : Keep} : ∀ x0 x1 x2, Kept c x0 → Kept c (moveAck x0 x1 x2) := by
  intros
  unfold moveAck
  repeat' (with_reducible first
    | assumption
    | intro _
    | (extract_lets +onlyGivenNames xl; first | (refine kept_cut (c := c) (s := xl) ?_ ?_ <;> [subst xl; (intro hx; clear_value xl)]) | (refine keptP_cut (c := c) (p := xl) ?_ ?_ <;> [subst xl; (intro hx; clear_value xl)]) | subst xl)
    | apply kept_countRoute | apply kept_setAck | apply kept_rejoin | apply kept_ite
    | split
    | apply kept_mk | apply queueOk_of | apply freshOk_of | apply freshOk_add | apply regsOk_of | apply mgcOk_of | apply fabOk_of | apply storeOk_of | apply cfgOk_of | apply dramsOk_of)

theorem kept_rejoinAll {c : Keep} : ∀ x0, Kept c x0 → Kept c (rejoinAll x0) := by
  intros
  unfold rejoinAll
  repeat' (with_reducible first
    | assumption
    | intro _
    | (rename _ = (_, _) => hq; first | (refine kept_fst_cut (c := c) hq ?_ ?_ <;> [clear hq; (clear hq; intro hr)]) | clear hq)
    | (extract_lets +onlyGivenNames xl; first | (refine kept_cut (c := c) (s := xl) ?_ ?_ <;> [subst xl; (intro hx; clear_value xl)]) | (refine keptP_cut (c := c) (p := xl) ?_ ?_ <;> [subst xl; (intro hx; clear_value xl)]) | subst xl)
    | apply kept_rejoin | apply kept_ite | apply keptP_ite | apply keptP_mk
    | apply kept_foldl | apply keptP_foldl
    | split)

theorem kept_scrubReport {c : Keep} : ∀ x0 x1, Kept c x0 → Kept c (scrubReport x0 x1) := by
  intros
  unfold scrubReport
  repeat' (with_reducible first
    | assumption
    | intro _
    | apply kept_ite
    | split
    | apply kept_mk | apply queueOk_of | apply freshOk_of | apply freshOk_add | apply regsOk_of | apply mgcOk_of | apply fabOk_of | apply storeOk_of | apply cfgOk_of | apply dramsOk_of)

theorem kept_tokenFault {c : Keep} : ∀ x0 x1 x2, Kept c x0 → Kept c (tokenFault x0 x1 x2) := by
  intros
  unfold tokenFault
  repeat' (with_reducible first
    | assumption
    | intro _
    | (extract_lets +onlyGivenNames xl; first | (refine kept_cut (c := c) (s := xl) ?_ ?_ <;> [subst xl; (intro hx; clear_value xl)]) | (refine keptP_cut (c := c) (p := xl) ?_ ?_ <;> [subst xl; (intro hx; clear_value xl)]) | subst xl)
    | apply kept_putBit | apply kept_setWord | apply kept_bump | apply kept_scrubReport | apply kept_raise | apply kept_ite
    | split)

end Sys2Proof.Machine
end

