-- ==== Sys2Proof/Laws/KeptStore.lean ====
section
/-! SUPPORT. What every operation of Machine/Store.lean keeps (Laws/Kept.lean). -/
set_option linter.unusedTactic false
set_option linter.unreachableTactic false
namespace Sys2Proof.Machine
open Sys2Proof

theorem kept_setBlock {c : Keep} : ∀ x0 x1 x2 x3, Kept c x0 → Kept c (setBlock x0 x1 x2 x3) := by
  intros
  unfold setBlock
  repeat' (with_reducible first
    | assumption
    | intro _
    | apply kept_ite
    | split
    | apply kept_mk | apply queueOk_of | apply freshOk_of | apply freshOk_add | apply regsOk_of | apply mgcOk_of | apply fabOk_of | apply storeOk_of | apply cfgOk_of | apply dramsOk_of
    | apply storeOk_mk | apply contentOk_of)

theorem kept_setRow {c : Keep} : ∀ x0 x1 x2 x3 x4, Kept c x0 → Kept c (setRow x0 x1 x2 x3 x4) := by
  intros
  unfold setRow
  repeat' (with_reducible first
    | assumption
    | intro _
    | apply kept_ite
    | split
    | apply kept_mk | apply queueOk_of | apply freshOk_of | apply freshOk_add | apply regsOk_of | apply mgcOk_of | apply fabOk_of | apply storeOk_of | apply cfgOk_of | apply dramsOk_of
    | apply storeOk_mk | apply contentOk_of | apply contentOk_tput | apply contentOk_tdrop | exact contentOk_nil)

theorem kept_setPort {c : Keep} : ∀ x0 x1 x2 x3 x4, Kept c x0 → Kept c (setPort x0 x1 x2 x3 x4) := by
  intros
  unfold setPort
  repeat' (with_reducible first
    | assumption
    | intro _
    | apply kept_ite
    | split
    | apply kept_mk | apply queueOk_of | apply freshOk_of | apply freshOk_add | apply regsOk_of | apply mgcOk_of | apply fabOk_of | apply storeOk_of | apply cfgOk_of | apply dramsOk_of
    | apply storeOk_mk | apply contentOk_of)

theorem kept_storeAccess {c : Keep} : ∀ x0 x1 x2 x3 x4, Kept c x0 → Kept c (storeAccess x0 x1 x2 x3 x4) := by
  intros
  unfold storeAccess
  repeat' (with_reducible first
    | assumption
    | intro _
    | (rename _ = (_, _) => hq; first | (refine kept_fst_cut (c := c) hq ?_ ?_ <;> [clear hq; (clear hq; intro hr)]) | clear hq)
    | (extract_lets +onlyGivenNames xl; first | (refine kept_cut (c := c) (s := xl) ?_ ?_ <;> [subst xl; (intro hx; clear_value xl)]) | (refine keptP_cut (c := c) (p := xl) ?_ ?_ <;> [subst xl; (intro hx; clear_value xl)]) | subst xl)
    | apply kept_setRow | apply kept_setPort | apply kept_countEvent | apply kept_moveAck | apply kept_ite | apply keptP_ite | apply keptP_mk
    | apply kept_foldl | apply keptP_foldl
    | split
    | apply kept_mk | apply queueOk_of | apply freshOk_of | apply freshOk_add | apply regsOk_of | apply mgcOk_of | apply fabOk_of | apply storeOk_of | apply cfgOk_of | apply dramsOk_of)

theorem kept_storeServe {c : Keep} : ∀ x0 x1 x2 x3, Kept c x0 → Kept c (storeServe x0 x1 x2 x3) := by
  intros
  unfold storeServe
  repeat' (with_reducible first
    | assumption
    | intro _
    | apply kept_storeAccess | apply kept_ite
    | split
    | apply kept_mk | apply queueOk_of | apply freshOk_of | apply freshOk_add | apply regsOk_of | apply mgcOk_of | apply fabOk_of | apply storeOk_of | apply cfgOk_of | apply dramsOk_of)

theorem kept_storeOrdered {c : Keep} : ∀ x0 x1 x2 x3 x4, Kept c x0 → Kept c (storeOrdered x0 x1 x2 x3 x4) := by
  intros
  unfold storeOrdered
  repeat' (with_reducible first
    | assumption
    | intro _
    | apply kept_storeServe | apply kept_tookFree | apply kept_ite
    | split
    | apply kept_mk | apply queueOk_of | apply freshOk_of | apply freshOk_add | apply regsOk_of | apply mgcOk_of | apply fabOk_of | apply storeOk_of | apply cfgOk_of | apply dramsOk_of)

theorem kept_storeRequest {c : Keep} : ∀ x0 x1 x2 x3 x4, Kept c x0 → Kept c (storeRequest x0 x1 x2 x3 x4) := by
  intros
  unfold storeRequest
  repeat' (with_reducible first
    | assumption
    | intro _
    | apply kept_setPort | apply kept_storeOrdered | apply kept_ite
    | split
    | apply kept_mk | apply queueOk_of | apply freshOk_of | apply freshOk_add | apply regsOk_of | apply mgcOk_of | apply fabOk_of | apply storeOk_of | apply cfgOk_of | apply dramsOk_of)

theorem kept_storeResume {c : Keep} : ∀ x0 x1 x2, Kept c x0 → Kept c (storeResume x0 x1 x2) := by
  intros
  unfold storeResume
  repeat' (with_reducible first
    | assumption
    | intro _
    | (rename _ = (_, _) => hq; first | (refine kept_fst_cut (c := c) hq ?_ ?_ <;> [clear hq; (clear hq; intro hr)]) | clear hq)
    | (extract_lets +onlyGivenNames xl; first | (refine kept_cut (c := c) (s := xl) ?_ ?_ <;> [subst xl; (intro hx; clear_value xl)]) | (refine keptP_cut (c := c) (p := xl) ?_ ?_ <;> [subst xl; (intro hx; clear_value xl)]) | subst xl)
    | apply kept_setPort | apply kept_storeOrdered | apply kept_ite | apply keptP_ite | apply keptP_mk
    | apply kept_foldl | apply keptP_foldl
    | split
    | apply kept_mk | apply queueOk_of | apply freshOk_of | apply freshOk_add | apply regsOk_of | apply mgcOk_of | apply fabOk_of | apply storeOk_of | apply cfgOk_of | apply dramsOk_of)

theorem kept_columnResume {c : Keep} : ∀ x0 x1 x2, Kept c x0 → Kept c (columnResume x0 x1 x2) := by
  intros
  unfold columnResume
  repeat' (with_reducible first
    | assumption
    | intro _
    | (rename _ = (_, _) => hq; first | (refine kept_fst_cut (c := c) hq ?_ ?_ <;> [clear hq; (clear hq; intro hr)]) | clear hq)
    | (extract_lets +onlyGivenNames xl; first | (refine kept_cut (c := c) (s := xl) ?_ ?_ <;> [subst xl; (intro hx; clear_value xl)]) | (refine keptP_cut (c := c) (p := xl) ?_ ?_ <;> [subst xl; (intro hx; clear_value xl)]) | subst xl)
    | apply kept_storeResume | apply kept_ite | apply keptP_ite | apply keptP_mk
    | apply kept_foldl | apply keptP_foldl
    | split)

theorem kept_markSpare {c : Keep} : ∀ x0 x1 x2, Kept c x0 → Kept c (markSpare x0 x1 x2) := by
  intros
  unfold markSpare
  repeat' (with_reducible first
    | assumption
    | intro _
    | apply kept_ite
    | split
    | apply kept_mk | apply queueOk_of | apply freshOk_of | apply freshOk_add | apply regsOk_of | apply mgcOk_of | apply fabOk_of | apply storeOk_of | apply cfgOk_of | apply dramsOk_of)

theorem kept_sliceEnd {c : Keep} : ∀ x0 x1, Kept c x0 → Kept c (sliceEnd x0 x1) := by
  intros
  unfold sliceEnd
  repeat' (with_reducible first
    | assumption
    | intro _
    | (extract_lets +onlyGivenNames xl; first | (refine kept_cut (c := c) (s := xl) ?_ ?_ <;> [subst xl; (intro hx; clear_value xl)]) | (refine keptP_cut (c := c) (p := xl) ?_ ?_ <;> [subst xl; (intro hx; clear_value xl)]) | subst xl)
    | apply kept_markSpare | apply kept_put | apply kept_ite
    | split
    | apply kept_mk | apply queueOk_of | apply freshOk_of | apply freshOk_add | apply regsOk_of | apply mgcOk_of | apply fabOk_of | apply storeOk_of | apply cfgOk_of | apply dramsOk_of)

theorem kept_blockAbandon {c : Keep} : ∀ x0 x1 x2, Kept c x0 → Kept c (blockAbandon x0 x1 x2) := by
  intros
  unfold blockAbandon
  repeat' (with_reducible first
    | assumption
    | intro _
    | apply kept_storeResume | apply kept_sliceEnd | apply kept_setBlock | apply kept_ite
    | split)

theorem kept_storeFault {c : Keep} : ∀ x0 x1 x2 x3 x4, Kept c x0 → Kept c (storeFault x0 x1 x2 x3 x4) := by
  intros
  unfold storeFault
  repeat' (with_reducible first
    | assumption
    | intro _
    | (extract_lets +onlyGivenNames xl; first | (refine kept_cut (c := c) (s := xl) ?_ ?_ <;> [subst xl; (intro hx; clear_value xl)]) | (refine keptP_cut (c := c) (p := xl) ?_ ?_ <;> [subst xl; (intro hx; clear_value xl)]) | subst xl)
    | apply kept_setPort | apply kept_putBit | apply kept_setWord | apply kept_scrubReport | apply kept_raise | apply kept_ite
    | split
    | apply kept_mk | apply queueOk_of | apply freshOk_of | apply freshOk_add | apply regsOk_of | apply mgcOk_of | apply fabOk_of | apply storeOk_of | apply cfgOk_of | apply dramsOk_of)

theorem kept_blockQuiesced {c : Keep} : ∀ x0 x1 x2, Kept c x0 → Kept c (blockQuiesced x0 x1 x2) := by
  intros
  unfold blockQuiesced
  repeat' (with_reducible first
    | assumption
    | intro _
    | apply kept_ite
    | split
    | apply kept_mk | apply queueOk_of | apply freshOk_of | apply freshOk_add | apply regsOk_of | apply mgcOk_of | apply fabOk_of | apply storeOk_of | apply cfgOk_of | apply dramsOk_of)

theorem kept_copyBlock {c : Keep} : ∀ x0 x1 x2 x3, Kept c x0 → Kept c (copyBlock x0 x1 x2 x3) := by
  intros
  unfold copyBlock
  repeat' (with_reducible first
    | assumption
    | intro _
    | (rename _ = (_, _) => hq; first | (refine kept_fst_cut (c := c) hq ?_ ?_ <;> [clear hq; (clear hq; intro hr)]) | clear hq)
    | (extract_lets +onlyGivenNames xl; first | (refine kept_cut (c := c) (s := xl) ?_ ?_ <;> [subst xl; (intro hx; clear_value xl)]) | (refine keptP_cut (c := c) (p := xl) ?_ ?_ <;> [subst xl; (intro hx; clear_value xl)]) | subst xl)
    | apply kept_setRow | apply kept_ite | apply keptP_ite | apply keptP_mk
    | apply kept_foldl | apply keptP_foldl
    | split)

theorem kept_blockSwitch {c : Keep} : ∀ x0 x1 x2, Kept c x0 → Kept c (blockSwitch x0 x1 x2) := by
  intros
  unfold blockSwitch
  repeat' (with_reducible first
    | assumption
    | intro _
    | (extract_lets +onlyGivenNames xl; first | (refine kept_cut (c := c) (s := xl) ?_ ?_ <;> [subst xl; (intro hx; clear_value xl)]) | (refine keptP_cut (c := c) (p := xl) ?_ ?_ <;> [subst xl; (intro hx; clear_value xl)]) | subst xl)
    | apply kept_copyBlock | apply kept_setBlock | apply kept_storeResume | apply kept_ite
    | split
    | apply kept_mk | apply queueOk_of | apply freshOk_of | apply freshOk_add | apply regsOk_of | apply mgcOk_of | apply fabOk_of | apply storeOk_of | apply cfgOk_of | apply dramsOk_of)

end Sys2Proof.Machine
end

