-- ==== Sys2Proof/Laws/KeptWires.lean ====
section
/-! SUPPORT. What every operation of Machine/Wires.lean keeps (Laws/Kept.lean). -/
set_option linter.unusedTactic false
set_option linter.unreachableTactic false
namespace Sys2Proof.Machine
open Sys2Proof

theorem kept_markStalled {c : Keep} : ∀ x0 x1, Kept c x0 → Kept c (markStalled x0 x1) := by
  intros
  unfold markStalled
  repeat' (with_reducible first
    | assumption
    | intro _
    | apply kept_ite
    | split
    | apply kept_mk | apply queueOk_of | apply freshOk_of | apply freshOk_add | apply regsOk_of | apply mgcOk_of | apply fabOk_of | apply storeOk_of | apply cfgOk_of | apply dramsOk_of
    | apply fabOk_mk | apply framesOk_of)

theorem kept_sideFault {c : Keep} : ∀ x0 x1 x2 x3 x4, Kept c x0 → Kept c (sideFault x0 x1 x2 x3 x4) := by
  intros
  unfold sideFault
  repeat' (with_reducible first
    | assumption
    | intro _
    | (extract_lets +onlyGivenNames xl; first | (refine kept_cut (c := c) (s := xl) ?_ ?_ <;> [subst xl; (intro hx; clear_value xl)]) | (refine keptP_cut (c := c) (p := xl) ?_ ?_ <;> [subst xl; (intro hx; clear_value xl)]) | subst xl)
    | apply kept_storeFault | apply kept_markStalled | apply kept_blockAbandon | apply kept_ite
    | split)

theorem kept_checkInput {c : Keep} : ∀ x0 x1, Kept c x0 → Kept c (checkInput x0 x1) := by
  intros
  unfold checkInput
  repeat' (with_reducible first
    | assumption
    | intro _
    | apply kept_tokenFault | apply kept_markStalled | apply kept_sideFault | apply kept_ite
    | split
    | apply kept_mk | apply queueOk_of | apply freshOk_of | apply freshOk_add | apply regsOk_of | apply mgcOk_of | apply fabOk_of | apply storeOk_of | apply cfgOk_of | apply dramsOk_of)

theorem kept_checkInputs {c : Keep} : ∀ x0 x1, Kept c x0 → Kept c (checkInputs x0 x1) := by
  intros
  unfold checkInputs
  repeat' (with_reducible first
    | assumption
    | intro _
    | (rename _ = (_, _) => hq; first | (refine kept_fst_cut (c := c) hq ?_ ?_ <;> [clear hq; (clear hq; intro hr)]) | clear hq)
    | (extract_lets +onlyGivenNames xl; first | (refine kept_cut (c := c) (s := xl) ?_ ?_ <;> [subst xl; (intro hx; clear_value xl)]) | (refine keptP_cut (c := c) (p := xl) ?_ ?_ <;> [subst xl; (intro hx; clear_value xl)]) | subst xl)
    | apply kept_checkInput | apply kept_ite | apply keptP_ite | apply keptP_mk
    | apply kept_foldl | apply keptP_foldl
    | split
    | apply kept_mk | apply queueOk_of | apply freshOk_of | apply freshOk_add | apply regsOk_of | apply mgcOk_of | apply fabOk_of | apply storeOk_of | apply cfgOk_of | apply dramsOk_of)

theorem kept_raiseRails {c : Keep} : ∀ x0 x1, Kept c x0 → Kept c (raiseRails x0 x1) := by
  intros
  unfold raiseRails
  repeat' (with_reducible first
    | assumption
    | intro _
    | (rename _ = (_, _) => hq; first | (refine kept_fst_cut (c := c) hq ?_ ?_ <;> [clear hq; (clear hq; intro hr)]) | clear hq)
    | (extract_lets +onlyGivenNames xl; first | (refine kept_cut (c := c) (s := xl) ?_ ?_ <;> [subst xl; (intro hx; clear_value xl)]) | (refine keptP_cut (c := c) (p := xl) ?_ ?_ <;> [subst xl; (intro hx; clear_value xl)]) | subst xl)
    | apply kept_drive | apply kept_checkInputs | apply kept_ite | apply keptP_ite | apply keptP_mk
    | apply kept_foldl | apply keptP_foldl
    | split)

theorem kept_rerouted {c : Keep} : ∀ x0 x1, Kept c x0 → Kept c x1 → Kept c (rerouted x0 x1) := by
  intros
  unfold rerouted
  repeat' (with_reducible first
    | assumption
    | intro _
    | (rename _ = (_, _) => hq; first | (refine kept_fst_cut (c := c) hq ?_ ?_ <;> [clear hq; (clear hq; intro hr)]) | clear hq)
    | (extract_lets +onlyGivenNames xl; first | (refine kept_cut (c := c) (s := xl) ?_ ?_ <;> [subst xl; (intro hx; clear_value xl)]) | (refine keptP_cut (c := c) (p := xl) ?_ ?_ <;> [subst xl; (intro hx; clear_value xl)]) | subst xl)
    | apply kept_rejoinAll | apply kept_watched | apply kept_checkInputs | apply kept_ite | apply keptP_ite | apply keptP_mk
    | apply kept_foldl | apply keptP_foldl
    | split)

theorem kept_presentAt {c : Keep} : ∀ x0 x1 x2 x3 x4, Kept c x0 → Kept c (presentAt x0 x1 x2 x3 x4) := by
  intros
  unfold presentAt
  repeat' (with_reducible first
    | assumption
    | intro _
    | apply kept_raiseRails | apply kept_ite
    | split)

theorem kept_takeAt {c : Keep} : ∀ x0 x1 x2 x3, Kept c x0 → Kept c (takeAt x0 x1 x2 x3) := by
  intros
  unfold takeAt
  repeat' (with_reducible first
    | assumption
    | intro _
    | (rename _ = (_, _) => hq; first | (refine kept_fst_cut (c := c) hq ?_ ?_ <;> [clear hq; (clear hq; intro hr)]) | clear hq)
    | (extract_lets +onlyGivenNames xl; first | (refine kept_cut (c := c) (s := xl) ?_ ?_ <;> [subst xl; (intro hx; clear_value xl)]) | (refine keptP_cut (c := c) (p := xl) ?_ ?_ <;> [subst xl; (intro hx; clear_value xl)]) | subst xl)
    | apply kept_moveAck | apply kept_ite | apply keptP_ite | apply keptP_mk
    | apply kept_foldl | apply keptP_foldl
    | split)

theorem kept_storeRespond {c : Keep} : ∀ x0 x1 x2 x3, Kept c x0 → Kept c (storeRespond x0 x1 x2 x3) := by
  intros
  unfold storeRespond
  repeat' (with_reducible first
    | assumption
    | intro _
    | (extract_lets +onlyGivenNames xl; first | (refine kept_cut (c := c) (s := xl) ?_ ?_ <;> [subst xl; (intro hx; clear_value xl)]) | (refine keptP_cut (c := c) (p := xl) ?_ ?_ <;> [subst xl; (intro hx; clear_value xl)]) | subst xl)
    | apply kept_raiseRails | apply kept_setPort | apply kept_ite
    | split
    | apply kept_mk | apply queueOk_of | apply freshOk_of | apply freshOk_add | apply regsOk_of | apply mgcOk_of | apply fabOk_of | apply storeOk_of | apply cfgOk_of | apply dramsOk_of)

theorem kept_checkRow {c : Keep} : ∀ x0 x1 x2, Kept c x0 → Kept c x1 → Kept c (checkRow x0 x1 x2) := by
  intros
  unfold checkRow
  repeat' (with_reducible first
    | assumption
    | intro _
    | (extract_lets +onlyGivenNames xl; first | (refine kept_cut (c := c) (s := xl) ?_ ?_ <;> [subst xl; (intro hx; clear_value xl)]) | (refine keptP_cut (c := c) (p := xl) ?_ ?_ <;> [subst xl; (intro hx; clear_value xl)]) | subst xl)
    | apply kept_putBit | apply kept_setWord | apply kept_bump | apply kept_scrubReport | apply kept_raise | apply kept_put | apply kept_logState | apply kept_ite
    | split
    | apply kept_mk | apply queueOk_of | apply freshOk_of | apply freshOk_add | apply regsOk_of | apply mgcOk_of | apply fabOk_of | apply storeOk_of | apply cfgOk_of | apply dramsOk_of
    | apply fabOk_mk | apply framesOk_of)

theorem kept_checkRows {c : Keep} : ∀ x0 x1 x2, Kept c x0 → Kept c x1 → Kept c (checkRows x0 x1 x2) := by
  intros
  unfold checkRows
  repeat' (with_reducible first
    | assumption
    | intro _
    | (rename _ = (_, _) => hq; first | (refine kept_fst_cut (c := c) hq ?_ ?_ <;> [clear hq; (clear hq; intro hr)]) | clear hq)
    | (extract_lets +onlyGivenNames xl; first | (refine kept_cut (c := c) (s := xl) ?_ ?_ <;> [subst xl; (intro hx; clear_value xl)]) | (refine keptP_cut (c := c) (p := xl) ?_ ?_ <;> [subst xl; (intro hx; clear_value xl)]) | subst xl)
    | apply kept_rerouted | apply kept_checkRow | apply kept_ite | apply keptP_ite | apply keptP_mk
    | apply kept_foldl | apply keptP_foldl
    | split)

theorem kept_putFrame {c : Keep} : ∀ x0 x1 x2 x3 x4 x5, Kept c x0 → Kept c (putFrame x0 x1 x2 x3 x4 x5) := by
  intros
  unfold putFrame
  repeat' (with_reducible first
    | assumption
    | intro _
    | apply kept_ite
    | split
    | apply kept_mk | apply queueOk_of | apply freshOk_of | apply freshOk_add | apply regsOk_of | apply mgcOk_of | apply fabOk_of | apply storeOk_of | apply cfgOk_of | apply dramsOk_of
    | apply fabOk_mk | apply framesOk_of | apply framesOk_tput | apply framesOk_tdrop | exact framesOk_nil)

theorem kept_writeFrame {c : Keep} : ∀ x0 x1 x2, Kept c x0 → Kept c (writeFrame x0 x1 x2) := by
  intros
  unfold writeFrame
  repeat' (with_reducible first
    | assumption
    | intro _
    | apply kept_checkRows | apply kept_putFrame | apply kept_ite
    | split)

theorem kept_holdPorts {c : Keep} : ∀ x0 x1 x2 x3 x4, Kept c x0 → Kept c (holdPorts x0 x1 x2 x3 x4) := by
  intros
  unfold holdPorts
  repeat' (with_reducible first
    | assumption
    | intro _
    | (rename _ = (_, _) => hq; first | (refine kept_fst_cut (c := c) hq ?_ ?_ <;> [clear hq; (clear hq; intro hr)]) | clear hq)
    | (extract_lets +onlyGivenNames xl; first | (refine kept_cut (c := c) (s := xl) ?_ ?_ <;> [subst xl; (intro hx; clear_value xl)]) | (refine keptP_cut (c := c) (p := xl) ?_ ?_ <;> [subst xl; (intro hx; clear_value xl)]) | subst xl)
    | apply kept_ite | apply keptP_ite | apply keptP_mk
    | apply kept_foldl | apply keptP_foldl
    | split
    | apply kept_mk | apply queueOk_of | apply freshOk_of | apply freshOk_add | apply regsOk_of | apply mgcOk_of | apply fabOk_of | apply storeOk_of | apply cfgOk_of | apply dramsOk_of
    | apply fabOk_mk | apply framesOk_of)

theorem kept_portsReleased {c : Keep} : ∀ x0 x1, Kept c x0 → Kept c x1 → Kept c (portsReleased x0 x1) := by
  intros
  unfold portsReleased
  repeat' (with_reducible first
    | assumption
    | intro _
    | apply kept_rerouted | apply kept_ite
    | split
    | apply kept_mk | apply queueOk_of | apply freshOk_of | apply freshOk_add | apply regsOk_of | apply mgcOk_of | apply fabOk_of | apply storeOk_of | apply cfgOk_of | apply dramsOk_of
    | apply fabOk_mk | apply framesOk_of)

theorem kept_drainHearth {c : Keep} : ∀ x0 x1 x2, Kept c x0 → Kept c (drainHearth x0 x1 x2) := by
  intro s h x hs
  unfold drainHearth
  refine kept_rerouted _ _ hs (kept_setHearth _ _ _ ⟨hs.queue, hs.fresh, hs.regs, hs.mgc, ?_, hs.store, hs.cfg, hs.dram⟩)
  exact fabOk_foldl (fabOk_foldl (framesOk_of hs.fab) fun _ _ hf => hf) fun _ _ hf => hf

theorem kept_insertTile {c : Keep} : ∀ x0 x1 x2 x3, Kept c x0 → Kept c (insertTile x0 x1 x2 x3) := by
  intros
  unfold insertTile
  repeat' (with_reducible first
    | assumption
    | intro _
    | (rename _ = (_, _) => hq; first | (refine kept_fst_cut (c := c) hq ?_ ?_ <;> [clear hq; (clear hq; intro hr)]) | clear hq)
    | (extract_lets +onlyGivenNames xl; first | (refine kept_cut (c := c) (s := xl) ?_ ?_ <;> [subst xl; (intro hx; clear_value xl)]) | (refine keptP_cut (c := c) (p := xl) ?_ ?_ <;> [subst xl; (intro hx; clear_value xl)]) | subst xl)
    | apply kept_ite | apply keptP_ite | apply keptP_mk
    | apply kept_foldl | apply keptP_foldl
    | split
    | apply kept_mk | apply queueOk_of | apply freshOk_of | apply freshOk_add | apply regsOk_of | apply mgcOk_of | apply fabOk_of | apply storeOk_of | apply cfgOk_of | apply dramsOk_of
    | apply fabOk_mk | apply framesOk_of)

theorem kept_insertTokens {c : Keep} : ∀ x0 x1, Kept c x0 → Kept c (insertTokens x0 x1) := by
  intros
  unfold insertTokens
  repeat' (with_reducible first
    | assumption
    | intro _
    | (rename _ = (_, _) => hq; first | (refine kept_fst_cut (c := c) hq ?_ ?_ <;> [clear hq; (clear hq; intro hr)]) | clear hq)
    | (extract_lets +onlyGivenNames xl; first | (refine kept_cut (c := c) (s := xl) ?_ ?_ <;> [subst xl; (intro hx; clear_value xl)]) | (refine keptP_cut (c := c) (p := xl) ?_ ?_ <;> [subst xl; (intro hx; clear_value xl)]) | subst xl)
    | apply kept_insertTile | apply kept_ite | apply keptP_ite | apply keptP_mk
    | apply kept_foldl | apply keptP_foldl
    | split)

end Sys2Proof.Machine
end

