-- ==== Sys2Proof/Laws/KeptFifo.lean ====
section
/-! SUPPORT. What every operation of Machine/Fifo.lean keeps (Laws/Kept.lean). -/
set_option linter.unusedTactic false
set_option linter.unreachableTactic false
namespace Sys2Proof.Machine
open Sys2Proof

theorem kept_setFifo {c : Keep} : ∀ x0 x1 x2, Kept c x0 → Kept c (setFifo x0 x1 x2) := by
  intros
  unfold setFifo
  repeat' (with_reducible first
    | assumption
    | intro _
    | apply kept_ite
    | split
    | apply kept_mk | apply queueOk_of | apply freshOk_of | apply freshOk_add | apply regsOk_of | apply mgcOk_of | apply fabOk_of | apply storeOk_of | apply cfgOk_of | apply dramsOk_of)

theorem kept_fifoPush {c : Keep} : ∀ x0 x1 x2, Kept c x0 → KeptP c (fifoPush x0 x1 x2) := by
  intros
  unfold fifoPush
  repeat' (with_reducible first
    | assumption
    | intro _
    | (extract_lets +onlyGivenNames xl; first | (refine kept_cut (c := c) (s := xl) ?_ ?_ <;> [subst xl; (intro hx; clear_value xl)]) | (refine keptP_cut (c := c) (p := xl) ?_ ?_ <;> [subst xl; (intro hx; clear_value xl)]) | subst xl)
    | apply kept_bump | apply kept_put | apply kept_setFifo | apply kept_stallDone | apply kept_ite | apply keptP_ite | apply keptP_mk
    | split)

theorem kept_writerPush {c : Keep} : ∀ x0 x1 x2, Kept c x0 → Kept c (writerPush x0 x1 x2) := by
  intros
  unfold writerPush
  repeat' (with_reducible first
    | assumption
    | intro _
    | (rename _ = (_, _) => hq; first | (refine kept_fst_cut (c := c) hq ?_ ?_ <;> [clear hq; (clear hq; intro hr)]) | clear hq)
    | (extract_lets +onlyGivenNames xl; first | (refine kept_cut (c := c) (s := xl) ?_ ?_ <;> [subst xl; (intro hx; clear_value xl)]) | (refine keptP_cut (c := c) (p := xl) ?_ ?_ <;> [subst xl; (intro hx; clear_value xl)]) | subst xl)
    | (apply kept_fst; first | assumption | apply kept_fifoPush)
    | apply kept_fifoPush | apply kept_takeAt | apply kept_ite | apply keptP_ite | apply keptP_mk
    | split
    | apply kept_mk | apply queueOk_of | apply freshOk_of | apply freshOk_add | apply regsOk_of | apply mgcOk_of | apply fabOk_of | apply storeOk_of | apply cfgOk_of | apply dramsOk_of)

theorem kept_endFlushes {c : Keep} : ∀ x0 x1, Kept c x0 → Kept c (endFlushes x0 x1) := by
  intros
  unfold endFlushes
  repeat' (with_reducible first
    | assumption
    | intro _
    | (extract_lets +onlyGivenNames xl; first | (refine kept_cut (c := c) (s := xl) ?_ ?_ <;> [subst xl; (intro hx; clear_value xl)]) | (refine keptP_cut (c := c) (p := xl) ?_ ?_ <;> [subst xl; (intro hx; clear_value xl)]) | subst xl)
    | apply kept_setFifo | apply kept_put | apply kept_ite
    | split
    | apply kept_mk | apply queueOk_of | apply freshOk_of | apply freshOk_add | apply regsOk_of | apply mgcOk_of | apply fabOk_of | apply storeOk_of | apply cfgOk_of | apply dramsOk_of)

theorem kept_fifoPop {c : Keep} : ∀ x0 x1, Kept c x0 → KeptP c (fifoPop x0 x1) := by
  intros
  unfold fifoPop
  repeat' (with_reducible first
    | assumption
    | intro _
    | (extract_lets +onlyGivenNames xl; first | (refine kept_cut (c := c) (s := xl) ?_ ?_ <;> [subst xl; (intro hx; clear_value xl)]) | (refine keptP_cut (c := c) (p := xl) ?_ ?_ <;> [subst xl; (intro hx; clear_value xl)]) | subst xl)
    | apply kept_setFifo | apply kept_put | apply kept_endFlushes | apply kept_stallDone | apply kept_ite | apply keptP_ite | apply keptP_mk
    | split
    | apply kept_mk | apply queueOk_of | apply freshOk_of | apply freshOk_add | apply regsOk_of | apply mgcOk_of | apply fabOk_of | apply storeOk_of | apply cfgOk_of | apply dramsOk_of)

theorem kept_fifoSealCrossing {c : Keep} : ∀ x0 x1, Kept c x0 → Kept c (fifoSealCrossing x0 x1) := by
  intros
  unfold fifoSealCrossing
  repeat' (with_reducible first
    | assumption
    | intro _
    | (extract_lets +onlyGivenNames xl; first | (refine kept_cut (c := c) (s := xl) ?_ ?_ <;> [subst xl; (intro hx; clear_value xl)]) | (refine keptP_cut (c := c) (p := xl) ?_ ?_ <;> [subst xl; (intro hx; clear_value xl)]) | subst xl)
    | apply kept_setFifo | apply kept_ite
    | split)

theorem kept_execFifoSealTimeout {c : Keep} : ∀ x0 x1, Kept c x1 → KeptR c (execFifoSealTimeout x0 x1) := by
  intros
  unfold execFifoSealTimeout
  repeat' (with_reducible first
    | assumption
    | intro _
    | (extract_lets +onlyGivenNames xl; first | (refine kept_cut (c := c) (s := xl) ?_ ?_ <;> [subst xl; (intro hx; clear_value xl)]) | (refine keptP_cut (c := c) (p := xl) ?_ ?_ <;> [subst xl; (intro hx; clear_value xl)]) | subst xl)
    | apply kept_setFifo | apply keptR_ite | apply keptR_next | apply kept_ite
    | split
    | apply kept_mk | apply queueOk_of | apply freshOk_of | apply freshOk_add | apply regsOk_of | apply mgcOk_of | apply fabOk_of | apply storeOk_of | apply cfgOk_of | apply dramsOk_of)

theorem kept_flushWrite {c : Keep} : ∀ x0 x1, Kept c x0 → Kept c (flushWrite x0 x1) := by
  intros
  unfold flushWrite
  repeat' (with_reducible first
    | assumption
    | intro _
    | (extract_lets +onlyGivenNames xl; first | (refine kept_cut (c := c) (s := xl) ?_ ?_ <;> [subst xl; (intro hx; clear_value xl)]) | (refine keptP_cut (c := c) (p := xl) ?_ ?_ <;> [subst xl; (intro hx; clear_value xl)]) | subst xl)
    | apply kept_put | apply kept_ite
    | split)

theorem kept_clearWrite {c : Keep} : ∀ x0 x1, Kept c x0 → Kept c (clearWrite x0 x1) := by
  intros
  unfold clearWrite
  repeat' (with_reducible first
    | assumption
    | intro _
    | apply kept_put | apply kept_ite
    | split)

theorem kept_flushPoint {c : Keep} : ∀ x0 x1, Kept c x0 → Kept c (flushPoint x0 x1) := by
  intros
  unfold flushPoint
  repeat' (with_reducible first
    | assumption
    | intro _
    | (extract_lets +onlyGivenNames xl; first | (refine kept_cut (c := c) (s := xl) ?_ ?_ <;> [subst xl; (intro hx; clear_value xl)]) | (refine keptP_cut (c := c) (p := xl) ?_ ?_ <;> [subst xl; (intro hx; clear_value xl)]) | subst xl)
    | apply kept_setFifo | apply kept_ite
    | split
    | apply kept_mk | apply queueOk_of | apply freshOk_of | apply freshOk_add | apply regsOk_of | apply mgcOk_of | apply fabOk_of | apply storeOk_of | apply cfgOk_of | apply dramsOk_of)

theorem kept_flushReader {c : Keep} : ∀ x0 x1, Kept c x0 → Kept c (flushReader x0 x1) := by
  intros
  unfold flushReader
  repeat' (with_reducible first
    | assumption
    | intro _
    | (extract_lets +onlyGivenNames xl; first | (refine kept_cut (c := c) (s := xl) ?_ ?_ <;> [subst xl; (intro hx; clear_value xl)]) | (refine keptP_cut (c := c) (p := xl) ?_ ?_ <;> [subst xl; (intro hx; clear_value xl)]) | subst xl)
    | apply kept_bump | apply kept_endFlushes | apply kept_setFifo | apply kept_ite
    | split
    | apply kept_mk | apply queueOk_of | apply freshOk_of | apply freshOk_add | apply regsOk_of | apply mgcOk_of | apply fabOk_of | apply storeOk_of | apply cfgOk_of | apply dramsOk_of)

theorem kept_clearPoint {c : Keep} : ∀ x0 x1, Kept c x0 → Kept c (clearPoint x0 x1) := by
  intros
  unfold clearPoint
  repeat' (with_reducible first
    | assumption
    | intro _
    | (extract_lets +onlyGivenNames xl; first | (refine kept_cut (c := c) (s := xl) ?_ ?_ <;> [subst xl; (intro hx; clear_value xl)]) | (refine keptP_cut (c := c) (p := xl) ?_ ?_ <;> [subst xl; (intro hx; clear_value xl)]) | subst xl)
    | apply kept_bump | apply kept_put | apply kept_setFifo | apply kept_ite
    | split
    | apply kept_mk | apply queueOk_of | apply freshOk_of | apply freshOk_add | apply regsOk_of | apply mgcOk_of | apply fabOk_of | apply storeOk_of | apply cfgOk_of | apply dramsOk_of)

theorem kept_clearReader {c : Keep} : ∀ x0 x1, Kept c x0 → Kept c (clearReader x0 x1) := by
  intros
  unfold clearReader
  repeat' (with_reducible first
    | assumption
    | intro _
    | (extract_lets +onlyGivenNames xl; first | (refine kept_cut (c := c) (s := xl) ?_ ?_ <;> [subst xl; (intro hx; clear_value xl)]) | (refine keptP_cut (c := c) (p := xl) ?_ ?_ <;> [subst xl; (intro hx; clear_value xl)]) | subst xl)
    | apply kept_bump | apply kept_setFifo | apply kept_put | apply kept_ite
    | split
    | apply kept_mk | apply queueOk_of | apply freshOk_of | apply freshOk_add | apply regsOk_of | apply mgcOk_of | apply fabOk_of | apply storeOk_of | apply cfgOk_of | apply dramsOk_of)

theorem kept_execFifoFlushPkt {c : Keep} : ∀ x0 x1, Kept c x1 → KeptR c (execFifoFlushPkt x0 x1) := by
  intros
  unfold execFifoFlushPkt
  repeat' (with_reducible first
    | assumption
    | intro _
    | apply kept_flushWrite | apply keptR_ite | apply keptR_next | apply kept_ite
    | split)

theorem kept_execFifoFlushPoint {c : Keep} : ∀ x0 x1, Kept c x1 → KeptR c (execFifoFlushPoint x0 x1) := by
  intros
  unfold execFifoFlushPoint
  repeat' (with_reducible first
    | assumption
    | intro _
    | apply kept_flushPoint | apply keptR_ite | apply keptR_next | apply kept_ite
    | split)

theorem kept_execFifoFlushReader {c : Keep} : ∀ x0 x1, Kept c x1 → KeptR c (execFifoFlushReader x0 x1) := by
  intros
  unfold execFifoFlushReader
  repeat' (with_reducible first
    | assumption
    | intro _
    | apply kept_flushReader | apply keptR_ite | apply keptR_next | apply kept_ite
    | split)

theorem kept_execFifoClearNow {c : Keep} : ∀ x0 x1, Kept c x1 → KeptR c (execFifoClearNow x0 x1) := by
  intros
  unfold execFifoClearNow
  repeat' (with_reducible first
    | assumption
    | intro _
    | apply kept_clearWrite | apply keptR_ite | apply keptR_next | apply kept_ite
    | split)

theorem kept_execFifoClearPoint {c : Keep} : ∀ x0 x1, Kept c x1 → KeptR c (execFifoClearPoint x0 x1) := by
  intros
  unfold execFifoClearPoint
  repeat' (with_reducible first
    | assumption
    | intro _
    | apply kept_clearPoint | apply keptR_ite | apply keptR_next | apply kept_ite
    | split)

theorem kept_execFifoClearReader {c : Keep} : ∀ x0 x1, Kept c x1 → KeptR c (execFifoClearReader x0 x1) := by
  intros
  unfold execFifoClearReader
  repeat' (with_reducible first
    | assumption
    | intro _
    | apply kept_clearReader | apply keptR_ite | apply keptR_next | apply kept_ite
    | split)

theorem kept_execFifoCntClear {c : Keep} : ∀ x0 x1, Kept c x1 → KeptR c (execFifoCntClear x0 x1) := by
  intros
  unfold execFifoCntClear
  repeat' (with_reducible first
    | assumption
    | intro _
    | apply kept_setWord | apply keptR_ite | apply keptR_next | apply kept_ite
    | split)

theorem kept_execFifoSealToWrite {c : Keep} : ∀ x0 x1 x2 x3, Kept c x3 → KeptR c (execFifoSealToWrite x0 x1 x2 x3) := by
  intros
  unfold execFifoSealToWrite
  repeat' (with_reducible first
    | assumption
    | intro _
    | apply kept_put | apply keptR_ite | apply keptR_next | apply kept_ite
    | split)

theorem kept_dropWaiting {c : Keep} : ∀ x0 x1, Kept c x0 → Kept c (dropWaiting x0 x1) := by
  intro s f h
  unfold dropWaiting
  split
  · exact ⟨h.queue, h.fresh, h.regs, h.mgc, h.fab, h.store, h.cfg, dramsOk_tput h.dram (memOk_of (h.dram _))⟩
  · exact h

theorem kept_fifoDiscard {c : Keep} : ∀ x0 x1, Kept c x0 → Kept c (fifoDiscard x0 x1) := by
  intros
  unfold fifoDiscard
  repeat' (with_reducible first
    | assumption
    | intro _
    | (extract_lets +onlyGivenNames xl; first | (refine kept_cut (c := c) (s := xl) ?_ ?_ <;> [subst xl; (intro hx; clear_value xl)]) | (refine keptP_cut (c := c) (p := xl) ?_ ?_ <;> [subst xl; (intro hx; clear_value xl)]) | subst xl)
    | apply kept_dropWaiting | apply kept_bump | apply kept_put | apply kept_setFifo | apply kept_raise | apply kept_ite
    | split
    | apply kept_mk | apply queueOk_of | apply freshOk_of | apply freshOk_add | apply regsOk_of | apply mgcOk_of | apply fabOk_of | apply storeOk_of | apply cfgOk_of | apply dramsOk_of | apply mgcOk_mk | apply logOk_of | apply holdOk_of | apply queuesOk_of | exact logOk_nil | exact holdOk_nil | exact queuesOk_nil)

theorem kept_mailboxPush {c : Keep} : ∀ x0 x1 x2 x3, Kept c x0 → Kept c (mailboxPush x0 x1 x2 x3) := by
  intros
  unfold mailboxPush
  repeat' (with_reducible first
    | assumption
    | intro _
    | (rename _ = (_, _) => hq; first | (refine kept_fst_cut (c := c) hq ?_ ?_ <;> [clear hq; (clear hq; intro hr)]) | clear hq)
    | (extract_lets +onlyGivenNames xl; first | (refine kept_cut (c := c) (s := xl) ?_ ?_ <;> [subst xl; (intro hx; clear_value xl)]) | (refine keptP_cut (c := c) (p := xl) ?_ ?_ <;> [subst xl; (intro hx; clear_value xl)]) | subst xl)
    | (apply kept_fst; first | assumption | apply kept_fifoPush)
    | apply kept_put | apply kept_fifoPush | apply kept_ite | apply keptP_ite | apply keptP_mk
    | split)

theorem kept_mailboxPop {c : Keep} : ∀ x0 x1, Kept c x0 → Kept c (mailboxPop x0 x1) := by
  intros
  unfold mailboxPop
  repeat' (with_reducible first
    | assumption
    | intro _
    | (rename _ = (_, _) => hq; first | (refine kept_fst_cut (c := c) hq ?_ ?_ <;> [clear hq; (clear hq; intro hr)]) | clear hq)
    | (apply kept_fst; first | assumption | apply kept_fifoPop)
    | apply kept_fifoPop | apply kept_put | apply kept_setWord | apply kept_ite | apply keptP_ite | apply keptP_mk
    | split
    | apply kept_mk | apply queueOk_of | apply freshOk_of | apply freshOk_add | apply regsOk_of | apply mgcOk_of | apply fabOk_of | apply storeOk_of | apply cfgOk_of | apply dramsOk_of)

theorem kept_execMailboxPush {c : Keep} : ∀ x0 x1 x2 x3, Kept c x3 → KeptR c (execMailboxPush x0 x1 x2 x3) := by
  intros
  unfold execMailboxPush
  repeat' (with_reducible first
    | assumption
    | intro _
    | apply kept_mailboxPush | apply keptR_ite | apply keptR_next | apply kept_ite
    | split)

theorem kept_execMailboxPop {c : Keep} : ∀ x0 x1, Kept c x1 → KeptR c (execMailboxPop x0 x1) := by
  intros
  unfold execMailboxPop
  repeat' (with_reducible first
    | assumption
    | intro _
    | apply kept_mailboxPop | apply keptR_ite | apply keptR_next | apply kept_ite
    | split)

end Sys2Proof.Machine
end

