-- ==== Sys2Proof/Laws/KeptHinge.lean ====
section
/-! SUPPORT. What every operation of Machine/Hinge.lean keeps (Laws/Kept.lean). -/
set_option linter.unusedTactic false
set_option linter.unreachableTactic false
namespace Sys2Proof.Machine
open Sys2Proof

theorem kept_setEv {c : Keep} : ∀ x0 x1 x2, Kept c x0 → Kept c (setEv x0 x1 x2) := by
  intros
  unfold setEv
  repeat' (with_reducible first
    | assumption
    | intro _
    | apply kept_ite
    | split
    | apply kept_mk | apply queueOk_of | apply freshOk_of | apply freshOk_add | apply regsOk_of | apply mgcOk_of | apply fabOk_of | apply storeOk_of | apply cfgOk_of | apply dramsOk_of)

theorem kept_setWd {c : Keep} : ∀ x0 x1 x2, Kept c x0 → Kept c (setWd x0 x1 x2) := by
  intros
  unfold setWd
  repeat' (with_reducible first
    | assumption
    | intro _
    | apply kept_ite
    | split
    | apply kept_mk | apply queueOk_of | apply freshOk_of | apply freshOk_add | apply regsOk_of | apply mgcOk_of | apply fabOk_of | apply storeOk_of | apply cfgOk_of | apply dramsOk_of)

theorem kept_doorbellDone {c : Keep} : ∀ x0 x1, Kept c x0 → Kept c (doorbellDone x0 x1) := by
  intros
  unfold doorbellDone
  repeat' (with_reducible first
    | assumption
    | intro _
    | apply kept_putBit | apply kept_ite
    | split)

theorem kept_mergeEvent {c : Keep} : ∀ x0 x1, Kept c x0 → Kept c (mergeEvent x0 x1) := by
  intros
  unfold mergeEvent
  repeat' (with_reducible first
    | assumption
    | intro _
    | (extract_lets +onlyGivenNames xl; first | (refine kept_cut (c := c) (s := xl) ?_ ?_ <;> [subst xl; (intro hx; clear_value xl)]) | (refine keptP_cut (c := c) (p := xl) ?_ ?_ <;> [subst xl; (intro hx; clear_value xl)]) | subst xl)
    | apply kept_bump | apply kept_put | apply kept_raise | apply kept_ite
    | split)

theorem kept_takeEvent {c : Keep} : ∀ x0 x1, Kept c x0 → Kept c (takeEvent x0 x1) := by
  intros
  unfold takeEvent
  repeat' (with_reducible first
    | assumption
    | intro _
    | apply kept_takeAt | apply kept_ite
    | split)

theorem kept_offerEvent {c : Keep} : ∀ x0 x1, Kept c x0 → Kept c (offerEvent x0 x1) := by
  intros
  unfold offerEvent
  repeat' (with_reducible first
    | assumption
    | intro _
    | (extract_lets +onlyGivenNames xl; first | (refine kept_cut (c := c) (s := xl) ?_ ?_ <;> [subst xl; (intro hx; clear_value xl)]) | (refine keptP_cut (c := c) (p := xl) ?_ ?_ <;> [subst xl; (intro hx; clear_value xl)]) | subst xl)
    | apply kept_doorbellDone | apply kept_bump | apply kept_takeEvent | apply kept_setEv | apply kept_mergeEvent | apply kept_put | apply kept_ite
    | split
    | apply kept_mk | apply queueOk_of | apply freshOk_of | apply freshOk_add | apply regsOk_of | apply mgcOk_of | apply fabOk_of | apply storeOk_of | apply cfgOk_of | apply dramsOk_of)

theorem kept_eventAckSeen {c : Keep} : ∀ x0 x1, Kept c x0 → Kept c (eventAckSeen x0 x1) := by
  intros
  unfold eventAckSeen
  repeat' (with_reducible first
    | assumption
    | intro _
    | (extract_lets +onlyGivenNames xl; first | (refine kept_cut (c := c) (s := xl) ?_ ?_ <;> [subst xl; (intro hx; clear_value xl)]) | (refine keptP_cut (c := c) (p := xl) ?_ ?_ <;> [subst xl; (intro hx; clear_value xl)]) | subst xl)
    | apply kept_setEv | apply kept_ite
    | split
    | apply kept_mk | apply queueOk_of | apply freshOk_of | apply freshOk_add | apply regsOk_of | apply mgcOk_of | apply fabOk_of | apply storeOk_of | apply cfgOk_of | apply dramsOk_of)

theorem kept_eventTaken {c : Keep} : ∀ x0 x1, Kept c x0 → Kept c (eventTaken x0 x1) := by
  intros
  unfold eventTaken
  repeat' (with_reducible first
    | assumption
    | intro _
    | (extract_lets +onlyGivenNames xl; first | (refine kept_cut (c := c) (s := xl) ?_ ?_ <;> [subst xl; (intro hx; clear_value xl)]) | (refine keptP_cut (c := c) (p := xl) ?_ ?_ <;> [subst xl; (intro hx; clear_value xl)]) | subst xl)
    | apply kept_setEv | apply kept_ite
    | split
    | apply kept_mk | apply queueOk_of | apply freshOk_of | apply freshOk_add | apply regsOk_of | apply mgcOk_of | apply fabOk_of | apply storeOk_of | apply cfgOk_of | apply dramsOk_of)

theorem kept_eventReqLow {c : Keep} : ∀ x0 x1, Kept c x0 → Kept c (eventReqLow x0 x1) := by
  intros
  unfold eventReqLow
  repeat' (with_reducible first
    | assumption
    | intro _
    | (extract_lets +onlyGivenNames xl; first | (refine kept_cut (c := c) (s := xl) ?_ ?_ <;> [subst xl; (intro hx; clear_value xl)]) | (refine keptP_cut (c := c) (p := xl) ?_ ?_ <;> [subst xl; (intro hx; clear_value xl)]) | subst xl)
    | apply kept_setEv | apply kept_ite
    | split
    | apply kept_mk | apply queueOk_of | apply freshOk_of | apply freshOk_add | apply regsOk_of | apply mgcOk_of | apply fabOk_of | apply storeOk_of | apply cfgOk_of | apply dramsOk_of)

theorem kept_eventComplete {c : Keep} : ∀ x0 x1, Kept c x0 → Kept c (eventComplete x0 x1) := by
  intros
  unfold eventComplete
  repeat' (with_reducible first
    | assumption
    | intro _
    | (extract_lets +onlyGivenNames xl; first | (refine kept_cut (c := c) (s := xl) ?_ ?_ <;> [subst xl; (intro hx; clear_value xl)]) | (refine keptP_cut (c := c) (p := xl) ?_ ?_ <;> [subst xl; (intro hx; clear_value xl)]) | subst xl)
    | apply kept_stallDone | apply kept_setEv | apply kept_put | apply kept_doorbellDone | apply kept_ite
    | split
    | apply kept_mk | apply queueOk_of | apply freshOk_of | apply freshOk_add | apply regsOk_of | apply mgcOk_of | apply fabOk_of | apply storeOk_of | apply cfgOk_of | apply dramsOk_of)

theorem kept_execEventTaken {c : Keep} : ∀ x0 x1, Kept c x1 → KeptR c (execEventTaken x0 x1) := by
  intros
  unfold execEventTaken
  repeat' (with_reducible first
    | assumption
    | intro _
    | apply kept_eventTaken | apply keptR_ite | apply keptR_next | apply kept_ite
    | split)

theorem kept_execEventAckSeen {c : Keep} : ∀ x0 x1, Kept c x1 → KeptR c (execEventAckSeen x0 x1) := by
  intros
  unfold execEventAckSeen
  repeat' (with_reducible first
    | assumption
    | intro _
    | apply kept_eventAckSeen | apply keptR_ite | apply keptR_next | apply kept_ite
    | split)

theorem kept_execEventReqLowSeen {c : Keep} : ∀ x0 x1, Kept c x1 → KeptR c (execEventReqLowSeen x0 x1) := by
  intros
  unfold execEventReqLowSeen
  repeat' (with_reducible first
    | assumption
    | intro _
    | apply kept_eventReqLow | apply keptR_ite | apply keptR_next | apply kept_ite
    | split)

theorem kept_execEventCrossingComplete {c : Keep} : ∀ x0 x1, Kept c x1 → KeptR c (execEventCrossingComplete x0 x1) := by
  intros
  unfold execEventCrossingComplete
  repeat' (with_reducible first
    | assumption
    | intro _
    | apply kept_eventComplete | apply keptR_ite | apply keptR_next | apply kept_ite
    | split)

theorem kept_countJump {c : Keep} : ∀ x0 x1, Kept c x0 → Kept c (countJump x0 x1) := by
  intros
  unfold countJump
  repeat' (with_reducible first
    | assumption
    | intro _
    | (extract_lets +onlyGivenNames xl; first | (refine kept_cut (c := c) (s := xl) ?_ ?_ <;> [subst xl; (intro hx; clear_value xl)]) | (refine keptP_cut (c := c) (p := xl) ?_ ?_ <;> [subst xl; (intro hx; clear_value xl)]) | subst xl)
    | apply kept_bump | apply kept_put | apply kept_raise | apply kept_ite
    | split)

theorem kept_wdPresent {c : Keep} : ∀ x0 x1, Kept c x0 → Kept c (wdPresent x0 x1) := by
  intros
  unfold wdPresent
  repeat' (with_reducible first
    | assumption
    | intro _
    | (extract_lets +onlyGivenNames xl; first | (refine kept_cut (c := c) (s := xl) ?_ ?_ <;> [subst xl; (intro hx; clear_value xl)]) | (refine keptP_cut (c := c) (p := xl) ?_ ?_ <;> [subst xl; (intro hx; clear_value xl)]) | subst xl)
    | apply kept_presentAt | apply kept_setWd | apply kept_ite
    | split
    | apply kept_mk | apply queueOk_of | apply freshOk_of | apply freshOk_add | apply regsOk_of | apply mgcOk_of | apply fabOk_of | apply storeOk_of | apply cfgOk_of | apply dramsOk_of)

theorem kept_wdNotify {c : Keep} : ∀ x0 x1, Kept c x0 → Kept c (wdNotify x0 x1) := by
  intros
  unfold wdNotify
  repeat' (with_reducible first
    | assumption
    | intro _
    | (extract_lets +onlyGivenNames xl; first | (refine kept_cut (c := c) (s := xl) ?_ ?_ <;> [subst xl; (intro hx; clear_value xl)]) | (refine keptP_cut (c := c) (p := xl) ?_ ?_ <;> [subst xl; (intro hx; clear_value xl)]) | subst xl)
    | apply kept_setWd | apply kept_wdPresent | apply kept_ite
    | split
    | apply kept_mk | apply queueOk_of | apply freshOk_of | apply freshOk_add | apply regsOk_of | apply mgcOk_of | apply fabOk_of | apply storeOk_of | apply cfgOk_of | apply dramsOk_of)

theorem kept_wdNotices {c : Keep} : ∀ x0, Kept c x0 → Kept c (wdNotices x0) := by
  intros
  unfold wdNotices
  repeat' (with_reducible first
    | assumption
    | intro _
    | (rename _ = (_, _) => hq; first | (refine kept_fst_cut (c := c) hq ?_ ?_ <;> [clear hq; (clear hq; intro hr)]) | clear hq)
    | (extract_lets +onlyGivenNames xl; first | (refine kept_cut (c := c) (s := xl) ?_ ?_ <;> [subst xl; (intro hx; clear_value xl)]) | (refine keptP_cut (c := c) (p := xl) ?_ ?_ <;> [subst xl; (intro hx; clear_value xl)]) | subst xl)
    | apply kept_wdNotify | apply kept_ite | apply keptP_ite | apply keptP_mk
    | apply kept_foldl | apply keptP_foldl
    | split)

theorem kept_wordWrite {c : Keep} : ∀ x0 x1 x2, Kept c x0 → Kept c (wordWrite x0 x1 x2) := by
  intros
  unfold wordWrite
  repeat' (with_reducible first
    | assumption
    | intro _
    | (extract_lets +onlyGivenNames xl; first | (refine kept_cut (c := c) (s := xl) ?_ ?_ <;> [subst xl; (intro hx; clear_value xl)]) | (refine keptP_cut (c := c) (p := xl) ?_ ?_ <;> [subst xl; (intro hx; clear_value xl)]) | subst xl)
    | apply kept_setWd | apply kept_setWord | apply kept_wdNotify | apply kept_countJump | apply kept_ite
    | split
    | apply kept_mk | apply queueOk_of | apply freshOk_of | apply freshOk_add | apply regsOk_of | apply mgcOk_of | apply fabOk_of | apply storeOk_of | apply cfgOk_of | apply dramsOk_of)

theorem kept_timebaseViews {c : Keep} : ∀ x0, Kept c x0 → Kept c (timebaseViews x0) := by
  intros
  unfold timebaseViews
  repeat' (with_reducible first
    | assumption
    | intro _
    | (rename _ = (_, _) => hq; first | (refine kept_fst_cut (c := c) hq ?_ ?_ <;> [clear hq; (clear hq; intro hr)]) | clear hq)
    | (extract_lets +onlyGivenNames xl; first | (refine kept_cut (c := c) (s := xl) ?_ ?_ <;> [subst xl; (intro hx; clear_value xl)]) | (refine keptP_cut (c := c) (p := xl) ?_ ?_ <;> [subst xl; (intro hx; clear_value xl)]) | subst xl)
    | apply kept_wordWrite | apply kept_ite | apply keptP_ite | apply keptP_mk
    | apply kept_foldl | apply keptP_foldl
    | split)

theorem kept_timebaseJump {c : Keep} : ∀ x0, Kept c x0 → Kept c (timebaseJump x0) := by
  intros
  unfold timebaseJump
  repeat' (with_reducible first
    | assumption
    | intro _
    | (rename _ = (_, _) => hq; first | (refine kept_fst_cut (c := c) hq ?_ ?_ <;> [clear hq; (clear hq; intro hr)]) | clear hq)
    | (extract_lets +onlyGivenNames xl; first | (refine kept_cut (c := c) (s := xl) ?_ ?_ <;> [subst xl; (intro hx; clear_value xl)]) | (refine keptP_cut (c := c) (p := xl) ?_ ?_ <;> [subst xl; (intro hx; clear_value xl)]) | subst xl)
    | apply kept_countJump | apply kept_timebaseViews | apply kept_ite | apply keptP_ite | apply keptP_mk
    | apply kept_foldl | apply keptP_foldl
    | split)

theorem kept_wordVisible {c : Keep} : ∀ x0 x1, Kept c x0 → Kept c (wordVisible x0 x1) := by
  intros
  unfold wordVisible
  repeat' (with_reducible first
    | assumption
    | intro _
    | (extract_lets +onlyGivenNames xl; first | (refine kept_cut (c := c) (s := xl) ?_ ?_ <;> [subst xl; (intro hx; clear_value xl)]) | (refine keptP_cut (c := c) (p := xl) ?_ ?_ <;> [subst xl; (intro hx; clear_value xl)]) | subst xl)
    | apply kept_setWd | apply kept_setWord | apply kept_wdNotify | apply kept_ite
    | split
    | apply kept_mk | apply queueOk_of | apply freshOk_of | apply freshOk_add | apply regsOk_of | apply mgcOk_of | apply fabOk_of | apply storeOk_of | apply cfgOk_of | apply dramsOk_of)

theorem kept_wordSample {c : Keep} : ∀ x0 x1, Kept c x0 → Kept c (wordSample x0 x1) := by
  intros
  unfold wordSample
  repeat' (with_reducible first
    | assumption
    | intro _
    | (extract_lets +onlyGivenNames xl; first | (refine kept_cut (c := c) (s := xl) ?_ ?_ <;> [subst xl; (intro hx; clear_value xl)]) | (refine keptP_cut (c := c) (p := xl) ?_ ?_ <;> [subst xl; (intro hx; clear_value xl)]) | subst xl)
    | apply kept_takeAt | apply kept_wdPresent | apply kept_ite
    | split)

theorem kept_wordToken {c : Keep} : ∀ x0 x1, Kept c x0 → Kept c (wordToken x0 x1) := by
  intros
  unfold wordToken
  repeat' (with_reducible first
    | assumption
    | intro _
    | (extract_lets +onlyGivenNames xl; first | (refine kept_cut (c := c) (s := xl) ?_ ?_ <;> [subst xl; (intro hx; clear_value xl)]) | (refine keptP_cut (c := c) (p := xl) ?_ ?_ <;> [subst xl; (intro hx; clear_value xl)]) | subst xl)
    | apply kept_setWd | apply kept_ite
    | split
    | apply kept_mk | apply queueOk_of | apply freshOk_of | apply freshOk_add | apply regsOk_of | apply mgcOk_of | apply fabOk_of | apply storeOk_of | apply cfgOk_of | apply dramsOk_of)

theorem kept_wordOutWrite {c : Keep} : ∀ x0 x1, Kept c x0 → Kept c (wordOutWrite x0 x1) := by
  intros
  unfold wordOutWrite
  repeat' (with_reducible first
    | assumption
    | intro _
    | (extract_lets +onlyGivenNames xl; first | (refine kept_cut (c := c) (s := xl) ?_ ?_ <;> [subst xl; (intro hx; clear_value xl)]) | (refine keptP_cut (c := c) (p := xl) ?_ ?_ <;> [subst xl; (intro hx; clear_value xl)]) | subst xl)
    | apply kept_takeAt | apply kept_stallDone | apply kept_setWd | apply kept_setWord | apply kept_countJump | apply kept_ite
    | split
    | apply kept_mk | apply queueOk_of | apply freshOk_of | apply freshOk_add | apply regsOk_of | apply mgcOk_of | apply fabOk_of | apply storeOk_of | apply cfgOk_of | apply dramsOk_of)

theorem kept_wordValid {c : Keep} : ∀ x0 x1, Kept c x0 → Kept c (wordValid x0 x1) := by
  intros
  unfold wordValid
  repeat' (with_reducible first
    | assumption
    | intro _
    | (extract_lets +onlyGivenNames xl; first | (refine kept_cut (c := c) (s := xl) ?_ ?_ <;> [subst xl; (intro hx; clear_value xl)]) | (refine keptP_cut (c := c) (p := xl) ?_ ?_ <;> [subst xl; (intro hx; clear_value xl)]) | subst xl)
    | apply kept_setWd | apply kept_ite
    | split
    | apply kept_mk | apply queueOk_of | apply freshOk_of | apply freshOk_add | apply regsOk_of | apply mgcOk_of | apply fabOk_of | apply storeOk_of | apply cfgOk_of | apply dramsOk_of)

theorem kept_execWordValueWrite {c : Keep} : ∀ x0 x1 x2, Kept c x2 → KeptR c (execWordValueWrite x0 x1 x2) := by
  intros
  unfold execWordValueWrite
  repeat' (with_reducible first
    | assumption
    | intro _
    | apply kept_wordWrite | apply keptR_ite | apply keptR_next | apply kept_ite
    | split)

theorem kept_execWordValueVisible {c : Keep} : ∀ x0 x1, Kept c x1 → KeptR c (execWordValueVisible x0 x1) := by
  intros
  unfold execWordValueVisible
  repeat' (with_reducible first
    | assumption
    | intro _
    | apply kept_wordVisible | apply keptR_ite | apply keptR_next | apply kept_ite
    | split)

theorem kept_execWordOutToken {c : Keep} : ∀ x0 x1, Kept c x1 → KeptR c (execWordOutToken x0 x1) := by
  intros
  unfold execWordOutToken
  repeat' (with_reducible first
    | assumption
    | intro _
    | apply kept_wordToken | apply keptR_ite | apply keptR_next | apply kept_ite
    | split)

theorem kept_execWordValidRestore {c : Keep} : ∀ x0 x1, Kept c x1 → KeptR c (execWordValidRestore x0 x1) := by
  intros
  unfold execWordValidRestore
  repeat' (with_reducible first
    | assumption
    | intro _
    | apply kept_wordValid | apply keptR_ite | apply keptR_next | apply kept_ite
    | split)

theorem kept_ctlRelease {c : Keep} : ∀ x0, Kept c x0 → Kept c (ctlRelease x0) := by
  intros
  unfold ctlRelease
  repeat' (with_reducible first
    | assumption
    | intro _
    | (extract_lets +onlyGivenNames xl; first | (refine kept_cut (c := c) (s := xl) ?_ ?_ <;> [subst xl; (intro hx; clear_value xl)]) | (refine keptP_cut (c := c) (p := xl) ?_ ?_ <;> [subst xl; (intro hx; clear_value xl)]) | subst xl)
    | apply kept_stallDone | apply kept_ite
    | split
    | apply kept_mk | apply queueOk_of | apply freshOk_of | apply freshOk_add | apply regsOk_of | apply mgcOk_of | apply fabOk_of | apply storeOk_of | apply cfgOk_of | apply dramsOk_of)

theorem kept_ctlCapture {c : Keep} : ∀ x0 x1, Kept c x0 → Kept c (ctlCapture x0 x1) := by
  intros
  unfold ctlCapture
  repeat' (with_reducible first
    | assumption
    | intro _
    | apply kept_takeAt | apply kept_ite
    | split
    | apply kept_mk | apply queueOk_of | apply freshOk_of | apply freshOk_add | apply regsOk_of | apply mgcOk_of | apply fabOk_of | apply storeOk_of | apply cfgOk_of | apply dramsOk_of)

theorem kept_ctlRespond {c : Keep} : ∀ x0, Kept c x0 → Kept c (ctlRespond x0) := by
  intros
  unfold ctlRespond
  repeat' (with_reducible first
    | assumption
    | intro _
    | (extract_lets +onlyGivenNames xl; first | (refine kept_cut (c := c) (s := xl) ?_ ?_ <;> [subst xl; (intro hx; clear_value xl)]) | (refine keptP_cut (c := c) (p := xl) ?_ ?_ <;> [subst xl; (intro hx; clear_value xl)]) | subst xl)
    | apply kept_presentAt | apply kept_ite
    | split
    | apply kept_mk | apply queueOk_of | apply freshOk_of | apply freshOk_add | apply regsOk_of | apply mgcOk_of | apply fabOk_of | apply storeOk_of | apply cfgOk_of | apply dramsOk_of)

theorem kept_execCtlhResponse {c : Keep} : ∀ x0, Kept c x0 → KeptR c (execCtlhResponse x0) := by
  intros
  unfold execCtlhResponse
  repeat' (with_reducible first
    | assumption
    | intro _
    | apply kept_ctlRespond | apply keptR_ite | apply keptR_next | apply kept_ite
    | split)

theorem kept_stallsTaken {c : Keep} : ∀ x0, Kept c x0 → Kept c (stallsTaken x0) := by
  intros
  unfold stallsTaken
  repeat' (with_reducible first
    | assumption
    | intro _
    | (rename _ = (_, _) => hq; first | (refine kept_fst_cut (c := c) hq ?_ ?_ <;> [clear hq; (clear hq; intro hr)]) | clear hq)
    | (extract_lets +onlyGivenNames xl; first | (refine kept_cut (c := c) (s := xl) ?_ ?_ <;> [subst xl; (intro hx; clear_value xl)]) | (refine keptP_cut (c := c) (p := xl) ?_ ?_ <;> [subst xl; (intro hx; clear_value xl)]) | subst xl)
    | apply kept_stallDone | apply kept_ite | apply keptP_ite | apply keptP_mk
    | apply kept_foldl | apply keptP_foldl
    | split)

theorem kept_tokensTaken {c : Keep} : ∀ x0, Kept c x0 → Kept c (tokensTaken x0) := by
  intros
  unfold tokensTaken
  repeat' (with_reducible first
    | assumption
    | intro _
    | apply kept_stallsTaken | apply kept_ctlRelease | apply kept_ite
    | split)

theorem kept_execEventOffered {c : Keep} : ∀ x0 x1, Kept c x1 → KeptR c (execEventOffered x0 x1) := by
  intros
  unfold execEventOffered
  repeat' (with_reducible first
    | assumption
    | intro _
    | apply kept_tokensTaken | apply kept_offerEvent | apply keptR_ite | apply keptR_next | apply kept_ite
    | split)

theorem kept_execWordSampleRequest {c : Keep} : ∀ x0 x1, Kept c x1 → KeptR c (execWordSampleRequest x0 x1) := by
  intros
  unfold execWordSampleRequest
  repeat' (with_reducible first
    | assumption
    | intro _
    | apply kept_tokensTaken | apply kept_wordSample | apply keptR_ite | apply keptR_next | apply kept_ite
    | split)

theorem kept_execWordOutWrite {c : Keep} : ∀ x0 x1, Kept c x1 → KeptR c (execWordOutWrite x0 x1) := by
  intros
  unfold execWordOutWrite
  repeat' (with_reducible first
    | assumption
    | intro _
    | apply kept_tokensTaken | apply kept_wordOutWrite | apply keptR_ite | apply keptR_next | apply kept_ite
    | split)

theorem kept_execFifoPush {c : Keep} : ∀ x0 x1 x2, Kept c x2 → KeptR c (execFifoPush x0 x1 x2) := by
  intros
  unfold execFifoPush
  repeat' (with_reducible first
    | assumption
    | intro _
    | apply kept_tokensTaken | apply kept_writerPush | apply keptR_ite | apply keptR_next | apply kept_ite
    | split)

theorem kept_execCtlhRead {c : Keep} : ∀ x0, Kept c x0 → KeptR c (execCtlhRead x0) := by
  intros
  unfold execCtlhRead
  repeat' (with_reducible first
    | assumption
    | intro _
    | apply kept_tokensTaken | apply kept_ctlCapture | apply keptR_ite | apply keptR_next | apply kept_ite
    | split)

theorem kept_execCtlhWrite {c : Keep} : ∀ x0, Kept c x0 → KeptR c (execCtlhWrite x0) := by
  intros
  unfold execCtlhWrite
  repeat' (with_reducible first
    | assumption
    | intro _
    | apply kept_tokensTaken | apply kept_ctlCapture | apply keptR_ite | apply keptR_next | apply kept_ite
    | split)

theorem kept_execCtlhMaskedWrite {c : Keep} : ∀ x0, Kept c x0 → KeptR c (execCtlhMaskedWrite x0) := by
  intros
  unfold execCtlhMaskedWrite
  repeat' (with_reducible first
    | assumption
    | intro _
    | apply kept_tokensTaken | apply kept_ctlCapture | apply keptR_ite | apply keptR_next | apply kept_ite
    | split)

theorem kept_execCtlhReservedOp {c : Keep} : ∀ x0, Kept c x0 → KeptR c (execCtlhReservedOp x0) := by
  intros
  unfold execCtlhReservedOp
  repeat' (with_reducible first
    | assumption
    | intro _
    | apply kept_tokensTaken | apply kept_ctlCapture | apply keptR_ite | apply keptR_next | apply kept_ite
    | split)

theorem kept_setSeal {c : Keep} : ∀ x0 x1 x2, Kept c x0 → Kept c (setSeal x0 x1 x2) := by
  intros
  unfold setSeal
  repeat' (with_reducible first
    | assumption
    | intro _
    | apply kept_setEv | apply kept_setWd | apply kept_setFifo | apply kept_ite
    | split
    | apply kept_mk | apply queueOk_of | apply freshOk_of | apply freshOk_add | apply regsOk_of | apply mgcOk_of | apply fabOk_of | apply storeOk_of | apply cfgOk_of | apply dramsOk_of)

theorem kept_removeShown {c : Keep} : ∀ x0 x1, Kept c x0 → Kept c (removeShown x0 x1) := by
  intros
  unfold removeShown
  repeat' (with_reducible first
    | assumption
    | intro _
    | apply kept_ite
    | split
    | apply kept_mk | apply queueOk_of | apply freshOk_of | apply freshOk_add | apply regsOk_of | apply mgcOk_of | apply fabOk_of | apply storeOk_of | apply cfgOk_of | apply dramsOk_of)

theorem kept_removedDone {c : Keep} : ∀ x0 x1, Kept c x0 → Kept c (removedDone x0 x1) := by
  intros
  unfold removedDone
  repeat' (with_reducible first
    | assumption
    | intro _
    | apply kept_ite
    | split
    | apply kept_mk | apply queueOk_of | apply freshOk_of | apply freshOk_add | apply regsOk_of | apply mgcOk_of | apply fabOk_of | apply storeOk_of | apply cfgOk_of | apply dramsOk_of)

theorem kept_sealDiscard {c : Keep} : ∀ x0 x1, Kept c x0 → Kept c (sealDiscard x0 x1) := by
  intros
  unfold sealDiscard
  repeat' (with_reducible first
    | assumption
    | intro _
    | (extract_lets +onlyGivenNames xl; first | (refine kept_cut (c := c) (s := xl) ?_ ?_ <;> [subst xl; (intro hx; clear_value xl)]) | (refine keptP_cut (c := c) (p := xl) ?_ ?_ <;> [subst xl; (intro hx; clear_value xl)]) | subst xl)
    | apply kept_stallDone | apply kept_setEv | apply kept_put | apply kept_doorbellDone | apply kept_bump | apply kept_removedDone | apply kept_setWd | apply kept_fifoDiscard | apply kept_ite
    | split
    | apply kept_mk | apply queueOk_of | apply freshOk_of | apply freshOk_add | apply regsOk_of | apply mgcOk_of | apply fabOk_of | apply storeOk_of | apply cfgOk_of | apply dramsOk_of)

theorem kept_levelTake {c : Keep} : ∀ x0 x1 x2 x3, Kept c x0 → Kept c (levelTake x0 x1 x2 x3) := by
  intros
  unfold levelTake
  repeat' (with_reducible first
    | assumption
    | intro _
    | (extract_lets +onlyGivenNames xl; first | (refine kept_cut (c := c) (s := xl) ?_ ?_ <;> [subst xl; (intro hx; clear_value xl)]) | (refine keptP_cut (c := c) (p := xl) ?_ ?_ <;> [subst xl; (intro hx; clear_value xl)]) | subst xl)
    | apply kept_ite
    | split
    | apply kept_mk | apply queueOk_of | apply freshOk_of | apply freshOk_add | apply regsOk_of | apply mgcOk_of | apply fabOk_of | apply storeOk_of | apply cfgOk_of | apply dramsOk_of)

theorem kept_sealLevels {c : Keep} : ∀ x0 x1, Kept c x0 → Kept c (sealLevels x0 x1) := by
  intros
  unfold sealLevels
  repeat' (with_reducible first
    | assumption
    | intro _
    | (extract_lets +onlyGivenNames xl; first | (refine kept_cut (c := c) (s := xl) ?_ ?_ <;> [subst xl; (intro hx; clear_value xl)]) | (refine keptP_cut (c := c) (p := xl) ?_ ?_ <;> [subst xl; (intro hx; clear_value xl)]) | subst xl)
    | apply kept_levelTake | apply kept_ite
    | split
    | apply kept_mk | apply queueOk_of | apply freshOk_of | apply freshOk_add | apply regsOk_of | apply mgcOk_of | apply fabOk_of | apply storeOk_of | apply cfgOk_of | apply dramsOk_of)

theorem kept_sealSide {c : Keep} : ∀ x0 x1 x2, Kept c x0 → Kept c (sealSide x0 x1 x2) := by
  intros
  unfold sealSide
  repeat' (with_reducible first
    | assumption
    | intro _
    | (extract_lets +onlyGivenNames xl; first | (refine kept_cut (c := c) (s := xl) ?_ ?_ <;> [subst xl; (intro hx; clear_value xl)]) | (refine keptP_cut (c := c) (p := xl) ?_ ?_ <;> [subst xl; (intro hx; clear_value xl)]) | subst xl)
    | apply kept_setSeal | apply kept_sealLevels | apply kept_sealDiscard | apply kept_ite
    | split
    | apply kept_mk | apply queueOk_of | apply freshOk_of | apply freshOk_add | apply regsOk_of | apply mgcOk_of | apply fabOk_of | apply storeOk_of | apply cfgOk_of | apply dramsOk_of)

theorem kept_unsealSide {c : Keep} : ∀ x0 x1 x2, Kept c x0 → Kept c (unsealSide x0 x1 x2) := by
  intros
  unfold unsealSide
  repeat' (with_reducible first
    | assumption
    | intro _
    | (extract_lets +onlyGivenNames xl; first | (refine kept_cut (c := c) (s := xl) ?_ ?_ <;> [subst xl; (intro hx; clear_value xl)]) | (refine keptP_cut (c := c) (p := xl) ?_ ?_ <;> [subst xl; (intro hx; clear_value xl)]) | subst xl)
    | apply kept_setSeal | apply kept_ite
    | split
    | apply kept_mk | apply queueOk_of | apply freshOk_of | apply freshOk_add | apply regsOk_of | apply mgcOk_of | apply fabOk_of | apply storeOk_of | apply cfgOk_of | apply dramsOk_of)

theorem kept_updateSeal {c : Keep} : ∀ x0 x1, Kept c x0 → Kept c (updateSeal x0 x1) := by
  intros
  unfold updateSeal
  repeat' (with_reducible first
    | assumption
    | intro _
    | (extract_lets +onlyGivenNames xl; first | (refine kept_cut (c := c) (s := xl) ?_ ?_ <;> [subst xl; (intro hx; clear_value xl)]) | (refine keptP_cut (c := c) (p := xl) ?_ ?_ <;> [subst xl; (intro hx; clear_value xl)]) | subst xl)
    | apply kept_sealSide | apply kept_unsealSide | apply kept_ite
    | split)

theorem kept_updateSeals {c : Keep} : ∀ x0, Kept c x0 → Kept c (updateSeals x0) := by
  intros
  unfold updateSeals
  repeat' (with_reducible first
    | assumption
    | intro _
    | (rename _ = (_, _) => hq; first | (refine kept_fst_cut (c := c) hq ?_ ?_ <;> [clear hq; (clear hq; intro hr)]) | clear hq)
    | (extract_lets +onlyGivenNames xl; first | (refine kept_cut (c := c) (s := xl) ?_ ?_ <;> [subst xl; (intro hx; clear_value xl)]) | (refine keptP_cut (c := c) (p := xl) ?_ ?_ <;> [subst xl; (intro hx; clear_value xl)]) | subst xl)
    | apply kept_updateSeal | apply kept_ite | apply keptP_ite | apply keptP_mk
    | apply kept_foldl | apply keptP_foldl
    | split)

theorem kept_reseatSx {c : Keep} : ∀ x0 x1, Kept c x0 → Kept c (reseatSx x0 x1) := by
  intros
  unfold reseatSx
  repeat' (with_reducible first
    | assumption
    | intro _
    | (extract_lets +onlyGivenNames xl; first | (refine kept_cut (c := c) (s := xl) ?_ ?_ <;> [subst xl; (intro hx; clear_value xl)]) | (refine keptP_cut (c := c) (p := xl) ?_ ?_ <;> [subst xl; (intro hx; clear_value xl)]) | subst xl)
    | apply kept_sealDiscard | apply kept_setSeal | apply kept_ite
    | split
    | apply kept_mk | apply queueOk_of | apply freshOk_of | apply freshOk_add | apply regsOk_of | apply mgcOk_of | apply fabOk_of | apply storeOk_of | apply cfgOk_of | apply dramsOk_of)

theorem kept_reseatRelease {c : Keep} : ∀ x0 x1, Kept c x0 → Kept c (reseatRelease x0 x1) := by
  intros
  unfold reseatRelease
  repeat' (with_reducible first
    | assumption
    | intro _
    | (extract_lets +onlyGivenNames xl; first | (refine kept_cut (c := c) (s := xl) ?_ ?_ <;> [subst xl; (intro hx; clear_value xl)]) | (refine keptP_cut (c := c) (p := xl) ?_ ?_ <;> [subst xl; (intro hx; clear_value xl)]) | subst xl)
    | apply kept_setSeal | apply kept_ite
    | split
    | apply kept_mk | apply queueOk_of | apply freshOk_of | apply freshOk_add | apply regsOk_of | apply mgcOk_of | apply fabOk_of | apply storeOk_of | apply cfgOk_of | apply dramsOk_of)

theorem kept_reseatYOpen {c : Keep} : ∀ x0 x1, Kept c x0 → Kept c (reseatYOpen x0 x1) := by
  intros
  unfold reseatYOpen
  repeat' (with_reducible first
    | assumption
    | intro _
    | (extract_lets +onlyGivenNames xl; first | (refine kept_cut (c := c) (s := xl) ?_ ?_ <;> [subst xl; (intro hx; clear_value xl)]) | (refine keptP_cut (c := c) (p := xl) ?_ ?_ <;> [subst xl; (intro hx; clear_value xl)]) | subst xl)
    | apply kept_setSeal | apply kept_ite
    | split
    | apply kept_mk | apply queueOk_of | apply freshOk_of | apply freshOk_add | apply regsOk_of | apply mgcOk_of | apply fabOk_of | apply storeOk_of | apply cfgOk_of | apply dramsOk_of)

theorem kept_reseated {c : Keep} : ∀ x0 x1, Kept c x0 → Kept c (reseated x0 x1) := by
  intros
  unfold reseated
  repeat' (with_reducible first
    | assumption
    | intro _
    | (extract_lets +onlyGivenNames xl; first | (refine kept_cut (c := c) (s := xl) ?_ ?_ <;> [subst xl; (intro hx; clear_value xl)]) | (refine keptP_cut (c := c) (p := xl) ?_ ?_ <;> [subst xl; (intro hx; clear_value xl)]) | subst xl)
    | apply kept_setWd | apply kept_setWord | apply kept_wdNotify | apply kept_ite
    | split
    | apply kept_mk | apply queueOk_of | apply freshOk_of | apply freshOk_add | apply regsOk_of | apply mgcOk_of | apply fabOk_of | apply storeOk_of | apply cfgOk_of | apply dramsOk_of)

theorem kept_reseatXOpen {c : Keep} : ∀ x0 x1, Kept c x0 → Kept c (reseatXOpen x0 x1) := by
  intros
  unfold reseatXOpen
  repeat' (with_reducible first
    | assumption
    | intro _
    | (extract_lets +onlyGivenNames xl; first | (refine kept_cut (c := c) (s := xl) ?_ ?_ <;> [subst xl; (intro hx; clear_value xl)]) | (refine keptP_cut (c := c) (p := xl) ?_ ?_ <;> [subst xl; (intro hx; clear_value xl)]) | subst xl)
    | apply kept_setSeal | apply kept_logState | apply kept_bump | apply kept_put | apply kept_reseated | apply kept_stallDone | apply kept_ite
    | split
    | apply kept_mk | apply queueOk_of | apply freshOk_of | apply freshOk_add | apply regsOk_of | apply mgcOk_of | apply fabOk_of | apply storeOk_of | apply cfgOk_of | apply dramsOk_of)

theorem kept_execReseatSxSeen {c : Keep} : ∀ x0 x1, Kept c x1 → KeptR c (execReseatSxSeen x0 x1) := by
  intros
  unfold execReseatSxSeen
  repeat' (with_reducible first
    | assumption
    | intro _
    | apply kept_reseatSx | apply keptR_ite | apply keptR_next | apply kept_ite
    | split)

theorem kept_execReseatXRelease {c : Keep} : ∀ x0 x1, Kept c x1 → KeptR c (execReseatXRelease x0 x1) := by
  intros
  unfold execReseatXRelease
  repeat' (with_reducible first
    | assumption
    | intro _
    | apply kept_reseatRelease | apply keptR_ite | apply keptR_next | apply kept_ite
    | split)

theorem kept_execReseatYOpen {c : Keep} : ∀ x0 x1, Kept c x1 → KeptR c (execReseatYOpen x0 x1) := by
  intros
  unfold execReseatYOpen
  repeat' (with_reducible first
    | assumption
    | intro _
    | apply kept_reseatYOpen | apply keptR_ite | apply keptR_next | apply kept_ite
    | split)

theorem kept_execReseatXOpen {c : Keep} : ∀ x0 x1, Kept c x1 → KeptR c (execReseatXOpen x0 x1) := by
  intros
  unfold execReseatXOpen
  repeat' (with_reducible first
    | assumption
    | intro _
    | apply kept_reseatXOpen | apply keptR_ite | apply keptR_next | apply kept_ite
    | split)

theorem kept_sideReset {c : Keep} : ∀ x0 x1, Kept c x0 → Kept c (sideReset x0 x1) := by
  intros
  unfold sideReset
  repeat' (with_reducible first
    | assumption
    | intro _
    | (extract_lets +onlyGivenNames xl; first | (refine kept_cut (c := c) (s := xl) ?_ ?_ <;> [subst xl; (intro hx; clear_value xl)]) | (refine keptP_cut (c := c) (p := xl) ?_ ?_ <;> [subst xl; (intro hx; clear_value xl)]) | subst xl)
    | apply kept_put | apply kept_updateSeal | apply kept_ite
    | split
    | apply kept_mk | apply queueOk_of | apply freshOk_of | apply freshOk_add | apply regsOk_of | apply mgcOk_of | apply fabOk_of | apply storeOk_of | apply cfgOk_of | apply dramsOk_of)

theorem kept_sideResetEnd {c : Keep} : ∀ x0 x1, Kept c x0 → Kept c (sideResetEnd x0 x1) := by
  intros
  unfold sideResetEnd
  repeat' (with_reducible first
    | assumption
    | intro _
    | apply kept_updateSeal | apply kept_ite
    | split
    | apply kept_mk | apply queueOk_of | apply freshOk_of | apply freshOk_add | apply regsOk_of | apply mgcOk_of | apply fabOk_of | apply storeOk_of | apply cfgOk_of | apply dramsOk_of)

theorem kept_execHingeSideReset {c : Keep} : ∀ x0 x1, Kept c x1 → KeptR c (execHingeSideReset x0 x1) := by
  intros
  unfold execHingeSideReset
  repeat' (with_reducible first
    | assumption
    | intro _
    | apply kept_sideReset | apply keptR_ite | apply keptR_next | apply kept_ite
    | split)

theorem kept_execHingeSideResetEnd {c : Keep} : ∀ x0 x1, Kept c x1 → KeptR c (execHingeSideResetEnd x0 x1) := by
  intros
  unfold execHingeSideResetEnd
  repeat' (with_reducible first
    | assumption
    | intro _
    | apply kept_sideResetEnd | apply keptR_ite | apply keptR_next | apply kept_ite
    | split)

theorem kept_setStall {c : Keep} : ∀ x0 x1 x2, Kept c x0 → Kept c (setStall x0 x1 x2) := by
  intros
  unfold setStall
  repeat' (with_reducible first
    | assumption
    | intro _
    | apply kept_put | apply kept_ite
    | split
    | apply kept_mk | apply queueOk_of | apply freshOk_of | apply freshOk_add | apply regsOk_of | apply mgcOk_of | apply fabOk_of | apply storeOk_of | apply cfgOk_of | apply dramsOk_of)

theorem kept_hingeStall {c : Keep} : ∀ x0 x1, Kept c x0 → Kept c (hingeStall x0 x1) := by
  intros
  unfold hingeStall
  repeat' (with_reducible first
    | assumption
    | intro _
    | (extract_lets +onlyGivenNames xl; first | (refine kept_cut (c := c) (s := xl) ?_ ?_ <;> [subst xl; (intro hx; clear_value xl)]) | (refine keptP_cut (c := c) (p := xl) ?_ ?_ <;> [subst xl; (intro hx; clear_value xl)]) | subst xl)
    | apply kept_setStall | apply kept_setWord | apply kept_logState | apply kept_raise | apply kept_ite
    | split
    | apply kept_mk | apply queueOk_of | apply freshOk_of | apply freshOk_add | apply regsOk_of | apply mgcOk_of | apply fabOk_of | apply storeOk_of | apply cfgOk_of | apply dramsOk_of)

theorem kept_execHingeStall {c : Keep} : ∀ x0 x1, Kept c x1 → KeptR c (execHingeStall x0 x1) := by
  intros
  unfold execHingeStall
  repeat' (with_reducible first
    | assumption
    | intro _
    | apply kept_hingeStall | apply keptR_ite | apply keptR_next | apply kept_ite
    | split)

theorem kept_execFifoParityError {c : Keep} : ∀ x0 x1 x2, Kept c x2 → KeptR c (execFifoParityError x0 x1 x2) := by
  intros
  unfold execFifoParityError
  repeat' (with_reducible first
    | assumption
    | intro _
    | apply kept_raise | apply kept_updateSeal | apply keptR_ite | apply keptR_next | apply kept_ite
    | split
    | apply kept_mk | apply queueOk_of | apply freshOk_of | apply freshOk_add | apply regsOk_of | apply mgcOk_of | apply fabOk_of | apply storeOk_of | apply cfgOk_of | apply dramsOk_of)

theorem kept_execEvStatClear {c : Keep} : ∀ x0 x1, Kept c x1 → KeptR c (execEvStatClear x0 x1) := by
  intros
  unfold execEvStatClear
  repeat' (with_reducible first
    | assumption
    | intro _
    | apply kept_put | apply keptR_ite | apply keptR_next | apply kept_ite
    | split)

theorem kept_execWdStatClear {c : Keep} : ∀ x0 x1, Kept c x1 → KeptR c (execWdStatClear x0 x1) := by
  intros
  unfold execWdStatClear
  repeat' (with_reducible first
    | assumption
    | intro _
    | apply kept_put | apply keptR_ite | apply keptR_next | apply kept_ite
    | split)

theorem kept_execStallLastClear {c : Keep} : ∀ x0, Kept c x0 → KeptR c (execStallLastClear x0) := by
  intros
  unfold execStallLastClear
  repeat' (with_reducible first
    | assumption
    | intro _
    | apply kept_setWord | apply keptR_ite | apply keptR_next | apply kept_ite
    | split)

theorem kept_execCtlhStatClear {c : Keep} : ∀ x0, Kept c x0 → KeptR c (execCtlhStatClear x0) := by
  intros
  unfold execCtlhStatClear
  repeat' (with_reducible first
    | assumption
    | intro _
    | apply kept_put | apply keptR_ite | apply keptR_next | apply kept_ite
    | split)

theorem kept_userClockChanged {c : Keep} : ∀ x0, Kept c x0 → Kept c (userClockChanged x0) := by
  intros
  unfold userClockChanged
  repeat' (with_reducible first
    | assumption
    | intro _
    | apply kept_updateSeals | apply kept_ite
    | split)

theorem kept_setGone {c : Keep} : ∀ x0 x1 x2, Kept c x0 → Kept c (setGone x0 x1 x2) := by
  intros
  unfold setGone
  repeat' (with_reducible first
    | assumption
    | intro _
    | apply kept_ite
    | split
    | apply kept_mk | apply queueOk_of | apply freshOk_of | apply freshOk_add | apply regsOk_of | apply mgcOk_of | apply fabOk_of | apply storeOk_of | apply cfgOk_of | apply dramsOk_of)

theorem kept_userClockLost {c : Keep} : ∀ x0 x1, Kept c x0 → Kept c (userClockLost x0 x1) := by
  intros
  unfold userClockLost
  repeat' (with_reducible first
    | assumption
    | intro _
    | (extract_lets +onlyGivenNames xl; first | (refine kept_cut (c := c) (s := xl) ?_ ?_ <;> [subst xl; (intro hx; clear_value xl)]) | (refine keptP_cut (c := c) (p := xl) ?_ ?_ <;> [subst xl; (intro hx; clear_value xl)]) | subst xl)
    | apply kept_setGone | apply kept_put | apply kept_logState | apply kept_raise | apply kept_userClockChanged | apply kept_ite
    | split)

theorem kept_userClockPresent {c : Keep} : ∀ x0 x1, Kept c x0 → Kept c (userClockPresent x0 x1) := by
  intros
  unfold userClockPresent
  repeat' (with_reducible first
    | assumption
    | intro _
    | apply kept_userClockChanged | apply kept_setGone | apply kept_put | apply kept_ite
    | split)

theorem kept_execUserClockLost {c : Keep} : ∀ x0 x1, Kept c x1 → KeptR c (execUserClockLost x0 x1) := by
  intros
  unfold execUserClockLost
  repeat' (with_reducible first
    | assumption
    | intro _
    | apply kept_userClockLost | apply keptR_ite | apply keptR_next | apply kept_ite
    | split)

theorem kept_execUserClockPresent {c : Keep} : ∀ x0 x1, Kept c x1 → KeptR c (execUserClockPresent x0 x1) := by
  intros
  unfold execUserClockPresent
  repeat' (with_reducible first
    | assumption
    | intro _
    | apply kept_userClockPresent | apply keptR_ite | apply keptR_next | apply kept_ite
    | split)

end Sys2Proof.Machine
end

