-- ==== Sys2Proof/Laws/KeptPace.lean ====
section
/-! SUPPORT. What every operation of Machine/Pace.lean keeps (Laws/Kept.lean). -/
set_option linter.unusedTactic false
set_option linter.unreachableTactic false
namespace Sys2Proof.Machine
open Sys2Proof

theorem kept_State_setPace {c : Keep} : ∀ x0 x1, Kept c x0 → Kept c (State.setPace x0 x1) := by
  intros
  unfold State.setPace
  repeat' (with_reducible first
    | assumption
    | intro _
    | apply kept_ite
    | split
    | apply kept_mk | apply queueOk_of | apply freshOk_of | apply freshOk_add | apply regsOk_of | apply mgcOk_of | apply fabOk_of | apply storeOk_of | apply cfgOk_of | apply dramsOk_of)

theorem kept_paceStart {c : Keep} : ∀ x0, Kept c x0 → Kept c (paceStart x0) := by
  intros
  unfold paceStart
  repeat' (with_reducible first
    | assumption
    | intro _
    | (rename _ = (_, _) => hq; first | (refine kept_fst_cut (c := c) hq ?_ ?_ <;> [clear hq; (clear hq; intro hr)]) | clear hq)
    | (extract_lets +onlyGivenNames xl; first | (refine kept_cut (c := c) (s := xl) ?_ ?_ <;> [subst xl; (intro hx; clear_value xl)]) | (refine keptP_cut (c := c) (p := xl) ?_ ?_ <;> [subst xl; (intro hx; clear_value xl)]) | subst xl)
    | apply kept_State_setPace | apply kept_ite | apply keptP_ite | apply keptP_mk
    | apply kept_foldl | apply keptP_foldl
    | split
    | apply kept_mk | apply queueOk_of | apply freshOk_of | apply freshOk_add | apply regsOk_of | apply mgcOk_of | apply fabOk_of | apply storeOk_of | apply cfgOk_of | apply dramsOk_of)

theorem kept_paceEnd {c : Keep} : ∀ x0 x1 x2 x3, Kept c x0 → Kept c (paceEnd x0 x1 x2 x3) := by
  intros
  unfold paceEnd
  repeat' (with_reducible first
    | assumption
    | intro _
    | (extract_lets +onlyGivenNames xl; first | (refine kept_cut (c := c) (s := xl) ?_ ?_ <;> [subst xl; (intro hx; clear_value xl)]) | (refine keptP_cut (c := c) (p := xl) ?_ ?_ <;> [subst xl; (intro hx; clear_value xl)]) | subst xl)
    | apply kept_tookFree | apply kept_State_setPace | apply kept_setWord | apply kept_raise | apply kept_ite
    | split
    | apply kept_mk | apply queueOk_of | apply freshOk_of | apply freshOk_add | apply regsOk_of | apply mgcOk_of | apply fabOk_of | apply storeOk_of | apply cfgOk_of | apply dramsOk_of)

theorem kept_execPaceWindowStart {c : Keep} : ∀ x0, Kept c x0 → KeptR c (execPaceWindowStart x0) := by
  intros
  unfold execPaceWindowStart
  repeat' (with_reducible first
    | assumption
    | intro _
    | apply kept_paceStart | apply keptR_ite | apply keptR_next | apply kept_ite
    | split)

theorem kept_setLevel {c : Keep} : ∀ x0 x1 x2, Kept c x0 → Kept c (setLevel x0 x1 x2) := by
  intros
  unfold setLevel
  repeat' (with_reducible first
    | assumption
    | intro _
    | apply kept_put | apply kept_ite
    | split)

theorem kept_zeroLevels {c : Keep} : ∀ x0, Kept c x0 → Kept c (zeroLevels x0) := by
  intros
  unfold zeroLevels
  repeat' (with_reducible first
    | assumption
    | intro _
    | (rename _ = (_, _) => hq; first | (refine kept_fst_cut (c := c) hq ?_ ?_ <;> [clear hq; (clear hq; intro hr)]) | clear hq)
    | (extract_lets +onlyGivenNames xl; first | (refine kept_cut (c := c) (s := xl) ?_ ?_ <;> [subst xl; (intro hx; clear_value xl)]) | (refine keptP_cut (c := c) (p := xl) ?_ ?_ <;> [subst xl; (intro hx; clear_value xl)]) | subst xl)
    | apply kept_setLevel | apply kept_ite | apply keptP_ite | apply keptP_mk
    | apply kept_foldl | apply keptP_foldl
    | split)

theorem kept_governorWarm {c : Keep} : ∀ x0, Kept c x0 → Kept c (governorWarm x0) := by
  intros
  unfold governorWarm
  repeat' (with_reducible first
    | assumption
    | intro _
    | apply kept_zeroLevels | apply kept_put | apply kept_ite
    | split)

theorem kept_estimate {c : Keep} : ∀ x0 x1 x2, Kept c x0 → Kept c (estimate x0 x1 x2) := by
  intros
  unfold estimate
  repeat' (with_reducible first
    | assumption
    | intro _
    | (extract_lets +onlyGivenNames xl; first | (refine kept_cut (c := c) (s := xl) ?_ ?_ <;> [subst xl; (intro hx; clear_value xl)]) | (refine keptP_cut (c := c) (p := xl) ?_ ?_ <;> [subst xl; (intro hx; clear_value xl)]) | subst xl)
    | apply kept_State_setPace | apply kept_setWord | apply kept_ite
    | split
    | apply kept_mk | apply queueOk_of | apply freshOk_of | apply freshOk_add | apply regsOk_of | apply mgcOk_of | apply fabOk_of | apply storeOk_of | apply cfgOk_of | apply dramsOk_of)

theorem kept_estimators {c : Keep} : ∀ x0 x1, Kept c x0 → Kept c (estimators x0 x1) := by
  intros
  unfold estimators
  repeat' (with_reducible first
    | assumption
    | intro _
    | (rename _ = (_, _) => hq; first | (refine kept_fst_cut (c := c) hq ?_ ?_ <;> [clear hq; (clear hq; intro hr)]) | clear hq)
    | (extract_lets +onlyGivenNames xl; first | (refine kept_cut (c := c) (s := xl) ?_ ?_ <;> [subst xl; (intro hx; clear_value xl)]) | (refine keptP_cut (c := c) (p := xl) ?_ ?_ <;> [subst xl; (intro hx; clear_value xl)]) | subst xl)
    | apply kept_estimate | apply kept_State_setPace | apply kept_ite | apply keptP_ite | apply keptP_mk
    | apply kept_foldl | apply keptP_foldl
    | split
    | apply kept_mk | apply queueOk_of | apply freshOk_of | apply freshOk_add | apply regsOk_of | apply mgcOk_of | apply fabOk_of | apply storeOk_of | apply cfgOk_of | apply dramsOk_of)

theorem kept_raiseLevels {c : Keep} : ∀ x0 x1 x2, Kept c x2 → Kept c (raiseLevels x0 x1 x2) := by
  intro x0
  induction x0 with
  | nil =>
    intros
    unfold raiseLevels
    first | assumption | exact keptP_mk (by assumption)
  | cons a l ih =>
    intros
    unfold raiseLevels
    repeat' (with_reducible first
      | assumption
      | intro _
      | apply ih | apply kept_setLevel | apply kept_ite
      | split)

theorem kept_lowerHighest {c : Keep} : ∀ x0, Kept c x0 → Kept c (lowerHighest x0) := by
  intros
  unfold lowerHighest
  repeat' (with_reducible first
    | assumption
    | intro _
    | (rename _ = (_, _) => hq; first | (refine kept_fst_cut (c := c) hq ?_ ?_ <;> [clear hq; (clear hq; intro hr)]) | clear hq)
    | (extract_lets +onlyGivenNames xl; first | (refine kept_cut (c := c) (s := xl) ?_ ?_ <;> [subst xl; (intro hx; clear_value xl)]) | (refine keptP_cut (c := c) (p := xl) ?_ ?_ <;> [subst xl; (intro hx; clear_value xl)]) | subst xl)
    | apply kept_setLevel | apply kept_ite | apply keptP_ite | apply keptP_mk
    | apply kept_foldl | apply keptP_foldl
    | split
    | apply kept_mk | apply queueOk_of | apply freshOk_of | apply freshOk_add | apply regsOk_of | apply mgcOk_of | apply fabOk_of | apply storeOk_of | apply cfgOk_of | apply dramsOk_of)

theorem kept_clampLevels {c : Keep} : ∀ x0, Kept c x0 → Kept c (clampLevels x0) := by
  intros
  unfold clampLevels
  repeat' (with_reducible first
    | assumption
    | intro _
    | (rename _ = (_, _) => hq; first | (refine kept_fst_cut (c := c) hq ?_ ?_ <;> [clear hq; (clear hq; intro hr)]) | clear hq)
    | (extract_lets +onlyGivenNames xl; first | (refine kept_cut (c := c) (s := xl) ?_ ?_ <;> [subst xl; (intro hx; clear_value xl)]) | (refine keptP_cut (c := c) (p := xl) ?_ ?_ <;> [subst xl; (intro hx; clear_value xl)]) | subst xl)
    | apply kept_setLevel | apply kept_zeroLevels | apply kept_ite | apply keptP_ite | apply keptP_mk
    | apply kept_foldl | apply keptP_foldl
    | split)

theorem kept_capReached {c : Keep} : ∀ x0, Kept c x0 → Kept c (capReached x0) := by
  intros
  unfold capReached
  repeat' (with_reducible first
    | assumption
    | intro _
    | (extract_lets +onlyGivenNames xl; first | (refine kept_cut (c := c) (s := xl) ?_ ?_ <;> [subst xl; (intro hx; clear_value xl)]) | (refine keptP_cut (c := c) (p := xl) ?_ ?_ <;> [subst xl; (intro hx; clear_value xl)]) | subst xl)
    | apply kept_put | apply kept_raise | apply kept_State_setPace | apply kept_ite
    | split
    | apply kept_mk | apply queueOk_of | apply freshOk_of | apply freshOk_add | apply regsOk_of | apply mgcOk_of | apply fabOk_of | apply storeOk_of | apply cfgOk_of | apply dramsOk_of)

theorem kept_governorPeriod {c : Keep} : ∀ x0 x1 x2, Kept c x0 → Kept c (governorPeriod x0 x1 x2) := by
  intros
  unfold governorPeriod
  repeat' (with_reducible first
    | assumption
    | intro _
    | (rename _ = (_, _) => hq; first | (refine kept_fst_cut (c := c) hq ?_ ?_ <;> [clear hq; (clear hq; intro hr)]) | clear hq)
    | (extract_lets +onlyGivenNames xl; first | (refine kept_cut (c := c) (s := xl) ?_ ?_ <;> [subst xl; (intro hx; clear_value xl)]) | (refine keptP_cut (c := c) (p := xl) ?_ ?_ <;> [subst xl; (intro hx; clear_value xl)]) | subst xl)
    | apply kept_estimators | apply kept_put | apply kept_clampLevels | apply kept_State_setPace | apply kept_capReached | apply kept_raiseLevels | apply kept_lowerHighest | apply kept_ite | apply keptP_ite | apply keptP_mk
    | apply kept_foldl | apply keptP_foldl
    | split
    | apply kept_mk | apply queueOk_of | apply freshOk_of | apply freshOk_add | apply regsOk_of | apply mgcOk_of | apply fabOk_of | apply storeOk_of | apply cfgOk_of | apply dramsOk_of)

theorem kept_execGovernorPeriod {c : Keep} : ∀ x0 x1 x2, Kept c x2 → KeptR c (execGovernorPeriod x0 x1 x2) := by
  intros
  unfold execGovernorPeriod
  repeat' (with_reducible first
    | assumption
    | intro _
    | apply kept_governorPeriod | apply keptR_ite | apply keptR_next | apply kept_ite
    | split)

theorem kept_execGovernorWarmEnd {c : Keep} : ∀ x0, Kept c x0 → KeptR c (execGovernorWarmEnd x0) := by
  intros
  unfold execGovernorWarmEnd
  repeat' (with_reducible first
    | assumption
    | intro _
    | apply kept_put | apply keptR_ite | apply keptR_next | apply kept_ite
    | split)

theorem kept_governorEnable {c : Keep} : ∀ x0, Kept c x0 → Kept c (governorEnable x0) := by
  intros
  unfold governorEnable
  repeat' (with_reducible first
    | assumption
    | intro _
    | apply kept_governorWarm | apply kept_put | apply kept_ite
    | split)

theorem kept_governorDisable {c : Keep} : ∀ x0, Kept c x0 → Kept c (governorDisable x0) := by
  intros
  unfold governorDisable
  repeat' (with_reducible first
    | assumption
    | intro _
    | apply kept_put | apply kept_ite
    | split)

theorem kept_execGovernorEnable {c : Keep} : ∀ x0, Kept c x0 → KeptR c (execGovernorEnable x0) := by
  intros
  unfold execGovernorEnable
  repeat' (with_reducible first
    | assumption
    | intro _
    | apply kept_governorEnable | apply keptR_ite | apply keptR_next | apply kept_ite
    | split)

theorem kept_execGovernorDisable {c : Keep} : ∀ x0, Kept c x0 → KeptR c (execGovernorDisable x0) := by
  intros
  unfold execGovernorDisable
  repeat' (with_reducible first
    | assumption
    | intro _
    | apply kept_governorDisable | apply keptR_ite | apply keptR_next | apply kept_ite
    | split)

theorem kept_setRamping {c : Keep} : ∀ x0 x1, Kept c x0 → Kept c (setRamping x0 x1) := by
  intros
  unfold setRamping
  repeat' (with_reducible first
    | assumption
    | intro _
    | (extract_lets +onlyGivenNames xl; first | (refine kept_cut (c := c) (s := xl) ?_ ?_ <;> [subst xl; (intro hx; clear_value xl)]) | (refine keptP_cut (c := c) (p := xl) ?_ ?_ <;> [subst xl; (intro hx; clear_value xl)]) | subst xl)
    | apply kept_put | apply kept_State_setPace | apply kept_ite
    | split
    | apply kept_mk | apply queueOk_of | apply freshOk_of | apply freshOk_add | apply regsOk_of | apply mgcOk_of | apply fabOk_of | apply storeOk_of | apply cfgOk_of | apply dramsOk_of)

theorem kept_vfabStart {c : Keep} : ∀ x0, Kept c x0 → Kept c (vfabStart x0) := by
  intros
  unfold vfabStart
  repeat' (with_reducible first
    | assumption
    | intro _
    | apply kept_setRamping | apply kept_put | apply kept_ite
    | split)

theorem kept_vfabTarget {c : Keep} : ∀ x0 x1, Kept c x0 → Kept c (vfabTarget x0 x1) := by
  intros
  unfold vfabTarget
  repeat' (with_reducible first
    | assumption
    | intro _
    | (extract_lets +onlyGivenNames xl; first | (refine kept_cut (c := c) (s := xl) ?_ ?_ <;> [subst xl; (intro hx; clear_value xl)]) | (refine keptP_cut (c := c) (p := xl) ?_ ?_ <;> [subst xl; (intro hx; clear_value xl)]) | subst xl)
    | apply kept_put | apply kept_State_setPace | apply kept_vfabStart | apply kept_ite
    | split
    | apply kept_mk | apply queueOk_of | apply freshOk_of | apply freshOk_add | apply regsOk_of | apply mgcOk_of | apply fabOk_of | apply storeOk_of | apply cfgOk_of | apply dramsOk_of)

theorem kept_vfabFault {c : Keep} : ∀ x0, Kept c x0 → Kept c (vfabFault x0) := by
  intros
  unfold vfabFault
  repeat' (with_reducible first
    | assumption
    | intro _
    | (extract_lets +onlyGivenNames xl; first | (refine kept_cut (c := c) (s := xl) ?_ ?_ <;> [subst xl; (intro hx; clear_value xl)]) | (refine keptP_cut (c := c) (p := xl) ?_ ?_ <;> [subst xl; (intro hx; clear_value xl)]) | subst xl)
    | apply kept_State_setPace | apply kept_put | apply kept_setRamping | apply kept_raise | apply kept_ite
    | split
    | apply kept_mk | apply queueOk_of | apply freshOk_of | apply freshOk_add | apply regsOk_of | apply mgcOk_of | apply fabOk_of | apply storeOk_of | apply cfgOk_of | apply dramsOk_of)

theorem kept_vfabStep {c : Keep} : ∀ x0 x1, Kept c x0 → Kept c (vfabStep x0 x1) := by
  intros
  unfold vfabStep
  repeat' (with_reducible first
    | assumption
    | intro _
    | (extract_lets +onlyGivenNames xl; first | (refine kept_cut (c := c) (s := xl) ?_ ?_ <;> [subst xl; (intro hx; clear_value xl)]) | (refine keptP_cut (c := c) (p := xl) ?_ ?_ <;> [subst xl; (intro hx; clear_value xl)]) | subst xl)
    | apply kept_setRamping | apply kept_State_setPace | apply kept_vfabFault | apply kept_ite
    | split
    | apply kept_mk | apply queueOk_of | apply freshOk_of | apply freshOk_add | apply regsOk_of | apply mgcOk_of | apply fabOk_of | apply storeOk_of | apply cfgOk_of | apply dramsOk_of)

theorem kept_vfabRead {c : Keep} : ∀ x0 x1 x2, Kept c x0 → Kept c (vfabRead x0 x1 x2) := by
  intros
  unfold vfabRead
  repeat' (with_reducible first
    | assumption
    | intro _
    | (extract_lets +onlyGivenNames xl; first | (refine kept_cut (c := c) (s := xl) ?_ ?_ <;> [subst xl; (intro hx; clear_value xl)]) | (refine keptP_cut (c := c) (p := xl) ?_ ?_ <;> [subst xl; (intro hx; clear_value xl)]) | subst xl)
    | apply kept_vfabFault | apply kept_State_setPace | apply kept_put | apply kept_ite
    | split
    | apply kept_mk | apply queueOk_of | apply freshOk_of | apply freshOk_add | apply regsOk_of | apply mgcOk_of | apply fabOk_of | apply storeOk_of | apply cfgOk_of | apply dramsOk_of)

theorem kept_vfabMismatch {c : Keep} : ∀ x0, Kept c x0 → Kept c (vfabMismatch x0) := by
  intros
  unfold vfabMismatch
  repeat' (with_reducible first
    | assumption
    | intro _
    | (extract_lets +onlyGivenNames xl; first | (refine kept_cut (c := c) (s := xl) ?_ ?_ <;> [subst xl; (intro hx; clear_value xl)]) | (refine keptP_cut (c := c) (p := xl) ?_ ?_ <;> [subst xl; (intro hx; clear_value xl)]) | subst xl)
    | apply kept_vfabFault | apply kept_ite
    | split)

theorem kept_execVfabTargetWrite {c : Keep} : ∀ x0 x1, Kept c x1 → KeptR c (execVfabTargetWrite x0 x1) := by
  intros
  unfold execVfabTargetWrite
  repeat' (with_reducible first
    | assumption
    | intro _
    | apply kept_vfabTarget | apply kept_commandIf | apply keptR_ite | apply keptR_next | apply kept_ite
    | split)

end Sys2Proof.Machine
end

