-- ==== Sys2Proof/Laws/KeptHearth.lean ====
section
/-! SUPPORT. What every operation of Machine/Hearth.lean keeps (Laws/Kept.lean). -/
set_option linter.unusedTactic false
set_option linter.unreachableTactic false
namespace Sys2Proof.Machine
open Sys2Proof

theorem kept_drain {c : Keep} : ∀ x0 x1 x2, Kept c x0 → Kept c (drain x0 x1 x2) := by
  intros
  unfold drain
  repeat' (with_reducible first
    | assumption
    | intro _
    | (extract_lets +onlyGivenNames xl; first | (refine kept_cut (c := c) (s := xl) ?_ ?_ <;> [subst xl; (intro hx; clear_value xl)]) | (refine keptP_cut (c := c) (p := xl) ?_ ?_ <;> [subst xl; (intro hx; clear_value xl)]) | subst xl)
    | apply kept_drainHearth | apply kept_removeShown | apply kept_updateSeals | apply kept_ite
    | split
    | apply kept_mk | apply queueOk_of | apply freshOk_of | apply freshOk_add | apply regsOk_of | apply mgcOk_of | apply fabOk_of | apply storeOk_of | apply cfgOk_of | apply dramsOk_of
    | apply storeOk_mk | apply contentOk_of)

theorem kept_reinsert {c : Keep} : ∀ x0 x1, Kept c x0 → Kept c (reinsert x0 x1) := by
  intros
  unfold reinsert
  repeat' (with_reducible first
    | assumption
    | intro _
    | apply kept_setHearth | apply kept_insertTokens | apply kept_ite
    | split)

theorem kept_boundaryEnd {c : Keep} : ∀ x0 x1, Kept c x0 → Kept c (boundaryEnd x0 x1) := by
  intros
  unfold boundaryEnd
  repeat' (with_reducible first
    | assumption
    | intro _
    | apply kept_reinsert | apply kept_ite
    | split)

theorem kept_boundaryEnds {c : Keep} : ∀ x0, Kept c x0 → Kept c (boundaryEnds x0) := by
  intros
  unfold boundaryEnds
  repeat' (with_reducible first
    | assumption
    | intro _
    | (rename _ = (_, _) => hq; first | (refine kept_fst_cut (c := c) hq ?_ ?_ <;> [clear hq; (clear hq; intro hr)]) | clear hq)
    | (extract_lets +onlyGivenNames xl; first | (refine kept_cut (c := c) (s := xl) ?_ ?_ <;> [subst xl; (intro hx; clear_value xl)]) | (refine keptP_cut (c := c) (p := xl) ?_ ?_ <;> [subst xl; (intro hx; clear_value xl)]) | subst xl)
    | apply kept_boundaryEnd | apply kept_ite | apply keptP_ite | apply keptP_mk
    | apply kept_foldl | apply keptP_foldl
    | split)

theorem kept_startUserReset {c : Keep} : ∀ x0 x1, Kept c x0 → Kept c (startUserReset x0 x1) := by
  intros
  unfold startUserReset
  repeat' (with_reducible first
    | assumption
    | intro _
    | apply kept_boundaryEnd | apply kept_drain | apply kept_putBit | apply kept_ite
    | split)

theorem kept_userReset {c : Keep} : ∀ x0 x1, Kept c x0 → Kept c (userReset x0 x1) := by
  intros
  unfold userReset
  repeat' (with_reducible first
    | assumption
    | intro _
    | apply kept_putBit | apply kept_startUserReset | apply kept_ite
    | split
    | apply kept_mk | apply queueOk_of | apply freshOk_of | apply freshOk_add | apply regsOk_of | apply mgcOk_of | apply fabOk_of | apply storeOk_of | apply cfgOk_of | apply dramsOk_of)

theorem kept_execUserResetRequest {c : Keep} : ∀ x0 x1, Kept c x1 → KeptR c (execUserResetRequest x0 x1) := by
  intros
  unfold execUserResetRequest
  repeat' (with_reducible first
    | assumption
    | intro _
    | apply kept_userReset | apply keptR_ite | apply keptR_next | apply kept_ite
    | split)

theorem kept_execBoundaryWaitEnd {c : Keep} : ∀ x0 x1, Kept c x1 → KeptR c (execBoundaryWaitEnd x0 x1) := by
  intros
  unfold execBoundaryWaitEnd
  repeat' (with_reducible first
    | assumption
    | intro _
    | apply kept_boundaryEnd | apply keptR_ite | apply keptR_next | apply kept_ite
    | split)

theorem kept_execBoundaryWaitTimeout {c : Keep} : ∀ x0 x1, Kept c x1 → KeptR c (execBoundaryWaitTimeout x0 x1) := by
  intros
  unfold execBoundaryWaitTimeout
  repeat' (with_reducible first
    | assumption
    | intro _
    | apply kept_raise | apply kept_putBit | apply keptR_ite | apply keptR_next | apply kept_ite
    | split)

theorem kept_execTokLastClear {c : Keep} : ∀ x0, Kept c x0 → KeptR c (execTokLastClear x0) := by
  intros
  unfold execTokLastClear
  repeat' (with_reducible first
    | assumption
    | intro _
    | apply kept_setWord | apply keptR_ite | apply keptR_next | apply kept_ite
    | split)

theorem kept_execTokCntClear {c : Keep} : ∀ x0, Kept c x0 → KeptR c (execTokCntClear x0) := by
  intros
  unfold execTokCntClear
  repeat' (with_reducible first
    | assumption
    | intro _
    | apply kept_put | apply keptR_ite | apply keptR_next | apply kept_ite
    | split)

theorem kept_execXbLastClear {c : Keep} : ∀ x0, Kept c x0 → KeptR c (execXbLastClear x0) := by
  intros
  unfold execXbLastClear
  repeat' (with_reducible first
    | assumption
    | intro _
    | apply kept_setWord | apply keptR_ite | apply keptR_next | apply kept_ite
    | split)

theorem kept_execXbCntClear {c : Keep} : ∀ x0, Kept c x0 → KeptR c (execXbCntClear x0) := by
  intros
  unfold execXbCntClear
  repeat' (with_reducible first
    | assumption
    | intro _
    | apply kept_put | apply keptR_ite | apply keptR_next | apply kept_ite
    | split)

theorem kept_wakeHearth {c : Keep} : ∀ x0 x1, Kept c x0 → Kept c (wakeHearth x0 x1) := by
  intros
  unfold wakeHearth
  repeat' (with_reducible first
    | assumption
    | intro _
    | (extract_lets +onlyGivenNames xl; first | (refine kept_cut (c := c) (s := xl) ?_ ?_ <;> [subst xl; (intro hx; clear_value xl)]) | (refine keptP_cut (c := c) (p := xl) ?_ ?_ <;> [subst xl; (intro hx; clear_value xl)]) | subst xl)
    | apply kept_rerouted | apply kept_setHearth | apply kept_updateSeals | apply kept_ite
    | split
    | apply kept_mk | apply queueOk_of | apply freshOk_of | apply freshOk_add | apply regsOk_of | apply mgcOk_of | apply fabOk_of | apply storeOk_of | apply cfgOk_of | apply dramsOk_of)

theorem kept_wakeSlot {c : Keep} : ∀ x0, Kept c x0 → Kept c (wakeSlot x0) := by
  intros
  unfold wakeSlot
  repeat' (with_reducible first
    | assumption
    | intro _
    | (extract_lets +onlyGivenNames xl; first | (refine kept_cut (c := c) (s := xl) ?_ ?_ <;> [subst xl; (intro hx; clear_value xl)]) | (refine keptP_cut (c := c) (p := xl) ?_ ?_ <;> [subst xl; (intro hx; clear_value xl)]) | subst xl)
    | apply kept_wakeHearth | apply kept_ite
    | split
    | apply kept_mk | apply queueOk_of | apply freshOk_of | apply freshOk_add | apply regsOk_of | apply mgcOk_of | apply fabOk_of | apply storeOk_of | apply cfgOk_of | apply dramsOk_of)

theorem kept_singleWake {c : Keep} : ∀ x0 x1, Kept c x0 → Kept c (singleWake x0 x1) := by
  intros
  unfold singleWake
  repeat' (with_reducible first
    | assumption
    | intro _
    | (extract_lets +onlyGivenNames xl; first | (refine kept_cut (c := c) (s := xl) ?_ ?_ <;> [subst xl; (intro hx; clear_value xl)]) | (refine keptP_cut (c := c) (p := xl) ?_ ?_ <;> [subst xl; (intro hx; clear_value xl)]) | subst xl)
    | apply kept_wakeHearth | apply kept_putBit | apply kept_ite
    | split)

theorem kept_execHearthWakeSlot {c : Keep} : ∀ x0, Kept c x0 → KeptR c (execHearthWakeSlot x0) := by
  intros
  unfold execHearthWakeSlot
  repeat' (with_reducible first
    | assumption
    | intro _
    | apply kept_wakeSlot | apply keptR_ite | apply keptR_next | apply kept_ite
    | split)

theorem kept_execSingleHearthWake {c : Keep} : ∀ x0 x1, Kept c x1 → KeptR c (execSingleHearthWake x0 x1) := by
  intros
  unfold execSingleHearthWake
  repeat' (with_reducible first
    | assumption
    | intro _
    | apply kept_singleWake | apply keptR_ite | apply keptR_next | apply kept_ite
    | split)

theorem kept_isoApply {c : Keep} : ∀ x0 x1, Kept c x0 → Kept c (isoApply x0 x1) := by
  intros
  unfold isoApply
  repeat' (with_reducible first
    | assumption
    | intro _
    | (rename _ = (_, _) => hq; first | (refine kept_fst_cut (c := c) hq ?_ ?_ <;> [clear hq; (clear hq; intro hr)]) | clear hq)
    | (extract_lets +onlyGivenNames xl; first | (refine kept_cut (c := c) (s := xl) ?_ ?_ <;> [subst xl; (intro hx; clear_value xl)]) | (refine keptP_cut (c := c) (p := xl) ?_ ?_ <;> [subst xl; (intro hx; clear_value xl)]) | subst xl)
    | apply kept_ite | apply keptP_ite | apply keptP_mk
    | apply kept_foldl | apply keptP_foldl
    | split
    | apply kept_mk | apply queueOk_of | apply freshOk_of | apply freshOk_add | apply regsOk_of | apply mgcOk_of | apply fabOk_of | apply storeOk_of | apply cfgOk_of | apply dramsOk_of)

theorem kept_isolate {c : Keep} : ∀ x0 x1, Kept c x0 → Kept c (isolate x0 x1) := by
  intros
  unfold isolate
  repeat' (with_reducible first
    | assumption
    | intro _
    | apply kept_drain | apply kept_isoApply | apply kept_setHearth | apply kept_ite
    | split
    | apply kept_mk | apply queueOk_of | apply freshOk_of | apply freshOk_add | apply regsOk_of | apply mgcOk_of | apply fabOk_of | apply storeOk_of | apply cfgOk_of | apply dramsOk_of)

theorem kept_isoStat {c : Keep} : ∀ x0 x1, Kept c x0 → Kept c (isoStat x0 x1) := by
  intros
  unfold isoStat
  repeat' (with_reducible first
    | assumption
    | intro _
    | apply kept_putBit | apply kept_ite
    | split)

theorem kept_isolateWrite {c : Keep} : ∀ x0 x1, Kept c x0 → Kept c (isolateWrite x0 x1) := by
  intros
  unfold isolateWrite
  repeat' (with_reducible first
    | assumption
    | intro _
    | (extract_lets +onlyGivenNames xl; first | (refine kept_cut (c := c) (s := xl) ?_ ?_ <;> [subst xl; (intro hx; clear_value xl)]) | (refine keptP_cut (c := c) (p := xl) ?_ ?_ <;> [subst xl; (intro hx; clear_value xl)]) | subst xl)
    | apply kept_putBit | apply kept_isoStat | apply kept_isolate | apply kept_ite
    | split)

theorem kept_releaseWrite {c : Keep} : ∀ x0 x1, Kept c x0 → Kept c (releaseWrite x0 x1) := by
  intros
  unfold releaseWrite
  repeat' (with_reducible first
    | assumption
    | intro _
    | (extract_lets +onlyGivenNames xl; first | (refine kept_cut (c := c) (s := xl) ?_ ?_ <;> [subst xl; (intro hx; clear_value xl)]) | (refine keptP_cut (c := c) (p := xl) ?_ ?_ <;> [subst xl; (intro hx; clear_value xl)]) | subst xl)
    | apply kept_putBit | apply kept_isoStat | apply kept_reinsert | apply kept_ite
    | split
    | apply kept_mk | apply queueOk_of | apply freshOk_of | apply freshOk_add | apply regsOk_of | apply mgcOk_of | apply fabOk_of | apply storeOk_of | apply cfgOk_of | apply dramsOk_of)

theorem kept_execHearthIsolate {c : Keep} : ∀ x0 x1, Kept c x1 → KeptR c (execHearthIsolate x0 x1) := by
  intros
  unfold execHearthIsolate
  repeat' (with_reducible first
    | assumption
    | intro _
    | apply kept_isoCommanded | apply kept_isolateWrite | apply keptR_ite | apply keptR_next | apply kept_ite
    | split)

theorem kept_execHearthIsolateRelease {c : Keep} : ∀ x0 x1, Kept c x1 → KeptR c (execHearthIsolateRelease x0 x1) := by
  intros
  unfold execHearthIsolateRelease
  repeat' (with_reducible first
    | assumption
    | intro _
    | apply kept_isoCommanded | apply kept_releaseWrite | apply keptR_ite | apply keptR_next | apply kept_ite
    | split)

end Sys2Proof.Machine
end

