-- ==== Sys2Proof/Laws/KeptTokens.lean ====
section
/-! SUPPORT. What every operation of Machine/Tokens.lean keeps (Laws/Kept.lean). -/
set_option linter.unusedTactic false
set_option linter.unreachableTactic false
namespace Sys2Proof.Machine
open Sys2Proof

theorem kept_setStage {c : Keep} : ∀ x0 x1 x2, Kept c x0 → Kept c (setStage x0 x1 x2) := by
  intros
  unfold setStage
  repeat' (with_reducible first
    | assumption
    | intro _
    | apply kept_ite
    | split
    | apply kept_mk | apply queueOk_of | apply freshOk_of | apply freshOk_add | apply regsOk_of | apply mgcOk_of | apply fabOk_of | apply storeOk_of | apply cfgOk_of | apply dramsOk_of
    | apply fabOk_mk | apply framesOk_of)

theorem kept_request {c : Keep} : ∀ x0 x1, Kept c x0 → Kept c (request x0 x1) := by
  intros
  unfold request
  repeat' (with_reducible first
    | assumption
    | intro _
    | apply kept_raiseRails | apply kept_ite
    | split)

theorem kept_settled {c : Keep} : ∀ x0, Kept c x0 → Kept c (settled x0) := by
  intros
  unfold settled
  repeat' (with_reducible first
    | assumption
    | intro _
    | apply kept_wdNotices | apply kept_boundaryEnds | apply kept_tokensTaken | apply kept_ite
    | split)

theorem kept_acknowledge {c : Keep} : ∀ x0 x1, Kept c x0 → Kept c (acknowledge x0 x1) := by
  intros
  unfold acknowledge
  repeat' (with_reducible first
    | assumption
    | intro _
    | (rename _ = (_, _) => hq; first | (refine kept_fst_cut (c := c) hq ?_ ?_ <;> [clear hq; (clear hq; intro hr)]) | clear hq)
    | (extract_lets +onlyGivenNames xl; first | (refine kept_cut (c := c) (s := xl) ?_ ?_ <;> [subst xl; (intro hx; clear_value xl)]) | (refine keptP_cut (c := c) (p := xl) ?_ ?_ <;> [subst xl; (intro hx; clear_value xl)]) | subst xl)
    | apply kept_settled | apply kept_moveAck | apply kept_ite | apply keptP_ite | apply keptP_mk
    | apply kept_foldl | apply keptP_foldl
    | split)

theorem kept_release {c : Keep} : ∀ x0 x1, Kept c x0 → Kept c (release x0 x1) := by
  intros
  unfold release
  repeat' (with_reducible first
    | assumption
    | intro _
    | (rename _ = (_, _) => hq; first | (refine kept_fst_cut (c := c) hq ?_ ?_ <;> [clear hq; (clear hq; intro hr)]) | clear hq)
    | (extract_lets +onlyGivenNames xl; first | (refine kept_cut (c := c) (s := xl) ?_ ?_ <;> [subst xl; (intro hx; clear_value xl)]) | (refine keptP_cut (c := c) (p := xl) ?_ ?_ <;> [subst xl; (intro hx; clear_value xl)]) | subst xl)
    | apply kept_settled | apply kept_drive | apply kept_setStage | apply kept_ite | apply keptP_ite | apply keptP_mk
    | apply kept_foldl | apply keptP_foldl
    | split
    | apply kept_mk | apply queueOk_of | apply freshOk_of | apply freshOk_add | apply regsOk_of | apply mgcOk_of | apply fabOk_of | apply storeOk_of | apply cfgOk_of | apply dramsOk_of)

theorem kept_ready {c : Keep} : ∀ x0 x1, Kept c x0 → Kept c (ready x0 x1) := by
  intros
  unfold ready
  repeat' (with_reducible first
    | assumption
    | intro _
    | (rename _ = (_, _) => hq; first | (refine kept_fst_cut (c := c) hq ?_ ?_ <;> [clear hq; (clear hq; intro hr)]) | clear hq)
    | (extract_lets +onlyGivenNames xl; first | (refine kept_cut (c := c) (s := xl) ?_ ?_ <;> [subst xl; (intro hx; clear_value xl)]) | (refine keptP_cut (c := c) (p := xl) ?_ ?_ <;> [subst xl; (intro hx; clear_value xl)]) | subst xl)
    | apply kept_settled | apply kept_moveAck | apply kept_ite | apply keptP_ite | apply keptP_mk
    | apply kept_foldl | apply keptP_foldl
    | split)

theorem kept_execHandshakeAck {c : Keep} : ∀ x0 x1, Kept c x1 → KeptR c (execHandshakeAck x0 x1) := by
  intros
  unfold execHandshakeAck
  repeat' (with_reducible first
    | assumption
    | intro _
    | apply kept_acknowledge | apply keptR_ite | apply keptR_next | apply kept_ite
    | split)

theorem kept_execHandshakeRelease {c : Keep} : ∀ x0 x1, Kept c x1 → KeptR c (execHandshakeRelease x0 x1) := by
  intros
  unfold execHandshakeRelease
  repeat' (with_reducible first
    | assumption
    | intro _
    | apply kept_release | apply keptR_ite | apply keptR_next | apply kept_ite
    | split)

theorem kept_execHandshakeReady {c : Keep} : ∀ x0 x1, Kept c x1 → KeptR c (execHandshakeReady x0 x1) := by
  intros
  unfold execHandshakeReady
  repeat' (with_reducible first
    | assumption
    | intro _
    | apply kept_ready | apply keptR_ite | apply keptR_next | apply kept_ite
    | split)

theorem kept_ackSlots {c : Keep} : ∀ x0 x1 x2, Kept c x0 → Kept c (ackSlots x0 x1 x2) := by
  intros
  unfold ackSlots
  repeat' (with_reducible first
    | assumption
    | intro _
    | (rename _ = (_, _) => hq; first | (refine kept_fst_cut (c := c) hq ?_ ?_ <;> [clear hq; (clear hq; intro hr)]) | clear hq)
    | (extract_lets +onlyGivenNames xl; first | (refine kept_cut (c := c) (s := xl) ?_ ?_ <;> [subst xl; (intro hx; clear_value xl)]) | (refine keptP_cut (c := c) (p := xl) ?_ ?_ <;> [subst xl; (intro hx; clear_value xl)]) | subst xl)
    | apply kept_moveAck | apply kept_ite | apply keptP_ite | apply keptP_mk
    | apply kept_foldl | apply keptP_foldl
    | split)

theorem kept_ackPorts {c : Keep} : ∀ x0 x1, Kept c x0 → Kept c (ackPorts x0 x1) := by
  intros
  unfold ackPorts
  repeat' (with_reducible first
    | assumption
    | intro _
    | apply kept_ackSlots | apply kept_ite
    | split)

theorem kept_emit {c : Keep} : ∀ x0 x1 x2, Kept c x0 → Kept c (emit x0 x1 x2) := by
  intros
  unfold emit
  repeat' (with_reducible first
    | assumption
    | intro _
    | apply kept_countEvent | apply kept_setStage | apply kept_ite
    | split)

theorem kept_fireFunction {c : Keep} : ∀ x0 x1, Kept c x0 → Kept c (fireFunction x0 x1) := by
  intros
  unfold fireFunction
  repeat' (with_reducible first
    | assumption
    | intro _
    | apply kept_ackPorts | apply kept_emit | apply kept_ite
    | split
    | apply kept_mk | apply queueOk_of | apply freshOk_of | apply freshOk_add | apply regsOk_of | apply mgcOk_of | apply fabOk_of | apply storeOk_of | apply cfgOk_of | apply dramsOk_of)

theorem kept_firePass {c : Keep} : ∀ x0 x1, Kept c x0 → Kept c (firePass x0 x1) := by
  intros
  unfold firePass
  repeat' (with_reducible first
    | assumption
    | intro _
    | apply kept_ackPorts | apply kept_emit | apply kept_ite
    | split
    | apply kept_mk | apply queueOk_of | apply freshOk_of | apply freshOk_add | apply regsOk_of | apply mgcOk_of | apply fabOk_of | apply storeOk_of | apply cfgOk_of | apply dramsOk_of)

theorem kept_fireGuarded {c : Keep} : ∀ x0 x1, Kept c x0 → Kept c (fireGuarded x0 x1) := by
  intros
  unfold fireGuarded
  repeat' (with_reducible first
    | assumption
    | intro _
    | (extract_lets +onlyGivenNames xl; first | (refine kept_cut (c := c) (s := xl) ?_ ?_ <;> [subst xl; (intro hx; clear_value xl)]) | (refine keptP_cut (c := c) (p := xl) ?_ ?_ <;> [subst xl; (intro hx; clear_value xl)]) | subst xl)
    | apply kept_ackPorts | apply kept_emit | apply kept_ite
    | split
    | apply kept_mk | apply queueOk_of | apply freshOk_of | apply freshOk_add | apply regsOk_of | apply mgcOk_of | apply fabOk_of | apply storeOk_of | apply cfgOk_of | apply dramsOk_of)

theorem kept_fireArith {c : Keep} : ∀ x0 x1, Kept c x0 → Kept c (fireArith x0 x1) := by
  intros
  unfold fireArith
  repeat' (with_reducible first
    | assumption
    | intro _
    | (extract_lets +onlyGivenNames xl; first | (refine kept_cut (c := c) (s := xl) ?_ ?_ <;> [subst xl; (intro hx; clear_value xl)]) | (refine keptP_cut (c := c) (p := xl) ?_ ?_ <;> [subst xl; (intro hx; clear_value xl)]) | subst xl)
    | apply kept_ackPorts | apply kept_emit | apply kept_moveAck | apply kept_raiseRails | apply kept_ite
    | split
    | apply kept_mk | apply queueOk_of | apply freshOk_of | apply freshOk_add | apply regsOk_of | apply mgcOk_of | apply fabOk_of | apply storeOk_of | apply cfgOk_of | apply dramsOk_of)

theorem kept_setMuxStalled {c : Keep} : ∀ x0 x1 x2, Kept c x0 → Kept c (setMuxStalled x0 x1 x2) := by
  intros
  unfold setMuxStalled
  repeat' (with_reducible first
    | assumption
    | intro _
    | apply kept_ite
    | split
    | apply kept_mk | apply queueOk_of | apply freshOk_of | apply freshOk_add | apply regsOk_of | apply mgcOk_of | apply fabOk_of | apply storeOk_of | apply cfgOk_of | apply dramsOk_of
    | apply fabOk_mk | apply framesOk_of)

theorem kept_fireRoot {c : Keep} : ∀ x0 x1, Kept c x0 → Kept c (fireRoot x0 x1) := by
  intros
  unfold fireRoot
  repeat' (with_reducible first
    | assumption
    | intro _
    | (extract_lets +onlyGivenNames xl; first | (refine kept_cut (c := c) (s := xl) ?_ ?_ <;> [subst xl; (intro hx; clear_value xl)]) | (refine keptP_cut (c := c) (p := xl) ?_ ?_ <;> [subst xl; (intro hx; clear_value xl)]) | subst xl)
    | apply kept_ackSlots | apply kept_emit | apply kept_setMuxStalled | apply kept_tokenFault | apply kept_ite
    | split
    | apply kept_mk | apply queueOk_of | apply freshOk_of | apply freshOk_add | apply regsOk_of | apply mgcOk_of | apply fabOk_of | apply storeOk_of | apply cfgOk_of | apply dramsOk_of)

theorem kept_fire {c : Keep} : ∀ x0 x1, Kept c x0 → Kept c (fire x0 x1) := by
  intros
  unfold fire
  repeat' (with_reducible first
    | assumption
    | intro _
    | apply kept_fireFunction | apply kept_firePass | apply kept_fireGuarded | apply kept_fireArith | apply kept_fireRoot | apply kept_ite
    | split
    | apply kept_mk | apply queueOk_of | apply freshOk_of | apply freshOk_add | apply regsOk_of | apply mgcOk_of | apply fabOk_of | apply storeOk_of | apply cfgOk_of | apply dramsOk_of)

theorem kept_execCellFire {c : Keep} : ∀ x0 x1, Kept c x1 → KeptR c (execCellFire x0 x1) := by
  intros
  unfold execCellFire
  repeat' (with_reducible first
    | assumption
    | intro _
    | apply kept_settled | apply kept_fire | apply keptR_ite | apply keptR_next | apply kept_ite
    | split)

theorem kept_execStoreRead {c : Keep} : ∀ x0 x1 x2 x3, Kept c x3 → KeptR c (execStoreRead x0 x1 x2 x3) := by
  intros
  unfold execStoreRead
  repeat' (with_reducible first
    | assumption
    | intro _
    | apply kept_settled | apply kept_storeRequest | apply keptR_ite | apply keptR_next | apply kept_ite
    | split)

theorem kept_execStoreWrite {c : Keep} : ∀ x0 x1 x2 x3, Kept c x3 → KeptR c (execStoreWrite x0 x1 x2 x3) := by
  intros
  unfold execStoreWrite
  repeat' (with_reducible first
    | assumption
    | intro _
    | apply kept_settled | apply kept_storeRequest | apply keptR_ite | apply keptR_next | apply kept_ite
    | split)

theorem kept_execStoreExchange {c : Keep} : ∀ x0 x1 x2 x3, Kept c x3 → KeptR c (execStoreExchange x0 x1 x2 x3) := by
  intros
  unfold execStoreExchange
  repeat' (with_reducible first
    | assumption
    | intro _
    | apply kept_settled | apply kept_storeRequest | apply keptR_ite | apply keptR_next | apply kept_ite
    | split)

theorem kept_execStoreResponse {c : Keep} : ∀ x0 x1 x2 x3, Kept c x3 → KeptR c (execStoreResponse x0 x1 x2 x3) := by
  intros
  unfold execStoreResponse
  repeat' (with_reducible first
    | assumption
    | intro _
    | apply kept_storeRespond | apply keptR_ite | apply keptR_next | apply kept_ite
    | split)

theorem kept_upset {c : Keep} : ∀ x0 x1, Kept c x0 → Kept c (upset x0 x1) := by
  intros
  unfold upset
  repeat' (with_reducible first
    | assumption
    | intro _
    | apply kept_writeFrame | apply kept_checkInputs | apply kept_watched | apply kept_ite
    | split
    | apply kept_mk | apply queueOk_of | apply freshOk_of | apply freshOk_add | apply regsOk_of | apply mgcOk_of | apply fabOk_of | apply storeOk_of | apply cfgOk_of | apply dramsOk_of
    | apply fabOk_mk | apply framesOk_of)

end Sys2Proof.Machine
end

