-- ==== Sys2Proof/Laws/KeptClock.lean ====
section
/-! SUPPORT. What every operation of Machine/Clock.lean keeps (Laws/Kept.lean). -/
set_option linter.unusedTactic false
set_option linter.unreachableTactic false
namespace Sys2Proof.Machine
open Sys2Proof

theorem kept_setPhase {c : Keep} : ∀ x0 x1, Kept c x0 → Kept c (setPhase x0 x1) := by
  intros
  unfold setPhase
  repeat' (with_reducible first
    | assumption
    | intro _
    | (extract_lets +onlyGivenNames xl; first | (refine kept_cut (c := c) (s := xl) ?_ ?_ <;> [subst xl; (intro hx; clear_value xl)]) | (refine keptP_cut (c := c) (p := xl) ?_ ?_ <;> [subst xl; (intro hx; clear_value xl)]) | subst xl)
    | apply kept_logState | apply kept_put | apply kept_ite
    | split
    | apply kept_mk | apply queueOk_of | apply freshOk_of | apply freshOk_add | apply regsOk_of | apply mgcOk_of | apply fabOk_of | apply storeOk_of | apply cfgOk_of | apply dramsOk_of)

theorem kept_wakeEvent {c : Keep} : ∀ x0 x1 x2, Kept c x0 → Kept c (wakeEvent x0 x1 x2) := by
  intros
  unfold wakeEvent
  repeat' (with_reducible first
    | assumption
    | intro _
    | (extract_lets +onlyGivenNames xl; first | (refine kept_cut (c := c) (s := xl) ?_ ?_ <;> [subst xl; (intro hx; clear_value xl)]) | (refine keptP_cut (c := c) (p := xl) ?_ ?_ <;> [subst xl; (intro hx; clear_value xl)]) | subst xl)
    | apply kept_setCommanded | apply kept_put | apply kept_setPhase | apply kept_ite
    | split
    | apply kept_mk | apply queueOk_of | apply freshOk_of | apply freshOk_add | apply regsOk_of | apply mgcOk_of | apply fabOk_of | apply storeOk_of | apply cfgOk_of | apply dramsOk_of)

theorem kept_timebaseRead {c : Keep} : ∀ x0, Kept c x0 → Kept c (timebaseRead x0) := by
  intros
  unfold timebaseRead
  repeat' (with_reducible first
    | assumption
    | intro _
    | apply kept_setWord | apply kept_ite
    | split)

theorem kept_execTimebaseRead {c : Keep} : ∀ x0, Kept c x0 → KeptR c (execTimebaseRead x0) := by
  intros
  unfold execTimebaseRead
  repeat' (with_reducible first
    | assumption
    | intro _
    | apply kept_timebaseRead | apply keptR_ite | apply keptR_next | apply kept_ite
    | split)

theorem kept_setAlmCmp {c : Keep} : ∀ x0 x1 x2, Kept c x0 → Kept c (setAlmCmp x0 x1 x2) := by
  intros
  unfold setAlmCmp
  repeat' (with_reducible first
    | assumption
    | intro _
    | (extract_lets +onlyGivenNames xl; first | (refine kept_cut (c := c) (s := xl) ?_ ?_ <;> [subst xl; (intro hx; clear_value xl)]) | (refine keptP_cut (c := c) (p := xl) ?_ ?_ <;> [subst xl; (intro hx; clear_value xl)]) | subst xl)
    | apply kept_setWord | apply kept_ite
    | split
    | apply kept_mk | apply queueOk_of | apply freshOk_of | apply freshOk_add | apply regsOk_of | apply mgcOk_of | apply fabOk_of | apply storeOk_of | apply cfgOk_of | apply dramsOk_of)

theorem kept_almAdvance {c : Keep} : ∀ x0 x1, Kept c x0 → Kept c (almAdvance x0 x1) := by
  intros
  unfold almAdvance
  repeat' (with_reducible first
    | assumption
    | intro _
    | (extract_lets +onlyGivenNames xl; first | (refine kept_cut (c := c) (s := xl) ?_ ?_ <;> [subst xl; (intro hx; clear_value xl)]) | (refine keptP_cut (c := c) (p := xl) ?_ ?_ <;> [subst xl; (intro hx; clear_value xl)]) | subst xl)
    | apply kept_setAlmCmp | apply kept_bump | apply kept_ite
    | split)

theorem kept_almFire {c : Keep} : ∀ x0 x1, Kept c x0 → Kept c (almFire x0 x1) := by
  intros
  unfold almFire
  repeat' (with_reducible first
    | assumption
    | intro _
    | (extract_lets +onlyGivenNames xl; first | (refine kept_cut (c := c) (s := xl) ?_ ?_ <;> [subst xl; (intro hx; clear_value xl)]) | (refine keptP_cut (c := c) (p := xl) ?_ ?_ <;> [subst xl; (intro hx; clear_value xl)]) | subst xl)
    | apply kept_put | apply kept_almAdvance | apply kept_ite
    | split)

theorem kept_alarmFire {c : Keep} : ∀ x0 x1, Kept c x0 → Kept c (alarmFire x0 x1) := by
  intros
  unfold alarmFire
  repeat' (with_reducible first
    | assumption
    | intro _
    | (extract_lets +onlyGivenNames xl; first | (refine kept_cut (c := c) (s := xl) ?_ ?_ <;> [subst xl; (intro hx; clear_value xl)]) | (refine keptP_cut (c := c) (p := xl) ?_ ?_ <;> [subst xl; (intro hx; clear_value xl)]) | subst xl)
    | apply kept_almFire | apply kept_wakeEvent | apply kept_offerEvent | apply kept_ite
    | split
    | apply kept_mk | apply queueOk_of | apply freshOk_of | apply freshOk_add | apply regsOk_of | apply mgcOk_of | apply fabOk_of | apply storeOk_of | apply cfgOk_of | apply dramsOk_of)

theorem kept_execAlarmFire {c : Keep} : ∀ x0 x1, Kept c x1 → KeptR c (execAlarmFire x0 x1) := by
  intros
  unfold execAlarmFire
  repeat' (with_reducible first
    | assumption
    | intro _
    | apply kept_alarmFire | apply keptR_ite | apply keptR_next | apply kept_ite
    | split)

theorem kept_alarmCompareWrite {c : Keep} : ∀ x0 x1 x2, Kept c x0 → Kept c (alarmCompareWrite x0 x1 x2) := by
  intros
  unfold alarmCompareWrite
  repeat' (with_reducible first
    | assumption
    | intro _
    | apply kept_setAlmCmp | apply kept_ite
    | split)

theorem kept_execAlarmCompareWrite {c : Keep} : ∀ x0 x1 x2, Kept c x2 → KeptR c (execAlarmCompareWrite x0 x1 x2) := by
  intros
  unfold execAlarmCompareWrite
  repeat' (with_reducible first
    | assumption
    | intro _
    | apply kept_alarmCompareWrite | apply keptR_ite | apply keptR_next | apply kept_ite
    | split)

theorem kept_execAlarmSkippedClear {c : Keep} : ∀ x0 x1, Kept c x1 → KeptR c (execAlarmSkippedClear x0 x1) := by
  intros
  unfold execAlarmSkippedClear
  repeat' (with_reducible first
    | assumption
    | intro _
    | apply kept_put | apply keptR_ite | apply keptR_next | apply kept_ite
    | split)

theorem kept_wakeTimeWrite {c : Keep} : ∀ x0 x1, Kept c x0 → Kept c (wakeTimeWrite x0 x1) := by
  intros
  unfold wakeTimeWrite
  repeat' (with_reducible first
    | assumption
    | intro _
    | (extract_lets +onlyGivenNames xl; first | (refine kept_cut (c := c) (s := xl) ?_ ?_ <;> [subst xl; (intro hx; clear_value xl)]) | (refine keptP_cut (c := c) (p := xl) ?_ ?_ <;> [subst xl; (intro hx; clear_value xl)]) | subst xl)
    | apply kept_setAlmCmp | apply kept_setWord | apply kept_put | apply kept_ite
    | split)

theorem kept_timebaseStep {c : Keep} : ∀ x0 x1, Kept c x0 → Kept c (timebaseStep x0 x1) := by
  intros
  unfold timebaseStep
  repeat' (with_reducible first
    | assumption
    | intro _
    | (rename _ = (_, _) => hq; first | (refine kept_fst_cut (c := c) hq ?_ ?_ <;> [clear hq; (clear hq; intro hr)]) | clear hq)
    | (extract_lets +onlyGivenNames xl; first | (refine kept_cut (c := c) (s := xl) ?_ ?_ <;> [subst xl; (intro hx; clear_value xl)]) | (refine keptP_cut (c := c) (p := xl) ?_ ?_ <;> [subst xl; (intro hx; clear_value xl)]) | subst xl)
    | apply kept_put | apply kept_timebaseJump | apply kept_logState | apply kept_offerEvent | apply kept_almFire | apply kept_ite | apply keptP_ite | apply keptP_mk
    | apply kept_foldl | apply keptP_foldl
    | split
    | apply kept_mk | apply queueOk_of | apply freshOk_of | apply freshOk_add | apply regsOk_of | apply mgcOk_of | apply fabOk_of | apply storeOk_of | apply cfgOk_of | apply dramsOk_of)

end Sys2Proof.Machine
end

