-- ==== Sys2Proof/Laws/KeptLine.lean ====
section
/-! SUPPORT. What every operation of Machine/Line.lean keeps (Laws/Kept.lean). -/
set_option linter.unusedTactic false
set_option linter.unreachableTactic false
namespace Sys2Proof.Machine
open Sys2Proof

theorem kept_setLane {c : Keep} : ∀ x0 x1 x2, Kept c x0 → Kept c (setLane x0 x1 x2) := by
  intros
  unfold setLane
  repeat' (with_reducible first
    | assumption
    | intro _
    | apply kept_ite
    | split
    | apply kept_mk | apply queueOk_of | apply freshOk_of | apply freshOk_add | apply regsOk_of | apply mgcOk_of | apply fabOk_of | apply storeOk_of | apply cfgOk_of | apply dramsOk_of)

theorem kept_fresh {c : Keep} : ∀ x0 x1, Kept c x0 → Kept c (fresh x0 x1) := by
  intros
  unfold fresh
  repeat' (with_reducible first
    | assumption
    | intro _
    | apply kept_setLane | apply kept_ite
    | split
    | apply kept_mk | apply queueOk_of | apply freshOk_of | apply freshOk_add | apply regsOk_of | apply mgcOk_of | apply fabOk_of | apply storeOk_of | apply cfgOk_of | apply dramsOk_of)

theorem kept_emitBlocks {c : Keep} : ∀ x0 x1 x2, Kept c x0 → Kept c (emitBlocks x0 x1 x2) := by
  intros
  unfold emitBlocks
  repeat' (with_reducible first
    | assumption
    | intro _
    | (extract_lets +onlyGivenNames xl; first | (refine kept_cut (c := c) (s := xl) ?_ ?_ <;> [subst xl; (intro hx; clear_value xl)]) | (refine keptP_cut (c := c) (p := xl) ?_ ?_ <;> [subst xl; (intro hx; clear_value xl)]) | subst xl)
    | apply kept_setLane | apply kept_ite
    | split
    | apply kept_mk | apply queueOk_of | apply freshOk_of | apply freshOk_add | apply regsOk_of | apply mgcOk_of | apply fabOk_of | apply storeOk_of | apply cfgOk_of | apply dramsOk_of)

end Sys2Proof.Machine
end

