-- ==== Sys2Proof/Laws/KeptKwrCore.lean ====
section
/-! SUPPORT. What every operation of Machine/KwrCore.lean keeps (Laws/Kept.lean). -/
set_option linter.unusedTactic false
set_option linter.unreachableTactic false
namespace Sys2Proof.Machine
open Sys2Proof

theorem kept_setKwr {c : Keep} : ∀ x0 x1 x2, Kept c x0 → Kept c (setKwr x0 x1 x2) := by
  intros
  unfold setKwr
  repeat' (with_reducible first
    | assumption
    | intro _
    | apply kept_ite
    | split
    | apply kept_mk | apply queueOk_of | apply freshOk_of | apply freshOk_add | apply regsOk_of | apply mgcOk_of | apply fabOk_of | apply storeOk_of | apply cfgOk_of | apply dramsOk_of)

theorem kept_kwrFresh {c : Keep} : ∀ x0 x1, Kept c x0 → Kept c (kwrFresh x0 x1) := by
  intros
  unfold kwrFresh
  repeat' (with_reducible first
    | assumption
    | intro _
    | (rename _ = (_, _) => hq; first | (refine kept_fst_cut (c := c) hq ?_ ?_ <;> [clear hq; (clear hq; intro hr)]) | clear hq)
    | (extract_lets +onlyGivenNames xl; first | (refine kept_cut (c := c) (s := xl) ?_ ?_ <;> [subst xl; (intro hx; clear_value xl)]) | (refine keptP_cut (c := c) (p := xl) ?_ ?_ <;> [subst xl; (intro hx; clear_value xl)]) | subst xl)
    | apply kept_fresh | apply kept_setKwr | apply kept_ite | apply keptP_ite | apply keptP_mk
    | apply kept_foldl | apply keptP_foldl
    | split
    | apply kept_mk | apply queueOk_of | apply freshOk_of | apply freshOk_add | apply regsOk_of | apply mgcOk_of | apply fabOk_of | apply storeOk_of | apply cfgOk_of | apply dramsOk_of)

theorem kept_kwrNow1 {c : Keep} : ∀ x0 x1 x2, Kept c x0 → Kept c (kwrNow1 x0 x1 x2) := by
  intros
  unfold kwrNow1
  repeat' (with_reducible first
    | assumption
    | intro _
    | (rename _ = (_, _) => hq; first | (refine kept_fst_cut (c := c) hq ?_ ?_ <;> [clear hq; (clear hq; intro hr)]) | clear hq)
    | (extract_lets +onlyGivenNames xl; first | (refine kept_cut (c := c) (s := xl) ?_ ?_ <;> [subst xl; (intro hx; clear_value xl)]) | (refine keptP_cut (c := c) (p := xl) ?_ ?_ <;> [subst xl; (intro hx; clear_value xl)]) | subst xl)
    | apply kept_setKwr | apply kept_emitBlocks | apply kept_ite | apply keptP_ite | apply keptP_mk
    | apply kept_foldl | apply keptP_foldl
    | split
    | apply kept_mk | apply queueOk_of | apply freshOk_of | apply freshOk_add | apply regsOk_of | apply mgcOk_of | apply fabOk_of | apply storeOk_of | apply cfgOk_of | apply dramsOk_of)

theorem kept_kwrNow {c : Keep} : ∀ x0 x1 x2, Kept c x0 → Kept c (kwrNow x0 x1 x2) := by
  intros
  unfold kwrNow
  repeat' (with_reducible first
    | assumption
    | intro _
    | (rename _ = (_, _) => hq; first | (refine kept_fst_cut (c := c) hq ?_ ?_ <;> [clear hq; (clear hq; intro hr)]) | clear hq)
    | (extract_lets +onlyGivenNames xl; first | (refine kept_cut (c := c) (s := xl) ?_ ?_ <;> [subst xl; (intro hx; clear_value xl)]) | (refine keptP_cut (c := c) (p := xl) ?_ ?_ <;> [subst xl; (intro hx; clear_value xl)]) | subst xl)
    | apply kept_kwrNow1 | apply kept_ite | apply keptP_ite | apply keptP_mk
    | apply kept_foldl | apply keptP_foldl
    | split)

theorem kept_kwrGo {c : Keep} : ∀ x0 x1 x2 x3, Kept c x0 → Kept c (kwrGo x0 x1 x2 x3) := by
  intros
  unfold kwrGo
  repeat' (with_reducible first
    | assumption
    | intro _
    | (extract_lets +onlyGivenNames xl; first | (refine kept_cut (c := c) (s := xl) ?_ ?_ <;> [subst xl; (intro hx; clear_value xl)]) | (refine keptP_cut (c := c) (p := xl) ?_ ?_ <;> [subst xl; (intro hx; clear_value xl)]) | subst xl)
    | apply kept_offerEvent | apply kept_put | apply kept_setKwr | apply kept_raise | apply kept_ite
    | split
    | apply kept_mk | apply queueOk_of | apply freshOk_of | apply freshOk_add | apply regsOk_of | apply mgcOk_of | apply fabOk_of | apply storeOk_of | apply cfgOk_of | apply dramsOk_of)

theorem kept_kwrAligned {c : Keep} : ∀ x0 x1 x2, Kept c x0 → Kept c (kwrAligned x0 x1 x2) := by
  intros
  unfold kwrAligned
  repeat' (with_reducible first
    | assumption
    | intro _
    | apply kept_offerEvent | apply kept_put | apply kept_ite
    | split)

theorem kept_kwrFault {c : Keep} : ∀ x0 x1 x2, Kept c x0 → Kept c (kwrFault x0 x1 x2) := by
  intros
  unfold kwrFault
  repeat' (with_reducible first
    | assumption
    | intro _
    | (extract_lets +onlyGivenNames xl; first | (refine kept_cut (c := c) (s := xl) ?_ ?_ <;> [subst xl; (intro hx; clear_value xl)]) | (refine keptP_cut (c := c) (p := xl) ?_ ?_ <;> [subst xl; (intro hx; clear_value xl)]) | subst xl)
    | apply kept_kwrGo | apply kept_tookFree | apply kept_put | apply kept_raise | apply kept_ite
    | split)

theorem kept_kwrLaneDown {c : Keep} : ∀ x0 x1, Kept c x0 → Kept c (kwrLaneDown x0 x1) := by
  intros
  unfold kwrLaneDown
  repeat' (with_reducible first
    | assumption
    | intro _
    | (extract_lets +onlyGivenNames xl; first | (refine kept_cut (c := c) (s := xl) ?_ ?_ <;> [subst xl; (intro hx; clear_value xl)]) | (refine keptP_cut (c := c) (p := xl) ?_ ?_ <;> [subst xl; (intro hx; clear_value xl)]) | subst xl)
    | apply kept_setKwr | apply kept_kwrGo | apply kept_ite
    | split
    | apply kept_mk | apply queueOk_of | apply freshOk_of | apply freshOk_add | apply regsOk_of | apply mgcOk_of | apply fabOk_of | apply storeOk_of | apply cfgOk_of | apply dramsOk_of)

theorem kept_kwrLanesUp {c : Keep} : ∀ x0 x1, Kept c x0 → Kept c (kwrLanesUp x0 x1) := by
  intros
  unfold kwrLanesUp
  repeat' (with_reducible first
    | assumption
    | intro _
    | (extract_lets +onlyGivenNames xl; first | (refine kept_cut (c := c) (s := xl) ?_ ?_ <;> [subst xl; (intro hx; clear_value xl)]) | (refine keptP_cut (c := c) (p := xl) ?_ ?_ <;> [subst xl; (intro hx; clear_value xl)]) | subst xl)
    | apply kept_setKwr | apply kept_kwrNow | apply kept_kwrFault | apply kept_kwrGo | apply kept_ite
    | split
    | apply kept_mk | apply queueOk_of | apply freshOk_of | apply freshOk_add | apply regsOk_of | apply mgcOk_of | apply fabOk_of | apply storeOk_of | apply cfgOk_of | apply dramsOk_of)

theorem kept_kwrFollow {c : Keep} : ∀ x0 x1, Kept c x0 → Kept c (kwrFollow x0 x1) := by
  intros
  unfold kwrFollow
  repeat' (with_reducible first
    | assumption
    | intro _
    | apply kept_kwrLanesUp | apply kept_kwrLaneDown | apply kept_ite
    | split)

theorem kept_kwrOff {c : Keep} : ∀ x0 x1 x2, Kept c x0 → Kept c (kwrOff x0 x1 x2) := by
  intros
  unfold kwrOff
  repeat' (with_reducible first
    | assumption
    | intro _
    | (extract_lets +onlyGivenNames xl; first | (refine kept_cut (c := c) (s := xl) ?_ ?_ <;> [subst xl; (intro hx; clear_value xl)]) | (refine keptP_cut (c := c) (p := xl) ?_ ?_ <;> [subst xl; (intro hx; clear_value xl)]) | subst xl)
    | apply kept_kwrGo | apply kept_kwrAligned | apply kept_setKwr | apply kept_put | apply kept_setWord | apply kept_ite
    | split
    | apply kept_mk | apply queueOk_of | apply freshOk_of | apply freshOk_add | apply regsOk_of | apply mgcOk_of | apply fabOk_of | apply storeOk_of | apply cfgOk_of | apply dramsOk_of)

theorem kept_kwrRole {c : Keep} : ∀ x0 x1 x2, Kept c x0 → Kept c (kwrRole x0 x1 x2) := by
  intros
  unfold kwrRole
  repeat' (with_reducible first
    | assumption
    | intro _
    | (extract_lets +onlyGivenNames xl; first | (refine kept_cut (c := c) (s := xl) ?_ ?_ <;> [subst xl; (intro hx; clear_value xl)]) | (refine keptP_cut (c := c) (p := xl) ?_ ?_ <;> [subst xl; (intro hx; clear_value xl)]) | subst xl)
    | apply kept_kwrOff | apply kept_kwrFresh | apply kept_put | apply kept_kwrLanesUp | apply kept_kwrGo | apply kept_ite
    | split)

theorem kept_execKwrRoleWrite {c : Keep} : ∀ x0 x1 x2, Kept c x2 → KeptR c (execKwrRoleWrite x0 x1 x2) := by
  intros
  unfold execKwrRoleWrite
  repeat' (with_reducible first
    | assumption
    | intro _
    | apply kept_kwrRole | apply kept_commandIf | apply keptR_ite | apply keptR_next | apply kept_ite
    | split)

theorem kept_kwrWidthWrite {c : Keep} : ∀ x0 x1 x2, Kept c x0 → Kept c (kwrWidthWrite x0 x1 x2) := by
  intros
  unfold kwrWidthWrite
  repeat' (with_reducible first
    | assumption
    | intro _
    | apply kept_put | apply kept_kwrLanesUp | apply kept_kwrGo | apply kept_kwrOff | apply kept_kwrFresh | apply kept_tookFree | apply kept_ite
    | split)

theorem kept_execKwrWidthWrite {c : Keep} : ∀ x0 x1 x2, Kept c x2 → KeptR c (execKwrWidthWrite x0 x1 x2) := by
  intros
  unfold execKwrWidthWrite
  repeat' (with_reducible first
    | assumption
    | intro _
    | apply kept_kwrWidthWrite | apply keptR_ite | apply keptR_next | apply kept_ite
    | split)

end Sys2Proof.Machine
end

