-- ==== Sys2Proof/Laws/KeptLane.lean ====
section
/-! SUPPORT. What every operation of Machine/Lane.lean keeps (Laws/Kept.lean). -/
set_option linter.unusedTactic false
set_option linter.unreachableTactic false
namespace Sys2Proof.Machine
open Sys2Proof

theorem kept_presetEq {c : Keep} : ∀ x0 x1 x2, Kept c x0 → Kept c (presetEq x0 x1 x2) := by
  intros
  unfold presetEq
  repeat' (with_reducible first
    | assumption
    | intro _
    | apply kept_setWord | apply kept_put | apply kept_ite
    | split)

theorem kept_presetCord {c : Keep} : ∀ x0 x1, Kept c x0 → Kept c (presetCord x0 x1) := by
  intros
  unfold presetCord
  repeat' (with_reducible first
    | assumption
    | intro _
    | (rename _ = (_, _) => hq; first | (refine kept_fst_cut (c := c) hq ?_ ?_ <;> [clear hq; (clear hq; intro hr)]) | clear hq)
    | (extract_lets +onlyGivenNames xl; first | (refine kept_cut (c := c) (s := xl) ?_ ?_ <;> [subst xl; (intro hx; clear_value xl)]) | (refine keptP_cut (c := c) (p := xl) ?_ ?_ <;> [subst xl; (intro hx; clear_value xl)]) | subst xl)
    | apply kept_presetEq | apply kept_setWord | apply kept_ite | apply keptP_ite | apply keptP_mk
    | apply kept_foldl | apply keptP_foldl
    | split)

theorem kept_adapt {c : Keep} : ∀ x0 x1, Kept c x0 → Kept c (adapt x0 x1) := by
  intros
  unfold adapt
  repeat' (with_reducible first
    | assumption
    | intro _
    | (extract_lets +onlyGivenNames xl; first | (refine kept_cut (c := c) (s := xl) ?_ ?_ <;> [subst xl; (intro hx; clear_value xl)]) | (refine keptP_cut (c := c) (p := xl) ?_ ?_ <;> [subst xl; (intro hx; clear_value xl)]) | subst xl)
    | apply kept_setWord | apply kept_put | apply kept_tookFree | apply kept_ite
    | split)

theorem kept_rxPayOwed {c : Keep} : ∀ x0 x1, Kept c x0 → Kept c (rxPayOwed x0 x1) := by
  intros
  unfold rxPayOwed
  repeat' (with_reducible first
    | assumption
    | intro _
    | (rename _ = (_, _) => hq; first | (refine kept_fst_cut (c := c) hq ?_ ?_ <;> [clear hq; (clear hq; intro hr)]) | clear hq)
    | (extract_lets +onlyGivenNames xl; first | (refine kept_cut (c := c) (s := xl) ?_ ?_ <;> [subst xl; (intro hx; clear_value xl)]) | (refine keptP_cut (c := c) (p := xl) ?_ ?_ <;> [subst xl; (intro hx; clear_value xl)]) | subst xl)
    | (apply kept_fst; first | assumption | apply kept_fifoPush)
    | apply kept_setLane | apply kept_fifoPush | apply kept_ite | apply keptP_ite | apply keptP_mk
    | split
    | apply kept_mk | apply queueOk_of | apply freshOk_of | apply freshOk_add | apply regsOk_of | apply mgcOk_of | apply fabOk_of | apply storeOk_of | apply cfgOk_of | apply dramsOk_of)

theorem kept_rxWrite {c : Keep} : ∀ x0 x1 x2, Kept c x0 → Kept c (rxWrite x0 x1 x2) := by
  intros
  unfold rxWrite
  repeat' (with_reducible first
    | assumption
    | intro _
    | (rename _ = (_, _) => hq; first | (refine kept_fst_cut (c := c) hq ?_ ?_ <;> [clear hq; (clear hq; intro hr)]) | clear hq)
    | (extract_lets +onlyGivenNames xl; first | (refine kept_cut (c := c) (s := xl) ?_ ?_ <;> [subst xl; (intro hx; clear_value xl)]) | (refine keptP_cut (c := c) (p := xl) ?_ ?_ <;> [subst xl; (intro hx; clear_value xl)]) | subst xl)
    | (apply kept_fst; first | assumption | apply kept_fifoPush)
    | apply kept_fifoPush | apply kept_setLane | apply kept_bump | apply kept_ite | apply keptP_ite | apply keptP_mk
    | split
    | apply kept_mk | apply queueOk_of | apply freshOk_of | apply freshOk_add | apply regsOk_of | apply mgcOk_of | apply fabOk_of | apply storeOk_of | apply cfgOk_of | apply dramsOk_of)

theorem kept_rxFinish {c : Keep} : ∀ x0 x1 x2 x3, Kept c x0 → Kept c (rxFinish x0 x1 x2 x3) := by
  intros
  unfold rxFinish
  repeat' (with_reducible first
    | assumption
    | intro _
    | (rename _ = (_, _) => hq; first | (refine kept_fst_cut (c := c) hq ?_ ?_ <;> [clear hq; (clear hq; intro hr)]) | clear hq)
    | (extract_lets +onlyGivenNames xl; first | (refine kept_cut (c := c) (s := xl) ?_ ?_ <;> [subst xl; (intro hx; clear_value xl)]) | (refine keptP_cut (c := c) (p := xl) ?_ ?_ <;> [subst xl; (intro hx; clear_value xl)]) | subst xl)
    | apply kept_rxWrite | apply kept_ite | apply keptP_ite | apply keptP_mk
    | apply kept_foldl | apply keptP_foldl
    | split
    | apply kept_mk | apply queueOk_of | apply freshOk_of | apply freshOk_add | apply regsOk_of | apply mgcOk_of | apply fabOk_of | apply storeOk_of | apply cfgOk_of | apply dramsOk_of)

theorem kept_rxClear {c : Keep} : ∀ x0 x1, Kept c x0 → Kept c (rxClear x0 x1) := by
  intros
  unfold rxClear
  repeat' (with_reducible first
    | assumption
    | intro _
    | apply kept_setLane | apply kept_ite
    | split
    | apply kept_mk | apply queueOk_of | apply freshOk_of | apply freshOk_add | apply regsOk_of | apply mgcOk_of | apply fabOk_of | apply storeOk_of | apply cfgOk_of | apply dramsOk_of)

theorem kept_rxAbort {c : Keep} : ∀ x0 x1, Kept c x0 → Kept c (rxAbort x0 x1) := by
  intros
  unfold rxAbort
  repeat' (with_reducible first
    | assumption
    | intro _
    | (extract_lets +onlyGivenNames xl; first | (refine kept_cut (c := c) (s := xl) ?_ ?_ <;> [subst xl; (intro hx; clear_value xl)]) | (refine keptP_cut (c := c) (p := xl) ?_ ?_ <;> [subst xl; (intro hx; clear_value xl)]) | subst xl)
    | apply kept_rxClear | apply kept_bump | apply kept_rxFinish | apply kept_ite
    | split)

theorem kept_rxBegin {c : Keep} : ∀ x0 x1, Kept c x0 → Kept c (rxBegin x0 x1) := by
  intros
  unfold rxBegin
  repeat' (with_reducible first
    | assumption
    | intro _
    | (extract_lets +onlyGivenNames xl; first | (refine kept_cut (c := c) (s := xl) ?_ ?_ <;> [subst xl; (intro hx; clear_value xl)]) | (refine keptP_cut (c := c) (p := xl) ?_ ?_ <;> [subst xl; (intro hx; clear_value xl)]) | subst xl)
    | apply kept_rxPayOwed | apply kept_rxClear | apply kept_setLane | apply kept_bump | apply kept_ite
    | split
    | apply kept_mk | apply queueOk_of | apply freshOk_of | apply freshOk_add | apply regsOk_of | apply mgcOk_of | apply fabOk_of | apply storeOk_of | apply cfgOk_of | apply dramsOk_of)

theorem kept_blockError {c : Keep} : ∀ x0 x1, Kept c x0 → Kept c (blockError x0 x1) := by
  intros
  unfold blockError
  repeat' (with_reducible first
    | assumption
    | intro _
    | (extract_lets +onlyGivenNames xl; first | (refine kept_cut (c := c) (s := xl) ?_ ?_ <;> [subst xl; (intro hx; clear_value xl)]) | (refine keptP_cut (c := c) (p := xl) ?_ ?_ <;> [subst xl; (intro hx; clear_value xl)]) | subst xl)
    | apply kept_setLane | apply kept_offerEvent | apply kept_bump | apply kept_ite
    | split
    | apply kept_mk | apply queueOk_of | apply freshOk_of | apply freshOk_add | apply regsOk_of | apply mgcOk_of | apply fabOk_of | apply storeOk_of | apply cfgOk_of | apply dramsOk_of)

theorem kept_setLink {c : Keep} : ∀ x0 x1 x2, Kept c x0 → Kept c (setLink x0 x1 x2) := by
  intros
  unfold setLink
  repeat' (with_reducible first
    | assumption
    | intro _
    | (extract_lets +onlyGivenNames xl; first | (refine kept_cut (c := c) (s := xl) ?_ ?_ <;> [subst xl; (intro hx; clear_value xl)]) | (refine keptP_cut (c := c) (p := xl) ?_ ?_ <;> [subst xl; (intro hx; clear_value xl)]) | subst xl)
    | apply kept_offerEvent | apply kept_put | apply kept_logState | apply kept_ite
    | split)

theorem kept_showFrozen {c : Keep} : ∀ x0 x1, Kept c x0 → Kept c (showFrozen x0 x1) := by
  intros
  unfold showFrozen
  repeat' (with_reducible first
    | assumption
    | intro _
    | apply kept_put | apply kept_ite
    | split)

theorem kept_attemptClear {c : Keep} : ∀ x0 x1, Kept c x0 → Kept c (attemptClear x0 x1) := by
  intros
  unfold attemptClear
  repeat' (with_reducible first
    | assumption
    | intro _
    | apply kept_setLane | apply kept_ready | apply kept_ite
    | split
    | apply kept_mk | apply queueOk_of | apply freshOk_of | apply freshOk_add | apply regsOk_of | apply mgcOk_of | apply fabOk_of | apply storeOk_of | apply cfgOk_of | apply dramsOk_of)

theorem kept_startAttempt {c : Keep} : ∀ x0 x1 x2, Kept c x0 → Kept c (startAttempt x0 x1 x2) := by
  intros
  unfold startAttempt
  repeat' (with_reducible first
    | assumption
    | intro _
    | (extract_lets +onlyGivenNames xl; first | (refine kept_cut (c := c) (s := xl) ?_ ?_ <;> [subst xl; (intro hx; clear_value xl)]) | (refine keptP_cut (c := c) (p := xl) ?_ ?_ <;> [subst xl; (intro hx; clear_value xl)]) | subst xl)
    | apply kept_presetEq | apply kept_attemptClear | apply kept_showFrozen | apply kept_setLane | apply kept_setLink | apply kept_put | apply kept_ite
    | split
    | apply kept_mk | apply queueOk_of | apply freshOk_of | apply freshOk_add | apply regsOk_of | apply mgcOk_of | apply fabOk_of | apply storeOk_of | apply cfgOk_of | apply dramsOk_of)

theorem kept_newSequence {c : Keep} : ∀ x0 x1, Kept c x0 → Kept c (newSequence x0 x1) := by
  intros
  unfold newSequence
  repeat' (with_reducible first
    | assumption
    | intro _
    | (extract_lets +onlyGivenNames xl; first | (refine kept_cut (c := c) (s := xl) ?_ ?_ <;> [subst xl; (intro hx; clear_value xl)]) | (refine keptP_cut (c := c) (p := xl) ?_ ?_ <;> [subst xl; (intro hx; clear_value xl)]) | subst xl)
    | apply kept_put | apply kept_setLane | apply kept_ite
    | split
    | apply kept_mk | apply queueOk_of | apply freshOk_of | apply freshOk_add | apply regsOk_of | apply mgcOk_of | apply fabOk_of | apply storeOk_of | apply cfgOk_of | apply dramsOk_of)

theorem kept_idleEnds {c : Keep} : ∀ x0 x1, Kept c x0 → Kept c (idleEnds x0 x1) := by
  intros
  unfold idleEnds
  repeat' (with_reducible first
    | assumption
    | intro _
    | (extract_lets +onlyGivenNames xl; first | (refine kept_cut (c := c) (s := xl) ?_ ?_ <;> [subst xl; (intro hx; clear_value xl)]) | (refine keptP_cut (c := c) (p := xl) ?_ ?_ <;> [subst xl; (intro hx; clear_value xl)]) | subst xl)
    | apply kept_setLane | apply kept_put | apply kept_ite
    | split
    | apply kept_mk | apply queueOk_of | apply freshOk_of | apply freshOk_add | apply regsOk_of | apply mgcOk_of | apply fabOk_of | apply storeOk_of | apply cfgOk_of | apply dramsOk_of)

theorem kept_laneKick {c : Keep} : ∀ x0 x1, Kept c x0 → Kept c (laneKick x0 x1) := by
  intros
  unfold laneKick
  repeat' (with_reducible first
    | assumption
    | intro _
    | (extract_lets +onlyGivenNames xl; first | (refine kept_cut (c := c) (s := xl) ?_ ?_ <;> [subst xl; (intro hx; clear_value xl)]) | (refine keptP_cut (c := c) (p := xl) ?_ ?_ <;> [subst xl; (intro hx; clear_value xl)]) | subst xl)
    | apply kept_put | apply kept_startAttempt | apply kept_newSequence | apply kept_ite
    | split)

theorem kept_txClear {c : Keep} : ∀ x0 x1, Kept c x0 → Kept c (txClear x0 x1) := by
  intros
  unfold txClear
  repeat' (with_reducible first
    | assumption
    | intro _
    | apply kept_setLane | apply kept_ite
    | split
    | apply kept_mk | apply queueOk_of | apply freshOk_of | apply freshOk_add | apply regsOk_of | apply mgcOk_of | apply fabOk_of | apply storeOk_of | apply cfgOk_of | apply dramsOk_of)

theorem kept_linkOff {c : Keep} : ∀ x0 x1, Kept c x0 → Kept c (linkOff x0 x1) := by
  intros
  unfold linkOff
  repeat' (with_reducible first
    | assumption
    | intro _
    | (extract_lets +onlyGivenNames xl; first | (refine kept_cut (c := c) (s := xl) ?_ ?_ <;> [subst xl; (intro hx; clear_value xl)]) | (refine keptP_cut (c := c) (p := xl) ?_ ?_ <;> [subst xl; (intro hx; clear_value xl)]) | subst xl)
    | apply kept_idleEnds | apply kept_attemptClear | apply kept_txClear | apply kept_rxAbort | apply kept_setLane | apply kept_put | apply kept_kwrFollow | apply kept_setLink | apply kept_ite
    | split
    | apply kept_mk | apply queueOk_of | apply freshOk_of | apply freshOk_add | apply regsOk_of | apply mgcOk_of | apply fabOk_of | apply storeOk_of | apply cfgOk_of | apply dramsOk_of)

theorem kept_linkDown {c : Keep} : ∀ x0 x1 x2, Kept c x0 → Kept c (linkDown x0 x1 x2) := by
  intros
  unfold linkDown
  repeat' (with_reducible first
    | assumption
    | intro _
    | (extract_lets +onlyGivenNames xl; first | (refine kept_cut (c := c) (s := xl) ?_ ?_ <;> [subst xl; (intro hx; clear_value xl)]) | (refine keptP_cut (c := c) (p := xl) ?_ ?_ <;> [subst xl; (intro hx; clear_value xl)]) | subst xl)
    | apply kept_idleEnds | apply kept_txClear | apply kept_rxAbort | apply kept_raise | apply kept_startAttempt | apply kept_newSequence | apply kept_put | apply kept_kwrFollow | apply kept_ite
    | split)

theorem kept_pllUpdate {c : Keep} : ∀ x0 x1, Kept c x0 → Kept c (pllUpdate x0 x1) := by
  intros
  unfold pllUpdate
  repeat' (with_reducible first
    | assumption
    | intro _
    | apply kept_put | apply kept_ite
    | split)

theorem kept_pllLost {c : Keep} : ∀ x0 x1, Kept c x0 → Kept c (pllLost x0 x1) := by
  intros
  unfold pllLost
  repeat' (with_reducible first
    | assumption
    | intro _
    | (rename _ = (_, _) => hq; first | (refine kept_fst_cut (c := c) hq ?_ ?_ <;> [clear hq; (clear hq; intro hr)]) | clear hq)
    | (extract_lets +onlyGivenNames xl; first | (refine kept_cut (c := c) (s := xl) ?_ ?_ <;> [subst xl; (intro hx; clear_value xl)]) | (refine keptP_cut (c := c) (p := xl) ?_ ?_ <;> [subst xl; (intro hx; clear_value xl)]) | subst xl)
    | apply kept_updateSeals | apply kept_put | apply kept_linkOff | apply kept_ite | apply keptP_ite | apply keptP_mk
    | apply kept_foldl | apply keptP_foldl
    | split)

theorem kept_cordRefLost {c : Keep} : ∀ x0 x1 x2, Kept c x0 → Kept c (cordRefLost x0 x1 x2) := by
  intros
  unfold cordRefLost
  repeat' (with_reducible first
    | assumption
    | intro _
    | (extract_lets +onlyGivenNames xl; first | (refine kept_cut (c := c) (s := xl) ?_ ?_ <;> [subst xl; (intro hx; clear_value xl)]) | (refine keptP_cut (c := c) (p := xl) ?_ ?_ <;> [subst xl; (intro hx; clear_value xl)]) | subst xl)
    | apply kept_pllLost | apply kept_raise | apply kept_put | apply kept_ite
    | split)

theorem kept_cordsLost {c : Keep} : ∀ x0 x1 x2, Kept c x0 → Kept c (cordsLost x0 x1 x2) := by
  intros
  unfold cordsLost
  repeat' (with_reducible first
    | assumption
    | intro _
    | (rename _ = (_, _) => hq; first | (refine kept_fst_cut (c := c) hq ?_ ?_ <;> [clear hq; (clear hq; intro hr)]) | clear hq)
    | (extract_lets +onlyGivenNames xl; first | (refine kept_cut (c := c) (s := xl) ?_ ?_ <;> [subst xl; (intro hx; clear_value xl)]) | (refine keptP_cut (c := c) (p := xl) ?_ ?_ <;> [subst xl; (intro hx; clear_value xl)]) | subst xl)
    | apply kept_cordRefLost | apply kept_ite | apply keptP_ite | apply keptP_mk
    | apply kept_foldl | apply keptP_foldl
    | split)

theorem kept_execCordRefLost {c : Keep} : ∀ x0 x1 x2, Kept c x2 → KeptR c (execCordRefLost x0 x1 x2) := by
  intros
  unfold execCordRefLost
  repeat' (with_reducible first
    | assumption
    | intro _
    | apply kept_cordsLost | apply keptR_ite | apply keptR_next | apply kept_ite
    | split)

theorem kept_cordLock {c : Keep} : ∀ x0 x1, Kept c x0 → Kept c (cordLock x0 x1) := by
  intros
  unfold cordLock
  repeat' (with_reducible first
    | assumption
    | intro _
    | (rename _ = (_, _) => hq; first | (refine kept_fst_cut (c := c) hq ?_ ?_ <;> [clear hq; (clear hq; intro hr)]) | clear hq)
    | (extract_lets +onlyGivenNames xl; first | (refine kept_cut (c := c) (s := xl) ?_ ?_ <;> [subst xl; (intro hx; clear_value xl)]) | (refine keptP_cut (c := c) (p := xl) ?_ ?_ <;> [subst xl; (intro hx; clear_value xl)]) | subst xl)
    | apply kept_updateSeals | apply kept_put | apply kept_laneKick | apply kept_ite | apply keptP_ite | apply keptP_mk
    | apply kept_foldl | apply keptP_foldl
    | split)

theorem kept_execCordPllLock {c : Keep} : ∀ x0 x1, Kept c x1 → KeptR c (execCordPllLock x0 x1) := by
  intros
  unfold execCordPllLock
  repeat' (with_reducible first
    | assumption
    | intro _
    | apply kept_cordLock | apply keptR_ite | apply keptR_next | apply kept_ite
    | split)

theorem kept_cordRate {c : Keep} : ∀ x0 x1 x2, Kept c x0 → Kept c (cordRate x0 x1 x2) := by
  intros
  unfold cordRate
  repeat' (with_reducible first
    | assumption
    | intro _
    | (rename _ = (_, _) => hq; first | (refine kept_fst_cut (c := c) hq ?_ ?_ <;> [clear hq; (clear hq; intro hr)]) | clear hq)
    | (extract_lets +onlyGivenNames xl; first | (refine kept_cut (c := c) (s := xl) ?_ ?_ <;> [subst xl; (intro hx; clear_value xl)]) | (refine keptP_cut (c := c) (p := xl) ?_ ?_ <;> [subst xl; (intro hx; clear_value xl)]) | subst xl)
    | apply kept_setLane | apply kept_presetCord | apply kept_put | apply kept_ite | apply keptP_ite | apply keptP_mk
    | apply kept_foldl | apply keptP_foldl
    | split
    | apply kept_mk | apply queueOk_of | apply freshOk_of | apply freshOk_add | apply regsOk_of | apply mgcOk_of | apply fabOk_of | apply storeOk_of | apply cfgOk_of | apply dramsOk_of)

theorem kept_execCordRateWrite {c : Keep} : ∀ x0 x1 x2, Kept c x2 → KeptR c (execCordRateWrite x0 x1 x2) := by
  intros
  unfold execCordRateWrite
  repeat' (with_reducible first
    | assumption
    | intro _
    | apply kept_cordRate | apply keptR_ite | apply keptR_next | apply kept_ite
    | split)

theorem kept_retrain {c : Keep} : ∀ x0 x1, Kept c x0 → Kept c (retrain x0 x1) := by
  intros
  unfold retrain
  repeat' (with_reducible first
    | assumption
    | intro _
    | (extract_lets +onlyGivenNames xl; first | (refine kept_cut (c := c) (s := xl) ?_ ?_ <;> [subst xl; (intro hx; clear_value xl)]) | (refine keptP_cut (c := c) (p := xl) ?_ ?_ <;> [subst xl; (intro hx; clear_value xl)]) | subst xl)
    | apply kept_idleEnds | apply kept_txClear | apply kept_rxAbort | apply kept_newSequence | apply kept_kwrFollow | apply kept_startAttempt | apply kept_put | apply kept_ite
    | split)

theorem kept_execLaneRetrain {c : Keep} : ∀ x0 x1, Kept c x1 → KeptR c (execLaneRetrain x0 x1) := by
  intros
  unfold execLaneRetrain
  repeat' (with_reducible first
    | assumption
    | intro _
    | apply kept_retrain | apply keptR_ite | apply keptR_next | apply kept_ite
    | split)

theorem kept_laneSliceAbandon {c : Keep} : ∀ x0 x1, Kept c x0 → Kept c (laneSliceAbandon x0 x1) := by
  intros
  unfold laneSliceAbandon
  repeat' (with_reducible first
    | assumption
    | intro _
    | apply kept_pllUpdate | apply kept_sliceEnd | apply kept_ite
    | split
    | apply kept_mk | apply queueOk_of | apply freshOk_of | apply freshOk_add | apply regsOk_of | apply mgcOk_of | apply fabOk_of | apply storeOk_of | apply cfgOk_of | apply dramsOk_of)

theorem kept_cordMap {c : Keep} : ∀ x0 x1 x2, Kept c x0 → Kept c (cordMap x0 x1 x2) := by
  intros
  unfold cordMap
  repeat' (with_reducible first
    | assumption
    | intro _
    | (rename _ = (_, _) => hq; first | (refine kept_fst_cut (c := c) hq ?_ ?_ <;> [clear hq; (clear hq; intro hr)]) | clear hq)
    | (extract_lets +onlyGivenNames xl; first | (refine kept_cut (c := c) (s := xl) ?_ ?_ <;> [subst xl; (intro hx; clear_value xl)]) | (refine keptP_cut (c := c) (p := xl) ?_ ?_ <;> [subst xl; (intro hx; clear_value xl)]) | subst xl)
    | apply kept_laneSliceAbandon | apply kept_put | apply kept_setLane | apply kept_retrain | apply kept_ite | apply keptP_ite | apply keptP_mk
    | apply kept_foldl | apply keptP_foldl
    | split
    | apply kept_mk | apply queueOk_of | apply freshOk_of | apply freshOk_add | apply regsOk_of | apply mgcOk_of | apply fabOk_of | apply storeOk_of | apply cfgOk_of | apply dramsOk_of)

theorem kept_showPhys {c : Keep} : ∀ x0, Kept c x0 → Kept c (showPhys x0) := by
  intros
  unfold showPhys
  repeat' (with_reducible first
    | assumption
    | intro _
    | (rename _ = (_, _) => hq; first | (refine kept_fst_cut (c := c) hq ?_ ?_ <;> [clear hq; (clear hq; intro hr)]) | clear hq)
    | (extract_lets +onlyGivenNames xl; first | (refine kept_cut (c := c) (s := xl) ?_ ?_ <;> [subst xl; (intro hx; clear_value xl)]) | (refine keptP_cut (c := c) (p := xl) ?_ ?_ <;> [subst xl; (intro hx; clear_value xl)]) | subst xl)
    | apply kept_put | apply kept_ite | apply keptP_ite | apply keptP_mk
    | apply kept_foldl | apply keptP_foldl
    | split)

theorem kept_execCordMapWrite {c : Keep} : ∀ x0 x1 x2, Kept c x2 → KeptR c (execCordMapWrite x0 x1 x2) := by
  intros
  unfold execCordMapWrite
  repeat' (with_reducible first
    | assumption
    | intro _
    | apply kept_cordMap | apply keptR_ite | apply keptR_next | apply kept_ite
    | split)

theorem kept_pulseSeals {c : Keep} : ∀ x0 x1, Kept c x0 → Kept c (pulseSeals x0 x1) := by
  intros
  unfold pulseSeals
  repeat' (with_reducible first
    | assumption
    | intro _
    | (extract_lets +onlyGivenNames xl; first | (refine kept_cut (c := c) (s := xl) ?_ ?_ <;> [subst xl; (intro hx; clear_value xl)]) | (refine keptP_cut (c := c) (p := xl) ?_ ?_ <;> [subst xl; (intro hx; clear_value xl)]) | subst xl)
    | apply kept_unsealSide | apply kept_sealSide | apply kept_updateSeals | apply kept_ite
    | split)

theorem kept_laneModeWrite {c : Keep} : ∀ x0 x1 x2, Kept c x0 → Kept c (laneModeWrite x0 x1 x2) := by
  intros
  unfold laneModeWrite
  repeat' (with_reducible first
    | assumption
    | intro _
    | (extract_lets +onlyGivenNames xl; first | (refine kept_cut (c := c) (s := xl) ?_ ?_ <;> [subst xl; (intro hx; clear_value xl)]) | (refine keptP_cut (c := c) (p := xl) ?_ ?_ <;> [subst xl; (intro hx; clear_value xl)]) | subst xl)
    | apply kept_laneSliceAbandon | apply kept_linkOff | apply kept_pulseSeals | apply kept_put | apply kept_updateSeals | apply kept_pllUpdate | apply kept_kwrFollow | apply kept_laneKick | apply kept_ite
    | split)

theorem kept_execLaneModeWrite {c : Keep} : ∀ x0 x1 x2, Kept c x2 → KeptR c (execLaneModeWrite x0 x1 x2) := by
  intros
  unfold execLaneModeWrite
  repeat' (with_reducible first
    | assumption
    | intro _
    | apply kept_laneModeWrite | apply keptR_ite | apply keptR_next | apply kept_ite
    | split)

theorem kept_emitNative {c : Keep} : ∀ x0 x1 x2, Kept c x0 → Kept c (emitNative x0 x1 x2) := by
  intros
  unfold emitNative
  repeat' (with_reducible first
    | assumption
    | intro _
    | (extract_lets +onlyGivenNames xl; first | (refine kept_cut (c := c) (s := xl) ?_ ?_ <;> [subst xl; (intro hx; clear_value xl)]) | (refine keptP_cut (c := c) (p := xl) ?_ ?_ <;> [subst xl; (intro hx; clear_value xl)]) | subst xl)
    | apply kept_emitBlocks | apply kept_setLane | apply kept_ite
    | split
    | apply kept_mk | apply queueOk_of | apply freshOk_of | apply freshOk_add | apply regsOk_of | apply mgcOk_of | apply fabOk_of | apply storeOk_of | apply cfgOk_of | apply dramsOk_of)

theorem kept_idleHold {c : Keep} : ∀ x0 x1, Kept c x0 → Kept c (idleHold x0 x1) := by
  intros
  unfold idleHold
  repeat' (with_reducible first
    | assumption
    | intro _
    | (extract_lets +onlyGivenNames xl; first | (refine kept_cut (c := c) (s := xl) ?_ ?_ <;> [subst xl; (intro hx; clear_value xl)]) | (refine keptP_cut (c := c) (p := xl) ?_ ?_ <;> [subst xl; (intro hx; clear_value xl)]) | subst xl)
    | apply kept_emitNative | apply kept_emitBlocks | apply kept_setLane | apply kept_put | apply kept_ite
    | split
    | apply kept_mk | apply queueOk_of | apply freshOk_of | apply freshOk_add | apply regsOk_of | apply mgcOk_of | apply fabOk_of | apply storeOk_of | apply cfgOk_of | apply dramsOk_of)

theorem kept_txWake {c : Keep} : ∀ x0 x1, Kept c x0 → Kept c (txWake x0 x1) := by
  intros
  unfold txWake
  repeat' (with_reducible first
    | assumption
    | intro _
    | apply kept_setLane | apply kept_put | apply kept_ite
    | split
    | apply kept_mk | apply queueOk_of | apply freshOk_of | apply freshOk_add | apply regsOk_of | apply mgcOk_of | apply fabOk_of | apply storeOk_of | apply cfgOk_of | apply dramsOk_of)

theorem kept_autowake {c : Keep} : ∀ x0 x1, Kept c x0 → Kept c (autowake x0 x1) := by
  intros
  unfold autowake
  repeat' (with_reducible first
    | assumption
    | intro _
    | apply kept_txWake | apply kept_put | apply kept_ite
    | split)

theorem kept_leaveBanked {c : Keep} : ∀ x0 x1, Kept c x0 → Kept c (leaveBanked x0 x1) := by
  intros
  unfold leaveBanked
  repeat' (with_reducible first
    | assumption
    | intro _
    | apply kept_laneKick | apply kept_updateSeals | apply kept_put | apply kept_ite
    | split)

theorem kept_laneActive {c : Keep} : ∀ x0 x1, Kept c x0 → Kept c (laneActive x0 x1) := by
  intros
  unfold laneActive
  repeat' (with_reducible first
    | assumption
    | intro _
    | (extract_lets +onlyGivenNames xl; first | (refine kept_cut (c := c) (s := xl) ?_ ?_ <;> [subst xl; (intro hx; clear_value xl)]) | (refine keptP_cut (c := c) (p := xl) ?_ ?_ <;> [subst xl; (intro hx; clear_value xl)]) | subst xl)
    | apply kept_put | apply kept_leaveBanked | apply kept_txWake | apply kept_ite
    | split)

theorem kept_execLaneSetActive {c : Keep} : ∀ x0 x1, Kept c x1 → KeptR c (execLaneSetActive x0 x1) := by
  intros
  unfold execLaneSetActive
  repeat' (with_reducible first
    | assumption
    | intro _
    | apply kept_laneActive | apply kept_setCommanded | apply kept_fresh | apply keptR_ite | apply keptR_next | apply kept_ite
    | split)

theorem kept_laneIdleHold {c : Keep} : ∀ x0 x1, Kept c x0 → Kept c (laneIdleHold x0 x1) := by
  intros
  unfold laneIdleHold
  repeat' (with_reducible first
    | assumption
    | intro _
    | (extract_lets +onlyGivenNames xl; first | (refine kept_cut (c := c) (s := xl) ?_ ?_ <;> [subst xl; (intro hx; clear_value xl)]) | (refine keptP_cut (c := c) (p := xl) ?_ ?_ <;> [subst xl; (intro hx; clear_value xl)]) | subst xl)
    | apply kept_put | apply kept_autowake | apply kept_idleHold | apply kept_leaveBanked | apply kept_ite
    | split)

theorem kept_execLaneSetIdleHold {c : Keep} : ∀ x0 x1, Kept c x1 → KeptR c (execLaneSetIdleHold x0 x1) := by
  intros
  unfold execLaneSetIdleHold
  repeat' (with_reducible first
    | assumption
    | intro _
    | apply kept_laneIdleHold | apply kept_setCommanded | apply kept_fresh | apply keptR_ite | apply keptR_next | apply kept_ite
    | split)

theorem kept_laneGoBanked {c : Keep} : ∀ x0 x1, Kept c x0 → Kept c (laneGoBanked x0 x1) := by
  intros
  unfold laneGoBanked
  repeat' (with_reducible first
    | assumption
    | intro _
    | (extract_lets +onlyGivenNames xl; first | (refine kept_cut (c := c) (s := xl) ?_ ?_ <;> [subst xl; (intro hx; clear_value xl)]) | (refine keptP_cut (c := c) (p := xl) ?_ ?_ <;> [subst xl; (intro hx; clear_value xl)]) | subst xl)
    | apply kept_put | apply kept_updateSeals | apply kept_linkOff | apply kept_setLane | apply kept_pllUpdate | apply kept_ite
    | split
    | apply kept_mk | apply queueOk_of | apply freshOk_of | apply freshOk_add | apply regsOk_of | apply mgcOk_of | apply fabOk_of | apply storeOk_of | apply cfgOk_of | apply dramsOk_of)

theorem kept_laneBanked {c : Keep} : ∀ x0 x1, Kept c x0 → Kept c (laneBanked x0 x1) := by
  intros
  unfold laneBanked
  repeat' (with_reducible first
    | assumption
    | intro _
    | apply kept_laneGoBanked | apply kept_put | apply kept_ite
    | split)

theorem kept_execLaneSetBanked {c : Keep} : ∀ x0 x1, Kept c x1 → KeptR c (execLaneSetBanked x0 x1) := by
  intros
  unfold execLaneSetBanked
  repeat' (with_reducible first
    | assumption
    | intro _
    | apply kept_laneBanked | apply kept_setCommanded | apply kept_fresh | apply keptR_ite | apply keptR_next | apply kept_ite
    | split)

theorem kept_execLaneCntClear {c : Keep} : ∀ x0 x1, Kept c x1 → KeptR c (execLaneCntClear x0 x1) := by
  intros
  unfold execLaneCntClear
  repeat' (with_reducible first
    | assumption
    | intro _
    | apply kept_setWord | apply keptR_ite | apply keptR_next | apply kept_ite
    | split)

theorem kept_signalDetected {c : Keep} : ∀ x0 x1, Kept c x0 → Kept c (signalDetected x0 x1) := by
  intros
  unfold signalDetected
  repeat' (with_reducible first
    | assumption
    | intro _
    | (extract_lets +onlyGivenNames xl; first | (refine kept_cut (c := c) (s := xl) ?_ ?_ <;> [subst xl; (intro hx; clear_value xl)]) | (refine keptP_cut (c := c) (p := xl) ?_ ?_ <;> [subst xl; (intro hx; clear_value xl)]) | subst xl)
    | apply kept_setLane | apply kept_put | apply kept_ite
    | split
    | apply kept_mk | apply queueOk_of | apply freshOk_of | apply freshOk_add | apply regsOk_of | apply mgcOk_of | apply fabOk_of | apply storeOk_of | apply cfgOk_of | apply dramsOk_of)

theorem kept_execSignalDetected {c : Keep} : ∀ x0 x1, Kept c x1 → KeptR c (execSignalDetected x0 x1) := by
  intros
  unfold execSignalDetected
  repeat' (with_reducible first
    | assumption
    | intro _
    | apply kept_signalDetected | apply keptR_ite | apply keptR_next | apply kept_ite
    | split)

theorem kept_lockLostAttempt {c : Keep} : ∀ x0 x1, Kept c x0 → Kept c (lockLostAttempt x0 x1) := by
  intros
  unfold lockLostAttempt
  repeat' (with_reducible first
    | assumption
    | intro _
    | apply kept_attemptClear | apply kept_ite
    | split)

theorem kept_signalLost {c : Keep} : ∀ x0 x1, Kept c x0 → Kept c (signalLost x0 x1) := by
  intros
  unfold signalLost
  repeat' (with_reducible first
    | assumption
    | intro _
    | (extract_lets +onlyGivenNames xl; first | (refine kept_cut (c := c) (s := xl) ?_ ?_ <;> [subst xl; (intro hx; clear_value xl)]) | (refine keptP_cut (c := c) (p := xl) ?_ ?_ <;> [subst xl; (intro hx; clear_value xl)]) | subst xl)
    | apply kept_setLane | apply kept_linkDown | apply kept_lockLostAttempt | apply kept_put | apply kept_ite
    | split
    | apply kept_mk | apply queueOk_of | apply freshOk_of | apply freshOk_add | apply regsOk_of | apply mgcOk_of | apply fabOk_of | apply storeOk_of | apply cfgOk_of | apply dramsOk_of)

theorem kept_execSignalLost {c : Keep} : ∀ x0 x1, Kept c x1 → KeptR c (execSignalLost x0 x1) := by
  intros
  unfold execSignalLost
  repeat' (with_reducible first
    | assumption
    | intro _
    | apply kept_signalLost | apply keptR_ite | apply keptR_next | apply kept_ite
    | split)

theorem kept_slipOne {c : Keep} : ∀ x0 x1, Kept c x0 → Kept c (slipOne x0 x1) := by
  intros
  unfold slipOne
  repeat' (with_reducible first
    | assumption
    | intro _
    | apply kept_setLane | apply kept_ite
    | split
    | apply kept_mk | apply queueOk_of | apply freshOk_of | apply freshOk_add | apply regsOk_of | apply mgcOk_of | apply fabOk_of | apply storeOk_of | apply cfgOk_of | apply dramsOk_of)

theorem kept_invalidHeader {c : Keep} : ∀ x0 x1 x2, Kept c x0 → Kept c (invalidHeader x0 x1 x2) := by
  intros
  unfold invalidHeader
  repeat' (with_reducible first
    | assumption
    | intro _
    | (extract_lets +onlyGivenNames xl; first | (refine kept_cut (c := c) (s := xl) ?_ ?_ <;> [subst xl; (intro hx; clear_value xl)]) | (refine keptP_cut (c := c) (p := xl) ?_ ?_ <;> [subst xl; (intro hx; clear_value xl)]) | subst xl)
    | apply kept_slipOne | apply kept_put | apply kept_bump | apply kept_setLane | apply kept_linkDown | apply kept_lockLostAttempt | apply kept_ite
    | split
    | apply kept_mk | apply queueOk_of | apply freshOk_of | apply freshOk_add | apply regsOk_of | apply mgcOk_of | apply fabOk_of | apply storeOk_of | apply cfgOk_of | apply dramsOk_of)

theorem kept_execAlignInvalidHeader {c : Keep} : ∀ x0 x1 x2, Kept c x2 → KeptR c (execAlignInvalidHeader x0 x1 x2) := by
  intros
  unfold execAlignInvalidHeader
  repeat' (with_reducible first
    | assumption
    | intro _
    | apply kept_invalidHeader | apply keptR_ite | apply keptR_next | apply kept_ite
    | split)

theorem kept_huntDone {c : Keep} : ∀ x0 x1, Kept c x0 → Kept c (huntDone x0 x1) := by
  intros
  unfold huntDone
  repeat' (with_reducible first
    | assumption
    | intro _
    | apply kept_adapt | apply kept_put | apply kept_ite
    | split)

theorem kept_execAlignHuntDone {c : Keep} : ∀ x0 x1, Kept c x1 → KeptR c (execAlignHuntDone x0 x1) := by
  intros
  unfold execAlignHuntDone
  repeat' (with_reducible first
    | assumption
    | intro _
    | apply kept_huntDone | apply keptR_ite | apply keptR_next | apply kept_ite
    | split)

theorem kept_alignLocked {c : Keep} : ∀ x0 x1, Kept c x0 → Kept c (alignLocked x0 x1) := by
  intros
  unfold alignLocked
  repeat' (with_reducible first
    | assumption
    | intro _
    | (extract_lets +onlyGivenNames xl; first | (refine kept_cut (c := c) (s := xl) ?_ ?_ <;> [subst xl; (intro hx; clear_value xl)]) | (refine keptP_cut (c := c) (p := xl) ?_ ?_ <;> [subst xl; (intro hx; clear_value xl)]) | subst xl)
    | apply kept_adapt | apply kept_setLane | apply kept_put | apply kept_startAttempt | apply kept_ite
    | split
    | apply kept_mk | apply queueOk_of | apply freshOk_of | apply freshOk_add | apply regsOk_of | apply mgcOk_of | apply fabOk_of | apply storeOk_of | apply cfgOk_of | apply dramsOk_of)

theorem kept_execAlignLocked {c : Keep} : ∀ x0 x1, Kept c x1 → KeptR c (execAlignLocked x0 x1) := by
  intros
  unfold execAlignLocked
  repeat' (with_reducible first
    | assumption
    | intro _
    | apply kept_alignLocked | apply keptR_ite | apply keptR_next | apply kept_ite
    | split)

theorem kept_adaptFreeze {c : Keep} : ∀ x0 x1, Kept c x0 → Kept c (adaptFreeze x0 x1) := by
  intros
  unfold adaptFreeze
  repeat' (with_reducible first
    | assumption
    | intro _
    | apply kept_showFrozen | apply kept_setLane | apply kept_ite
    | split
    | apply kept_mk | apply queueOk_of | apply freshOk_of | apply freshOk_add | apply regsOk_of | apply mgcOk_of | apply fabOk_of | apply storeOk_of | apply cfgOk_of | apply dramsOk_of)

theorem kept_adaptResume {c : Keep} : ∀ x0 x1, Kept c x0 → Kept c (adaptResume x0 x1) := by
  intros
  unfold adaptResume
  repeat' (with_reducible first
    | assumption
    | intro _
    | apply kept_showFrozen | apply kept_setLane | apply kept_ite
    | split
    | apply kept_mk | apply queueOk_of | apply freshOk_of | apply freshOk_add | apply regsOk_of | apply mgcOk_of | apply fabOk_of | apply storeOk_of | apply cfgOk_of | apply dramsOk_of)

theorem kept_execAdaptFreeze {c : Keep} : ∀ x0 x1, Kept c x1 → KeptR c (execAdaptFreeze x0 x1) := by
  intros
  unfold execAdaptFreeze
  repeat' (with_reducible first
    | assumption
    | intro _
    | apply kept_adaptFreeze | apply keptR_ite | apply keptR_next | apply kept_ite
    | split)

theorem kept_execAdaptResume {c : Keep} : ∀ x0 x1, Kept c x1 → KeptR c (execAdaptResume x0 x1) := by
  intros
  unfold execAdaptResume
  repeat' (with_reducible first
    | assumption
    | intro _
    | apply kept_adaptResume | apply keptR_ite | apply keptR_next | apply kept_ite
    | split)

theorem kept_fromLine {c : Keep} : ∀ x0 x1 x2 x3, Kept c x0 → (∀ s, Kept c s → Kept c (x3 s)) → Kept c (fromLine x0 x1 x2 x3) := by
  intro x0 x1 x2 x3 h0 hf
  unfold fromLine
  repeat' (with_reducible first
    | assumption
    | intro _
    | (extract_lets +onlyGivenNames xl; first | (refine kept_cut (c := c) (s := xl) ?_ ?_ <;> [subst xl; (intro hx; clear_value xl)]) | (refine keptP_cut (c := c) (p := xl) ?_ ?_ <;> [subst xl; (intro hx; clear_value xl)]) | subst xl)
    | apply hf | apply kept_fresh | apply kept_setLane | apply kept_emitBlocks | apply kept_ite
    | split
    | apply kept_mk | apply queueOk_of | apply freshOk_of | apply freshOk_add | apply regsOk_of | apply mgcOk_of | apply fabOk_of | apply storeOk_of | apply cfgOk_of | apply dramsOk_of)

theorem kept_rxAlien {c : Keep} : ∀ x0 x1, Kept c x0 → Kept c (rxAlien x0 x1) := by
  intros
  unfold rxAlien
  repeat' (with_reducible first
    | assumption
    | intro _
    | apply kept_blockError | apply kept_ite
    | split)

theorem kept_rxIdle {c : Keep} : ∀ x0 x1, Kept c x0 → Kept c (rxIdle x0 x1) := by
  intros
  unfold rxIdle
  repeat' (with_reducible first
    | assumption
    | intro _
    | apply kept_adapt | apply kept_rxAlien | apply kept_ite
    | split)

theorem kept_execRxIdleBlock {c : Keep} : ∀ x0 x1, Kept c x1 → KeptR c (execRxIdleBlock x0 x1) := by
  intros
  unfold execRxIdleBlock
  repeat' (with_reducible first
    | assumption
    | intro _
    | apply kept_fromLine | apply kept_rxIdle | apply keptR_ite | apply keptR_next | apply kept_ite
    | split)

theorem kept_rxStart {c : Keep} : ∀ x0 x1, Kept c x0 → Kept c (rxStart x0 x1) := by
  intros
  unfold rxStart
  repeat' (with_reducible first
    | assumption
    | intro _
    | (extract_lets +onlyGivenNames xl; first | (refine kept_cut (c := c) (s := xl) ?_ ?_ <;> [subst xl; (intro hx; clear_value xl)]) | (refine keptP_cut (c := c) (p := xl) ?_ ?_ <;> [subst xl; (intro hx; clear_value xl)]) | subst xl)
    | apply kept_adapt | apply kept_rxBegin | apply kept_rxAbort | apply kept_rxAlien | apply kept_ite
    | split)

theorem kept_execRxStartBlock {c : Keep} : ∀ x0 x1, Kept c x1 → KeptR c (execRxStartBlock x0 x1) := by
  intros
  unfold execRxStartBlock
  repeat' (with_reducible first
    | assumption
    | intro _
    | apply kept_fromLine | apply kept_rxStart | apply keptR_ite | apply keptR_next | apply kept_ite
    | split)

theorem kept_rxData {c : Keep} : ∀ x0 x1 x2, Kept c x0 → Kept c (rxData x0 x1 x2) := by
  intros
  unfold rxData
  repeat' (with_reducible first
    | assumption
    | intro _
    | (rename _ = (_, _) => hq; first | (refine kept_fst_cut (c := c) hq ?_ ?_ <;> [clear hq; (clear hq; intro hr)]) | clear hq)
    | (extract_lets +onlyGivenNames xl; first | (refine kept_cut (c := c) (s := xl) ?_ ?_ <;> [subst xl; (intro hx; clear_value xl)]) | (refine keptP_cut (c := c) (p := xl) ?_ ?_ <;> [subst xl; (intro hx; clear_value xl)]) | subst xl)
    | apply kept_adapt | apply kept_rxWrite | apply kept_setLane | apply kept_blockError | apply kept_ite | apply keptP_ite | apply keptP_mk
    | apply kept_foldl | apply keptP_foldl
    | split
    | apply kept_mk | apply queueOk_of | apply freshOk_of | apply freshOk_add | apply regsOk_of | apply mgcOk_of | apply fabOk_of | apply storeOk_of | apply cfgOk_of | apply dramsOk_of)

theorem kept_execRxDataBlock {c : Keep} : ∀ x0 x1 x2, Kept c x2 → KeptR c (execRxDataBlock x0 x1 x2) := by
  intros
  unfold execRxDataBlock
  repeat' (with_reducible first
    | assumption
    | intro _
    | apply kept_fromLine | apply kept_rxData | apply keptR_ite | apply keptR_next | apply kept_ite
    | split)

theorem kept_rxEnd {c : Keep} : ∀ x0 x1 x2, Kept c x0 → Kept c (rxEnd x0 x1 x2) := by
  intros
  unfold rxEnd
  repeat' (with_reducible first
    | assumption
    | intro _
    | (extract_lets +onlyGivenNames xl; first | (refine kept_cut (c := c) (s := xl) ?_ ?_ <;> [subst xl; (intro hx; clear_value xl)]) | (refine keptP_cut (c := c) (p := xl) ?_ ?_ <;> [subst xl; (intro hx; clear_value xl)]) | subst xl)
    | apply kept_adapt | apply kept_blockError | apply kept_rxClear | apply kept_rxFinish | apply kept_bump | apply kept_rxAlien | apply kept_ite
    | split)

theorem kept_execRxEndBlock {c : Keep} : ∀ x0 x1 x2, Kept c x2 → KeptR c (execRxEndBlock x0 x1 x2) := by
  intros
  unfold execRxEndBlock
  repeat' (with_reducible first
    | assumption
    | intro _
    | apply kept_fromLine | apply kept_rxEnd | apply keptR_ite | apply keptR_next | apply kept_ite
    | split)

theorem kept_trainReady {c : Keep} : ∀ x0 x1, Kept c x0 → Kept c (trainReady x0 x1) := by
  intros
  unfold trainReady
  repeat' (with_reducible first
    | assumption
    | intro _
    | (extract_lets +onlyGivenNames xl; first | (refine kept_cut (c := c) (s := xl) ?_ ?_ <;> [subst xl; (intro hx; clear_value xl)]) | (refine keptP_cut (c := c) (p := xl) ?_ ?_ <;> [subst xl; (intro hx; clear_value xl)]) | subst xl)
    | apply kept_setLane | apply kept_ready | apply kept_ite
    | split
    | apply kept_mk | apply queueOk_of | apply freshOk_of | apply freshOk_add | apply regsOk_of | apply mgcOk_of | apply fabOk_of | apply storeOk_of | apply cfgOk_of | apply dramsOk_of)

theorem kept_rxTrain {c : Keep} : ∀ x0 x1 x2, Kept c x0 → Kept c (rxTrain x0 x1 x2) := by
  intros
  unfold rxTrain
  repeat' (with_reducible first
    | assumption
    | intro _
    | (extract_lets +onlyGivenNames xl; first | (refine kept_cut (c := c) (s := xl) ?_ ?_ <;> [subst xl; (intro hx; clear_value xl)]) | (refine keptP_cut (c := c) (p := xl) ?_ ?_ <;> [subst xl; (intro hx; clear_value xl)]) | subst xl)
    | apply kept_adapt | apply kept_blockError | apply kept_linkDown | apply kept_put | apply kept_setLane | apply kept_trainReady | apply kept_raise | apply kept_ite
    | split
    | apply kept_mk | apply queueOk_of | apply freshOk_of | apply freshOk_add | apply regsOk_of | apply mgcOk_of | apply fabOk_of | apply storeOk_of | apply cfgOk_of | apply dramsOk_of)

theorem kept_execRxTrainBlock {c : Keep} : ∀ x0 x1 x2, Kept c x2 → KeptR c (execRxTrainBlock x0 x1 x2) := by
  intros
  unfold execRxTrainBlock
  repeat' (with_reducible first
    | assumption
    | intro _
    | apply kept_fromLine | apply kept_rxTrain | apply keptR_ite | apply keptR_next | apply kept_ite
    | split)

theorem kept_rxHold {c : Keep} : ∀ x0 x1, Kept c x0 → Kept c (rxHold x0 x1) := by
  intros
  unfold rxHold
  repeat' (with_reducible first
    | assumption
    | intro _
    | apply kept_showFrozen | apply kept_rxAbort | apply kept_adapt | apply kept_put | apply kept_ite
    | split)

theorem kept_execRxHoldBlock {c : Keep} : ∀ x0 x1, Kept c x1 → KeptR c (execRxHoldBlock x0 x1) := by
  intros
  unfold execRxHoldBlock
  repeat' (with_reducible first
    | assumption
    | intro _
    | apply kept_fromLine | apply kept_rxHold | apply keptR_ite | apply keptR_next | apply kept_ite
    | split)

theorem kept_rxInvalid {c : Keep} : ∀ x0 x1, Kept c x0 → Kept c (rxInvalid x0 x1) := by
  intros
  unfold rxInvalid
  repeat' (with_reducible first
    | assumption
    | intro _
    | apply kept_blockError | apply kept_ite
    | split)

theorem kept_execRxInvalidBlock {c : Keep} : ∀ x0 x1 x2, Kept c x2 → KeptR c (execRxInvalidBlock x0 x1 x2) := by
  intros
  unfold execRxInvalidBlock
  repeat' (with_reducible first
    | assumption
    | intro _
    | apply kept_fromLine | apply kept_rxInvalid | apply keptR_ite | apply keptR_next | apply kept_ite
    | split)

theorem kept_holdExit {c : Keep} : ∀ x0 x1, Kept c x0 → Kept c (holdExit x0 x1) := by
  intros
  unfold holdExit
  repeat' (with_reducible first
    | assumption
    | intro _
    | apply kept_showFrozen | apply kept_put | apply kept_ite
    | split)

theorem kept_execRxHoldExit {c : Keep} : ∀ x0 x1, Kept c x1 → KeptR c (execRxHoldExit x0 x1) := by
  intros
  unfold execRxHoldExit
  repeat' (with_reducible first
    | assumption
    | intro _
    | apply kept_holdExit | apply keptR_ite | apply keptR_next | apply kept_ite
    | split)

theorem kept_holdTimeout {c : Keep} : ∀ x0 x1, Kept c x0 → Kept c (holdTimeout x0 x1) := by
  intros
  unfold holdTimeout
  repeat' (with_reducible first
    | assumption
    | intro _
    | apply kept_linkDown | apply kept_lockLostAttempt | apply kept_showFrozen | apply kept_put | apply kept_ite
    | split)

theorem kept_execRxHoldTimeout {c : Keep} : ∀ x0 x1, Kept c x1 → KeptR c (execRxHoldTimeout x0 x1) := by
  intros
  unfold execRxHoldTimeout
  repeat' (with_reducible first
    | assumption
    | intro _
    | apply kept_holdTimeout | apply keptR_ite | apply keptR_next | apply kept_ite
    | split)

theorem kept_trainAdaptDone {c : Keep} : ∀ x0 x1, Kept c x0 → Kept c (trainAdaptDone x0 x1) := by
  intros
  unfold trainAdaptDone
  repeat' (with_reducible first
    | assumption
    | intro _
    | (extract_lets +onlyGivenNames xl; first | (refine kept_cut (c := c) (s := xl) ?_ ?_ <;> [subst xl; (intro hx; clear_value xl)]) | (refine keptP_cut (c := c) (p := xl) ?_ ?_ <;> [subst xl; (intro hx; clear_value xl)]) | subst xl)
    | apply kept_adapt | apply kept_trainReady | apply kept_setLane | apply kept_ite
    | split
    | apply kept_mk | apply queueOk_of | apply freshOk_of | apply freshOk_add | apply regsOk_of | apply mgcOk_of | apply fabOk_of | apply storeOk_of | apply cfgOk_of | apply dramsOk_of)

theorem kept_execTrainAdaptDone {c : Keep} : ∀ x0 x1, Kept c x1 → KeptR c (execTrainAdaptDone x0 x1) := by
  intros
  unfold execTrainAdaptDone
  repeat' (with_reducible first
    | assumption
    | intro _
    | apply kept_trainAdaptDone | apply keptR_ite | apply keptR_next | apply kept_ite
    | split)

theorem kept_trainSuccess {c : Keep} : ∀ x0 x1 x2, Kept c x0 → Kept c (trainSuccess x0 x1 x2) := by
  intros
  unfold trainSuccess
  repeat' (with_reducible first
    | assumption
    | intro _
    | (extract_lets +onlyGivenNames xl; first | (refine kept_cut (c := c) (s := xl) ?_ ?_ <;> [subst xl; (intro hx; clear_value xl)]) | (refine keptP_cut (c := c) (p := xl) ?_ ?_ <;> [subst xl; (intro hx; clear_value xl)]) | subst xl)
    | apply kept_put | apply kept_setLane | apply kept_setLink | apply kept_emitNative | apply kept_setKwr | apply kept_kwrFollow | apply kept_autowake | apply kept_idleHold | apply kept_ite
    | split
    | apply kept_mk | apply queueOk_of | apply freshOk_of | apply freshOk_add | apply regsOk_of | apply mgcOk_of | apply fabOk_of | apply storeOk_of | apply cfgOk_of | apply dramsOk_of)

theorem kept_execTrainSuccess {c : Keep} : ∀ x0 x1 x2, Kept c x2 → KeptR c (execTrainSuccess x0 x1 x2) := by
  intros
  unfold execTrainSuccess
  repeat' (with_reducible first
    | assumption
    | intro _
    | apply kept_trainSuccess | apply kept_kwrFresh | apply keptR_ite | apply keptR_next | apply kept_ite
    | split)

theorem kept_trainTimeout {c : Keep} : ∀ x0 x1, Kept c x0 → Kept c (trainTimeout x0 x1) := by
  intros
  unfold trainTimeout
  repeat' (with_reducible first
    | assumption
    | intro _
    | (extract_lets +onlyGivenNames xl; first | (refine kept_cut (c := c) (s := xl) ?_ ?_ <;> [subst xl; (intro hx; clear_value xl)]) | (refine keptP_cut (c := c) (p := xl) ?_ ?_ <;> [subst xl; (intro hx; clear_value xl)]) | subst xl)
    | apply kept_bump | apply kept_setLink | apply kept_put | apply kept_raise | apply kept_setLane | apply kept_ite
    | split
    | apply kept_mk | apply queueOk_of | apply freshOk_of | apply freshOk_add | apply regsOk_of | apply mgcOk_of | apply fabOk_of | apply storeOk_of | apply cfgOk_of | apply dramsOk_of)

theorem kept_execTrainTimeout {c : Keep} : ∀ x0 x1, Kept c x1 → KeptR c (execTrainTimeout x0 x1) := by
  intros
  unfold execTrainTimeout
  repeat' (with_reducible first
    | assumption
    | intro _
    | apply kept_trainTimeout | apply keptR_ite | apply keptR_next | apply kept_ite
    | split)

theorem kept_backoffElapsed {c : Keep} : ∀ x0 x1, Kept c x0 → Kept c (backoffElapsed x0 x1) := by
  intros
  unfold backoffElapsed
  repeat' (with_reducible first
    | assumption
    | intro _
    | (extract_lets +onlyGivenNames xl; first | (refine kept_cut (c := c) (s := xl) ?_ ?_ <;> [subst xl; (intro hx; clear_value xl)]) | (refine keptP_cut (c := c) (p := xl) ?_ ?_ <;> [subst xl; (intro hx; clear_value xl)]) | subst xl)
    | apply kept_setLane | apply kept_startAttempt | apply kept_ite
    | split
    | apply kept_mk | apply queueOk_of | apply freshOk_of | apply freshOk_add | apply regsOk_of | apply mgcOk_of | apply fabOk_of | apply storeOk_of | apply cfgOk_of | apply dramsOk_of)

theorem kept_execBackoffElapsed {c : Keep} : ∀ x0 x1, Kept c x1 → KeptR c (execBackoffElapsed x0 x1) := by
  intros
  unfold execBackoffElapsed
  repeat' (with_reducible first
    | assumption
    | intro _
    | apply kept_backoffElapsed | apply keptR_ite | apply keptR_next | apply kept_ite
    | split)

theorem kept_ethHiBer {c : Keep} : ∀ x0 x1 x2, Kept c x0 → Kept c (ethHiBer x0 x1 x2) := by
  intros
  unfold ethHiBer
  repeat' (with_reducible first
    | assumption
    | intro _
    | (extract_lets +onlyGivenNames xl; first | (refine kept_cut (c := c) (s := xl) ?_ ?_ <;> [subst xl; (intro hx; clear_value xl)]) | (refine keptP_cut (c := c) (p := xl) ?_ ?_ <;> [subst xl; (intro hx; clear_value xl)]) | subst xl)
    | apply kept_setLane | apply kept_linkDown | apply kept_ite
    | split
    | apply kept_mk | apply queueOk_of | apply freshOk_of | apply freshOk_add | apply regsOk_of | apply mgcOk_of | apply fabOk_of | apply storeOk_of | apply cfgOk_of | apply dramsOk_of)

theorem kept_execEthHiBer {c : Keep} : ∀ x0 x1 x2, Kept c x2 → KeptR c (execEthHiBer x0 x1 x2) := by
  intros
  unfold execEthHiBer
  repeat' (with_reducible first
    | assumption
    | intro _
    | apply kept_ethHiBer | apply keptR_ite | apply keptR_next | apply kept_ite
    | split)

theorem kept_ethEnd {c : Keep} : ∀ x0 x1, Kept c x0 → Kept c (ethEnd x0 x1) := by
  intros
  unfold ethEnd
  repeat' (with_reducible first
    | assumption
    | intro _
    | (extract_lets +onlyGivenNames xl; first | (refine kept_cut (c := c) (s := xl) ?_ ?_ <;> [subst xl; (intro hx; clear_value xl)]) | (refine keptP_cut (c := c) (p := xl) ?_ ?_ <;> [subst xl; (intro hx; clear_value xl)]) | subst xl)
    | apply kept_rxClear | apply kept_rxFinish | apply kept_bump | apply kept_ite
    | split)

theorem kept_ethOctet {c : Keep} : ∀ x0 x1 x2, Kept c x0 → Kept c (ethOctet x0 x1 x2) := by
  intros
  unfold ethOctet
  repeat' (with_reducible first
    | assumption
    | intro _
    | (rename _ = (_, _) => hq; first | (refine kept_fst_cut (c := c) hq ?_ ?_ <;> [clear hq; (clear hq; intro hr)]) | clear hq)
    | (extract_lets +onlyGivenNames xl; first | (refine kept_cut (c := c) (s := xl) ?_ ?_ <;> [subst xl; (intro hx; clear_value xl)]) | (refine keptP_cut (c := c) (p := xl) ?_ ?_ <;> [subst xl; (intro hx; clear_value xl)]) | subst xl)
    | apply kept_rxClear | apply kept_bump | apply kept_setLane | apply kept_ethEnd | apply kept_rxWrite | apply kept_ite | apply keptP_ite | apply keptP_mk
    | apply kept_foldl | apply keptP_foldl
    | split
    | apply kept_mk | apply queueOk_of | apply freshOk_of | apply freshOk_add | apply regsOk_of | apply mgcOk_of | apply fabOk_of | apply storeOk_of | apply cfgOk_of | apply dramsOk_of)

theorem kept_ethBad {c : Keep} : ∀ x0 x1, Kept c x0 → Kept c (ethBad x0 x1) := by
  intros
  unfold ethBad
  repeat' (with_reducible first
    | assumption
    | intro _
    | apply kept_setLane | apply kept_ite
    | split
    | apply kept_mk | apply queueOk_of | apply freshOk_of | apply freshOk_add | apply regsOk_of | apply mgcOk_of | apply fabOk_of | apply storeOk_of | apply cfgOk_of | apply dramsOk_of)

theorem kept_ethChar {c : Keep} : ∀ x0 x1 x2, Kept c x0 → Kept c (ethChar x0 x1 x2) := by
  intros
  unfold ethChar
  repeat' (with_reducible first
    | assumption
    | intro _
    | (extract_lets +onlyGivenNames xl; first | (refine kept_cut (c := c) (s := xl) ?_ ?_ <;> [subst xl; (intro hx; clear_value xl)]) | (refine keptP_cut (c := c) (p := xl) ?_ ?_ <;> [subst xl; (intro hx; clear_value xl)]) | subst xl)
    | apply kept_setLane | apply kept_ethOctet | apply kept_rxBegin | apply kept_ethEnd | apply kept_ethBad | apply kept_rxClear | apply kept_bump | apply kept_ite
    | split
    | apply kept_mk | apply queueOk_of | apply freshOk_of | apply freshOk_add | apply regsOk_of | apply mgcOk_of | apply fabOk_of | apply storeOk_of | apply cfgOk_of | apply dramsOk_of)

theorem kept_ethBlock {c : Keep} : ∀ x0 x1 x2, Kept c x0 → Kept c (ethBlock x0 x1 x2) := by
  intros
  unfold ethBlock
  repeat' (with_reducible first
    | assumption
    | intro _
    | (rename _ = (_, _) => hq; first | (refine kept_fst_cut (c := c) hq ?_ ?_ <;> [clear hq; (clear hq; intro hr)]) | clear hq)
    | (extract_lets +onlyGivenNames xl; first | (refine kept_cut (c := c) (s := xl) ?_ ?_ <;> [subst xl; (intro hx; clear_value xl)]) | (refine keptP_cut (c := c) (p := xl) ?_ ?_ <;> [subst xl; (intro hx; clear_value xl)]) | subst xl)
    | apply kept_adapt | apply kept_ethChar | apply kept_setLane | apply kept_ite | apply keptP_ite | apply keptP_mk
    | apply kept_foldl | apply keptP_foldl
    | split
    | apply kept_mk | apply queueOk_of | apply freshOk_of | apply freshOk_add | apply regsOk_of | apply mgcOk_of | apply fabOk_of | apply storeOk_of | apply cfgOk_of | apply dramsOk_of)

theorem kept_execEthRxBlock {c : Keep} : ∀ x0 x1 x2, Kept c x2 → KeptR c (execEthRxBlock x0 x1 x2) := by
  intros
  unfold execEthRxBlock
  repeat' (with_reducible first
    | assumption
    | intro _
    | apply kept_fromLine | apply kept_rxPayOwed | apply kept_ethBlock | apply keptR_ite | apply keptR_next | apply kept_ite
    | split)

theorem kept_txWord {c : Keep} : ∀ x0 x1 x2 x3 x4, Kept c x0 → Kept c (txWord x0 x1 x2 x3 x4) := by
  intros
  unfold txWord
  repeat' (with_reducible first
    | assumption
    | intro _
    | (extract_lets +onlyGivenNames xl; first | (refine kept_cut (c := c) (s := xl) ?_ ?_ <;> [subst xl; (intro hx; clear_value xl)]) | (refine keptP_cut (c := c) (p := xl) ?_ ?_ <;> [subst xl; (intro hx; clear_value xl)]) | subst xl)
    | apply kept_txClear | apply kept_emitNative | apply kept_setLane | apply kept_ite
    | split
    | apply kept_mk | apply queueOk_of | apply freshOk_of | apply freshOk_add | apply regsOk_of | apply mgcOk_of | apply fabOk_of | apply storeOk_of | apply cfgOk_of | apply dramsOk_of)

theorem kept_txDropped {c : Keep} : ∀ x0 x1 x2, Kept c x0 → Kept c (txDropped x0 x1 x2) := by
  intros
  unfold txDropped
  repeat' (with_reducible first
    | assumption
    | intro _
    | apply kept_setLane | apply kept_ite
    | split
    | apply kept_mk | apply queueOk_of | apply freshOk_of | apply freshOk_add | apply regsOk_of | apply mgcOk_of | apply fabOk_of | apply storeOk_of | apply cfgOk_of | apply dramsOk_of)

theorem kept_nativeTx {c : Keep} : ∀ x0 x1 x2, Kept c x0 → Kept c (nativeTx x0 x1 x2) := by
  intros
  unfold nativeTx
  repeat' (with_reducible first
    | assumption
    | intro _
    | (extract_lets +onlyGivenNames xl; first | (refine kept_cut (c := c) (s := xl) ?_ ?_ <;> [subst xl; (intro hx; clear_value xl)]) | (refine keptP_cut (c := c) (p := xl) ?_ ?_ <;> [subst xl; (intro hx; clear_value xl)]) | subst xl)
    | apply kept_txDropped | apply kept_idleHold | apply kept_txWord | apply kept_bump | apply kept_setLane | apply kept_ite
    | split
    | apply kept_mk | apply queueOk_of | apply freshOk_of | apply freshOk_add | apply regsOk_of | apply mgcOk_of | apply fabOk_of | apply storeOk_of | apply cfgOk_of | apply dramsOk_of)

theorem kept_ethPush {c : Keep} : ∀ x0 x1 x2, Kept c x0 → Kept c (ethPush x0 x1 x2) := by
  intros
  unfold ethPush
  repeat' (with_reducible first
    | assumption
    | intro _
    | (extract_lets +onlyGivenNames xl; first | (refine kept_cut (c := c) (s := xl) ?_ ?_ <;> [subst xl; (intro hx; clear_value xl)]) | (refine keptP_cut (c := c) (p := xl) ?_ ?_ <;> [subst xl; (intro hx; clear_value xl)]) | subst xl)
    | apply kept_emitBlocks | apply kept_setLane | apply kept_ite
    | split
    | apply kept_mk | apply queueOk_of | apply freshOk_of | apply freshOk_add | apply regsOk_of | apply mgcOk_of | apply fabOk_of | apply storeOk_of | apply cfgOk_of | apply dramsOk_of)

theorem kept_ethTail {c : Keep} : ∀ x0 x1 x2, Kept c x0 → Kept c (ethTail x0 x1 x2) := by
  intros
  unfold ethTail
  repeat' (with_reducible first
    | assumption
    | intro _
    | (extract_lets +onlyGivenNames xl; first | (refine kept_cut (c := c) (s := xl) ?_ ?_ <;> [subst xl; (intro hx; clear_value xl)]) | (refine keptP_cut (c := c) (p := xl) ?_ ?_ <;> [subst xl; (intro hx; clear_value xl)]) | subst xl)
    | apply kept_ethPush | apply kept_setLane | apply kept_ite
    | split
    | apply kept_mk | apply queueOk_of | apply freshOk_of | apply freshOk_add | apply regsOk_of | apply mgcOk_of | apply fabOk_of | apply storeOk_of | apply cfgOk_of | apply dramsOk_of)

theorem kept_ethIdle {c : Keep} : ∀ x0 x1, Kept c x0 → Kept c (ethIdle x0 x1) := by
  intros
  unfold ethIdle
  repeat' (with_reducible first
    | assumption
    | intro _
    | apply kept_ethPush | apply kept_ite
    | split
    | apply kept_mk | apply queueOk_of | apply freshOk_of | apply freshOk_add | apply regsOk_of | apply mgcOk_of | apply fabOk_of | apply storeOk_of | apply cfgOk_of | apply dramsOk_of)

theorem kept_ethTx {c : Keep} : ∀ x0 x1 x2, Kept c x0 → Kept c (ethTx x0 x1 x2) := by
  intros
  unfold ethTx
  repeat' (with_reducible first
    | assumption
    | intro _
    | (extract_lets +onlyGivenNames xl; first | (refine kept_cut (c := c) (s := xl) ?_ ?_ <;> [subst xl; (intro hx; clear_value xl)]) | (refine keptP_cut (c := c) (p := xl) ?_ ?_ <;> [subst xl; (intro hx; clear_value xl)]) | subst xl)
    | apply kept_txDropped | apply kept_ethPush | apply kept_setLane | apply kept_ethTail | apply kept_ite
    | split
    | apply kept_mk | apply queueOk_of | apply freshOk_of | apply freshOk_add | apply regsOk_of | apply mgcOk_of | apply fabOk_of | apply storeOk_of | apply cfgOk_of | apply dramsOk_of)

theorem kept_ethEmpty {c : Keep} : ∀ x0 x1, Kept c x0 → Kept c (ethEmpty x0 x1) := by
  intros
  unfold ethEmpty
  repeat' (with_reducible first
    | assumption
    | intro _
    | (extract_lets +onlyGivenNames xl; first | (refine kept_cut (c := c) (s := xl) ?_ ?_ <;> [subst xl; (intro hx; clear_value xl)]) | (refine keptP_cut (c := c) (p := xl) ?_ ?_ <;> [subst xl; (intro hx; clear_value xl)]) | subst xl)
    | apply kept_ethTail | apply kept_bump | apply kept_setLane | apply kept_ethIdle | apply kept_ite
    | split
    | apply kept_mk | apply queueOk_of | apply freshOk_of | apply freshOk_add | apply regsOk_of | apply mgcOk_of | apply fabOk_of | apply storeOk_of | apply cfgOk_of | apply dramsOk_of)

theorem kept_trainTx {c : Keep} : ∀ x0 x1, Kept c x0 → Kept c (trainTx x0 x1) := by
  intros
  unfold trainTx
  repeat' (with_reducible first
    | assumption
    | intro _
    | (rename _ = (_, _) => hq; first | (refine kept_fst_cut (c := c) hq ?_ ?_ <;> [clear hq; (clear hq; intro hr)]) | clear hq)
    | (extract_lets +onlyGivenNames xl; first | (refine kept_cut (c := c) (s := xl) ?_ ?_ <;> [subst xl; (intro hx; clear_value xl)]) | (refine keptP_cut (c := c) (p := xl) ?_ ?_ <;> [subst xl; (intro hx; clear_value xl)]) | subst xl)
    | (apply kept_fst; first | assumption | apply kept_fifoPop)
    | apply kept_fifoPop | apply kept_txDropped | apply kept_ethIdle | apply kept_emitBlocks | apply kept_setLane | apply kept_ite | apply keptP_ite | apply keptP_mk
    | split
    | apply kept_mk | apply queueOk_of | apply freshOk_of | apply freshOk_add | apply regsOk_of | apply mgcOk_of | apply fabOk_of | apply storeOk_of | apply cfgOk_of | apply dramsOk_of)

theorem kept_ringIdle {c : Keep} : ∀ x0 x1, Kept c x0 → Kept c (ringIdle x0 x1) := by
  intros
  unfold ringIdle
  repeat' (with_reducible first
    | assumption
    | intro _
    | apply kept_kwrNow1 | apply kept_emitBlocks | apply kept_ite
    | split)

theorem kept_laneSend {c : Keep} : ∀ x0 x1, Kept c x0 → Kept c (laneSend x0 x1) := by
  intros
  unfold laneSend
  repeat' (with_reducible first
    | assumption
    | intro _
    | (rename _ = (_, _) => hq; first | (refine kept_fst_cut (c := c) hq ?_ ?_ <;> [clear hq; (clear hq; intro hr)]) | clear hq)
    | (extract_lets +onlyGivenNames xl; first | (refine kept_cut (c := c) (s := xl) ?_ ?_ <;> [subst xl; (intro hx; clear_value xl)]) | (refine keptP_cut (c := c) (p := xl) ?_ ?_ <;> [subst xl; (intro hx; clear_value xl)]) | subst xl)
    | (apply kept_fst; first | assumption | apply kept_fifoPop)
    | apply kept_kwrFresh | apply kept_trainTx | apply kept_fifoPop | apply kept_nativeTx | apply kept_emitNative | apply kept_ethIdle | apply kept_ethTx | apply kept_ethEmpty | apply kept_ringIdle | apply kept_ite | apply keptP_ite | apply keptP_mk
    | split
    | apply kept_mk | apply queueOk_of | apply freshOk_of | apply freshOk_add | apply regsOk_of | apply mgcOk_of | apply fabOk_of | apply storeOk_of | apply cfgOk_of | apply dramsOk_of)

end Sys2Proof.Machine
end

