-- ==== Sys2Proof/Laws/KeptKwr.lean ====
section
/-! SUPPORT. What every operation of Machine/Kwr.lean keeps (Laws/Kept.lean). -/
set_option linter.unusedTactic false
set_option linter.unreachableTactic false
namespace Sys2Proof.Machine
open Sys2Proof

theorem kept_kwrRpl {c : Keep} : ∀ x0 x1, Kept c x0 → Kept c (kwrRpl x0 x1) := by
  intros
  unfold kwrRpl
  repeat' (with_reducible first
    | assumption
    | intro _
    | (extract_lets +onlyGivenNames xl; first | (refine kept_cut (c := c) (s := xl) ?_ ?_ <;> [subst xl; (intro hx; clear_value xl)]) | (refine keptP_cut (c := c) (p := xl) ?_ ?_ <;> [subst xl; (intro hx; clear_value xl)]) | subst xl)
    | apply kept_put | apply kept_ite
    | split)

theorem kept_sendAck {c : Keep} : ∀ x0 x1 x2, Kept c x0 → Kept c (sendAck x0 x1 x2) := by
  intros
  unfold sendAck
  repeat' (with_reducible first
    | assumption
    | intro _
    | (extract_lets +onlyGivenNames xl; first | (refine kept_cut (c := c) (s := xl) ?_ ?_ <;> [subst xl; (intro hx; clear_value xl)]) | (refine keptP_cut (c := c) (p := xl) ?_ ?_ <;> [subst xl; (intro hx; clear_value xl)]) | subst xl)
    | apply kept_kwrNow1 | apply kept_setKwr | apply kept_ite
    | split
    | apply kept_mk | apply queueOk_of | apply freshOk_of | apply freshOk_add | apply regsOk_of | apply mgcOk_of | apply fabOk_of | apply storeOk_of | apply cfgOk_of | apply dramsOk_of)

theorem kept_countMissed {c : Keep} : ∀ x0 x1, Kept c x0 → Kept c (countMissed x0 x1) := by
  intros
  unfold countMissed
  repeat' (with_reducible first
    | assumption
    | intro _
    | apply kept_offerEvent | apply kept_bump | apply kept_ite
    | split)

theorem kept_kwrLatch {c : Keep} : ∀ x0 x1, Kept c x0 → Kept c (kwrLatch x0 x1) := by
  intros
  unfold kwrLatch
  repeat' (with_reducible first
    | assumption
    | intro _
    | (extract_lets +onlyGivenNames xl; first | (refine kept_cut (c := c) (s := xl) ?_ ?_ <;> [subst xl; (intro hx; clear_value xl)]) | (refine keptP_cut (c := c) (p := xl) ?_ ?_ <;> [subst xl; (intro hx; clear_value xl)]) | subst xl)
    | apply kept_setKwr | apply kept_fresh | apply kept_bump | apply kept_ite
    | split
    | apply kept_mk | apply queueOk_of | apply freshOk_of | apply freshOk_add | apply regsOk_of | apply mgcOk_of | apply fabOk_of | apply storeOk_of | apply cfgOk_of | apply dramsOk_of)

theorem kept_extractWrite {c : Keep} : ∀ x0 x1, Kept c x0 → Kept c (extractWrite x0 x1) := by
  intros
  unfold extractWrite
  repeat' (with_reducible first
    | assumption
    | intro _
    | (extract_lets +onlyGivenNames xl; first | (refine kept_cut (c := c) (s := xl) ?_ ?_ <;> [subst xl; (intro hx; clear_value xl)]) | (refine keptP_cut (c := c) (p := xl) ?_ ?_ <;> [subst xl; (intro hx; clear_value xl)]) | subst xl)
    | apply kept_setKwr | apply kept_rxClear | apply kept_rxFinish | apply kept_rxBegin | apply kept_ite
    | split
    | apply kept_mk | apply queueOk_of | apply freshOk_of | apply freshOk_add | apply regsOk_of | apply mgcOk_of | apply fabOk_of | apply storeOk_of | apply cfgOk_of | apply dramsOk_of)

theorem kept_extractWords {c : Keep} : ∀ x0 x1 x2 x3, Kept c x0 → Kept c (extractWords x0 x1 x2 x3) := by
  intros
  unfold extractWords
  repeat' (with_reducible first
    | assumption
    | intro _
    | (extract_lets +onlyGivenNames xl; first | (refine kept_cut (c := c) (s := xl) ?_ ?_ <;> [subst xl; (intro hx; clear_value xl)]) | (refine keptP_cut (c := c) (p := xl) ?_ ?_ <;> [subst xl; (intro hx; clear_value xl)]) | subst xl)
    | apply kept_setKwr | apply kept_extractWrite | apply kept_ite
    | split
    | apply kept_mk | apply queueOk_of | apply freshOk_of | apply freshOk_add | apply regsOk_of | apply mgcOk_of | apply fabOk_of | apply storeOk_of | apply cfgOk_of | apply dramsOk_of)

theorem kept_frameStart {c : Keep} : ∀ x0 x1, Kept c x0 → Kept c (frameStart x0 x1) := by
  intros
  unfold frameStart
  repeat' (with_reducible first
    | assumption
    | intro _
    | apply kept_setKwr | apply kept_ite
    | split
    | apply kept_mk | apply queueOk_of | apply freshOk_of | apply freshOk_add | apply regsOk_of | apply mgcOk_of | apply fabOk_of | apply storeOk_of | apply cfgOk_of | apply dramsOk_of)

theorem kept_readPacket {c : Keep} : ∀ x0 x1 x2, Kept c x1 → Kept c (readPacket x0 x1 x2) := by
  intro x0
  induction x0 with
  | zero =>
    intros
    unfold readPacket
    first | assumption | exact keptP_mk (by assumption)
  | succ n ih =>
    intros
    unfold readPacket
    repeat' (with_reducible first
      | assumption
      | intro _
      | (rename _ = (_, _) => hq; first | (refine kept_fst_cut (c := c) hq ?_ ?_ <;> [clear hq; (clear hq; intro hr)]) | clear hq)
      | (extract_lets +onlyGivenNames xl; first | (refine kept_cut (c := c) (s := xl) ?_ ?_ <;> [subst xl; (intro hx; clear_value xl)]) | (refine keptP_cut (c := c) (p := xl) ?_ ?_ <;> [subst xl; (intro hx; clear_value xl)]) | subst xl)
      | (apply kept_fst; first | assumption | apply kept_fifoPop)
      | apply ih | apply kept_fifoPop | apply kept_setKwr | apply kept_bump | apply kept_fresh | apply kept_ite | apply keptP_ite | apply keptP_mk
      | split
      | apply kept_mk | apply queueOk_of | apply freshOk_of | apply freshOk_add | apply regsOk_of | apply mgcOk_of | apply fabOk_of | apply storeOk_of | apply cfgOk_of | apply dramsOk_of)

theorem kept_execKwrInsertPacket {c : Keep} : ∀ x0 x1, Kept c x1 → KeptR c (execKwrInsertPacket x0 x1) := by
  intros
  unfold execKwrInsertPacket
  repeat' (with_reducible first
    | assumption
    | intro _
    | apply kept_readPacket | apply keptR_ite | apply keptR_next | apply kept_ite
    | split)

theorem kept_sendSuper {c : Keep} : ∀ x0 x1 x2, Kept c x0 → Kept c (sendSuper x0 x1 x2) := by
  intros
  unfold sendSuper
  repeat' (with_reducible first
    | assumption
    | intro _
    | (extract_lets +onlyGivenNames xl; first | (refine kept_cut (c := c) (s := xl) ?_ ?_ <;> [subst xl; (intro hx; clear_value xl)]) | (refine keptP_cut (c := c) (p := xl) ?_ ?_ <;> [subst xl; (intro hx; clear_value xl)]) | subst xl)
    | apply kept_kwrNow1 | apply kept_setKwr | apply kept_ite
    | split
    | apply kept_mk | apply queueOk_of | apply freshOk_of | apply freshOk_add | apply regsOk_of | apply mgcOk_of | apply fabOk_of | apply storeOk_of | apply cfgOk_of | apply dramsOk_of | apply framesOk_tput | apply framesOk_tdrop | exact framesOk_nil)

theorem kept_sendBlock {c : Keep} : ∀ x0 x1 x2, Kept c x0 → Kept c (sendBlock x0 x1 x2) := by
  intros
  unfold sendBlock
  repeat' (with_reducible first
    | assumption
    | intro _
    | (extract_lets +onlyGivenNames xl; first | (refine kept_cut (c := c) (s := xl) ?_ ?_ <;> [subst xl; (intro hx; clear_value xl)]) | (refine keptP_cut (c := c) (p := xl) ?_ ?_ <;> [subst xl; (intro hx; clear_value xl)]) | subst xl)
    | apply kept_sendSuper | apply kept_kwrLatch | apply kept_kwrNow1 | apply kept_setKwr | apply kept_countMissed | apply kept_ite
    | split
    | apply kept_mk | apply queueOk_of | apply freshOk_of | apply freshOk_add | apply regsOk_of | apply mgcOk_of | apply fabOk_of | apply storeOk_of | apply cfgOk_of | apply dramsOk_of | apply framesOk_tput | apply framesOk_tdrop | exact framesOk_nil)

theorem kept_pump {c : Keep} : ∀ x0 x1 x2, Kept c x1 → Kept c (pump x0 x1 x2) := by
  intro x0
  induction x0 with
  | zero =>
    intros
    unfold pump
    first | assumption | exact keptP_mk (by assumption)
  | succ n ih =>
    intros
    unfold pump
    repeat' (with_reducible first
      | assumption
      | intro _
      | apply ih | apply kept_kwrNow1 | apply kept_sendBlock | apply kept_setKwr | apply kept_ite
      | split
      | apply kept_mk | apply queueOk_of | apply freshOk_of | apply freshOk_add | apply regsOk_of | apply mgcOk_of | apply fabOk_of | apply storeOk_of | apply cfgOk_of | apply dramsOk_of)

theorem kept_kwrSend {c : Keep} : ∀ x0 x1 x2, Kept c x0 → Kept c (kwrSend x0 x1 x2) := by
  intros
  unfold kwrSend
  repeat' (with_reducible first
    | assumption
    | intro _
    | (extract_lets +onlyGivenNames xl; first | (refine kept_cut (c := c) (s := xl) ?_ ?_ <;> [subst xl; (intro hx; clear_value xl)]) | (refine keptP_cut (c := c) (p := xl) ?_ ?_ <;> [subst xl; (intro hx; clear_value xl)]) | subst xl)
    | apply kept_kwrRpl | apply kept_pump | apply kept_setKwr | apply kept_ite
    | split
    | apply kept_mk | apply queueOk_of | apply freshOk_of | apply freshOk_add | apply regsOk_of | apply mgcOk_of | apply fabOk_of | apply storeOk_of | apply cfgOk_of | apply dramsOk_of)

theorem kept_frameBegin {c : Keep} : ∀ x0 x1 x2, Kept c x0 → Kept c (frameBegin x0 x1 x2) := by
  intros
  unfold frameBegin
  repeat' (with_reducible first
    | assumption
    | intro _
    | (extract_lets +onlyGivenNames xl; first | (refine kept_cut (c := c) (s := xl) ?_ ?_ <;> [subst xl; (intro hx; clear_value xl)]) | (refine keptP_cut (c := c) (p := xl) ?_ ?_ <;> [subst xl; (intro hx; clear_value xl)]) | subst xl)
    | apply kept_kwrLatch | apply kept_setKwr | apply kept_countMissed | apply kept_wordWrite | apply kept_offerEvent | apply kept_kwrSend | apply kept_ite
    | split
    | apply kept_mk | apply queueOk_of | apply freshOk_of | apply freshOk_add | apply regsOk_of | apply mgcOk_of | apply fabOk_of | apply storeOk_of | apply cfgOk_of | apply dramsOk_of)

theorem kept_frameDue {c : Keep} : ∀ x0 x1 x2, Kept c x1 → Kept c (frameDue x0 x1 x2) := by
  intro x0
  induction x0 with
  | zero =>
    intros
    unfold frameDue
    first | assumption | exact keptP_mk (by assumption)
  | succ n ih =>
    intros
    unfold frameDue
    repeat' (with_reducible first
      | assumption
      | intro _
      | (extract_lets +onlyGivenNames xl; first | (refine kept_cut (c := c) (s := xl) ?_ ?_ <;> [subst xl; (intro hx; clear_value xl)]) | (refine keptP_cut (c := c) (p := xl) ?_ ?_ <;> [subst xl; (intro hx; clear_value xl)]) | subst xl)
      | apply ih | apply kept_frameBegin | apply kept_setKwr | apply kept_ite
      | split
      | apply kept_mk | apply queueOk_of | apply freshOk_of | apply freshOk_add | apply regsOk_of | apply mgcOk_of | apply fabOk_of | apply storeOk_of | apply cfgOk_of | apply dramsOk_of)

theorem kept_cycleBoundary {c : Keep} : ∀ x0 x1, Kept c x0 → Kept c (cycleBoundary x0 x1) := by
  intros
  unfold cycleBoundary
  repeat' (with_reducible first
    | assumption
    | intro _
    | (extract_lets +onlyGivenNames xl; first | (refine kept_cut (c := c) (s := xl) ?_ ?_ <;> [subst xl; (intro hx; clear_value xl)]) | (refine keptP_cut (c := c) (p := xl) ?_ ?_ <;> [subst xl; (intro hx; clear_value xl)]) | subst xl)
    | apply kept_kwrFresh | apply kept_setKwr | apply kept_frameBegin | apply kept_ite
    | split
    | apply kept_mk | apply queueOk_of | apply freshOk_of | apply freshOk_add | apply regsOk_of | apply mgcOk_of | apply fabOk_of | apply storeOk_of | apply cfgOk_of | apply dramsOk_of)

theorem kept_execKwrCycleBoundary {c : Keep} : ∀ x0 x1, Kept c x1 → KeptR c (execKwrCycleBoundary x0 x1) := by
  intros
  unfold execKwrCycleBoundary
  repeat' (with_reducible first
    | assumption
    | intro _
    | apply kept_cycleBoundary | apply keptR_ite | apply keptR_next | apply kept_ite
    | split)

theorem kept_ringLane {c : Keep} : ∀ x0 x1 x2, Kept c x0 → Kept c (ringLane x0 x1 x2) := by
  intros
  unfold ringLane
  repeat' (with_reducible first
    | assumption
    | intro _
    | (extract_lets +onlyGivenNames xl; first | (refine kept_cut (c := c) (s := xl) ?_ ?_ <;> [subst xl; (intro hx; clear_value xl)]) | (refine keptP_cut (c := c) (p := xl) ?_ ?_ <;> [subst xl; (intro hx; clear_value xl)]) | subst xl)
    | apply kept_adapt | apply kept_setLane | apply kept_emitBlocks | apply kept_ite
    | split
    | apply kept_mk | apply queueOk_of | apply freshOk_of | apply freshOk_add | apply regsOk_of | apply mgcOk_of | apply fabOk_of | apply storeOk_of | apply cfgOk_of | apply dramsOk_of)

theorem kept_fromRing {c : Keep} : ∀ x0 x1 x2 x3, Kept c x0 → (∀ s, Kept c s → Kept c (x3 s)) → Kept c (fromRing x0 x1 x2 x3) := by
  intro x0 x1 x2 x3 h0 hf
  unfold fromRing
  repeat' (with_reducible first
    | assumption
    | intro _
    | (rename _ = (_, _) => hq; first | (refine kept_fst_cut (c := c) hq ?_ ?_ <;> [clear hq; (clear hq; intro hr)]) | clear hq)
    | (extract_lets +onlyGivenNames xl; first | (refine kept_cut (c := c) (s := xl) ?_ ?_ <;> [subst xl; (intro hx; clear_value xl)]) | (refine keptP_cut (c := c) (p := xl) ?_ ?_ <;> [subst xl; (intro hx; clear_value xl)]) | subst xl)
    | apply hf | apply kept_kwrFresh | apply kept_ringLane | apply kept_ite | apply keptP_ite | apply keptP_mk
    | apply kept_foldl | apply keptP_foldl
    | split)

theorem kept_fromControl {c : Keep} : ∀ x0 x1 x2 x3, Kept c x0 → (∀ s, Kept c s → Kept c (x3 s)) → Kept c (fromControl x0 x1 x2 x3) := by
  intro x0 x1 x2 x3 h0 hf
  unfold fromControl
  repeat' (with_reducible first
    | assumption
    | intro _
    | apply hf | apply kept_fromRing | apply kept_ite
    | split)

theorem kept_alarmSeen {c : Keep} : ∀ x0 x1 x2, Kept c x0 → Kept c (alarmSeen x0 x1 x2) := by
  intros
  unfold alarmSeen
  repeat' (with_reducible first
    | assumption
    | intro _
    | apply kept_offerEvent | apply kept_put | apply kept_ite
    | split)

theorem kept_kwrForward {c : Keep} : ∀ x0 x1 x2, Kept c x0 → Kept c (kwrForward x0 x1 x2) := by
  intros
  unfold kwrForward
  repeat' (with_reducible first
    | assumption
    | intro _
    | (extract_lets +onlyGivenNames xl; first | (refine kept_cut (c := c) (s := xl) ?_ ?_ <;> [subst xl; (intro hx; clear_value xl)]) | (refine keptP_cut (c := c) (p := xl) ?_ ?_ <;> [subst xl; (intro hx; clear_value xl)]) | subst xl)
    | apply kept_setKwr | apply kept_kwrSend | apply kept_ite
    | split
    | apply kept_mk | apply queueOk_of | apply freshOk_of | apply freshOk_add | apply regsOk_of | apply mgcOk_of | apply fabOk_of | apply storeOk_of | apply cfgOk_of | apply dramsOk_of)

theorem kept_headCycle {c : Keep} : ∀ x0 x1 x2 x3 x4 x5, Kept c x0 → Kept c (headCycle x0 x1 x2 x3 x4 x5) := by
  intros
  unfold headCycle
  repeat' (with_reducible first
    | assumption
    | intro _
    | (extract_lets +onlyGivenNames xl; first | (refine kept_cut (c := c) (s := xl) ?_ ?_ <;> [subst xl; (intro hx; clear_value xl)]) | (refine keptP_cut (c := c) (p := xl) ?_ ?_ <;> [subst xl; (intro hx; clear_value xl)]) | subst xl)
    | apply kept_kwrFault | apply kept_setKwr | apply kept_kwrForward | apply kept_frameStart | apply kept_put | apply kept_kwrGo | apply kept_ite
    | split
    | apply kept_mk | apply queueOk_of | apply freshOk_of | apply freshOk_add | apply regsOk_of | apply mgcOk_of | apply fabOk_of | apply storeOk_of | apply cfgOk_of | apply dramsOk_of)

theorem kept_nodeCycle {c : Keep} : ∀ x0 x1 x2 x3 x4 x5, Kept c x0 → Kept c (nodeCycle x0 x1 x2 x3 x4 x5) := by
  intros
  unfold nodeCycle
  repeat' (with_reducible first
    | assumption
    | intro _
    | (extract_lets +onlyGivenNames xl; first | (refine kept_cut (c := c) (s := xl) ?_ ?_ <;> [subst xl; (intro hx; clear_value xl)]) | (refine keptP_cut (c := c) (p := xl) ?_ ?_ <;> [subst xl; (intro hx; clear_value xl)]) | subst xl)
    | apply kept_kwrGo | apply kept_put | apply kept_setKwr | apply kept_kwrFault | apply kept_frameStart | apply kept_kwrForward | apply kept_ite
    | split
    | apply kept_mk | apply queueOk_of | apply freshOk_of | apply freshOk_add | apply regsOk_of | apply mgcOk_of | apply fabOk_of | apply storeOk_of | apply cfgOk_of | apply dramsOk_of)

theorem kept_rxCycle {c : Keep} : ∀ x0 x1 x2 x3 x4 x5, Kept c x0 → Kept c (rxCycle x0 x1 x2 x3 x4 x5) := by
  intros
  unfold rxCycle
  repeat' (with_reducible first
    | assumption
    | intro _
    | (extract_lets +onlyGivenNames xl; first | (refine kept_cut (c := c) (s := xl) ?_ ?_ <;> [subst xl; (intro hx; clear_value xl)]) | (refine keptP_cut (c := c) (p := xl) ?_ ?_ <;> [subst xl; (intro hx; clear_value xl)]) | subst xl)
    | apply kept_setKwr | apply kept_alarmSeen | apply kept_headCycle | apply kept_wordWrite | apply kept_offerEvent | apply kept_nodeCycle | apply kept_ite
    | split
    | apply kept_mk | apply queueOk_of | apply freshOk_of | apply freshOk_add | apply regsOk_of | apply mgcOk_of | apply fabOk_of | apply storeOk_of | apply cfgOk_of | apply dramsOk_of)

theorem kept_execKwrRxCycle {c : Keep} : ∀ x0 x1 x2 x3 x4 x5, Kept c x5 → KeptR c (execKwrRxCycle x0 x1 x2 x3 x4 x5) := by
  intros
  unfold execKwrRxCycle
  repeat' (with_reducible first
    | assumption
    | intro _
    | apply kept_fromControl | apply kept_rxCycle | apply keptR_ite | apply keptR_next | apply kept_ite
    | split)

theorem kept_heldActs {c : Keep} : ∀ x0 x1 x2, Kept c x0 → Kept c (heldActs x0 x1 x2) := by
  intros
  unfold heldActs
  repeat' (with_reducible first
    | assumption
    | intro _
    | apply kept_frameStart | apply kept_extractWrite | apply kept_ite
    | split)

theorem kept_releaseHeld {c : Keep} : ∀ x0 x1 x2, Kept c x1 → Kept c (releaseHeld x0 x1 x2) := by
  intro x0
  induction x0 with
  | zero =>
    intros
    unfold releaseHeld
    first | assumption | exact keptP_mk (by assumption)
  | succ n ih =>
    intros
    unfold releaseHeld
    repeat' (with_reducible first
      | assumption
      | intro _
      | (extract_lets +onlyGivenNames xl; first | (refine kept_cut (c := c) (s := xl) ?_ ?_ <;> [subst xl; (intro hx; clear_value xl)]) | (refine keptP_cut (c := c) (p := xl) ?_ ?_ <;> [subst xl; (intro hx; clear_value xl)]) | subst xl)
      | apply ih | apply kept_heldActs | apply kept_setKwr | apply kept_kwrSend | apply kept_ite
      | split
      | apply kept_mk | apply queueOk_of | apply freshOk_of | apply freshOk_add | apply regsOk_of | apply mgcOk_of | apply fabOk_of | apply storeOk_of | apply cfgOk_of | apply dramsOk_of)

theorem kept_heldRelease {c : Keep} : ∀ x0 x1, Kept c x0 → Kept c (heldRelease x0 x1) := by
  intros
  unfold heldRelease
  repeat' (with_reducible first
    | assumption
    | intro _
    | apply kept_releaseHeld | apply kept_ite
    | split)

theorem kept_rxCycleEnd {c : Keep} : ∀ x0 x1 x2 x3, Kept c x0 → Kept c (rxCycleEnd x0 x1 x2 x3) := by
  intros
  unfold rxCycleEnd
  repeat' (with_reducible first
    | assumption
    | intro _
    | (extract_lets +onlyGivenNames xl; first | (refine kept_cut (c := c) (s := xl) ?_ ?_ <;> [subst xl; (intro hx; clear_value xl)]) | (refine keptP_cut (c := c) (p := xl) ?_ ?_ <;> [subst xl; (intro hx; clear_value xl)]) | subst xl)
    | apply kept_countMissed | apply kept_extractWrite | apply kept_kwrForward | apply kept_sendAck | apply kept_heldRelease | apply kept_ite
    | split)

theorem kept_execKwrRxCycleEnd {c : Keep} : ∀ x0 x1 x2 x3, Kept c x3 → KeptR c (execKwrRxCycleEnd x0 x1 x2 x3) := by
  intros
  unfold execKwrRxCycleEnd
  repeat' (with_reducible first
    | assumption
    | intro _
    | apply kept_fromControl | apply kept_rxCycleEnd | apply keptR_ite | apply keptR_next | apply kept_ite
    | split)

theorem kept_alignCycle {c : Keep} : ∀ x0 x1 x2, Kept c x0 → Kept c (alignCycle x0 x1 x2) := by
  intros
  unfold alignCycle
  repeat' (with_reducible first
    | assumption
    | intro _
    | (extract_lets +onlyGivenNames xl; first | (refine kept_cut (c := c) (s := xl) ?_ ?_ <;> [subst xl; (intro hx; clear_value xl)]) | (refine keptP_cut (c := c) (p := xl) ?_ ?_ <;> [subst xl; (intro hx; clear_value xl)]) | subst xl)
    | apply kept_kwrAligned | apply kept_setKwr | apply kept_kwrGo | apply kept_fresh | apply kept_ite
    | split
    | apply kept_mk | apply queueOk_of | apply freshOk_of | apply freshOk_add | apply regsOk_of | apply mgcOk_of | apply fabOk_of | apply storeOk_of | apply cfgOk_of | apply dramsOk_of)

theorem kept_loopMeasure {c : Keep} : ∀ x0 x1 x2 x3, Kept c x0 → Kept c (loopMeasure x0 x1 x2 x3) := by
  intros
  unfold loopMeasure
  repeat' (with_reducible first
    | assumption
    | intro _
    | (extract_lets +onlyGivenNames xl; first | (refine kept_cut (c := c) (s := xl) ?_ ?_ <;> [subst xl; (intro hx; clear_value xl)]) | (refine keptP_cut (c := c) (p := xl) ?_ ?_ <;> [subst xl; (intro hx; clear_value xl)]) | subst xl)
    | apply kept_put | apply kept_setKwr | apply kept_raise | apply kept_ite
    | split
    | apply kept_mk | apply queueOk_of | apply freshOk_of | apply freshOk_add | apply regsOk_of | apply mgcOk_of | apply fabOk_of | apply storeOk_of | apply cfgOk_of | apply dramsOk_of)

theorem kept_rxTime {c : Keep} : ∀ x0 x1 x2 x3 x4 x5, Kept c x0 → Kept c (rxTime x0 x1 x2 x3 x4 x5) := by
  intros
  unfold rxTime
  repeat' (with_reducible first
    | assumption
    | intro _
    | (extract_lets +onlyGivenNames xl; first | (refine kept_cut (c := c) (s := xl) ?_ ?_ <;> [subst xl; (intro hx; clear_value xl)]) | (refine keptP_cut (c := c) (p := xl) ?_ ?_ <;> [subst xl; (intro hx; clear_value xl)]) | subst xl)
    | apply kept_put | apply kept_kwrForward | apply kept_setKwr | apply kept_loopMeasure | apply kept_alignCycle | apply kept_ite
    | split
    | apply kept_mk | apply queueOk_of | apply freshOk_of | apply freshOk_add | apply regsOk_of | apply mgcOk_of | apply fabOk_of | apply storeOk_of | apply cfgOk_of | apply dramsOk_of)

theorem kept_execKwrRxTime {c : Keep} : ∀ x0 x1 x2 x3 x4 x5, Kept c x5 → KeptR c (execKwrRxTime x0 x1 x2 x3 x4 x5) := by
  intros
  unfold execKwrRxTime
  repeat' (with_reducible first
    | assumption
    | intro _
    | apply kept_fromControl | apply kept_rxTime | apply keptR_ite | apply keptR_next | apply kept_ite
    | split)

theorem kept_firstTime {c : Keep} : ∀ x0 x1 x2, Kept c x0 → Kept c (firstTime x0 x1 x2) := by
  intros
  unfold firstTime
  repeat' (with_reducible first
    | assumption
    | intro _
    | (extract_lets +onlyGivenNames xl; first | (refine kept_cut (c := c) (s := xl) ?_ ?_ <;> [subst xl; (intro hx; clear_value xl)]) | (refine keptP_cut (c := c) (p := xl) ?_ ?_ <;> [subst xl; (intro hx; clear_value xl)]) | subst xl)
    | apply kept_setKwr | apply kept_timebaseStep | apply kept_put | apply kept_ite
    | split
    | apply kept_mk | apply queueOk_of | apply freshOk_of | apply freshOk_add | apply regsOk_of | apply mgcOk_of | apply fabOk_of | apply storeOk_of | apply cfgOk_of | apply dramsOk_of)

theorem kept_rxTimeHigh {c : Keep} : ∀ x0 x1 x2 x3, Kept c x0 → Kept c (rxTimeHigh x0 x1 x2 x3) := by
  intros
  unfold rxTimeHigh
  repeat' (with_reducible first
    | assumption
    | intro _
    | (extract_lets +onlyGivenNames xl; first | (refine kept_cut (c := c) (s := xl) ?_ ?_ <;> [subst xl; (intro hx; clear_value xl)]) | (refine keptP_cut (c := c) (p := xl) ?_ ?_ <;> [subst xl; (intro hx; clear_value xl)]) | subst xl)
    | apply kept_kwrForward | apply kept_firstTime | apply kept_setKwr | apply kept_ite
    | split
    | apply kept_mk | apply queueOk_of | apply freshOk_of | apply freshOk_add | apply regsOk_of | apply mgcOk_of | apply fabOk_of | apply storeOk_of | apply cfgOk_of | apply dramsOk_of)

theorem kept_execKwrRxTimeHigh {c : Keep} : ∀ x0 x1 x2 x3, Kept c x3 → KeptR c (execKwrRxTimeHigh x0 x1 x2 x3) := by
  intros
  unfold execKwrRxTimeHigh
  repeat' (with_reducible first
    | assumption
    | intro _
    | apply kept_fromControl | apply kept_rxTimeHigh | apply keptR_ite | apply keptR_next | apply kept_ite
    | split)

theorem kept_slew {c : Keep} : ∀ x0 x1, Kept c x0 → Kept c (slew x0 x1) := by
  intros
  unfold slew
  repeat' (with_reducible first
    | assumption
    | intro _
    | (extract_lets +onlyGivenNames xl; first | (refine kept_cut (c := c) (s := xl) ?_ ?_ <;> [subst xl; (intro hx; clear_value xl)]) | (refine keptP_cut (c := c) (p := xl) ?_ ?_ <;> [subst xl; (intro hx; clear_value xl)]) | subst xl)
    | apply kept_timebaseViews | apply kept_setKwr | apply kept_ite
    | split
    | apply kept_mk | apply queueOk_of | apply freshOk_of | apply freshOk_add | apply regsOk_of | apply mgcOk_of | apply fabOk_of | apply storeOk_of | apply cfgOk_of | apply dramsOk_of)

theorem kept_execKwrTimebaseSlew {c : Keep} : ∀ x0 x1, Kept c x1 → KeptR c (execKwrTimebaseSlew x0 x1) := by
  intros
  unfold execKwrTimebaseSlew
  repeat' (with_reducible first
    | assumption
    | intro _
    | apply kept_slew | apply keptR_ite | apply keptR_next | apply kept_ite
    | split)

theorem kept_goodSuper {c : Keep} : ∀ x0 x1 x2, Kept c x0 → Kept c (goodSuper x0 x1 x2) := by
  intros
  unfold goodSuper
  repeat' (with_reducible first
    | assumption
    | intro _
    | (extract_lets +onlyGivenNames xl; first | (refine kept_cut (c := c) (s := xl) ?_ ?_ <;> [subst xl; (intro hx; clear_value xl)]) | (refine keptP_cut (c := c) (p := xl) ?_ ?_ <;> [subst xl; (intro hx; clear_value xl)]) | subst xl)
    | apply kept_setKwr | apply kept_extractWords | apply kept_kwrSend | apply kept_sendAck | apply kept_heldRelease | apply kept_ite
    | split
    | apply kept_mk | apply queueOk_of | apply freshOk_of | apply freshOk_add | apply regsOk_of | apply mgcOk_of | apply fabOk_of | apply storeOk_of | apply cfgOk_of | apply dramsOk_of)

theorem kept_stompOn {c : Keep} : ∀ x0 x1 x2, Kept c x0 → Kept c (stompOn x0 x1 x2) := by
  intros
  unfold stompOn
  repeat' (with_reducible first
    | assumption
    | intro _
    | (extract_lets +onlyGivenNames xl; first | (refine kept_cut (c := c) (s := xl) ?_ ?_ <;> [subst xl; (intro hx; clear_value xl)]) | (refine keptP_cut (c := c) (p := xl) ?_ ?_ <;> [subst xl; (intro hx; clear_value xl)]) | subst xl)
    | apply kept_kwrSend | apply kept_ite
    | split)

theorem kept_passOver {c : Keep} : ∀ x0 x1 x2, Kept c x0 → Kept c (passOver x0 x1 x2) := by
  intros
  unfold passOver
  repeat' (with_reducible first
    | assumption
    | intro _
    | apply kept_setKwr | apply kept_ite
    | split
    | apply kept_mk | apply queueOk_of | apply freshOk_of | apply freshOk_add | apply regsOk_of | apply mgcOk_of | apply fabOk_of | apply storeOk_of | apply cfgOk_of | apply dramsOk_of)

theorem kept_rxSuper {c : Keep} : ∀ x0 x1 x2 x3, Kept c x0 → Kept c (rxSuper x0 x1 x2 x3) := by
  intros
  unfold rxSuper
  repeat' (with_reducible first
    | assumption
    | intro _
    | (extract_lets +onlyGivenNames xl; first | (refine kept_cut (c := c) (s := xl) ?_ ?_ <;> [subst xl; (intro hx; clear_value xl)]) | (refine keptP_cut (c := c) (p := xl) ?_ ?_ <;> [subst xl; (intro hx; clear_value xl)]) | subst xl)
    | apply kept_bump | apply kept_passOver | apply kept_stompOn | apply kept_sendAck | apply kept_setKwr | apply kept_goodSuper | apply kept_ite
    | split
    | apply kept_mk | apply queueOk_of | apply freshOk_of | apply freshOk_add | apply regsOk_of | apply mgcOk_of | apply fabOk_of | apply storeOk_of | apply cfgOk_of | apply dramsOk_of)

theorem kept_execKwrRxSuperblock {c : Keep} : ∀ x0 x1 x2 x3, Kept c x3 → KeptR c (execKwrRxSuperblock x0 x1 x2 x3) := by
  intros
  unfold execKwrRxSuperblock
  repeat' (with_reducible first
    | assumption
    | intro _
    | apply kept_fromRing | apply kept_rxSuper | apply keptR_ite | apply keptR_next | apply kept_ite
    | split)

theorem kept_rxAck {c : Keep} : ∀ x0 x1 x2 x3 x4, Kept c x0 → Kept c (rxAck x0 x1 x2 x3 x4) := by
  intros
  unfold rxAck
  repeat' (with_reducible first
    | assumption
    | intro _
    | (extract_lets +onlyGivenNames xl; first | (refine kept_cut (c := c) (s := xl) ?_ ?_ <;> [subst xl; (intro hx; clear_value xl)]) | (refine keptP_cut (c := c) (p := xl) ?_ ?_ <;> [subst xl; (intro hx; clear_value xl)]) | subst xl)
    | apply kept_setKwr | apply kept_kwrNow1 | apply kept_kwrNow | apply kept_bump | apply kept_frameDue | apply kept_kwrSend | apply kept_ite
    | split)

theorem kept_execKwrRxAck {c : Keep} : ∀ x0 x1 x2 x3 x4, Kept c x4 → KeptR c (execKwrRxAck x0 x1 x2 x3 x4) := by
  intros
  unfold execKwrRxAck
  repeat' (with_reducible first
    | assumption
    | intro _
    | apply kept_fromControl | apply kept_rxAck | apply keptR_ite | apply keptR_next | apply kept_ite
    | split)

theorem kept_rxReplay {c : Keep} : ∀ x0 x1 x2 x3, Kept c x0 → Kept c (rxReplay x0 x1 x2 x3) := by
  intros
  unfold rxReplay
  repeat' (with_reducible first
    | assumption
    | intro _
    | (extract_lets +onlyGivenNames xl; first | (refine kept_cut (c := c) (s := xl) ?_ ?_ <;> [subst xl; (intro hx; clear_value xl)]) | (refine keptP_cut (c := c) (p := xl) ?_ ?_ <;> [subst xl; (intro hx; clear_value xl)]) | subst xl)
    | apply kept_setKwr | apply kept_heldRelease | apply kept_ite
    | split
    | apply kept_mk | apply queueOk_of | apply freshOk_of | apply freshOk_add | apply regsOk_of | apply mgcOk_of | apply fabOk_of | apply storeOk_of | apply cfgOk_of | apply dramsOk_of)

theorem kept_execKwrRxReplay {c : Keep} : ∀ x0 x1 x2 x3, Kept c x3 → KeptR c (execKwrRxReplay x0 x1 x2 x3) := by
  intros
  unfold execKwrRxReplay
  repeat' (with_reducible first
    | assumption
    | intro _
    | apply kept_fromControl | apply kept_rxReplay | apply keptR_ite | apply keptR_next | apply kept_ite
    | split)

theorem kept_rxFill {c : Keep} : ∀ x0 x1 x2, Kept c x0 → Kept c (rxFill x0 x1 x2) := by
  intros
  unfold rxFill
  repeat' (with_reducible first
    | assumption
    | intro _
    | apply kept_kwrNow | apply kept_ite
    | split)

theorem kept_execKwrRxFill {c : Keep} : ∀ x0 x1 x2, Kept c x2 → KeptR c (execKwrRxFill x0 x1 x2) := by
  intros
  unfold execKwrRxFill
  repeat' (with_reducible first
    | assumption
    | intro _
    | apply kept_fromControl | apply kept_rxFill | apply keptR_ite | apply keptR_next | apply kept_ite
    | split)

theorem kept_execKwrAckTimer {c : Keep} : ∀ x0 x1, Kept c x1 → KeptR c (execKwrAckTimer x0 x1) := by
  intros
  unfold execKwrAckTimer
  repeat' (with_reducible first
    | assumption
    | intro _
    | apply kept_sendAck | apply kept_kwrFresh | apply keptR_ite | apply keptR_next | apply kept_ite
    | split)

theorem kept_retrainGroup {c : Keep} : ∀ x0 x1, Kept c x0 → Kept c (retrainGroup x0 x1) := by
  intros
  unfold retrainGroup
  repeat' (with_reducible first
    | assumption
    | intro _
    | (rename _ = (_, _) => hq; first | (refine kept_fst_cut (c := c) hq ?_ ?_ <;> [clear hq; (clear hq; intro hr)]) | clear hq)
    | (extract_lets +onlyGivenNames xl; first | (refine kept_cut (c := c) (s := xl) ?_ ?_ <;> [subst xl; (intro hx; clear_value xl)]) | (refine keptP_cut (c := c) (p := xl) ?_ ?_ <;> [subst xl; (intro hx; clear_value xl)]) | subst xl)
    | apply kept_retrain | apply kept_ite | apply keptP_ite | apply keptP_mk
    | apply kept_foldl | apply keptP_foldl
    | split)

theorem kept_hopReseat {c : Keep} : ∀ x0 x1, Kept c x0 → Kept c (hopReseat x0 x1) := by
  intros
  unfold hopReseat
  repeat' (with_reducible first
    | assumption
    | intro _
    | (extract_lets +onlyGivenNames xl; first | (refine kept_cut (c := c) (s := xl) ?_ ?_ <;> [subst xl; (intro hx; clear_value xl)]) | (refine keptP_cut (c := c) (p := xl) ?_ ?_ <;> [subst xl; (intro hx; clear_value xl)]) | subst xl)
    | apply kept_bump | apply kept_raise | apply kept_retrainGroup | apply kept_ite
    | split)

theorem kept_execKwrHopReseat {c : Keep} : ∀ x0 x1, Kept c x1 → KeptR c (execKwrHopReseat x0 x1) := by
  intros
  unfold execKwrHopReseat
  repeat' (with_reducible first
    | assumption
    | intro _
    | apply kept_hopReseat | apply keptR_ite | apply keptR_next | apply kept_ite
    | split)

theorem kept_dropReplay {c : Keep} : ∀ x0 x1, Kept c x0 → Kept c (dropReplay x0 x1) := by
  intros
  unfold dropReplay
  repeat' (with_reducible first
    | assumption
    | intro _
    | apply kept_kwrRpl | apply kept_setKwr | apply kept_ite
    | split
    | apply kept_mk | apply queueOk_of | apply freshOk_of | apply freshOk_add | apply regsOk_of | apply mgcOk_of | apply fabOk_of | apply storeOk_of | apply cfgOk_of | apply dramsOk_of | apply framesOk_tput | apply framesOk_tdrop | exact framesOk_nil)

theorem kept_bufferInvalid {c : Keep} : ∀ x0 x1, Kept c x0 → Kept c (bufferInvalid x0 x1) := by
  intros
  unfold bufferInvalid
  repeat' (with_reducible first
    | assumption
    | intro _
    | (extract_lets +onlyGivenNames xl; first | (refine kept_cut (c := c) (s := xl) ?_ ?_ <;> [subst xl; (intro hx; clear_value xl)]) | (refine keptP_cut (c := c) (p := xl) ?_ ?_ <;> [subst xl; (intro hx; clear_value xl)]) | subst xl)
    | apply kept_dropReplay | apply kept_bump | apply kept_offerEvent | apply kept_raise | apply kept_retrainGroup | apply kept_ite
    | split)

theorem kept_execKwrBufferInvalid {c : Keep} : ∀ x0 x1, Kept c x1 → KeptR c (execKwrBufferInvalid x0 x1) := by
  intros
  unfold execKwrBufferInvalid
  repeat' (with_reducible first
    | assumption
    | intro _
    | apply kept_bufferInvalid | apply keptR_ite | apply keptR_next | apply kept_ite
    | split)

theorem kept_cycleMissed {c : Keep} : ∀ x0 x1, Kept c x0 → Kept c (cycleMissed x0 x1) := by
  intros
  unfold cycleMissed
  repeat' (with_reducible first
    | assumption
    | intro _
    | (extract_lets +onlyGivenNames xl; first | (refine kept_cut (c := c) (s := xl) ?_ ?_ <;> [subst xl; (intro hx; clear_value xl)]) | (refine keptP_cut (c := c) (p := xl) ?_ ?_ <;> [subst xl; (intro hx; clear_value xl)]) | subst xl)
    | apply kept_countMissed | apply kept_setKwr | apply kept_kwrGo | apply kept_put | apply kept_ite
    | split
    | apply kept_mk | apply queueOk_of | apply freshOk_of | apply freshOk_add | apply regsOk_of | apply mgcOk_of | apply fabOk_of | apply storeOk_of | apply cfgOk_of | apply dramsOk_of)

theorem kept_execKwrCycleMissed {c : Keep} : ∀ x0 x1, Kept c x1 → KeptR c (execKwrCycleMissed x0 x1) := by
  intros
  unfold execKwrCycleMissed
  repeat' (with_reducible first
    | assumption
    | intro _
    | apply kept_cycleMissed | apply keptR_ite | apply keptR_next | apply kept_ite
    | split)

theorem kept_frameLost {c : Keep} : ∀ x0 x1, Kept c x0 → Kept c (frameLost x0 x1) := by
  intros
  unfold frameLost
  repeat' (with_reducible first
    | assumption
    | intro _
    | (extract_lets +onlyGivenNames xl; first | (refine kept_cut (c := c) (s := xl) ?_ ?_ <;> [subst xl; (intro hx; clear_value xl)]) | (refine keptP_cut (c := c) (p := xl) ?_ ?_ <;> [subst xl; (intro hx; clear_value xl)]) | subst xl)
    | apply kept_countMissed | apply kept_setKwr | apply kept_kwrGo | apply kept_ite
    | split
    | apply kept_mk | apply queueOk_of | apply freshOk_of | apply freshOk_add | apply regsOk_of | apply mgcOk_of | apply fabOk_of | apply storeOk_of | apply cfgOk_of | apply dramsOk_of)

theorem kept_execKwrFrameNotReturned {c : Keep} : ∀ x0 x1, Kept c x1 → KeptR c (execKwrFrameNotReturned x0 x1) := by
  intros
  unfold execKwrFrameNotReturned
  repeat' (with_reducible first
    | assumption
    | intro _
    | apply kept_frameLost | apply keptR_ite | apply keptR_next | apply kept_ite
    | split)

theorem kept_alarmSet {c : Keep} : ∀ x0 x1, Kept c x0 → Kept c (alarmSet x0 x1) := by
  intros
  unfold alarmSet
  repeat' (with_reducible first
    | assumption
    | intro _
    | apply kept_setKwr | apply kept_ite
    | split
    | apply kept_mk | apply queueOk_of | apply freshOk_of | apply freshOk_add | apply regsOk_of | apply mgcOk_of | apply fabOk_of | apply storeOk_of | apply cfgOk_of | apply dramsOk_of)

theorem kept_alarmClear {c : Keep} : ∀ x0 x1, Kept c x0 → Kept c (alarmClear x0 x1) := by
  intros
  unfold alarmClear
  repeat' (with_reducible first
    | assumption
    | intro _
    | apply kept_setKwr | apply kept_ite
    | split
    | apply kept_mk | apply queueOk_of | apply freshOk_of | apply freshOk_add | apply regsOk_of | apply mgcOk_of | apply fabOk_of | apply storeOk_of | apply cfgOk_of | apply dramsOk_of)

theorem kept_execKwrAlarmWrite {c : Keep} : ∀ x0 x1, Kept c x1 → KeptR c (execKwrAlarmWrite x0 x1) := by
  intros
  unfold execKwrAlarmWrite
  repeat' (with_reducible first
    | assumption
    | intro _
    | apply kept_alarmSet | apply keptR_ite | apply keptR_next | apply kept_ite
    | split)

theorem kept_execKwrAlarmClear {c : Keep} : ∀ x0 x1, Kept c x1 → KeptR c (execKwrAlarmClear x0 x1) := by
  intros
  unfold execKwrAlarmClear
  repeat' (with_reducible first
    | assumption
    | intro _
    | apply kept_alarmClear | apply keptR_ite | apply keptR_next | apply kept_ite
    | split)

theorem kept_execKwrCntClear {c : Keep} : ∀ x0 x1, Kept c x1 → KeptR c (execKwrCntClear x0 x1) := by
  intros
  unfold execKwrCntClear
  repeat' (with_reducible first
    | assumption
    | intro _
    | apply kept_setWord | apply keptR_ite | apply keptR_next | apply kept_ite
    | split)

theorem kept_rxSlot {c : Keep} : ∀ x0 x1, Kept c x0 → Kept c (rxSlot x0 x1) := by
  intros
  unfold rxSlot
  repeat' (with_reducible first
    | assumption
    | intro _
    | apply kept_kwrForward | apply kept_setKwr | apply kept_ite
    | split
    | apply kept_mk | apply queueOk_of | apply freshOk_of | apply freshOk_add | apply regsOk_of | apply mgcOk_of | apply fabOk_of | apply storeOk_of | apply cfgOk_of | apply dramsOk_of)

theorem kept_execKwrRxSlot {c : Keep} : ∀ x0 x1, Kept c x1 → KeptR c (execKwrRxSlot x0 x1) := by
  intros
  unfold execKwrRxSlot
  repeat' (with_reducible first
    | assumption
    | intro _
    | apply kept_fromControl | apply kept_rxSlot | apply keptR_ite | apply keptR_next | apply kept_ite
    | split)

theorem kept_mgmtPart {c : Keep} : ∀ x0 x1 x2, Kept c x0 → KeptP c (mgmtPart x0 x1 x2) := by
  intros
  unfold mgmtPart
  repeat' (with_reducible first
    | assumption
    | intro _
    | (extract_lets +onlyGivenNames xl; first | (refine kept_cut (c := c) (s := xl) ?_ ?_ <;> [subst xl; (intro hx; clear_value xl)]) | (refine keptP_cut (c := c) (p := xl) ?_ ?_ <;> [subst xl; (intro hx; clear_value xl)]) | subst xl)
    | apply kept_setKwr | apply kept_ite | apply keptP_ite | apply keptP_mk
    | split
    | apply kept_mk | apply queueOk_of | apply freshOk_of | apply freshOk_add | apply regsOk_of | apply mgcOk_of | apply fabOk_of | apply storeOk_of | apply cfgOk_of | apply dramsOk_of)

theorem kept_rxMgmt {c : Keep} : ∀ x0 x1 x2, Kept c x0 → KeptP c (rxMgmt x0 x1 x2) := by
  intros
  unfold rxMgmt
  repeat' (with_reducible first
    | assumption
    | intro _
    | (rename _ = (_, _) => hq; first | (refine kept_fst_cut (c := c) hq ?_ ?_ <;> [clear hq; (clear hq; intro hr)]) | clear hq)
    | (extract_lets +onlyGivenNames xl; first | (refine kept_cut (c := c) (s := xl) ?_ ?_ <;> [subst xl; (intro hx; clear_value xl)]) | (refine keptP_cut (c := c) (p := xl) ?_ ?_ <;> [subst xl; (intro hx; clear_value xl)]) | subst xl)
    | (apply kept_fst; first | assumption | apply kept_mgmtPart)
    | apply kept_mgmtPart | apply kept_kwrForward | apply kept_setKwr | apply kept_bump | apply kept_ite | apply keptP_ite | apply keptP_mk
    | split
    | apply kept_mk | apply queueOk_of | apply freshOk_of | apply freshOk_add | apply regsOk_of | apply mgcOk_of | apply fabOk_of | apply storeOk_of | apply cfgOk_of | apply dramsOk_of)

end Sys2Proof.Machine
end

