-- ==== Sys2Proof/Laws/KeptDram.lean ====
section
/-! SUPPORT. What every operation of Machine/Dram.lean keeps (Laws/Kept.lean). -/
set_option linter.unusedTactic false
set_option linter.unreachableTactic false
namespace Sys2Proof.Machine
open Sys2Proof

theorem kept_setDram {c : Keep} : ∀ x0 x1 x2, Kept c x0 → DramOk c x2 → Kept c (setDram x0 x1 x2) :=
  fun _ _ _ h hx => ⟨h.queue, h.fresh, h.regs, h.mgc, h.fab, h.store, h.cfg, dramsOk_tput h.dram hx⟩

theorem dramOk_putDouble {c : Keep} : ∀ x l j v, DramOk c x → DramOk c (putDouble x l j v) := fun _ _ _ _ h => memOk_tput h

theorem dramOk_flipBits {c : Keep} : ∀ x l fs, DramOk c x → DramOk c (flipBits x l fs) :=
  fun _ _ _ h => dramOk_foldl h fun _ _ hx => dramOk_putDouble _ _ _ _ hx

theorem dramOk_copyLine {c : Keep} : ∀ x a b k, DramOk c x → DramOk c (copyLine x a b k) :=
  fun _ _ _ _ h => dramOk_foldl h fun _ _ hx => dramOk_putDouble _ _ _ _ hx

theorem dramOk_writeLine {c : Keep} : ∀ x l r ds, DramOk c x → DramOk c (writeLine x l r ds) := by
  intro x l r ds h
  refine dramOk_foldl h fun x j hx => ?_
  dsimp only
  split
  · exact dramOk_putDouble _ _ _ _ hx
  · split
    · exact hx
    · exact dramOk_putDouble _ _ _ _ hx

theorem kept_setDramState {c : Keep} : ∀ x0 x1 x2, Kept c x0 → Kept c (setDramState x0 x1 x2) := by
  intros
  unfold setDramState
  repeat' (with_reducible first
    | assumption
    | intro _
    | apply kept_logState | apply kept_offerEvent | apply kept_put | apply kept_ite
    | split)

theorem kept_startRemap {c : Keep} : ∀ x0 x1 x2, Kept c x1 → Kept c (startRemap x0 x1 x2) := by
  intro x0
  induction x0 with
  | zero =>
    intros
    unfold startRemap
    first | assumption | exact keptP_mk (by assumption)
  | succ n ih =>
    intros
    unfold startRemap
    repeat' (with_reducible first
      | assumption
      | intro _
      | (extract_lets +onlyGivenNames xl; first | (refine kept_cut (c := c) (s := xl) ?_ ?_ <;> [subst xl; (intro hx; clear_value xl)]) | (refine keptP_cut (c := c) (p := xl) ?_ ?_ <;> [subst xl; (intro hx; clear_value xl)]) | subst xl)
      | apply ih | apply kept_setDram | apply kept_raise | apply kept_ite
      | split
      | apply kept_mk | apply queueOk_of | apply freshOk_of | apply freshOk_add | apply regsOk_of | apply mgcOk_of | apply fabOk_of | apply storeOk_of | apply cfgOk_of | apply dramsOk_of
      | exact dramOk_init | exact memOk_nil | apply dramOk_dramOf | apply memOk_of | apply memOk_ite | apply dramOk_mk)

theorem kept_addCandidate {c : Keep} : ∀ x0 x1 x2, Kept c x0 → Kept c (addCandidate x0 x1 x2) := by
  intros
  unfold addCandidate
  repeat' (with_reducible first
    | assumption
    | intro _
    | (extract_lets +onlyGivenNames xl; first | (refine kept_cut (c := c) (s := xl) ?_ ?_ <;> [subst xl; (intro hx; clear_value xl)]) | (refine keptP_cut (c := c) (p := xl) ?_ ?_ <;> [subst xl; (intro hx; clear_value xl)]) | subst xl)
    | apply kept_startRemap | apply kept_setDram | apply kept_ite
    | split
    | apply kept_mk | apply queueOk_of | apply freshOk_of | apply freshOk_add | apply regsOk_of | apply mgcOk_of | apply fabOk_of | apply storeOk_of | apply cfgOk_of | apply dramsOk_of
    | exact dramOk_init | exact memOk_nil | apply dramOk_dramOf | apply memOk_of | apply memOk_ite | apply dramOk_mk)

theorem kept_trackRow {c : Keep} : ∀ x0 x1 x2, Kept c x0 → Kept c (trackRow x0 x1 x2) := by
  intros
  unfold trackRow
  repeat' (with_reducible first
    | assumption
    | intro _
    | (extract_lets +onlyGivenNames xl; first | (refine kept_cut (c := c) (s := xl) ?_ ?_ <;> [subst xl; (intro hx; clear_value xl)]) | (refine keptP_cut (c := c) (p := xl) ?_ ?_ <;> [subst xl; (intro hx; clear_value xl)]) | subst xl)
    | apply kept_setDram | apply kept_addCandidate | apply kept_ite
    | split
    | apply kept_mk | apply queueOk_of | apply freshOk_of | apply freshOk_add | apply regsOk_of | apply mgcOk_of | apply fabOk_of | apply storeOk_of | apply cfgOk_of | apply dramsOk_of
    | exact dramOk_init | exact memOk_nil | apply dramOk_dramOf | apply memOk_of | apply memOk_ite | apply dramOk_mk)

theorem kept_countDouble {c : Keep} : ∀ x0 x1 x2 x3 x4 x5, Kept c x0 → Kept c (countDouble x0 x1 x2 x3 x4 x5) := by
  intros
  unfold countDouble
  repeat' (with_reducible first
    | assumption
    | intro _
    | (extract_lets +onlyGivenNames xl; first | (refine kept_cut (c := c) (s := xl) ?_ ?_ <;> [subst xl; (intro hx; clear_value xl)]) | (refine keptP_cut (c := c) (p := xl) ?_ ?_ <;> [subst xl; (intro hx; clear_value xl)]) | subst xl)
    | apply kept_setWord | apply kept_trackRow | apply kept_offerEvent | apply kept_bump | apply kept_addCandidate | apply kept_ite
    | split)

theorem kept_countLine {c : Keep} : ∀ x0 x1 x2 x3 x4 x5, Kept c x0 → Kept c (countLine x0 x1 x2 x3 x4 x5) := by
  intros
  unfold countLine
  repeat' (with_reducible first
    | assumption
    | intro _
    | (rename _ = (_, _) => hq; first | (refine kept_fst_cut (c := c) hq ?_ ?_ <;> [clear hq; (clear hq; intro hr)]) | clear hq)
    | (extract_lets +onlyGivenNames xl; first | (refine kept_cut (c := c) (s := xl) ?_ ?_ <;> [subst xl; (intro hx; clear_value xl)]) | (refine keptP_cut (c := c) (p := xl) ?_ ?_ <;> [subst xl; (intro hx; clear_value xl)]) | subst xl)
    | apply kept_countDouble | apply kept_raise | apply kept_offerEvent | apply kept_ite | apply keptP_ite | apply keptP_mk
    | apply kept_foldl | apply keptP_foldl
    | split)

theorem kept_writeBack {c : Keep} : ∀ x0 x1 x2 x3, Kept c x0 → Kept c (writeBack x0 x1 x2 x3) := by
  intros
  unfold writeBack
  repeat' (with_reducible first
    | assumption
    | intro _
    | (rename _ = (_, _) => hq; first | (refine kept_fst_cut (c := c) hq ?_ ?_ <;> [clear hq; (clear hq; intro hr)]) | clear hq)
    | (extract_lets +onlyGivenNames xl; first | (refine kept_cut (c := c) (s := xl) ?_ ?_ <;> [subst xl; (intro hx; clear_value xl)]) | (refine keptP_cut (c := c) (p := xl) ?_ ?_ <;> [subst xl; (intro hx; clear_value xl)]) | subst xl)
    | apply kept_setDram | apply kept_ite | apply keptP_ite | apply keptP_mk
    | apply kept_foldl | apply keptP_foldl
    | split
    | exact dramOk_init | exact memOk_nil | apply dramOk_dramOf | apply dramOk_putDouble | apply dramOk_foldl | apply memOk_of | apply memOk_ite | apply dramOk_mk)

theorem kept_drainOut {c : Keep} : ∀ x0 x1 x2 x3, Kept c x1 → Kept c (drainOut x0 x1 x2 x3) := by
  intro x0
  induction x0 with
  | zero =>
    intros
    unfold drainOut
    first | assumption | exact keptP_mk (by assumption)
  | succ n ih =>
    intros
    unfold drainOut
    repeat' (with_reducible first
      | assumption
      | intro _
      | (rename _ = (_, _) => hq; first | (refine kept_fst_cut (c := c) hq ?_ ?_ <;> [clear hq; (clear hq; intro hr)]) | clear hq)
      | (extract_lets +onlyGivenNames xl; first | (refine kept_cut (c := c) (s := xl) ?_ ?_ <;> [subst xl; (intro hx; clear_value xl)]) | (refine keptP_cut (c := c) (p := xl) ?_ ?_ <;> [subst xl; (intro hx; clear_value xl)]) | subst xl)
      | (apply kept_fst; first | assumption | apply kept_fifoPush)
      | apply ih | apply kept_setDram | apply kept_bump | apply kept_fifoPush | apply kept_ite | apply keptP_ite | apply keptP_mk
      | split
      | apply kept_mk | apply queueOk_of | apply freshOk_of | apply freshOk_add | apply regsOk_of | apply mgcOk_of | apply fabOk_of | apply storeOk_of | apply cfgOk_of | apply dramsOk_of
      | exact dramOk_init | exact memOk_nil | apply dramOk_dramOf | apply memOk_of | apply memOk_ite | apply dramOk_mk)

theorem kept_leaveAll {c : Keep} : ∀ x0 x1 x2, Kept c x1 → Kept c (leaveAll x0 x1 x2) := by
  intro x0
  induction x0 with
  | zero =>
    intros
    unfold leaveAll
    first | assumption | exact keptP_mk (by assumption)
  | succ n ih =>
    intros
    unfold leaveAll
    repeat' (with_reducible first
      | assumption
      | intro _
      | (extract_lets +onlyGivenNames xl; first | (refine kept_cut (c := c) (s := xl) ?_ ?_ <;> [subst xl; (intro hx; clear_value xl)]) | (refine keptP_cut (c := c) (p := xl) ?_ ?_ <;> [subst xl; (intro hx; clear_value xl)]) | subst xl)
      | apply ih | apply kept_setDram | apply kept_drainOut | apply kept_ite
      | split
      | apply kept_mk | apply queueOk_of | apply freshOk_of | apply freshOk_add | apply regsOk_of | apply mgcOk_of | apply fabOk_of | apply storeOk_of | apply cfgOk_of | apply dramsOk_of
      | exact dramOk_init | exact memOk_nil | apply dramOk_dramOf | apply memOk_of | apply memOk_ite | apply dramOk_mk)

theorem kept_dramLevels {c : Keep} : ∀ x0 x1, Kept c x0 → Kept c (dramLevels x0 x1) := by
  intros
  unfold dramLevels
  repeat' (with_reducible first
    | assumption
    | intro _
    | (rename _ = (_, _) => hq; first | (refine kept_fst_cut (c := c) hq ?_ ?_ <;> [clear hq; (clear hq; intro hr)]) | clear hq)
    | (extract_lets +onlyGivenNames xl; first | (refine kept_cut (c := c) (s := xl) ?_ ?_ <;> [subst xl; (intro hx; clear_value xl)]) | (refine keptP_cut (c := c) (p := xl) ?_ ?_ <;> [subst xl; (intro hx; clear_value xl)]) | subst xl)
    | apply kept_put | apply kept_ite | apply keptP_ite | apply keptP_mk
    | apply kept_foldl | apply keptP_foldl
    | split)

theorem kept_dramSettle {c : Keep} : ∀ x0 x1, Kept c x0 → Kept c (dramSettle x0 x1) := by
  intros
  unfold dramSettle
  repeat' (with_reducible first
    | assumption
    | intro _
    | apply kept_dramLevels | apply kept_leaveAll | apply kept_ite
    | split)

theorem kept_dramOutRetry {c : Keep} : ∀ x0 x1 x2, Kept c x0 → Kept c (dramOutRetry x0 x1 x2) := by
  intros
  unfold dramOutRetry
  repeat' (with_reducible first
    | assumption
    | intro _
    | apply kept_drainOut | apply kept_ite
    | split)

theorem kept_answerOnly {c : Keep} : ∀ x0 x1 x2 x3 x4 x5, Kept c x0 → Kept c (answerOnly x0 x1 x2 x3 x4 x5) := by
  intros
  unfold answerOnly
  repeat' (with_reducible first
    | assumption
    | intro _
    | (extract_lets +onlyGivenNames xl; first | (refine kept_cut (c := c) (s := xl) ?_ ?_ <;> [subst xl; (intro hx; clear_value xl)]) | (refine keptP_cut (c := c) (p := xl) ?_ ?_ <;> [subst xl; (intro hx; clear_value xl)]) | subst xl)
    | apply kept_dramSettle | apply kept_setDram | apply kept_ite
    | split
    | apply kept_mk | apply queueOk_of | apply freshOk_of | apply freshOk_add | apply regsOk_of | apply mgcOk_of | apply fabOk_of | apply storeOk_of | apply cfgOk_of | apply dramsOk_of
    | exact dramOk_init | exact memOk_nil | apply dramOk_dramOf | apply memOk_of | apply memOk_ite | apply dramOk_mk)

theorem kept_requestTake {c : Keep} : ∀ x0 x1 x2, Kept c x0 → Kept c (requestTake x0 x1 x2) := by
  intros
  unfold requestTake
  repeat' (with_reducible first
    | assumption
    | intro _
    | (rename _ = (_, _) => hq; first | (refine kept_fst_cut (c := c) hq ?_ ?_ <;> [clear hq; (clear hq; intro hr)]) | clear hq)
    | (extract_lets +onlyGivenNames xl; first | (refine kept_cut (c := c) (s := xl) ?_ ?_ <;> [subst xl; (intro hx; clear_value xl)]) | (refine keptP_cut (c := c) (p := xl) ?_ ?_ <;> [subst xl; (intro hx; clear_value xl)]) | subst xl)
    | (apply kept_fst; first | assumption | apply kept_fifoPop)
    | apply kept_fifoPop | apply kept_setDram | apply kept_ite | apply keptP_ite | apply keptP_mk
    | split
    | apply kept_mk | apply queueOk_of | apply freshOk_of | apply freshOk_add | apply regsOk_of | apply mgcOk_of | apply fabOk_of | apply storeOk_of | apply cfgOk_of | apply dramsOk_of
    | exact dramOk_init | exact memOk_nil | apply dramOk_dramOf | apply memOk_of | apply memOk_ite | apply dramOk_mk)

theorem kept_packetTake {c : Keep} : ∀ x0 x1 x2, Kept c x0 → Kept c (packetTake x0 x1 x2) := by
  intros
  unfold packetTake
  repeat' (with_reducible first
    | assumption
    | intro _
    | (rename _ = (_, _) => hq; first | (refine kept_fst_cut (c := c) hq ?_ ?_ <;> [clear hq; (clear hq; intro hr)]) | clear hq)
    | (extract_lets +onlyGivenNames xl; first | (refine kept_cut (c := c) (s := xl) ?_ ?_ <;> [subst xl; (intro hx; clear_value xl)]) | (refine keptP_cut (c := c) (p := xl) ?_ ?_ <;> [subst xl; (intro hx; clear_value xl)]) | subst xl)
    | apply kept_requestTake | apply kept_ite | apply keptP_ite | apply keptP_mk
    | apply kept_foldl | apply keptP_foldl
    | split)

theorem kept_packetGone {c : Keep} : ∀ x0 x1 x2, Kept c x0 → Kept c (packetGone x0 x1 x2) := by
  intros
  unfold packetGone
  repeat' (with_reducible first
    | assumption
    | intro _
    | apply kept_setDram | apply kept_ite
    | split
    | apply kept_mk | apply queueOk_of | apply freshOk_of | apply freshOk_add | apply regsOk_of | apply mgcOk_of | apply fabOk_of | apply storeOk_of | apply cfgOk_of | apply dramsOk_of
    | exact dramOk_init | exact memOk_nil | apply dramOk_dramOf | apply memOk_of | apply memOk_ite | apply dramOk_mk)

theorem kept_requestFault {c : Keep} : ∀ x0 x1 x2, Kept c x0 → Kept c (requestFault x0 x1 x2) := by
  intros
  unfold requestFault
  repeat' (with_reducible first
    | assumption
    | intro _
    | (extract_lets +onlyGivenNames xl; first | (refine kept_cut (c := c) (s := xl) ?_ ?_ <;> [subst xl; (intro hx; clear_value xl)]) | (refine keptP_cut (c := c) (p := xl) ?_ ?_ <;> [subst xl; (intro hx; clear_value xl)]) | subst xl)
    | apply kept_packetTake | apply kept_packetGone | apply kept_bump | apply kept_answerOnly | apply kept_ite
    | split
    | apply kept_mk | apply queueOk_of | apply freshOk_of | apply freshOk_add | apply regsOk_of | apply mgcOk_of | apply fabOk_of | apply storeOk_of | apply cfgOk_of | apply dramsOk_of)

theorem kept_execSdramRequestFault {c : Keep} : ∀ x0 x1 x2, Kept c x2 → KeptR c (execSdramRequestFault x0 x1 x2) := by
  intros
  unfold execSdramRequestFault
  repeat' (with_reducible first
    | assumption
    | intro _
    | apply kept_requestFault | apply keptR_ite | apply keptR_next | apply kept_ite
    | split)

theorem kept_sdramRequest {c : Keep} : ∀ x0 x1 x2 x3, Kept c x0 → Kept c (sdramRequest x0 x1 x2 x3) := by
  intros
  unfold sdramRequest
  repeat' (with_reducible first
    | assumption
    | intro _
    | (extract_lets +onlyGivenNames xl; first | (refine kept_cut (c := c) (s := xl) ?_ ?_ <;> [subst xl; (intro hx; clear_value xl)]) | (refine keptP_cut (c := c) (p := xl) ?_ ?_ <;> [subst xl; (intro hx; clear_value xl)]) | subst xl)
    | apply kept_packetTake | apply kept_packetGone | apply kept_answerOnly | apply kept_dramSettle | apply kept_setDram | apply kept_ite
    | split
    | apply kept_mk | apply queueOk_of | apply freshOk_of | apply freshOk_add | apply regsOk_of | apply mgcOk_of | apply fabOk_of | apply storeOk_of | apply cfgOk_of | apply dramsOk_of
    | exact dramOk_init | exact memOk_nil | apply dramOk_dramOf | apply memOk_of | apply memOk_ite | apply dramOk_mk)

theorem kept_execSdramRead {c : Keep} : ∀ x0 x1 x2, Kept c x2 → KeptR c (execSdramRead x0 x1 x2) := by
  intros
  unfold execSdramRead
  repeat' (with_reducible first
    | assumption
    | intro _
    | apply kept_sdramRequest | apply keptR_ite | apply keptR_next | apply kept_ite
    | split)

theorem kept_execSdramWrite {c : Keep} : ∀ x0 x1 x2, Kept c x2 → KeptR c (execSdramWrite x0 x1 x2) := by
  intros
  unfold execSdramWrite
  repeat' (with_reducible first
    | assumption
    | intro _
    | apply kept_sdramRequest | apply keptR_ite | apply keptR_next | apply kept_ite
    | split)

theorem kept_execSdramMaskedWrite {c : Keep} : ∀ x0 x1 x2, Kept c x2 → KeptR c (execSdramMaskedWrite x0 x1 x2) := by
  intros
  unfold execSdramMaskedWrite
  repeat' (with_reducible first
    | assumption
    | intro _
    | apply kept_sdramRequest | apply keptR_ite | apply keptR_next | apply kept_ite
    | split)

theorem kept_requestAged {c : Keep} : ∀ x0 x1 x2 x3, Kept c x0 → Kept c (requestAged x0 x1 x2 x3) := by
  intros
  unfold requestAged
  repeat' (with_reducible first
    | assumption
    | intro _
    | apply kept_setDram | apply kept_ite
    | split
    | apply kept_mk | apply queueOk_of | apply freshOk_of | apply freshOk_add | apply regsOk_of | apply mgcOk_of | apply fabOk_of | apply storeOk_of | apply cfgOk_of | apply dramsOk_of
    | exact dramOk_init | exact memOk_nil | apply dramOk_dramOf | apply memOk_of | apply memOk_ite | apply dramOk_mk)

theorem kept_requestLate {c : Keep} : ∀ x0 x1 x2 x3, Kept c x0 → Kept c (requestLate x0 x1 x2 x3) := by
  intros
  unfold requestLate
  repeat' (with_reducible first
    | assumption
    | intro _
    | (extract_lets +onlyGivenNames xl; first | (refine kept_cut (c := c) (s := xl) ?_ ?_ <;> [subst xl; (intro hx; clear_value xl)]) | (refine keptP_cut (c := c) (p := xl) ?_ ?_ <;> [subst xl; (intro hx; clear_value xl)]) | subst xl)
    | apply kept_setDram | apply kept_offerEvent | apply kept_bump | apply kept_ite
    | split
    | apply kept_mk | apply queueOk_of | apply freshOk_of | apply freshOk_add | apply regsOk_of | apply mgcOk_of | apply fabOk_of | apply storeOk_of | apply cfgOk_of | apply dramsOk_of
    | exact dramOk_init | exact memOk_nil | apply dramOk_dramOf | apply memOk_of | apply memOk_ite | apply dramOk_mk)

theorem kept_ageAll {c : Keep} : ∀ x0 x1, Kept c x0 → Kept c (ageAll x0 x1) := by
  intros
  unfold ageAll
  repeat' (with_reducible first
    | assumption
    | intro _
    | (rename _ = (_, _) => hq; first | (refine kept_fst_cut (c := c) hq ?_ ?_ <;> [clear hq; (clear hq; intro hr)]) | clear hq)
    | (extract_lets +onlyGivenNames xl; first | (refine kept_cut (c := c) (s := xl) ?_ ?_ <;> [subst xl; (intro hx; clear_value xl)]) | (refine keptP_cut (c := c) (p := xl) ?_ ?_ <;> [subst xl; (intro hx; clear_value xl)]) | subst xl)
    | apply kept_requestAged | apply kept_requestLate | apply kept_ite | apply keptP_ite | apply keptP_mk
    | apply kept_elim
    | apply kept_foldl | apply keptP_foldl
    | split)

theorem kept_openRow {c : Keep} : ∀ x0 x1 x2 x3, Kept c x0 → Kept c (openRow x0 x1 x2 x3) := by
  intros
  unfold openRow
  repeat' (with_reducible first
    | assumption
    | intro _
    | apply kept_setDram | apply kept_ite
    | split
    | apply kept_mk | apply queueOk_of | apply freshOk_of | apply freshOk_add | apply regsOk_of | apply mgcOk_of | apply fabOk_of | apply storeOk_of | apply cfgOk_of | apply dramsOk_of
    | exact dramOk_init | exact memOk_nil | apply dramOk_dramOf | apply memOk_of | apply memOk_ite | apply dramOk_mk)

theorem kept_accessDone {c : Keep} : ∀ x0 x1 x2 x3 x4, Kept c x0 → Kept c (accessDone x0 x1 x2 x3 x4) := by
  intros
  unfold accessDone
  repeat' (with_reducible first
    | assumption
    | intro _
    | (extract_lets +onlyGivenNames xl; first | (refine kept_cut (c := c) (s := xl) ?_ ?_ <;> [subst xl; (intro hx; clear_value xl)]) | (refine keptP_cut (c := c) (p := xl) ?_ ?_ <;> [subst xl; (intro hx; clear_value xl)]) | subst xl)
    | apply kept_ageAll | apply kept_openRow | apply kept_setDram | apply kept_countLine | apply kept_writeBack | apply kept_dramSettle | apply kept_ite
    | split
    | apply kept_mk | apply queueOk_of | apply freshOk_of | apply freshOk_add | apply regsOk_of | apply mgcOk_of | apply fabOk_of | apply storeOk_of | apply cfgOk_of | apply dramsOk_of
    | exact dramOk_init | exact memOk_nil | apply dramOk_dramOf | apply dramOk_flipBits | apply dramOk_writeLine | apply memOk_of | apply memOk_ite | apply dramOk_mk)

theorem kept_execSdramAccessDone {c : Keep} : ∀ x0 x1 x2 x3 x4, Kept c x4 → KeptR c (execSdramAccessDone x0 x1 x2 x3 x4) := by
  intros
  unfold execSdramAccessDone
  repeat' (with_reducible first
    | assumption
    | intro _
    | apply kept_accessDone | apply keptR_ite | apply keptR_next | apply kept_ite
    | split)

theorem kept_execSdramRequestAged {c : Keep} : ∀ x0 x1 x2 x3, Kept c x3 → KeptR c (execSdramRequestAged x0 x1 x2 x3) := by
  intros
  unfold execSdramRequestAged
  repeat' (with_reducible first
    | assumption
    | intro _
    | apply kept_requestAged | apply keptR_ite | apply keptR_next | apply kept_ite
    | apply kept_elim
    | split)

theorem kept_execSdramRequestLate {c : Keep} : ∀ x0 x1 x2 x3, Kept c x3 → KeptR c (execSdramRequestLate x0 x1 x2 x3) := by
  intros
  unfold execSdramRequestLate
  repeat' (with_reducible first
    | assumption
    | intro _
    | apply kept_requestLate | apply keptR_ite | apply keptR_next | apply kept_ite
    | apply kept_elim
    | split)

theorem kept_closeRows {c : Keep} : ∀ x0 x1 x2, Kept c x0 → Kept c (closeRows x0 x1 x2) := by
  intros
  unfold closeRows
  repeat' (with_reducible first
    | assumption
    | intro _
    | (extract_lets +onlyGivenNames xl; first | (refine kept_cut (c := c) (s := xl) ?_ ?_ <;> [subst xl; (intro hx; clear_value xl)]) | (refine keptP_cut (c := c) (p := xl) ?_ ?_ <;> [subst xl; (intro hx; clear_value xl)]) | subst xl)
    | apply kept_setDram | apply kept_ite
    | split
    | apply kept_mk | apply queueOk_of | apply freshOk_of | apply freshOk_add | apply regsOk_of | apply mgcOk_of | apply fabOk_of | apply storeOk_of | apply cfgOk_of | apply dramsOk_of
    | exact dramOk_init | exact memOk_nil | apply dramOk_dramOf | apply memOk_of | apply memOk_ite | apply dramOk_mk)

theorem kept_refreshDue {c : Keep} : ∀ x0 x1 x2, Kept c x0 → Kept c (refreshDue x0 x1 x2) := by
  intros
  unfold refreshDue
  repeat' (with_reducible first
    | assumption
    | intro _
    | (extract_lets +onlyGivenNames xl; first | (refine kept_cut (c := c) (s := xl) ?_ ?_ <;> [subst xl; (intro hx; clear_value xl)]) | (refine keptP_cut (c := c) (p := xl) ?_ ?_ <;> [subst xl; (intro hx; clear_value xl)]) | subst xl)
    | apply kept_put | apply kept_closeRows | apply kept_ite
    | split)

theorem kept_execSdramRefreshDue {c : Keep} : ∀ x0 x1 x2, Kept c x2 → KeptR c (execSdramRefreshDue x0 x1 x2) := by
  intros
  unfold execSdramRefreshDue
  repeat' (with_reducible first
    | assumption
    | intro _
    | apply kept_refreshDue | apply keptR_ite | apply keptR_next | apply kept_ite
    | split)

theorem kept_setMode2x {c : Keep} : ∀ x0 x1 x2, Kept c x0 → Kept c (setMode2x x0 x1 x2) := by
  intros
  unfold setMode2x
  repeat' (with_reducible first
    | assumption
    | intro _
    | apply kept_logState | apply kept_offerEvent | apply kept_put | apply kept_ite
    | split)

theorem kept_tempSource {c : Keep} : ∀ x0 x1, Kept c x0 → Kept c (tempSource x0 x1) := by
  intros
  unfold tempSource
  repeat' (with_reducible first
    | assumption
    | intro _
    | apply kept_setMode2x | apply kept_ite
    | split)

theorem kept_tempRead {c : Keep} : ∀ x0 x1 x2 x3, Kept c x0 → Kept c (tempRead x0 x1 x2 x3) := by
  intros
  unfold tempRead
  repeat' (with_reducible first
    | assumption
    | intro _
    | (extract_lets +onlyGivenNames xl; first | (refine kept_cut (c := c) (s := xl) ?_ ?_ <;> [subst xl; (intro hx; clear_value xl)]) | (refine keptP_cut (c := c) (p := xl) ?_ ?_ <;> [subst xl; (intro hx; clear_value xl)]) | subst xl)
    | apply kept_setDram | apply kept_put | apply kept_setMode2x | apply kept_ite
    | split
    | apply kept_mk | apply queueOk_of | apply freshOk_of | apply freshOk_add | apply regsOk_of | apply mgcOk_of | apply fabOk_of | apply storeOk_of | apply cfgOk_of | apply dramsOk_of
    | exact dramOk_init | exact memOk_nil | apply dramOk_dramOf | apply memOk_of | apply memOk_ite | apply dramOk_mk)

theorem kept_execSdramTempRead {c : Keep} : ∀ x0 x1 x2 x3, Kept c x3 → KeptR c (execSdramTempRead x0 x1 x2 x3) := by
  intros
  unfold execSdramTempRead
  repeat' (with_reducible first
    | assumption
    | intro _
    | apply kept_tempRead | apply keptR_ite | apply keptR_next | apply kept_ite
    | split)

theorem kept_execSdramRefresh1x {c : Keep} : ∀ x0 x1, Kept c x1 → KeptR c (execSdramRefresh1x x0 x1) := by
  intros
  unfold execSdramRefresh1x
  repeat' (with_reducible first
    | assumption
    | intro _
    | apply kept_setMode2x | apply keptR_ite | apply keptR_next | apply kept_ite
    | split)

theorem kept_patrolRead {c : Keep} : ∀ x0 x1 x2, Kept c x0 → Kept c (patrolRead x0 x1 x2) := by
  intros
  unfold patrolRead
  repeat' (with_reducible first
    | assumption
    | intro _
    | (extract_lets +onlyGivenNames xl; first | (refine kept_cut (c := c) (s := xl) ?_ ?_ <;> [subst xl; (intro hx; clear_value xl)]) | (refine keptP_cut (c := c) (p := xl) ?_ ?_ <;> [subst xl; (intro hx; clear_value xl)]) | subst xl)
    | apply kept_openRow | apply kept_setDram | apply kept_writeBack | apply kept_countLine | apply kept_put | apply kept_ite
    | split
    | apply kept_mk | apply queueOk_of | apply freshOk_of | apply freshOk_add | apply regsOk_of | apply mgcOk_of | apply fabOk_of | apply storeOk_of | apply cfgOk_of | apply dramsOk_of
    | exact dramOk_init | exact memOk_nil | apply dramOk_dramOf | apply dramOk_flipBits | apply memOk_of | apply memOk_ite | apply dramOk_mk)

theorem kept_patrolRestart {c : Keep} : ∀ x0 x1, Kept c x0 → Kept c (patrolRestart x0 x1) := by
  intros
  unfold patrolRestart
  repeat' (with_reducible first
    | assumption
    | intro _
    | apply kept_setDram | apply kept_put | apply kept_ite
    | split
    | apply kept_mk | apply queueOk_of | apply freshOk_of | apply freshOk_add | apply regsOk_of | apply mgcOk_of | apply fabOk_of | apply storeOk_of | apply cfgOk_of | apply dramsOk_of
    | exact dramOk_init | exact memOk_nil | apply dramOk_dramOf | apply memOk_of | apply memOk_ite | apply dramOk_mk)

theorem kept_execSdramPatrolRead {c : Keep} : ∀ x0 x1 x2, Kept c x2 → KeptR c (execSdramPatrolRead x0 x1 x2) := by
  intros
  unfold execSdramPatrolRead
  repeat' (with_reducible first
    | assumption
    | intro _
    | apply kept_patrolRead | apply keptR_ite | apply keptR_next | apply kept_ite
    | split)

theorem kept_setDramRows {c : Keep} : ∀ x0 x1 x2, Kept c x0 → Kept c (setDramRows x0 x1 x2) := by
  intros
  unfold setDramRows
  repeat' (with_reducible first
    | assumption
    | intro _
    | (extract_lets +onlyGivenNames xl; first | (refine kept_cut (c := c) (s := xl) ?_ ?_ <;> [subst xl; (intro hx; clear_value xl)]) | (refine keptP_cut (c := c) (p := xl) ?_ ?_ <;> [subst xl; (intro hx; clear_value xl)]) | subst xl)
    | apply kept_ite
    | split
    | apply kept_mk | apply queueOk_of | apply freshOk_of | apply freshOk_add | apply regsOk_of | apply mgcOk_of | apply fabOk_of | apply storeOk_of | apply cfgOk_of | apply dramsOk_of)

theorem kept_liveRemapDone {c : Keep} : ∀ x0 x1, Kept c x0 → Kept c (liveRemapDone x0 x1) := by
  intros
  unfold liveRemapDone
  repeat' (with_reducible first
    | assumption
    | intro _
    | (rename _ = (_, _) => hq; first | (refine kept_fst_cut (c := c) hq ?_ ?_ <;> [clear hq; (clear hq; intro hr)]) | clear hq)
    | (extract_lets +onlyGivenNames xl; first | (refine kept_cut (c := c) (s := xl) ?_ ?_ <;> [subst xl; (intro hx; clear_value xl)]) | (refine keptP_cut (c := c) (p := xl) ?_ ?_ <;> [subst xl; (intro hx; clear_value xl)]) | subst xl)
    | apply kept_countLine | apply kept_setDram | apply kept_setWord | apply kept_setDramRows | apply kept_raise | apply kept_offerEvent | apply kept_startRemap | apply kept_ite | apply keptP_ite | apply keptP_mk
    | apply kept_foldl | apply keptP_foldl
    | split
    | apply kept_mk | apply queueOk_of | apply freshOk_of | apply freshOk_add | apply regsOk_of | apply mgcOk_of | apply fabOk_of | apply storeOk_of | apply cfgOk_of | apply dramsOk_of
    | exact dramOk_init | exact memOk_nil | apply dramOk_dramOf | apply dramOk_copyLine | apply dramOk_foldl | apply memOk_of | apply memOk_ite | apply dramOk_mk)

theorem kept_execSdramLiveRemapDone {c : Keep} : ∀ x0 x1, Kept c x1 → KeptR c (execSdramLiveRemapDone x0 x1) := by
  intros
  unfold execSdramLiveRemapDone
  repeat' (with_reducible first
    | assumption
    | intro _
    | apply kept_liveRemapDone | apply keptR_ite | apply keptR_next | apply kept_ite
    | split)

theorem kept_setPpr {c : Keep} : ∀ x0 x1 x2, Kept c x0 → Kept c (setPpr x0 x1 x2) := by
  intros
  unfold setPpr
  repeat' (with_reducible first
    | assumption
    | intro _
    | (extract_lets +onlyGivenNames xl; first | (refine kept_cut (c := c) (s := xl) ?_ ?_ <;> [subst xl; (intro hx; clear_value xl)]) | (refine keptP_cut (c := c) (p := xl) ?_ ?_ <;> [subst xl; (intro hx; clear_value xl)]) | subst xl)
    | apply kept_put | apply kept_ite
    | split
    | apply kept_mk | apply queueOk_of | apply freshOk_of | apply freshOk_add | apply regsOk_of | apply mgcOk_of | apply fabOk_of | apply storeOk_of | apply cfgOk_of | apply dramsOk_of)

theorem kept_execSdramPprRequest {c : Keep} : ∀ x0 x1, Kept c x1 → KeptR c (execSdramPprRequest x0 x1) := by
  intros
  unfold execSdramPprRequest
  repeat' (with_reducible first
    | assumption
    | intro _
    | apply kept_setDram | apply keptR_ite | apply keptR_next | apply kept_ite
    | split
    | apply kept_mk | apply queueOk_of | apply freshOk_of | apply freshOk_add | apply regsOk_of | apply mgcOk_of | apply fabOk_of | apply storeOk_of | apply cfgOk_of | apply dramsOk_of
    | exact dramOk_init | exact memOk_nil | apply dramOk_dramOf | apply memOk_of | apply memOk_ite | apply dramOk_mk)

theorem kept_execSdramPprRecorded {c : Keep} : ∀ x0 x1, Kept c x1 → KeptR c (execSdramPprRecorded x0 x1) := by
  intros
  unfold execSdramPprRecorded
  repeat' (with_reducible first
    | assumption
    | intro _
    | apply kept_setPpr | apply kept_setDram | apply keptR_ite | apply keptR_next | apply kept_ite
    | split
    | apply kept_mk | apply queueOk_of | apply freshOk_of | apply freshOk_add | apply regsOk_of | apply mgcOk_of | apply fabOk_of | apply storeOk_of | apply cfgOk_of | apply dramsOk_of
    | exact dramOk_init | exact memOk_nil | apply dramOk_dramOf | apply memOk_of | apply memOk_ite | apply dramOk_mk)

theorem kept_execSdramPprWithdraw {c : Keep} : ∀ x0 x1, Kept c x1 → KeptR c (execSdramPprWithdraw x0 x1) := by
  intros
  unfold execSdramPprWithdraw
  repeat' (with_reducible first
    | assumption
    | intro _
    | apply kept_setPpr | apply kept_setDram | apply keptR_ite | apply keptR_next | apply kept_ite
    | split
    | apply kept_mk | apply queueOk_of | apply freshOk_of | apply freshOk_add | apply regsOk_of | apply mgcOk_of | apply fabOk_of | apply storeOk_of | apply cfgOk_of | apply dramsOk_of
    | exact dramOk_init | exact memOk_nil | apply dramOk_dramOf | apply memOk_of | apply memOk_ite | apply dramOk_mk)

theorem kept_pprRow {c : Keep} : ∀ x0 x1 x2 x3 x4, Kept c x0 → Kept c (pprRow x0 x1 x2 x3 x4) := by
  intros
  unfold pprRow
  repeat' (with_reducible first
    | assumption
    | intro _
    | (extract_lets +onlyGivenNames xl; first | (refine kept_cut (c := c) (s := xl) ?_ ?_ <;> [subst xl; (intro hx; clear_value xl)]) | (refine keptP_cut (c := c) (p := xl) ?_ ?_ <;> [subst xl; (intro hx; clear_value xl)]) | subst xl)
    | apply kept_setWord | apply kept_setDramRows | apply kept_raise | apply kept_ite
    | split
    | apply kept_mk | apply queueOk_of | apply freshOk_of | apply freshOk_add | apply regsOk_of | apply mgcOk_of | apply fabOk_of | apply storeOk_of | apply cfgOk_of | apply dramsOk_of)

theorem kept_pprRun {c : Keep} : ∀ x0 x1 x2, Kept c x0 → Kept c (pprRun x0 x1 x2) := by
  intros
  unfold pprRun
  repeat' (with_reducible first
    | assumption
    | intro _
    | (rename _ = (_, _) => hq; first | (refine kept_fst_cut (c := c) hq ?_ ?_ <;> [clear hq; (clear hq; intro hr)]) | clear hq)
    | (extract_lets +onlyGivenNames xl; first | (refine kept_cut (c := c) (s := xl) ?_ ?_ <;> [subst xl; (intro hx; clear_value xl)]) | (refine keptP_cut (c := c) (p := xl) ?_ ?_ <;> [subst xl; (intro hx; clear_value xl)]) | subst xl)
    | apply kept_setPpr | apply kept_pprRow | apply kept_ite | apply keptP_ite | apply keptP_mk
    | apply kept_foldl | apply keptP_foldl
    | split)

theorem kept_parityAlert {c : Keep} : ∀ x0 x1, Kept c x0 → Kept c (parityAlert x0 x1) := by
  intros
  unfold parityAlert
  repeat' (with_reducible first
    | assumption
    | intro _
    | (extract_lets +onlyGivenNames xl; first | (refine kept_cut (c := c) (s := xl) ?_ ?_ <;> [subst xl; (intro hx; clear_value xl)]) | (refine keptP_cut (c := c) (p := xl) ?_ ?_ <;> [subst xl; (intro hx; clear_value xl)]) | subst xl)
    | apply kept_setDram | apply kept_offerEvent | apply kept_bump | apply kept_raise | apply kept_ite
    | split
    | apply kept_mk | apply queueOk_of | apply freshOk_of | apply freshOk_add | apply regsOk_of | apply mgcOk_of | apply fabOk_of | apply storeOk_of | apply cfgOk_of | apply dramsOk_of
    | exact dramOk_init | exact memOk_nil | apply dramOk_dramOf | apply memOk_of | apply memOk_ite | apply dramOk_mk)

theorem kept_execSdramParityAlert {c : Keep} : ∀ x0 x1, Kept c x1 → KeptR c (execSdramParityAlert x0 x1) := by
  intros
  unfold execSdramParityAlert
  repeat' (with_reducible first
    | assumption
    | intro _
    | apply kept_parityAlert | apply keptR_ite | apply keptR_next | apply kept_ite
    | split)

theorem kept_execSdramAlertRelease {c : Keep} : ∀ x0 x1, Kept c x1 → KeptR c (execSdramAlertRelease x0 x1) := by
  intros
  unfold execSdramAlertRelease
  repeat' (with_reducible first
    | assumption
    | intro _
    | apply kept_closeRows | apply kept_setDram | apply keptR_ite | apply keptR_next | apply kept_ite
    | split
    | apply kept_mk | apply queueOk_of | apply freshOk_of | apply freshOk_add | apply regsOk_of | apply mgcOk_of | apply fabOk_of | apply storeOk_of | apply cfgOk_of | apply dramsOk_of
    | exact dramOk_init | exact memOk_nil | apply dramOk_dramOf | apply memOk_of | apply memOk_ite | apply dramOk_mk)

theorem kept_execSdramEccClear {c : Keep} : ∀ x0 x1, Kept c x1 → KeptR c (execSdramEccClear x0 x1) := by
  intros
  unfold execSdramEccClear
  repeat' (with_reducible first
    | assumption
    | intro _
    | apply kept_setWord | apply keptR_ite | apply keptR_next | apply kept_ite
    | split)

theorem kept_execSdramCntClear {c : Keep} : ∀ x0 x1, Kept c x1 → KeptR c (execSdramCntClear x0 x1) := by
  intros
  unfold execSdramCntClear
  repeat' (with_reducible first
    | assumption
    | intro _
    | apply kept_setWord | apply keptR_ite | apply keptR_next | apply kept_ite
    | split)

end Sys2Proof.Machine
end

