-- ==== Sys2Proof/Laws/KeptTrain.lean ====
section
/-! SUPPORT. What every operation of Machine/Train.lean keeps (Laws/Kept.lean). -/
set_option linter.unusedTactic false
set_option linter.unreachableTactic false
namespace Sys2Proof.Machine
open Sys2Proof

theorem kept_setLaneSet {c : Keep} : ∀ x0 x1 x2 x3 x4 x5, Kept c x0 → Kept c (setLaneSet x0 x1 x2 x3 x4 x5) := by
  intros
  unfold setLaneSet
  repeat' (with_reducible first
    | assumption
    | intro _
    | (extract_lets +onlyGivenNames xl; first | (refine kept_cut (c := c) (s := xl) ?_ ?_ <;> [subst xl; (intro hx; clear_value xl)]) | (refine keptP_cut (c := c) (p := xl) ?_ ?_ <;> [subst xl; (intro hx; clear_value xl)]) | subst xl)
    | apply kept_setDram | apply kept_ite
    | split
    | apply kept_mk | apply queueOk_of | apply freshOk_of | apply freshOk_add | apply regsOk_of | apply mgcOk_of | apply fabOk_of | apply storeOk_of | apply cfgOk_of | apply dramsOk_of
    | exact dramOk_init | exact memOk_nil | apply dramOk_dramOf | apply memOk_of | apply memOk_ite | apply dramOk_mk)

theorem kept_setModes {c : Keep} : ∀ x0 x1 x2, Kept c x0 → Kept c (setModes x0 x1 x2) := by
  intros
  unfold setModes
  repeat' (with_reducible first
    | assumption
    | intro _
    | apply kept_setDram | apply kept_ite
    | split
    | apply kept_mk | apply queueOk_of | apply freshOk_of | apply freshOk_add | apply regsOk_of | apply mgcOk_of | apply fabOk_of | apply storeOk_of | apply cfgOk_of | apply dramsOk_of
    | exact dramOk_init | exact memOk_nil | apply dramOk_dramOf | apply memOk_of | apply memOk_ite | apply dramOk_mk)

theorem kept_sweepStart {c : Keep} : ∀ x0 x1 x2 x3, Kept c x0 → Kept c (sweepStart x0 x1 x2 x3) := by
  intros
  unfold sweepStart
  repeat' (with_reducible first
    | assumption
    | intro _
    | (extract_lets +onlyGivenNames xl; first | (refine kept_cut (c := c) (s := xl) ?_ ?_ <;> [subst xl; (intro hx; clear_value xl)]) | (refine keptP_cut (c := c) (p := xl) ?_ ?_ <;> [subst xl; (intro hx; clear_value xl)]) | subst xl)
    | apply kept_setDram | apply kept_put | apply kept_setDramState | apply kept_closeRows | apply kept_setModes | apply kept_ite
    | split
    | apply kept_mk | apply queueOk_of | apply freshOk_of | apply freshOk_add | apply regsOk_of | apply mgcOk_of | apply fabOk_of | apply storeOk_of | apply cfgOk_of | apply dramsOk_of
    | exact dramOk_init | exact memOk_nil | apply dramOk_dramOf | apply memOk_of | apply memOk_ite | apply dramOk_mk)

theorem kept_dramStart {c : Keep} : ∀ x0 x1, Kept c x0 → Kept c (dramStart x0 x1) := by
  intros
  unfold dramStart
  repeat' (with_reducible first
    | assumption
    | intro _
    | (extract_lets +onlyGivenNames xl; first | (refine kept_cut (c := c) (s := xl) ?_ ?_ <;> [subst xl; (intro hx; clear_value xl)]) | (refine keptP_cut (c := c) (p := xl) ?_ ?_ <;> [subst xl; (intro hx; clear_value xl)]) | subst xl)
    | apply kept_sweepStart | apply kept_setDram | apply kept_ite
    | split
    | apply kept_mk | apply queueOk_of | apply freshOk_of | apply freshOk_add | apply regsOk_of | apply mgcOk_of | apply fabOk_of | apply storeOk_of | apply cfgOk_of | apply dramsOk_of
    | exact dramOk_init | exact memOk_nil | apply dramOk_dramOf | apply memOk_of | apply memOk_ite | apply dramOk_mk)

theorem kept_storeSet {c : Keep} : ∀ x0 x1 x2 x3, Kept c x0 → Kept c (storeSet x0 x1 x2 x3) := by
  intros
  unfold storeSet
  repeat' (with_reducible first
    | assumption
    | intro _
    | (rename _ = (_, _) => hq; first | (refine kept_fst_cut (c := c) hq ?_ ?_ <;> [clear hq; (clear hq; intro hr)]) | clear hq)
    | (extract_lets +onlyGivenNames xl; first | (refine kept_cut (c := c) (s := xl) ?_ ?_ <;> [subst xl; (intro hx; clear_value xl)]) | (refine keptP_cut (c := c) (p := xl) ?_ ?_ <;> [subst xl; (intro hx; clear_value xl)]) | subst xl)
    | apply kept_setLaneSet | apply kept_setWord | apply kept_ite | apply keptP_ite | apply keptP_mk
    | apply kept_foldl | apply keptP_foldl
    | split
    | apply kept_mk | apply queueOk_of | apply freshOk_of | apply freshOk_add | apply regsOk_of | apply mgcOk_of | apply fabOk_of | apply storeOk_of | apply cfgOk_of | apply dramsOk_of)

theorem kept_dramDisable {c : Keep} : ∀ x0 x1, Kept c x0 → Kept c (dramDisable x0 x1) := by
  intros
  unfold dramDisable
  repeat' (with_reducible first
    | assumption
    | intro _
    | (extract_lets +onlyGivenNames xl; first | (refine kept_cut (c := c) (s := xl) ?_ ?_ <;> [subst xl; (intro hx; clear_value xl)]) | (refine keptP_cut (c := c) (p := xl) ?_ ?_ <;> [subst xl; (intro hx; clear_value xl)]) | subst xl)
    | apply kept_setDramState | apply kept_setDram | apply kept_updateSeals | apply kept_dramLevels | apply kept_ite
    | split
    | apply kept_mk | apply queueOk_of | apply freshOk_of | apply freshOk_add | apply regsOk_of | apply mgcOk_of | apply fabOk_of | apply storeOk_of | apply cfgOk_of | apply dramsOk_of
    | exact dramOk_init | exact memOk_nil | apply dramOk_dramOf | apply memOk_of | apply memOk_ite | apply dramOk_mk)

theorem kept_dramReady {c : Keep} : ∀ x0 x1 x2, Kept c x0 → Kept c (dramReady x0 x1 x2) := by
  intros
  unfold dramReady
  repeat' (with_reducible first
    | assumption
    | intro _
    | (extract_lets +onlyGivenNames xl; first | (refine kept_cut (c := c) (s := xl) ?_ ?_ <;> [subst xl; (intro hx; clear_value xl)]) | (refine keptP_cut (c := c) (p := xl) ?_ ?_ <;> [subst xl; (intro hx; clear_value xl)]) | subst xl)
    | apply kept_put | apply kept_setDram | apply kept_setDramState | apply kept_setModes | apply kept_dramSettle | apply kept_offerEvent | apply kept_sweepStart | apply kept_ite
    | split
    | apply kept_mk | apply queueOk_of | apply freshOk_of | apply freshOk_add | apply regsOk_of | apply mgcOk_of | apply fabOk_of | apply storeOk_of | apply cfgOk_of | apply dramsOk_of
    | exact dramOk_init | exact memOk_nil | apply dramOk_dramOf | apply memOk_of | apply memOk_ite | apply dramOk_mk)

theorem kept_sweepFail {c : Keep} : ∀ x0 x1 x2 x3, Kept c x0 → Kept c (sweepFail x0 x1 x2 x3) := by
  intros
  unfold sweepFail
  repeat' (with_reducible first
    | assumption
    | intro _
    | (extract_lets +onlyGivenNames xl; first | (refine kept_cut (c := c) (s := xl) ?_ ?_ <;> [subst xl; (intro hx; clear_value xl)]) | (refine keptP_cut (c := c) (p := xl) ?_ ?_ <;> [subst xl; (intro hx; clear_value xl)]) | subst xl)
    | apply kept_put | apply kept_raise | apply kept_dramDisable | apply kept_dramReady | apply kept_ite
    | split
    | apply kept_mk | apply queueOk_of | apply freshOk_of | apply freshOk_add | apply regsOk_of | apply mgcOk_of | apply fabOk_of | apply storeOk_of | apply cfgOk_of | apply dramsOk_of)

theorem kept_sweepEnd {c : Keep} : ∀ x0 x1, Kept c x0 → Kept c (sweepEnd x0 x1) := by
  intros
  unfold sweepEnd
  repeat' (with_reducible first
    | assumption
    | intro _
    | (extract_lets +onlyGivenNames xl; first | (refine kept_cut (c := c) (s := xl) ?_ ?_ <;> [subst xl; (intro hx; clear_value xl)]) | (refine keptP_cut (c := c) (p := xl) ?_ ?_ <;> [subst xl; (intro hx; clear_value xl)]) | subst xl)
    | apply kept_setDram | apply kept_put | apply kept_storeSet | apply kept_dramReady | apply kept_sweepFail | apply kept_ite
    | split
    | apply kept_mk | apply queueOk_of | apply freshOk_of | apply freshOk_add | apply regsOk_of | apply mgcOk_of | apply fabOk_of | apply storeOk_of | apply cfgOk_of | apply dramsOk_of
    | exact dramOk_init | exact memOk_nil | apply dramOk_dramOf | apply memOk_of | apply memOk_ite | apply dramOk_mk)

theorem kept_sweepStep {c : Keep} : ∀ x0 x1 x2 x3, Kept c x0 → Kept c (sweepStep x0 x1 x2 x3) := by
  intros
  unfold sweepStep
  repeat' (with_reducible first
    | assumption
    | intro _
    | (extract_lets +onlyGivenNames xl; first | (refine kept_cut (c := c) (s := xl) ?_ ?_ <;> [subst xl; (intro hx; clear_value xl)]) | (refine keptP_cut (c := c) (p := xl) ?_ ?_ <;> [subst xl; (intro hx; clear_value xl)]) | subst xl)
    | apply kept_pprRun | apply kept_setDram | apply kept_tookFree | apply kept_sweepEnd | apply kept_put | apply kept_ite
    | split
    | apply kept_mk | apply queueOk_of | apply freshOk_of | apply freshOk_add | apply regsOk_of | apply mgcOk_of | apply fabOk_of | apply storeOk_of | apply cfgOk_of | apply dramsOk_of
    | exact dramOk_init | exact memOk_nil | apply dramOk_dramOf | apply memOk_of | apply memOk_ite | apply dramOk_mk)

theorem kept_execSweepStepDone {c : Keep} : ∀ x0 x1 x2 x3, Kept c x3 → KeptR c (execSweepStepDone x0 x1 x2 x3) := by
  intros
  unfold execSweepStepDone
  repeat' (with_reducible first
    | assumption
    | intro _
    | apply kept_sweepStep | apply keptR_ite | apply keptR_next | apply kept_ite
    | split)

theorem kept_sweepRequest {c : Keep} : ∀ x0 x1, Kept c x0 → Kept c (sweepRequest x0 x1) := by
  intros
  unfold sweepRequest
  repeat' (with_reducible first
    | assumption
    | intro _
    | (extract_lets +onlyGivenNames xl; first | (refine kept_cut (c := c) (s := xl) ?_ ?_ <;> [subst xl; (intro hx; clear_value xl)]) | (refine keptP_cut (c := c) (p := xl) ?_ ?_ <;> [subst xl; (intro hx; clear_value xl)]) | subst xl)
    | apply kept_put | apply kept_setDram | apply kept_sweepStart | apply kept_ite
    | split
    | apply kept_mk | apply queueOk_of | apply freshOk_of | apply freshOk_add | apply regsOk_of | apply mgcOk_of | apply fabOk_of | apply storeOk_of | apply cfgOk_of | apply dramsOk_of
    | exact dramOk_init | exact memOk_nil | apply dramOk_dramOf | apply memOk_of | apply memOk_ite | apply dramOk_mk)

theorem kept_execSweepRequest {c : Keep} : ∀ x0 x1, Kept c x1 → KeptR c (execSweepRequest x0 x1) := by
  intros
  unfold execSweepRequest
  repeat' (with_reducible first
    | assumption
    | intro _
    | apply kept_sweepRequest | apply keptR_ite | apply keptR_next | apply kept_ite
    | split)

theorem kept_gatherStart {c : Keep} : ∀ x0 x1, Kept c x0 → Kept c (gatherStart x0 x1) := by
  intros
  unfold gatherStart
  repeat' (with_reducible first
    | assumption
    | intro _
    | (extract_lets +onlyGivenNames xl; first | (refine kept_cut (c := c) (s := xl) ?_ ?_ <;> [subst xl; (intro hx; clear_value xl)]) | (refine keptP_cut (c := c) (p := xl) ?_ ?_ <;> [subst xl; (intro hx; clear_value xl)]) | subst xl)
    | apply kept_setDram | apply kept_put | apply kept_ite
    | split
    | apply kept_mk | apply queueOk_of | apply freshOk_of | apply freshOk_add | apply regsOk_of | apply mgcOk_of | apply fabOk_of | apply storeOk_of | apply cfgOk_of | apply dramsOk_of
    | exact dramOk_init | exact memOk_nil | apply dramOk_dramOf | apply memOk_of | apply memOk_ite | apply dramOk_mk)

theorem kept_execGatheringStart {c : Keep} : ∀ x0 x1, Kept c x1 → KeptR c (execGatheringStart x0 x1) := by
  intros
  unfold execGatheringStart
  repeat' (with_reducible first
    | assumption
    | intro _
    | apply kept_gatherStart | apply keptR_ite | apply keptR_next | apply kept_ite
    | split)

theorem kept_execTrainingPause {c : Keep} : ∀ x0 x1, Kept c x1 → KeptR c (execTrainingPause x0 x1) := by
  intros
  unfold execTrainingPause
  repeat' (with_reducible first
    | assumption
    | intro _
    | apply kept_setDram | apply keptR_ite | apply keptR_next | apply kept_ite
    | split
    | apply kept_mk | apply queueOk_of | apply freshOk_of | apply freshOk_add | apply regsOk_of | apply mgcOk_of | apply fabOk_of | apply storeOk_of | apply cfgOk_of | apply dramsOk_of
    | exact dramOk_init | exact memOk_nil | apply dramOk_dramOf | apply memOk_of | apply memOk_ite | apply dramOk_mk)

theorem kept_applySample {c : Keep} : ∀ x0 x1 x2 x3, Kept c x0 → Kept c (applySample x0 x1 x2 x3) := by
  intros
  unfold applySample
  repeat' (with_reducible first
    | assumption
    | intro _
    | (extract_lets +onlyGivenNames xl; first | (refine kept_cut (c := c) (s := xl) ?_ ?_ <;> [subst xl; (intro hx; clear_value xl)]) | (refine keptP_cut (c := c) (p := xl) ?_ ?_ <;> [subst xl; (intro hx; clear_value xl)]) | subst xl)
    | apply kept_setLaneSet | apply kept_ite
    | split
    | apply kept_mk | apply queueOk_of | apply freshOk_of | apply freshOk_add | apply regsOk_of | apply mgcOk_of | apply fabOk_of | apply storeOk_of | apply cfgOk_of | apply dramsOk_of)

theorem kept_applySamples {c : Keep} : ∀ x0 x1 x2 x3, Kept c x0 → Kept c (applySamples x0 x1 x2 x3) := by
  intros
  unfold applySamples
  repeat' (with_reducible first
    | assumption
    | intro _
    | (rename _ = (_, _) => hq; first | (refine kept_fst_cut (c := c) hq ?_ ?_ <;> [clear hq; (clear hq; intro hr)]) | clear hq)
    | (extract_lets +onlyGivenNames xl; first | (refine kept_cut (c := c) (s := xl) ?_ ?_ <;> [subst xl; (intro hx; clear_value xl)]) | (refine keptP_cut (c := c) (p := xl) ?_ ?_ <;> [subst xl; (intro hx; clear_value xl)]) | subst xl)
    | apply kept_applySample | apply kept_put | apply kept_bump | apply kept_ite | apply keptP_ite | apply keptP_mk
    | apply kept_foldl | apply keptP_foldl
    | split)

theorem kept_laneOutcome {c : Keep} : ∀ x0 x1 x2 x3 x4, Kept c x0 → Kept c (laneOutcome x0 x1 x2 x3 x4) := by
  intros
  unfold laneOutcome
  repeat' (with_reducible first
    | assumption
    | intro _
    | (extract_lets +onlyGivenNames xl; first | (refine kept_cut (c := c) (s := xl) ?_ ?_ <;> [subst xl; (intro hx; clear_value xl)]) | (refine keptP_cut (c := c) (p := xl) ?_ ?_ <;> [subst xl; (intro hx; clear_value xl)]) | subst xl)
    | apply kept_setDram | apply kept_logState | apply kept_putBit | apply kept_raise | apply kept_setDramState | apply kept_ite
    | split
    | apply kept_mk | apply queueOk_of | apply freshOk_of | apply freshOk_add | apply regsOk_of | apply mgcOk_of | apply fabOk_of | apply storeOk_of | apply cfgOk_of | apply dramsOk_of
    | exact dramOk_init | exact memOk_nil | apply dramOk_dramOf | apply memOk_of | apply memOk_ite | apply dramOk_mk)

theorem kept_gathered {c : Keep} : ∀ x0 x1 x2 x3, Kept c x0 → Kept c (gathered x0 x1 x2 x3) := by
  intros
  unfold gathered
  repeat' (with_reducible first
    | assumption
    | intro _
    | (rename _ = (_, _) => hq; first | (refine kept_fst_cut (c := c) hq ?_ ?_ <;> [clear hq; (clear hq; intro hr)]) | clear hq)
    | (extract_lets +onlyGivenNames xl; first | (refine kept_cut (c := c) (s := xl) ?_ ?_ <;> [subst xl; (intro hx; clear_value xl)]) | (refine keptP_cut (c := c) (p := xl) ?_ ?_ <;> [subst xl; (intro hx; clear_value xl)]) | subst xl)
    | apply kept_applySamples | apply kept_laneOutcome | apply kept_put | apply kept_bump | apply kept_ite | apply keptP_ite | apply keptP_mk
    | apply kept_foldl | apply keptP_foldl
    | split)

theorem kept_gatherEnd {c : Keep} : ∀ x0 x1, Kept c x0 → Kept c (gatherEnd x0 x1) := by
  intros
  unfold gatherEnd
  repeat' (with_reducible first
    | assumption
    | intro _
    | apply kept_gathered | apply kept_put | apply kept_ite
    | split)

theorem kept_pauseEnd {c : Keep} : ∀ x0 x1 x2, Kept c x0 → Kept c (pauseEnd x0 x1 x2) := by
  intros
  unfold pauseEnd
  repeat' (with_reducible first
    | assumption
    | intro _
    | (extract_lets +onlyGivenNames xl; first | (refine kept_cut (c := c) (s := xl) ?_ ?_ <;> [subst xl; (intro hx; clear_value xl)]) | (refine keptP_cut (c := c) (p := xl) ?_ ?_ <;> [subst xl; (intro hx; clear_value xl)]) | subst xl)
    | apply kept_setDram | apply kept_sweepStart | apply kept_put | apply kept_gatherEnd | apply kept_ite
    | split
    | apply kept_mk | apply queueOk_of | apply freshOk_of | apply freshOk_add | apply regsOk_of | apply mgcOk_of | apply fabOk_of | apply storeOk_of | apply cfgOk_of | apply dramsOk_of
    | exact dramOk_init | exact memOk_nil | apply dramOk_dramOf | apply memOk_of | apply memOk_ite | apply dramOk_mk)

theorem kept_execPauseEnd {c : Keep} : ∀ x0 x1 x2, Kept c x2 → KeptR c (execPauseEnd x0 x1 x2) := by
  intros
  unfold execPauseEnd
  repeat' (with_reducible first
    | assumption
    | intro _
    | apply kept_pauseEnd | apply keptR_ite | apply keptR_next | apply kept_ite
    | split)

theorem kept_rateRequest {c : Keep} : ∀ x0 x1 x2, Kept c x0 → Kept c (rateRequest x0 x1 x2) := by
  intros
  unfold rateRequest
  repeat' (with_reducible first
    | assumption
    | intro _
    | (extract_lets +onlyGivenNames xl; first | (refine kept_cut (c := c) (s := xl) ?_ ?_ <;> [subst xl; (intro hx; clear_value xl)]) | (refine keptP_cut (c := c) (p := xl) ?_ ?_ <;> [subst xl; (intro hx; clear_value xl)]) | subst xl)
    | apply kept_setDram | apply kept_put | apply kept_ite
    | split
    | apply kept_mk | apply queueOk_of | apply freshOk_of | apply freshOk_add | apply regsOk_of | apply mgcOk_of | apply fabOk_of | apply storeOk_of | apply cfgOk_of | apply dramsOk_of
    | exact dramOk_init | exact memOk_nil | apply dramOk_dramOf | apply memOk_of | apply memOk_ite | apply dramOk_mk)

theorem kept_execSdramRateRequest {c : Keep} : ∀ x0 x1 x2, Kept c x2 → KeptR c (execSdramRateRequest x0 x1 x2) := by
  intros
  unfold execSdramRateRequest
  repeat' (with_reducible first
    | assumption
    | intro _
    | apply kept_rateRequest | apply kept_commandIf | apply keptR_ite | apply keptR_next | apply kept_ite
    | split)

theorem kept_rateBegin {c : Keep} : ∀ x0 x1, Kept c x0 → Kept c (rateBegin x0 x1) := by
  intros
  unfold rateBegin
  repeat' (with_reducible first
    | assumption
    | intro _
    | (extract_lets +onlyGivenNames xl; first | (refine kept_cut (c := c) (s := xl) ?_ ?_ <;> [subst xl; (intro hx; clear_value xl)]) | (refine keptP_cut (c := c) (p := xl) ?_ ?_ <;> [subst xl; (intro hx; clear_value xl)]) | subst xl)
    | apply kept_sweepStart | apply kept_setDram | apply kept_put | apply kept_closeRows | apply kept_setModes | apply kept_ite
    | split
    | apply kept_mk | apply queueOk_of | apply freshOk_of | apply freshOk_add | apply regsOk_of | apply mgcOk_of | apply fabOk_of | apply storeOk_of | apply cfgOk_of | apply dramsOk_of
    | exact dramOk_init | exact memOk_nil | apply dramOk_dramOf | apply memOk_of | apply memOk_ite | apply dramOk_mk)

theorem kept_execRateChangeBegin {c : Keep} : ∀ x0 x1, Kept c x1 → KeptR c (execRateChangeBegin x0 x1) := by
  intros
  unfold execRateChangeBegin
  repeat' (with_reducible first
    | assumption
    | intro _
    | apply kept_rateBegin | apply keptR_ite | apply keptR_next | apply kept_ite
    | split)

theorem kept_checkDone {c : Keep} : ∀ x0 x1 x2, Kept c x0 → Kept c (checkDone x0 x1 x2) := by
  intros
  unfold checkDone
  repeat' (with_reducible first
    | assumption
    | intro _
    | (extract_lets +onlyGivenNames xl; first | (refine kept_cut (c := c) (s := xl) ?_ ?_ <;> [subst xl; (intro hx; clear_value xl)]) | (refine keptP_cut (c := c) (p := xl) ?_ ?_ <;> [subst xl; (intro hx; clear_value xl)]) | subst xl)
    | apply kept_gathered | apply kept_dramReady | apply kept_put | apply kept_sweepStart | apply kept_ite
    | split)

theorem kept_execSdramCheckDone {c : Keep} : ∀ x0 x1 x2, Kept c x2 → KeptR c (execSdramCheckDone x0 x1 x2) := by
  intros
  unfold execSdramCheckDone
  repeat' (with_reducible first
    | assumption
    | intro _
    | apply kept_checkDone | apply keptR_ite | apply keptR_next | apply kept_ite
    | split)

theorem kept_selfRefreshEnter {c : Keep} : ∀ x0 x1, Kept c x0 → Kept c (selfRefreshEnter x0 x1) := by
  intros
  unfold selfRefreshEnter
  repeat' (with_reducible first
    | assumption
    | intro _
    | (extract_lets +onlyGivenNames xl; first | (refine kept_cut (c := c) (s := xl) ?_ ?_ <;> [subst xl; (intro hx; clear_value xl)]) | (refine keptP_cut (c := c) (p := xl) ?_ ?_ <;> [subst xl; (intro hx; clear_value xl)]) | subst xl)
    | apply kept_closeRows | apply kept_setDram | apply kept_setDramState | apply kept_put | apply kept_ite
    | split
    | apply kept_mk | apply queueOk_of | apply freshOk_of | apply freshOk_add | apply regsOk_of | apply mgcOk_of | apply fabOk_of | apply storeOk_of | apply cfgOk_of | apply dramsOk_of
    | exact dramOk_init | exact memOk_nil | apply dramOk_dramOf | apply memOk_of | apply memOk_ite | apply dramOk_mk)

theorem kept_execSdramSelfRefreshEnter {c : Keep} : ∀ x0 x1, Kept c x1 → KeptR c (execSdramSelfRefreshEnter x0 x1) := by
  intros
  unfold execSdramSelfRefreshEnter
  repeat' (with_reducible first
    | assumption
    | intro _
    | apply kept_selfRefreshEnter | apply keptR_ite | apply keptR_next | apply kept_ite
    | split)

theorem kept_selfRefreshExit {c : Keep} : ∀ x0 x1, Kept c x0 → Kept c (selfRefreshExit x0 x1) := by
  intros
  unfold selfRefreshExit
  repeat' (with_reducible first
    | assumption
    | intro _
    | (extract_lets +onlyGivenNames xl; first | (refine kept_cut (c := c) (s := xl) ?_ ?_ <;> [subst xl; (intro hx; clear_value xl)]) | (refine keptP_cut (c := c) (p := xl) ?_ ?_ <;> [subst xl; (intro hx; clear_value xl)]) | subst xl)
    | apply kept_setDram | apply kept_rateBegin | apply kept_put | apply kept_ite
    | split
    | apply kept_mk | apply queueOk_of | apply freshOk_of | apply freshOk_add | apply regsOk_of | apply mgcOk_of | apply fabOk_of | apply storeOk_of | apply cfgOk_of | apply dramsOk_of
    | exact dramOk_init | exact memOk_nil | apply dramOk_dramOf | apply memOk_of | apply memOk_ite | apply dramOk_mk)

theorem kept_execSdramSelfRefreshExit {c : Keep} : ∀ x0 x1, Kept c x1 → KeptR c (execSdramSelfRefreshExit x0 x1) := by
  intros
  unfold execSdramSelfRefreshExit
  repeat' (with_reducible first
    | assumption
    | intro _
    | apply kept_selfRefreshExit | apply keptR_ite | apply keptR_next | apply kept_ite
    | split)

end Sys2Proof.Machine
end

