-- ==== Sys2Proof/Laws/KeptTumbler.lean ====
section
/-! SUPPORT. What every operation of Machine/Tumbler.lean keeps (Laws/Kept.lean). -/
set_option linter.unusedTactic false
set_option linter.unreachableTactic false
namespace Sys2Proof.Machine
open Sys2Proof

theorem kept_State_setPins {c : Keep} : ∀ x0 x1, Kept c x0 → Kept c (State.setPins x0 x1) := by
  intros
  unfold State.setPins
  repeat' (with_reducible first
    | assumption
    | intro _
    | apply kept_ite
    | split
    | apply kept_mk | apply queueOk_of | apply freshOk_of | apply freshOk_add | apply regsOk_of | apply mgcOk_of | apply fabOk_of | apply storeOk_of | apply cfgOk_of | apply dramsOk_of)

theorem kept_setTmb {c : Keep} : ∀ x0 x1 x2, Kept c x0 → Kept c (setTmb x0 x1 x2) := by
  intros
  unfold setTmb
  repeat' (with_reducible first
    | assumption
    | intro _
    | apply kept_State_setPins | apply kept_ite
    | split
    | apply kept_mk | apply queueOk_of | apply freshOk_of | apply freshOk_add | apply regsOk_of | apply mgcOk_of | apply fabOk_of | apply storeOk_of | apply cfgOk_of | apply dramsOk_of)

theorem kept_tmbSetStep {c : Keep} : ∀ x0 x1 x2, Kept c x0 → Kept c (tmbSetStep x0 x1 x2) := by
  intros
  unfold tmbSetStep
  repeat' (with_reducible first
    | assumption
    | intro _
    | apply kept_put | apply kept_ite
    | split)

theorem kept_tmbCond {c : Keep} : ∀ x0 x1, Kept c x0 → Kept c (tmbCond x0 x1) := by
  intros
  unfold tmbCond
  repeat' (with_reducible first
    | assumption
    | intro _
    | apply kept_put | apply kept_ite
    | split)

theorem kept_tmbFire {c : Keep} : ∀ x0 x1, Kept c x0 → Kept c (tmbFire x0 x1) := by
  intros
  unfold tmbFire
  repeat' (with_reducible first
    | assumption
    | intro _
    | (extract_lets +onlyGivenNames xl; first | (refine kept_cut (c := c) (s := xl) ?_ ?_ <;> [subst xl; (intro hx; clear_value xl)]) | (refine keptP_cut (c := c) (p := xl) ?_ ?_ <;> [subst xl; (intro hx; clear_value xl)]) | subst xl)
    | apply kept_wakeEvent | apply kept_bump | apply kept_offerEvent | apply kept_setTmb | apply kept_logState | apply kept_raise | apply kept_ite
    | split
    | apply kept_mk | apply queueOk_of | apply freshOk_of | apply freshOk_add | apply regsOk_of | apply mgcOk_of | apply fabOk_of | apply storeOk_of | apply cfgOk_of | apply dramsOk_of)

theorem kept_tmbBegin {c : Keep} : ∀ x0 x1, Kept c x0 → Kept c (tmbBegin x0 x1) := by
  intros
  unfold tmbBegin
  repeat' (with_reducible first
    | assumption
    | intro _
    | (extract_lets +onlyGivenNames xl; first | (refine kept_cut (c := c) (s := xl) ?_ ?_ <;> [subst xl; (intro hx; clear_value xl)]) | (refine keptP_cut (c := c) (p := xl) ?_ ?_ <;> [subst xl; (intro hx; clear_value xl)]) | subst xl)
    | apply kept_setTmb | apply kept_tmbSetStep | apply kept_ite
    | split
    | apply kept_mk | apply queueOk_of | apply freshOk_of | apply freshOk_add | apply regsOk_of | apply mgcOk_of | apply fabOk_of | apply storeOk_of | apply cfgOk_of | apply dramsOk_of)

theorem kept_tmbAdvance {c : Keep} : ∀ x0 x1 x2, Kept c x1 → Kept c (tmbAdvance x0 x1 x2) := by
  intro x0
  induction x0 with
  | zero =>
    intros
    unfold tmbAdvance
    first | assumption | exact keptP_mk (by assumption)
  | succ n ih =>
    intros
    unfold tmbAdvance
    repeat' (with_reducible first
      | assumption
      | intro _
      | (extract_lets +onlyGivenNames xl; first | (refine kept_cut (c := c) (s := xl) ?_ ?_ <;> [subst xl; (intro hx; clear_value xl)]) | (refine keptP_cut (c := c) (p := xl) ?_ ?_ <;> [subst xl; (intro hx; clear_value xl)]) | subst xl)
      | apply ih | apply kept_tmbBegin | apply kept_tmbFire | apply kept_setTmb | apply kept_tmbSetStep | apply kept_ite
      | split
      | apply kept_mk | apply queueOk_of | apply freshOk_of | apply freshOk_add | apply regsOk_of | apply mgcOk_of | apply fabOk_of | apply storeOk_of | apply cfgOk_of | apply dramsOk_of)

theorem kept_tmbSample {c : Keep} : ∀ x0 x1, Kept c x0 → Kept c (tmbSample x0 x1) := by
  intros
  unfold tmbSample
  repeat' (with_reducible first
    | assumption
    | intro _
    | apply kept_tmbCond | apply kept_tmbAdvance | apply kept_ite
    | split)

theorem kept_tmbFilter {c : Keep} : ∀ x0 x1 x2 x3, Kept c x0 → Kept c (tmbFilter x0 x1 x2 x3) := by
  intros
  unfold tmbFilter
  repeat' (with_reducible first
    | assumption
    | intro _
    | (extract_lets +onlyGivenNames xl; first | (refine kept_cut (c := c) (s := xl) ?_ ?_ <;> [subst xl; (intro hx; clear_value xl)]) | (refine keptP_cut (c := c) (p := xl) ?_ ?_ <;> [subst xl; (intro hx; clear_value xl)]) | subst xl)
    | apply kept_setTmb | apply kept_tmbFire | apply kept_tmbAdvance | apply kept_tmbCond | apply kept_ite
    | split
    | apply kept_mk | apply queueOk_of | apply freshOk_of | apply freshOk_add | apply regsOk_of | apply mgcOk_of | apply fabOk_of | apply storeOk_of | apply cfgOk_of | apply dramsOk_of)

theorem kept_tmbFollow {c : Keep} : ∀ x0 x1, Kept c x0 → Kept c (tmbFollow x0 x1) := by
  intros
  unfold tmbFollow
  repeat' (with_reducible first
    | assumption
    | intro _
    | (rename _ = (_, _) => hq; first | (refine kept_fst_cut (c := c) hq ?_ ?_ <;> [clear hq; (clear hq; intro hr)]) | clear hq)
    | (extract_lets +onlyGivenNames xl; first | (refine kept_cut (c := c) (s := xl) ?_ ?_ <;> [subst xl; (intro hx; clear_value xl)]) | (refine keptP_cut (c := c) (p := xl) ?_ ?_ <;> [subst xl; (intro hx; clear_value xl)]) | subst xl)
    | apply kept_tmbFilter | apply kept_ite | apply keptP_ite | apply keptP_mk
    | apply kept_foldl | apply keptP_foldl
    | split)

theorem kept_tmbRestart {c : Keep} : ∀ x0 x1, Kept c x0 → Kept c (tmbRestart x0 x1) := by
  intros
  unfold tmbRestart
  repeat' (with_reducible first
    | assumption
    | intro _
    | (extract_lets +onlyGivenNames xl; first | (refine kept_cut (c := c) (s := xl) ?_ ?_ <;> [subst xl; (intro hx; clear_value xl)]) | (refine keptP_cut (c := c) (p := xl) ?_ ?_ <;> [subst xl; (intro hx; clear_value xl)]) | subst xl)
    | apply kept_put | apply kept_setTmb | apply kept_tmbSetStep | apply kept_tmbCond | apply kept_tmbFollow | apply kept_ite
    | split
    | apply kept_mk | apply queueOk_of | apply freshOk_of | apply freshOk_add | apply regsOk_of | apply mgcOk_of | apply fabOk_of | apply storeOk_of | apply cfgOk_of | apply dramsOk_of)

theorem kept_tmbBankChange {c : Keep} : ∀ x0 x1, Kept c x0 → Kept c (tmbBankChange x0 x1) := by
  intros
  unfold tmbBankChange
  repeat' (with_reducible first
    | assumption
    | intro _
    | (rename _ = (_, _) => hq; first | (refine kept_fst_cut (c := c) hq ?_ ?_ <;> [clear hq; (clear hq; intro hr)]) | clear hq)
    | (extract_lets +onlyGivenNames xl; first | (refine kept_cut (c := c) (s := xl) ?_ ?_ <;> [subst xl; (intro hx; clear_value xl)]) | (refine keptP_cut (c := c) (p := xl) ?_ ?_ <;> [subst xl; (intro hx; clear_value xl)]) | subst xl)
    | apply kept_tmbRestart | apply kept_ite | apply keptP_ite | apply keptP_mk
    | apply kept_foldl | apply keptP_foldl
    | split)

theorem kept_tmbRestartAll {c : Keep} : ∀ x0, Kept c x0 → Kept c (tmbRestartAll x0) := by
  intros
  unfold tmbRestartAll
  repeat' (with_reducible first
    | assumption
    | intro _
    | (rename _ = (_, _) => hq; first | (refine kept_fst_cut (c := c) hq ?_ ?_ <;> [clear hq; (clear hq; intro hr)]) | clear hq)
    | (extract_lets +onlyGivenNames xl; first | (refine kept_cut (c := c) (s := xl) ?_ ?_ <;> [subst xl; (intro hx; clear_value xl)]) | (refine keptP_cut (c := c) (p := xl) ?_ ?_ <;> [subst xl; (intro hx; clear_value xl)]) | subst xl)
    | apply kept_tmbRestart | apply kept_ite | apply keptP_ite | apply keptP_mk
    | apply kept_foldl | apply keptP_foldl
    | split)

theorem kept_tmbLevel {c : Keep} : ∀ x0 x1 x2 x3 x4, Kept c x0 → Kept c x1 → Kept c (tmbLevel x0 x1 x2 x3 x4) := by
  intros
  unfold tmbLevel
  repeat' (with_reducible first
    | assumption
    | intro _
    | (extract_lets +onlyGivenNames xl; first | (refine kept_cut (c := c) (s := xl) ?_ ?_ <;> [subst xl; (intro hx; clear_value xl)]) | (refine keptP_cut (c := c) (p := xl) ?_ ?_ <;> [subst xl; (intro hx; clear_value xl)]) | subst xl)
    | apply kept_setTmb | apply kept_tmbFollow | apply kept_ite
    | split
    | apply kept_mk | apply queueOk_of | apply freshOk_of | apply freshOk_add | apply regsOk_of | apply mgcOk_of | apply fabOk_of | apply storeOk_of | apply cfgOk_of | apply dramsOk_of)

theorem kept_filterExpiry {c : Keep} : ∀ x0 x1 x2, Kept c x0 → Kept c (filterExpiry x0 x1 x2) := by
  intros
  unfold filterExpiry
  repeat' (with_reducible first
    | assumption
    | intro _
    | apply kept_tmbFilter | apply kept_ite
    | split)

theorem kept_execTumblerFilterExpiry {c : Keep} : ∀ x0 x1 x2, Kept c x2 → KeptR c (execTumblerFilterExpiry x0 x1 x2) := by
  intros
  unfold execTumblerFilterExpiry
  repeat' (with_reducible first
    | assumption
    | intro _
    | apply kept_filterExpiry | apply keptR_ite | apply keptR_next | apply kept_ite
    | split)

theorem kept_tmbReturn {c : Keep} : ∀ x0 x1, Kept c x0 → Kept c (tmbReturn x0 x1) := by
  intros
  unfold tmbReturn
  repeat' (with_reducible first
    | assumption
    | intro _
    | apply kept_tmbCond | apply kept_tmbAdvance | apply kept_setTmb | apply kept_tmbSetStep | apply kept_ite
    | split
    | apply kept_mk | apply queueOk_of | apply freshOk_of | apply freshOk_add | apply regsOk_of | apply mgcOk_of | apply fabOk_of | apply storeOk_of | apply cfgOk_of | apply dramsOk_of)

theorem kept_windowTimeout {c : Keep} : ∀ x0 x1, Kept c x0 → Kept c (windowTimeout x0 x1) := by
  intros
  unfold windowTimeout
  repeat' (with_reducible first
    | assumption
    | intro _
    | apply kept_tmbReturn | apply kept_bump | apply kept_ite
    | split)

theorem kept_execTumblerWindowTimeout {c : Keep} : ∀ x0 x1, Kept c x1 → KeptR c (execTumblerWindowTimeout x0 x1) := by
  intros
  unfold execTumblerWindowTimeout
  repeat' (with_reducible first
    | assumption
    | intro _
    | apply kept_windowTimeout | apply keptR_ite | apply keptR_next | apply kept_ite
    | split)

theorem kept_strictReturn {c : Keep} : ∀ x0 x1, Kept c x0 → Kept c (strictReturn x0 x1) := by
  intros
  unfold strictReturn
  repeat' (with_reducible first
    | assumption
    | intro _
    | (extract_lets +onlyGivenNames xl; first | (refine kept_cut (c := c) (s := xl) ?_ ?_ <;> [subst xl; (intro hx; clear_value xl)]) | (refine keptP_cut (c := c) (p := xl) ?_ ?_ <;> [subst xl; (intro hx; clear_value xl)]) | subst xl)
    | apply kept_tmbReturn | apply kept_ite
    | split)

theorem kept_execTumblerStrictReturn {c : Keep} : ∀ x0 x1, Kept c x1 → KeptR c (execTumblerStrictReturn x0 x1) := by
  intros
  unfold execTumblerStrictReturn
  repeat' (with_reducible first
    | assumption
    | intro _
    | apply kept_strictReturn | apply keptR_ite | apply keptR_next | apply kept_ite
    | split)

theorem kept_tmbWrite {c : Keep} : ∀ x0 x1 x2 x3, Kept c x0 → Kept c (tmbWrite x0 x1 x2 x3) := by
  intros
  unfold tmbWrite
  repeat' (with_reducible first
    | assumption
    | intro _
    | (extract_lets +onlyGivenNames xl; first | (refine kept_cut (c := c) (s := xl) ?_ ?_ <;> [subst xl; (intro hx; clear_value xl)]) | (refine keptP_cut (c := c) (p := xl) ?_ ?_ <;> [subst xl; (intro hx; clear_value xl)]) | subst xl)
    | apply kept_tmbRestart | apply kept_setWord | apply kept_ite
    | split)

theorem kept_execTumblerConfigWrite {c : Keep} : ∀ x0 x1 x2 x3, Kept c x3 → KeptR c (execTumblerConfigWrite x0 x1 x2 x3) := by
  intros
  unfold execTumblerConfigWrite
  repeat' (with_reducible first
    | assumption
    | intro _
    | apply kept_tmbWrite | apply keptR_ite | apply keptR_next | apply kept_ite
    | split)

theorem kept_execTumblerStatClear {c : Keep} : ∀ x0 x1, Kept c x1 → KeptR c (execTumblerStatClear x0 x1) := by
  intros
  unfold execTumblerStatClear
  repeat' (with_reducible first
    | assumption
    | intro _
    | apply kept_put | apply keptR_ite | apply keptR_next | apply kept_ite
    | split)

end Sys2Proof.Machine
end

