-- ==== Sys2Proof/Laws/KeptPins.lean ====
section
/-! SUPPORT. What every operation of Machine/Pins.lean keeps (Laws/Kept.lean). -/
set_option linter.unusedTactic false
set_option linter.unreachableTactic false
namespace Sys2Proof.Machine
open Sys2Proof

theorem kept_setStg {c : Keep} : ∀ x0 x1 x2, Kept c x0 → Kept c (setStg x0 x1 x2) := by
  intros
  unfold setStg
  repeat' (with_reducible first
    | assumption
    | intro _
    | apply kept_put | apply kept_ite
    | split)

theorem kept_putForce {c : Keep} : ∀ x0 x1 x2 x3, Kept c x0 → Kept c (putForce x0 x1 x2 x3) := by
  intros
  unfold putForce
  repeat' (with_reducible first
    | assumption
    | intro _
    | apply kept_setStg | apply kept_State_setPins | apply kept_ite
    | split
    | apply kept_mk | apply queueOk_of | apply freshOk_of | apply freshOk_add | apply regsOk_of | apply mgcOk_of | apply fabOk_of | apply storeOk_of | apply cfgOk_of | apply dramsOk_of)

theorem kept_probeRefuse {c : Keep} : ∀ x0 x1, Kept c x0 → Kept c (probeRefuse x0 x1) := by
  intros
  unfold probeRefuse
  repeat' (with_reducible first
    | assumption
    | intro _
    | apply kept_put | apply kept_ite
    | split)

theorem kept_abandonSwitch {c : Keep} : ∀ x0 x1, Kept c x0 → Kept c (abandonSwitch x0 x1) := by
  intros
  unfold abandonSwitch
  repeat' (with_reducible first
    | assumption
    | intro _
    | (extract_lets +onlyGivenNames xl; first | (refine kept_cut (c := c) (s := xl) ?_ ?_ <;> [subst xl; (intro hx; clear_value xl)]) | (refine keptP_cut (c := c) (p := xl) ?_ ?_ <;> [subst xl; (intro hx; clear_value xl)]) | subst xl)
    | apply kept_State_setPins | apply kept_put | apply kept_ite
    | split
    | apply kept_mk | apply queueOk_of | apply freshOk_of | apply freshOk_add | apply regsOk_of | apply mgcOk_of | apply fabOk_of | apply storeOk_of | apply cfgOk_of | apply dramsOk_of)

theorem kept_bankHot {c : Keep} : ∀ x0 x1 x2, Kept c x0 → Kept c (bankHot x0 x1 x2) := by
  intros
  unfold bankHot
  repeat' (with_reducible first
    | assumption
    | intro _
    | (extract_lets +onlyGivenNames xl; first | (refine kept_cut (c := c) (s := xl) ?_ ?_ <;> [subst xl; (intro hx; clear_value xl)]) | (refine keptP_cut (c := c) (p := xl) ?_ ?_ <;> [subst xl; (intro hx; clear_value xl)]) | subst xl)
    | apply kept_setWord | apply kept_abandonSwitch | apply kept_put | apply kept_State_setPins | apply kept_tmbBankChange | apply kept_ite
    | split
    | apply kept_mk | apply queueOk_of | apply freshOk_of | apply freshOk_add | apply regsOk_of | apply mgcOk_of | apply fabOk_of | apply storeOk_of | apply cfgOk_of | apply dramsOk_of)

theorem kept_supplyChange {c : Keep} : ∀ x0 x1 x2, Kept c x0 → Kept c (supplyChange x0 x1 x2) := by
  intros
  unfold supplyChange
  repeat' (with_reducible first
    | assumption
    | intro _
    | (rename _ = (_, _) => hq; first | (refine kept_fst_cut (c := c) hq ?_ ?_ <;> [clear hq; (clear hq; intro hr)]) | clear hq)
    | (extract_lets +onlyGivenNames xl; first | (refine kept_cut (c := c) (s := xl) ?_ ?_ <;> [subst xl; (intro hx; clear_value xl)]) | (refine keptP_cut (c := c) (p := xl) ?_ ?_ <;> [subst xl; (intro hx; clear_value xl)]) | subst xl)
    | apply kept_State_setPins | apply kept_put | apply kept_probeRefuse | apply kept_bankHot | apply kept_ite | apply keptP_ite | apply keptP_mk
    | apply kept_foldl | apply keptP_foldl
    | split
    | apply kept_mk | apply queueOk_of | apply freshOk_of | apply freshOk_add | apply regsOk_of | apply mgcOk_of | apply fabOk_of | apply storeOk_of | apply cfgOk_of | apply dramsOk_of)

theorem kept_execBankSupplyChange {c : Keep} : ∀ x0 x1 x2, Kept c x2 → KeptR c (execBankSupplyChange x0 x1 x2) := by
  intros
  unfold execBankSupplyChange
  repeat' (with_reducible first
    | assumption
    | intro _
    | apply kept_supplyChange | apply keptR_ite | apply keptR_next | apply kept_ite
    | split)

theorem kept_wordInputs {c : Keep} : ∀ x0 x1, Kept c x0 → Kept c (wordInputs x0 x1) := by
  intros
  unfold wordInputs
  repeat' (with_reducible first
    | assumption
    | intro _
    | (rename _ = (_, _) => hq; first | (refine kept_fst_cut (c := c) hq ?_ ?_ <;> [clear hq; (clear hq; intro hr)]) | clear hq)
    | (extract_lets +onlyGivenNames xl; first | (refine kept_cut (c := c) (s := xl) ?_ ?_ <;> [subst xl; (intro hx; clear_value xl)]) | (refine keptP_cut (c := c) (p := xl) ?_ ?_ <;> [subst xl; (intro hx; clear_value xl)]) | subst xl)
    | apply kept_wordWrite | apply kept_ite | apply keptP_ite | apply keptP_mk
    | apply kept_foldl | apply keptP_foldl
    | split
    | apply kept_mk | apply queueOk_of | apply freshOk_of | apply freshOk_add | apply regsOk_of | apply mgcOk_of | apply fabOk_of | apply storeOk_of | apply cfgOk_of | apply dramsOk_of)

theorem kept_bankConfigured {c : Keep} : ∀ x0 x1, Kept c x0 → Kept c (bankConfigured x0 x1) := by
  intros
  unfold bankConfigured
  repeat' (with_reducible first
    | assumption
    | intro _
    | (extract_lets +onlyGivenNames xl; first | (refine kept_cut (c := c) (s := xl) ?_ ?_ <;> [subst xl; (intro hx; clear_value xl)]) | (refine keptP_cut (c := c) (p := xl) ?_ ?_ <;> [subst xl; (intro hx; clear_value xl)]) | subst xl)
    | apply kept_put | apply kept_wordInputs | apply kept_tmbBankChange | apply kept_setWord | apply kept_ite
    | split)

theorem kept_supplyAgreed {c : Keep} : ∀ x0 x1, Kept c x0 → Kept c (supplyAgreed x0 x1) := by
  intros
  unfold supplyAgreed
  repeat' (with_reducible first
    | assumption
    | intro _
    | apply kept_State_setPins | apply kept_ite
    | split
    | apply kept_mk | apply queueOk_of | apply freshOk_of | apply freshOk_add | apply regsOk_of | apply mgcOk_of | apply fabOk_of | apply storeOk_of | apply cfgOk_of | apply dramsOk_of)

theorem kept_execBankSupplyAgreed {c : Keep} : ∀ x0 x1, Kept c x1 → KeptR c (execBankSupplyAgreed x0 x1) := by
  intros
  unfold execBankSupplyAgreed
  repeat' (with_reducible first
    | assumption
    | intro _
    | apply kept_supplyAgreed | apply keptR_ite | apply keptR_next | apply kept_ite
    | split)

theorem kept_supplyLost {c : Keep} : ∀ x0 x1, Kept c x0 → Kept c (supplyLost x0 x1) := by
  intros
  unfold supplyLost
  repeat' (with_reducible first
    | assumption
    | intro _
    | apply kept_raise | apply kept_bankHot | apply kept_ite
    | split)

theorem kept_execBankSupplyLost {c : Keep} : ∀ x0 x1, Kept c x1 → KeptR c (execBankSupplyLost x0 x1) := by
  intros
  unfold execBankSupplyLost
  repeat' (with_reducible first
    | assumption
    | intro _
    | apply kept_supplyLost | apply keptR_ite | apply keptR_next | apply kept_ite
    | split)

theorem kept_queueWrite {c : Keep} : ∀ x0 x1 x2 x3 x4, Kept c x0 → Kept c (queueWrite x0 x1 x2 x3 x4) := by
  intros
  unfold queueWrite
  repeat' (with_reducible first
    | assumption
    | intro _
    | (extract_lets +onlyGivenNames xl; first | (refine kept_cut (c := c) (s := xl) ?_ ?_ <;> [subst xl; (intro hx; clear_value xl)]) | (refine keptP_cut (c := c) (p := xl) ?_ ?_ <;> [subst xl; (intro hx; clear_value xl)]) | subst xl)
    | apply kept_State_setPins | apply kept_ite
    | split
    | apply kept_mk | apply queueOk_of | apply freshOk_of | apply freshOk_add | apply regsOk_of | apply mgcOk_of | apply fabOk_of | apply storeOk_of | apply cfgOk_of | apply dramsOk_of)

theorem kept_execPinMaskedWrite {c : Keep} : ∀ x0 x1 x2 x3, Kept c x3 → KeptR c (execPinMaskedWrite x0 x1 x2 x3) := by
  intros
  unfold execPinMaskedWrite
  repeat' (with_reducible first
    | assumption
    | intro _
    | apply kept_queueWrite | apply keptR_ite | apply keptR_next | apply kept_ite
    | split)

theorem kept_execPinDoutWrite {c : Keep} : ∀ x0 x1 x2 x3, Kept c x3 → KeptR c (execPinDoutWrite x0 x1 x2 x3) := by
  intros
  unfold execPinDoutWrite
  repeat' (with_reducible first
    | assumption
    | intro _
    | apply kept_queueWrite | apply keptR_ite | apply keptR_next | apply kept_ite
    | split)

theorem kept_doutApply {c : Keep} : ∀ x0 x1, Kept c x0 → Kept c (doutApply x0 x1) := by
  intros
  unfold doutApply
  repeat' (with_reducible first
    | assumption
    | intro _
    | (rename _ = (_, _) => hq; first | (refine kept_fst_cut (c := c) hq ?_ ?_ <;> [clear hq; (clear hq; intro hr)]) | clear hq)
    | (extract_lets +onlyGivenNames xl; first | (refine kept_cut (c := c) (s := xl) ?_ ?_ <;> [subst xl; (intro hx; clear_value xl)]) | (refine keptP_cut (c := c) (p := xl) ?_ ?_ <;> [subst xl; (intro hx; clear_value xl)]) | subst xl)
    | apply kept_setWord | apply kept_State_setPins | apply kept_ite | apply keptP_ite | apply keptP_mk
    | apply kept_foldl | apply keptP_foldl
    | split
    | apply kept_mk | apply queueOk_of | apply freshOk_of | apply freshOk_add | apply regsOk_of | apply mgcOk_of | apply fabOk_of | apply storeOk_of | apply cfgOk_of | apply dramsOk_of)

theorem kept_execPinDoutApply {c : Keep} : ∀ x0 x1, Kept c x1 → KeptR c (execPinDoutApply x0 x1) := by
  intros
  unfold execPinDoutApply
  repeat' (with_reducible first
    | assumption
    | intro _
    | apply kept_doutApply | apply keptR_ite | apply keptR_next | apply kept_ite
    | split)

theorem kept_pinAction {c : Keep} : ∀ x0 x1 x2 x3, Kept c x0 → Kept c (pinAction x0 x1 x2 x3) := by
  intros
  unfold pinAction
  repeat' (with_reducible first
    | assumption
    | intro _
    | (extract_lets +onlyGivenNames xl; first | (refine kept_cut (c := c) (s := xl) ?_ ?_ <;> [subst xl; (intro hx; clear_value xl)]) | (refine keptP_cut (c := c) (p := xl) ?_ ?_ <;> [subst xl; (intro hx; clear_value xl)]) | subst xl)
    | apply kept_setWord | apply kept_State_setPins | apply kept_ite
    | split
    | apply kept_mk | apply queueOk_of | apply freshOk_of | apply freshOk_add | apply regsOk_of | apply mgcOk_of | apply fabOk_of | apply storeOk_of | apply cfgOk_of | apply dramsOk_of)

theorem kept_pinEvent {c : Keep} : ∀ x0 x1 x2 x3, Kept c x0 → Kept c (pinEvent x0 x1 x2 x3) := by
  intros
  unfold pinEvent
  repeat' (with_reducible first
    | assumption
    | intro _
    | apply kept_pinAction | apply kept_ite
    | split)

theorem kept_execPinPulseEnd {c : Keep} : ∀ x0 x1 x2, Kept c x2 → KeptR c (execPinPulseEnd x0 x1 x2) := by
  intros
  unfold execPinPulseEnd
  repeat' (with_reducible first
    | assumption
    | intro _
    | apply kept_State_setPins | apply keptR_ite | apply keptR_next | apply kept_ite
    | split
    | apply kept_mk | apply queueOk_of | apply freshOk_of | apply freshOk_add | apply regsOk_of | apply mgcOk_of | apply fabOk_of | apply storeOk_of | apply cfgOk_of | apply dramsOk_of)

theorem kept_cfgStage {c : Keep} : ∀ x0 x1 x2 x3, Kept c x0 → Kept c (cfgStage x0 x1 x2 x3) := by
  intros
  unfold cfgStage
  repeat' (with_reducible first
    | assumption
    | intro _
    | apply kept_setStg | apply kept_setWord | apply kept_ite
    | split)

theorem kept_execPinCfgStage {c : Keep} : ∀ x0 x1 x2 x3, Kept c x3 → KeptR c (execPinCfgStage x0 x1 x2 x3) := by
  intros
  unfold execPinCfgStage
  repeat' (with_reducible first
    | assumption
    | intro _
    | apply kept_cfgStage | apply keptR_ite | apply keptR_next | apply kept_ite
    | split)

theorem kept_leavePin {c : Keep} : ∀ x0 x1 x2, Kept c x0 → Kept c (leavePin x0 x1 x2) := by
  intros
  unfold leavePin
  repeat' (with_reducible first
    | assumption
    | intro _
    | (extract_lets +onlyGivenNames xl; first | (refine kept_cut (c := c) (s := xl) ?_ ?_ <;> [subst xl; (intro hx; clear_value xl)]) | (refine keptP_cut (c := c) (p := xl) ?_ ?_ <;> [subst xl; (intro hx; clear_value xl)]) | subst xl)
    | apply kept_State_setPins | apply kept_ite
    | split
    | apply kept_mk | apply queueOk_of | apply freshOk_of | apply freshOk_add | apply regsOk_of | apply mgcOk_of | apply fabOk_of | apply storeOk_of | apply cfgOk_of | apply dramsOk_of)

theorem kept_applyPin {c : Keep} : ∀ x0 x1 x2, Kept c x0 → Kept c (applyPin x0 x1 x2) := by
  intros
  unfold applyPin
  repeat' (with_reducible first
    | assumption
    | intro _
    | (extract_lets +onlyGivenNames xl; first | (refine kept_cut (c := c) (s := xl) ?_ ?_ <;> [subst xl; (intro hx; clear_value xl)]) | (refine keptP_cut (c := c) (p := xl) ?_ ?_ <;> [subst xl; (intro hx; clear_value xl)]) | subst xl)
    | apply kept_putForce | apply kept_putBit | apply kept_leavePin | apply kept_State_setPins | apply kept_probeRefuse | apply kept_ite
    | split
    | apply kept_mk | apply queueOk_of | apply freshOk_of | apply freshOk_add | apply regsOk_of | apply mgcOk_of | apply fabOk_of | apply storeOk_of | apply cfgOk_of | apply dramsOk_of)

theorem kept_applyGroup {c : Keep} : ∀ x0 x1 x2, Kept c x0 → Kept c (applyGroup x0 x1 x2) := by
  intros
  unfold applyGroup
  repeat' (with_reducible first
    | assumption
    | intro _
    | (rename _ = (_, _) => hq; first | (refine kept_fst_cut (c := c) hq ?_ ?_ <;> [clear hq; (clear hq; intro hr)]) | clear hq)
    | (extract_lets +onlyGivenNames xl; first | (refine kept_cut (c := c) (s := xl) ?_ ?_ <;> [subst xl; (intro hx; clear_value xl)]) | (refine keptP_cut (c := c) (p := xl) ?_ ?_ <;> [subst xl; (intro hx; clear_value xl)]) | subst xl)
    | apply kept_State_setPins | apply kept_setWord | apply kept_applyPin | apply kept_putBit | apply kept_raise | apply kept_put | apply kept_ite | apply keptP_ite | apply keptP_mk
    | apply kept_foldl | apply keptP_foldl
    | split
    | apply kept_mk | apply queueOk_of | apply freshOk_of | apply freshOk_add | apply regsOk_of | apply mgcOk_of | apply fabOk_of | apply storeOk_of | apply cfgOk_of | apply dramsOk_of)

theorem kept_execPinApply {c : Keep} : ∀ x0 x1 x2, Kept c x2 → KeptR c (execPinApply x0 x1 x2) := by
  intros
  unfold execPinApply
  repeat' (with_reducible first
    | assumption
    | intro _
    | apply kept_applyGroup | apply keptR_ite | apply keptR_next | apply kept_ite
    | split)

theorem kept_switchTake {c : Keep} : ∀ x0 x1, Kept c x0 → Kept c (switchTake x0 x1) := by
  intros
  unfold switchTake
  repeat' (with_reducible first
    | assumption
    | intro _
    | (rename _ = (_, _) => hq; first | (refine kept_fst_cut (c := c) hq ?_ ?_ <;> [clear hq; (clear hq; intro hr)]) | clear hq)
    | (extract_lets +onlyGivenNames xl; first | (refine kept_cut (c := c) (s := xl) ?_ ?_ <;> [subst xl; (intro hx; clear_value xl)]) | (refine keptP_cut (c := c) (p := xl) ?_ ?_ <;> [subst xl; (intro hx; clear_value xl)]) | subst xl)
    | apply kept_putForce | apply kept_State_setPins | apply kept_bankConfigured | apply kept_putBit | apply kept_wordInputs | apply kept_applyGroup | apply kept_ite | apply keptP_ite | apply keptP_mk
    | apply kept_foldl | apply keptP_foldl
    | split
    | apply kept_mk | apply queueOk_of | apply freshOk_of | apply freshOk_add | apply regsOk_of | apply mgcOk_of | apply fabOk_of | apply storeOk_of | apply cfgOk_of | apply dramsOk_of)

theorem kept_execPinSwitchTake {c : Keep} : ∀ x0 x1, Kept c x1 → KeptR c (execPinSwitchTake x0 x1) := by
  intros
  unfold execPinSwitchTake
  repeat' (with_reducible first
    | assumption
    | intro _
    | apply kept_switchTake | apply keptR_ite | apply keptR_next | apply kept_ite
    | split)

theorem kept_pinInput {c : Keep} : ∀ x0 x1 x2 x3, Kept c x0 → Kept c (pinInput x0 x1 x2 x3) := by
  intros
  unfold pinInput
  repeat' (with_reducible first
    | assumption
    | intro _
    | (extract_lets +onlyGivenNames xl; first | (refine kept_cut (c := c) (s := xl) ?_ ?_ <;> [subst xl; (intro hx; clear_value xl)]) | (refine keptP_cut (c := c) (p := xl) ?_ ?_ <;> [subst xl; (intro hx; clear_value xl)]) | subst xl)
    | apply kept_wordWrite | apply kept_offerEvent | apply kept_ite
    | split
    | apply kept_mk | apply queueOk_of | apply freshOk_of | apply freshOk_add | apply regsOk_of | apply mgcOk_of | apply fabOk_of | apply storeOk_of | apply cfgOk_of | apply dramsOk_of)

theorem kept_levelChange {c : Keep} : ∀ x0 x1 x2 x3, Kept c x0 → Kept c (levelChange x0 x1 x2 x3) := by
  intros
  unfold levelChange
  repeat' (with_reducible first
    | assumption
    | intro _
    | (rename _ = (_, _) => hq; first | (refine kept_fst_cut (c := c) hq ?_ ?_ <;> [clear hq; (clear hq; intro hr)]) | clear hq)
    | (extract_lets +onlyGivenNames xl; first | (refine kept_cut (c := c) (s := xl) ?_ ?_ <;> [subst xl; (intro hx; clear_value xl)]) | (refine keptP_cut (c := c) (p := xl) ?_ ?_ <;> [subst xl; (intro hx; clear_value xl)]) | subst xl)
    | apply kept_tookFree | apply kept_State_setPins | apply kept_setWord | apply kept_pinInput | apply kept_tmbLevel | apply kept_ite | apply keptP_ite | apply keptP_mk
    | apply kept_foldl | apply keptP_foldl
    | split
    | apply kept_mk | apply queueOk_of | apply freshOk_of | apply freshOk_add | apply regsOk_of | apply mgcOk_of | apply fabOk_of | apply storeOk_of | apply cfgOk_of | apply dramsOk_of)

theorem kept_execPinLevelChange {c : Keep} : ∀ x0 x1 x2 x3, Kept c x3 → KeptR c (execPinLevelChange x0 x1 x2 x3) := by
  intros
  unfold execPinLevelChange
  repeat' (with_reducible first
    | assumption
    | intro _
    | apply kept_levelChange | apply keptR_ite | apply keptR_next | apply kept_ite
    | split)

theorem kept_gpevEvent {c : Keep} : ∀ x0 x1, Kept c x0 → Kept c (gpevEvent x0 x1) := by
  intros
  unfold gpevEvent
  repeat' (with_reducible first
    | assumption
    | intro _
    | apply kept_State_setPins | apply kept_ite
    | split
    | apply kept_mk | apply queueOk_of | apply freshOk_of | apply freshOk_add | apply regsOk_of | apply mgcOk_of | apply fabOk_of | apply storeOk_of | apply cfgOk_of | apply dramsOk_of)

theorem kept_execGpevPulseEnd {c : Keep} : ∀ x0 x1 x2, Kept c x2 → KeptR c (execGpevPulseEnd x0 x1 x2) := by
  intros
  unfold execGpevPulseEnd
  repeat' (with_reducible first
    | assumption
    | intro _
    | apply kept_State_setPins | apply keptR_ite | apply keptR_next | apply kept_ite
    | split
    | apply kept_mk | apply queueOk_of | apply freshOk_of | apply freshOk_add | apply regsOk_of | apply mgcOk_of | apply fabOk_of | apply storeOk_of | apply cfgOk_of | apply dramsOk_of)

theorem kept_setPortOut {c : Keep} : ∀ x0 x1 x2, Kept c x0 → Kept c (setPortOut x0 x1 x2) := by
  intros
  unfold setPortOut
  repeat' (with_reducible first
    | assumption
    | intro _
    | apply kept_State_setPins | apply kept_ite
    | split
    | apply kept_mk | apply queueOk_of | apply freshOk_of | apply freshOk_add | apply regsOk_of | apply mgcOk_of | apply fabOk_of | apply storeOk_of | apply cfgOk_of | apply dramsOk_of)

theorem kept_portStrobe {c : Keep} : ∀ x0 x1, Kept c x0 → Kept c (portStrobe x0 x1) := by
  intros
  unfold portStrobe
  repeat' (with_reducible first
    | assumption
    | intro _
    | (rename _ = (_, _) => hq; first | (refine kept_fst_cut (c := c) hq ?_ ?_ <;> [clear hq; (clear hq; intro hr)]) | clear hq)
    | (extract_lets +onlyGivenNames xl; first | (refine kept_cut (c := c) (s := xl) ?_ ?_ <;> [subst xl; (intro hx; clear_value xl)]) | (refine keptP_cut (c := c) (p := xl) ?_ ?_ <;> [subst xl; (intro hx; clear_value xl)]) | subst xl)
    | (apply kept_fst; first | assumption | apply kept_fifoPush)
    | apply kept_fifoPush | apply kept_State_setPins | apply kept_bump | apply kept_raise | apply kept_ite | apply keptP_ite | apply keptP_mk
    | split
    | apply kept_mk | apply queueOk_of | apply freshOk_of | apply freshOk_add | apply regsOk_of | apply mgcOk_of | apply fabOk_of | apply storeOk_of | apply cfgOk_of | apply dramsOk_of)

theorem kept_execPortInputStrobe {c : Keep} : ∀ x0 x1, Kept c x1 → KeptR c (execPortInputStrobe x0 x1) := by
  intros
  unfold execPortInputStrobe
  repeat' (with_reducible first
    | assumption
    | intro _
    | apply kept_portStrobe | apply keptR_ite | apply keptR_next | apply kept_ite
    | split)

theorem kept_popData {c : Keep} : ∀ x0 x1 x2, Kept c x1 → KeptP c (popData x0 x1 x2) := by
  intro n
  induction n with
  | zero =>
    intro s f h
    exact h
  | succ n ih =>
    intro s f h
    have hp := kept_fifoPop s f h
    unfold popData
    revert hp
    rcases fifoPop s f with ⟨t, _ | e⟩ <;> intro hp
    · exact hp
    · dsimp only
      split
      · exact ih _ _ hp
      · exact hp

theorem kept_portEntry {c : Keep} : ∀ x0 x1, Kept c x0 → Kept c (portEntry x0 x1) := by
  intros
  unfold portEntry
  repeat' (with_reducible first
    | assumption
    | intro _
    | (rename _ = (_, _) => hq; first | (refine kept_fst_cut (c := c) hq ?_ ?_ <;> [clear hq; (clear hq; intro hr)]) | clear hq)
    | (apply kept_fst; first | assumption | apply kept_popData)
    | apply kept_setPortOut | apply kept_popData | apply kept_ite | apply keptP_ite | apply keptP_mk
    | split
    | apply kept_mk | apply queueOk_of | apply freshOk_of | apply freshOk_add | apply regsOk_of | apply mgcOk_of | apply fabOk_of | apply storeOk_of | apply cfgOk_of | apply dramsOk_of)

theorem kept_execPortOutputEntry {c : Keep} : ∀ x0 x1, Kept c x1 → KeptR c (execPortOutputEntry x0 x1) := by
  intros
  unfold execPortOutputEntry
  repeat' (with_reducible first
    | assumption
    | intro _
    | apply kept_portEntry | apply keptR_ite | apply keptR_next | apply kept_ite
    | split)

theorem kept_wakePin {c : Keep} : ∀ x0 x1 x2, Kept c x0 → Kept c (wakePin x0 x1 x2) := by
  intros
  unfold wakePin
  repeat' (with_reducible first
    | assumption
    | intro _
    | (extract_lets +onlyGivenNames xl; first | (refine kept_cut (c := c) (s := xl) ?_ ?_ <;> [subst xl; (intro hx; clear_value xl)]) | (refine keptP_cut (c := c) (p := xl) ?_ ?_ <;> [subst xl; (intro hx; clear_value xl)]) | subst xl)
    | apply kept_wakeEvent | apply kept_ite
    | split)

theorem kept_execWakePinEdge {c : Keep} : ∀ x0 x1 x2, Kept c x2 → KeptR c (execWakePinEdge x0 x1 x2) := by
  intros
  unfold execWakePinEdge
  repeat' (with_reducible first
    | assumption
    | intro _
    | apply kept_wakePin | apply keptR_ite | apply keptR_next | apply kept_ite
    | split)

theorem kept_probeWrite {c : Keep} : ∀ x0 x1 x2 x3, Kept c x0 → Kept c (probeWrite x0 x1 x2 x3) := by
  intros
  unfold probeWrite
  repeat' (with_reducible first
    | assumption
    | intro _
    | (extract_lets +onlyGivenNames xl; first | (refine kept_cut (c := c) (s := xl) ?_ ?_ <;> [subst xl; (intro hx; clear_value xl)]) | (refine keptP_cut (c := c) (p := xl) ?_ ?_ <;> [subst xl; (intro hx; clear_value xl)]) | subst xl)
    | apply kept_setWord | apply kept_put | apply kept_ite
    | split
    | apply kept_mk | apply queueOk_of | apply freshOk_of | apply freshOk_add | apply regsOk_of | apply mgcOk_of | apply fabOk_of | apply storeOk_of | apply cfgOk_of | apply dramsOk_of
    | apply fabOk_mk | apply framesOk_of)

theorem kept_execProbeEnable {c : Keep} : ∀ x0 x1 x2, Kept c x2 → KeptR c (execProbeEnable x0 x1 x2) := by
  intros
  unfold execProbeEnable
  repeat' (with_reducible first
    | assumption
    | intro _
    | apply kept_probeWrite | apply keptR_ite | apply keptR_next | apply kept_ite
    | split)

theorem kept_execProbeDisable {c : Keep} : ∀ x0 x1 x2, Kept c x2 → KeptR c (execProbeDisable x0 x1 x2) := by
  intros
  unfold execProbeDisable
  repeat' (with_reducible first
    | assumption
    | intro _
    | apply kept_probeWrite | apply keptR_ite | apply keptR_next | apply kept_ite
    | split)

theorem kept_execProbeSelWrite {c : Keep} : ∀ x0 x1 x2, Kept c x2 → KeptR c (execProbeSelWrite x0 x1 x2) := by
  intros
  unfold execProbeSelWrite
  repeat' (with_reducible first
    | assumption
    | intro _
    | apply kept_setWord | apply keptR_ite | apply keptR_next | apply kept_ite
    | split)

theorem kept_probesOff {c : Keep} : ∀ x0, Kept c x0 → Kept c (probesOff x0) := by
  intros
  unfold probesOff
  repeat' (with_reducible first
    | assumption
    | intro _
    | (rename _ = (_, _) => hq; first | (refine kept_fst_cut (c := c) hq ?_ ?_ <;> [clear hq; (clear hq; intro hr)]) | clear hq)
    | (extract_lets +onlyGivenNames xl; first | (refine kept_cut (c := c) (s := xl) ?_ ?_ <;> [subst xl; (intro hx; clear_value xl)]) | (refine keptP_cut (c := c) (p := xl) ?_ ?_ <;> [subst xl; (intro hx; clear_value xl)]) | subst xl)
    | apply kept_put | apply kept_ite | apply keptP_ite | apply keptP_mk
    | apply kept_foldl | apply keptP_foldl
    | split)

theorem kept_userClockWrite {c : Keep} : ∀ x0 x1 x2, Kept c x0 → Kept c (userClockWrite x0 x1 x2) := by
  intros
  unfold userClockWrite
  repeat' (with_reducible first
    | assumption
    | intro _
    | (extract_lets +onlyGivenNames xl; first | (refine kept_cut (c := c) (s := xl) ?_ ?_ <;> [subst xl; (intro hx; clear_value xl)]) | (refine keptP_cut (c := c) (p := xl) ?_ ?_ <;> [subst xl; (intro hx; clear_value xl)]) | subst xl)
    | apply kept_setGone | apply kept_updateSeals | apply kept_setWord | apply kept_ite
    | split)

theorem kept_execUserClockEnable {c : Keep} : ∀ x0 x1 x2, Kept c x2 → KeptR c (execUserClockEnable x0 x1 x2) := by
  intros
  unfold execUserClockEnable
  repeat' (with_reducible first
    | assumption
    | intro _
    | apply kept_userClockWrite | apply keptR_ite | apply keptR_next | apply kept_ite
    | split)

theorem kept_bankCommit {c : Keep} : ∀ x0 x1, Kept c x0 → Kept c (bankCommit x0 x1) := by
  intros
  unfold bankCommit
  repeat' (with_reducible first
    | assumption
    | intro _
    | (rename _ = (_, _) => hq; first | (refine kept_fst_cut (c := c) hq ?_ ?_ <;> [clear hq; (clear hq; intro hr)]) | clear hq)
    | (extract_lets +onlyGivenNames xl; first | (refine kept_cut (c := c) (s := xl) ?_ ?_ <;> [subst xl; (intro hx; clear_value xl)]) | (refine keptP_cut (c := c) (p := xl) ?_ ?_ <;> [subst xl; (intro hx; clear_value xl)]) | subst xl)
    | apply kept_abandonSwitch | apply kept_State_setPins | apply kept_putForce | apply kept_put | apply kept_bankConfigured | apply kept_raise | apply kept_ite | apply keptP_ite | apply keptP_mk
    | apply kept_foldl | apply keptP_foldl
    | split
    | apply kept_mk | apply queueOk_of | apply freshOk_of | apply freshOk_add | apply regsOk_of | apply mgcOk_of | apply fabOk_of | apply storeOk_of | apply cfgOk_of | apply dramsOk_of)

theorem kept_streamPins {c : Keep} : ∀ x0, Kept c x0 → Kept c (streamPins x0) := by
  intros
  unfold streamPins
  repeat' (with_reducible first
    | assumption
    | intro _
    | (rename _ = (_, _) => hq; first | (refine kept_fst_cut (c := c) hq ?_ ?_ <;> [clear hq; (clear hq; intro hr)]) | clear hq)
    | (extract_lets +onlyGivenNames xl; first | (refine kept_cut (c := c) (s := xl) ?_ ?_ <;> [subst xl; (intro hx; clear_value xl)]) | (refine keptP_cut (c := c) (p := xl) ?_ ?_ <;> [subst xl; (intro hx; clear_value xl)]) | subst xl)
    | apply kept_State_setPins | apply kept_ite | apply keptP_ite | apply keptP_mk
    | apply kept_foldl | apply keptP_foldl
    | split
    | apply kept_mk | apply queueOk_of | apply freshOk_of | apply freshOk_add | apply regsOk_of | apply mgcOk_of | apply fabOk_of | apply storeOk_of | apply cfgOk_of | apply dramsOk_of)

theorem kept_keepLevels {c : Keep} : ∀ x0, Kept c x0 → Kept c (keepLevels x0) := by
  intros
  unfold keepLevels
  repeat' (with_reducible first
    | assumption
    | intro _
    | (rename _ = (_, _) => hq; first | (refine kept_fst_cut (c := c) hq ?_ ?_ <;> [clear hq; (clear hq; intro hr)]) | clear hq)
    | (extract_lets +onlyGivenNames xl; first | (refine kept_cut (c := c) (s := xl) ?_ ?_ <;> [subst xl; (intro hx; clear_value xl)]) | (refine keptP_cut (c := c) (p := xl) ?_ ?_ <;> [subst xl; (intro hx; clear_value xl)]) | subst xl)
    | apply kept_State_setPins | apply kept_ite | apply keptP_ite | apply keptP_mk
    | apply kept_foldl | apply keptP_foldl
    | split
    | apply kept_mk | apply queueOk_of | apply freshOk_of | apply freshOk_add | apply regsOk_of | apply mgcOk_of | apply fabOk_of | apply storeOk_of | apply cfgOk_of | apply dramsOk_of)

theorem kept_restorePins {c : Keep} : ∀ x0, Kept c x0 → Kept c (restorePins x0) := by
  intros
  unfold restorePins
  repeat' (with_reducible first
    | assumption
    | intro _
    | (rename _ = (_, _) => hq; first | (refine kept_fst_cut (c := c) hq ?_ ?_ <;> [clear hq; (clear hq; intro hr)]) | clear hq)
    | (extract_lets +onlyGivenNames xl; first | (refine kept_cut (c := c) (s := xl) ?_ ?_ <;> [subst xl; (intro hx; clear_value xl)]) | (refine keptP_cut (c := c) (p := xl) ?_ ?_ <;> [subst xl; (intro hx; clear_value xl)]) | subst xl)
    | apply kept_cfgStage | apply kept_ite | apply keptP_ite | apply keptP_mk
    | apply kept_foldl | apply keptP_foldl
    | split)

theorem kept_pinsCommit {c : Keep} : ∀ x0, Kept c x0 → Kept c (pinsCommit x0) := by
  intros
  unfold pinsCommit
  repeat' (with_reducible first
    | assumption
    | intro _
    | (rename _ = (_, _) => hq; first | (refine kept_fst_cut (c := c) hq ?_ ?_ <;> [clear hq; (clear hq; intro hr)]) | clear hq)
    | (extract_lets +onlyGivenNames xl; first | (refine kept_cut (c := c) (s := xl) ?_ ?_ <;> [subst xl; (intro hx; clear_value xl)]) | (refine keptP_cut (c := c) (p := xl) ?_ ?_ <;> [subst xl; (intro hx; clear_value xl)]) | subst xl)
    | apply kept_tmbRestartAll | apply kept_bankCommit | apply kept_probesOff | apply kept_ite | apply keptP_ite | apply keptP_mk
    | apply kept_foldl | apply keptP_foldl
    | split)

theorem kept_pinsHot {c : Keep} : ∀ x0, Kept c x0 → Kept c (pinsHot x0) := by
  intros
  unfold pinsHot
  repeat' (with_reducible first
    | assumption
    | intro _
    | (rename _ = (_, _) => hq; first | (refine kept_fst_cut (c := c) hq ?_ ?_ <;> [clear hq; (clear hq; intro hr)]) | clear hq)
    | (extract_lets +onlyGivenNames xl; first | (refine kept_cut (c := c) (s := xl) ?_ ?_ <;> [subst xl; (intro hx; clear_value xl)]) | (refine keptP_cut (c := c) (p := xl) ?_ ?_ <;> [subst xl; (intro hx; clear_value xl)]) | subst xl)
    | apply kept_bankHot | apply kept_ite | apply keptP_ite | apply keptP_mk
    | apply kept_foldl | apply keptP_foldl
    | split)

end Sys2Proof.Machine
end

