-- ==== Sys2Proof/Laws/KeptReload.lean ====
section
/-! SUPPORT. What every operation of Machine/Reload.lean keeps (Laws/Kept.lean). -/
set_option linter.unusedTactic false
set_option linter.unreachableTactic false
namespace Sys2Proof.Machine
open Sys2Proof

theorem kept_reloadLast {c : Keep} : ∀ x0 x1 x2, Kept c x0 → Kept c (reloadLast x0 x1 x2) := by
  intros
  unfold reloadLast
  repeat' (with_reducible first
    | assumption
    | intro _
    | apply kept_setWord | apply kept_ite
    | split)

theorem kept_reloadAccept {c : Keep} : ∀ x0 x1, Kept c x0 → Kept c (reloadAccept x0 x1) := by
  intros
  unfold reloadAccept
  repeat' (with_reducible first
    | assumption
    | intro _
    | (extract_lets +onlyGivenNames xl; first | (refine kept_cut (c := c) (s := xl) ?_ ?_ <;> [subst xl; (intro hx; clear_value xl)]) | (refine keptP_cut (c := c) (p := xl) ?_ ?_ <;> [subst xl; (intro hx; clear_value xl)]) | subst xl)
    | apply kept_isoStat | apply kept_isolate | apply kept_isoByDevice | apply kept_putBit | apply kept_reloadLast | apply kept_ite
    | split
    | apply kept_mk | apply queueOk_of | apply freshOk_of | apply freshOk_add | apply regsOk_of | apply mgcOk_of | apply fabOk_of | apply storeOk_of | apply cfgOk_of | apply dramsOk_of)

theorem kept_reloadRequest {c : Keep} : ∀ x0 x1 x2 x3, Kept c x0 → Kept c (reloadRequest x0 x1 x2 x3) := by
  intros
  unfold reloadRequest
  repeat' (with_reducible first
    | assumption
    | intro _
    | (extract_lets +onlyGivenNames xl; first | (refine kept_cut (c := c) (s := xl) ?_ ?_ <;> [subst xl; (intro hx; clear_value xl)]) | (refine keptP_cut (c := c) (p := xl) ?_ ?_ <;> [subst xl; (intro hx; clear_value xl)]) | subst xl)
    | apply kept_putBit | apply kept_reloadAccept | apply kept_ite
    | split
    | apply kept_mk | apply queueOk_of | apply freshOk_of | apply freshOk_add | apply regsOk_of | apply mgcOk_of | apply fabOk_of | apply storeOk_of | apply cfgOk_of | apply dramsOk_of)

theorem kept_execHearthReloadRequest {c : Keep} : ∀ x0 x1 x2, Kept c x2 → KeptR c (execHearthReloadRequest x0 x1 x2) := by
  intros
  unfold execHearthReloadRequest
  repeat' (with_reducible first
    | assumption
    | intro _
    | apply kept_reloadRequest | apply keptR_ite | apply keptR_next | apply kept_ite
    | split)

theorem kept_reloadRetry {c : Keep} : ∀ x0 x1, Kept c x0 → Kept c (reloadRetry x0 x1) := by
  intros
  unfold reloadRetry
  repeat' (with_reducible first
    | assumption
    | intro _
    | apply kept_reloadRequest | apply kept_ite
    | split
    | apply kept_mk | apply queueOk_of | apply freshOk_of | apply freshOk_add | apply regsOk_of | apply mgcOk_of | apply fabOk_of | apply storeOk_of | apply cfgOk_of | apply dramsOk_of)

theorem kept_execHearthReloadRetry {c : Keep} : ∀ x0 x1, Kept c x1 → KeptR c (execHearthReloadRetry x0 x1) := by
  intros
  unfold execHearthReloadRetry
  repeat' (with_reducible first
    | assumption
    | intro _
    | apply kept_reloadRetry | apply keptR_ite | apply keptR_next | apply kept_ite
    | split)

theorem kept_clearHearth {c : Keep} : ∀ x0 x1, Kept c x0 → Kept c (clearHearth x0 x1) := by
  intros
  unfold clearHearth
  repeat' (with_reducible first
    | assumption
    | intro _
    | apply kept_checkRows | apply kept_ite
    | split
    | apply kept_mk | apply queueOk_of | apply freshOk_of | apply freshOk_add | apply regsOk_of | apply mgcOk_of | apply fabOk_of | apply storeOk_of | apply cfgOk_of | apply dramsOk_of
    | apply fabOk_mk | apply framesOk_of | apply framesOk_tput | apply framesOk_tdrop | exact framesOk_nil)

theorem kept_reloadEnd {c : Keep} : ∀ x0 x1 x2, Kept c x0 → Kept c (reloadEnd x0 x1 x2) := by
  intros
  unfold reloadEnd
  repeat' (with_reducible first
    | assumption
    | intro _
    | (extract_lets +onlyGivenNames xl; first | (refine kept_cut (c := c) (s := xl) ?_ ?_ <;> [subst xl; (intro hx; clear_value xl)]) | (refine keptP_cut (c := c) (p := xl) ?_ ?_ <;> [subst xl; (intro hx; clear_value xl)]) | subst xl)
    | apply kept_reloadLast | apply kept_ite
    | split
    | apply kept_mk | apply queueOk_of | apply freshOk_of | apply freshOk_add | apply regsOk_of | apply mgcOk_of | apply fabOk_of | apply storeOk_of | apply cfgOk_of | apply dramsOk_of)

theorem kept_reloadFail {c : Keep} : ∀ x0 x1 x2 x3, Kept c x0 → Kept c (reloadFail x0 x1 x2 x3) := by
  intros
  unfold reloadFail
  repeat' (with_reducible first
    | assumption
    | intro _
    | (extract_lets +onlyGivenNames xl; first | (refine kept_cut (c := c) (s := xl) ?_ ?_ <;> [subst xl; (intro hx; clear_value xl)]) | (refine keptP_cut (c := c) (p := xl) ?_ ?_ <;> [subst xl; (intro hx; clear_value xl)]) | subst xl)
    | apply kept_raise | apply kept_bump | apply kept_reloadEnd | apply kept_clearHearth | apply kept_putBit | apply kept_isoByDevice | apply kept_ite
    | apply kept_elim
    | split
    | apply kept_mk | apply queueOk_of | apply freshOk_of | apply freshOk_add | apply regsOk_of | apply mgcOk_of | apply fabOk_of | apply storeOk_of | apply cfgOk_of | apply dramsOk_of
    | apply cfgOk_mk | apply flashAOk_of | apply flashBOk_of)

theorem kept_reloadDone {c : Keep} : ∀ x0 x1, Kept c x0 → Kept c (reloadDone x0 x1) := by
  intros
  unfold reloadDone
  repeat' (with_reducible first
    | assumption
    | intro _
    | (extract_lets +onlyGivenNames xl; first | (refine kept_cut (c := c) (s := xl) ?_ ?_ <;> [subst xl; (intro hx; clear_value xl)]) | (refine keptP_cut (c := c) (p := xl) ?_ ?_ <;> [subst xl; (intro hx; clear_value xl)]) | subst xl)
    | apply kept_put | apply kept_reloadEnd | apply kept_bump | apply kept_putBit | apply kept_isoStat | apply kept_reinsert | apply kept_ite
    | split
    | apply kept_mk | apply queueOk_of | apply freshOk_of | apply freshOk_add | apply regsOk_of | apply mgcOk_of | apply fabOk_of | apply storeOk_of | apply cfgOk_of | apply dramsOk_of
    | apply cfgOk_mk | apply flashAOk_of | apply flashBOk_of)

theorem kept_reloadsDrop {c : Keep} : ∀ x0, Kept c x0 → Kept c (reloadsDrop x0) := by
  intros
  unfold reloadsDrop
  repeat' (with_reducible first
    | assumption
    | intro _
    | (extract_lets +onlyGivenNames xl; first | (refine kept_cut (c := c) (s := xl) ?_ ?_ <;> [subst xl; (intro hx; clear_value xl)]) | (refine keptP_cut (c := c) (p := xl) ?_ ?_ <;> [subst xl; (intro hx; clear_value xl)]) | subst xl)
    | apply kept_reloadLast | apply kept_put | apply kept_ite
    | split
    | apply kept_mk | apply queueOk_of | apply freshOk_of | apply freshOk_add | apply regsOk_of | apply mgcOk_of | apply fabOk_of | apply storeOk_of | apply cfgOk_of | apply dramsOk_of
    | apply cfgOk_mk | apply flashAOk_of | apply flashBOk_of)

theorem kept_afterHandover {c : Keep} : ∀ x0, Kept c x0 → Kept c (afterHandover x0) := by
  intros
  unfold afterHandover
  repeat' (with_reducible first
    | assumption
    | intro _
    | (rename _ = (_, _) => hq; first | (refine kept_fst_cut (c := c) hq ?_ ?_ <;> [clear hq; (clear hq; intro hr)]) | clear hq)
    | (extract_lets +onlyGivenNames xl; first | (refine kept_cut (c := c) (s := xl) ?_ ?_ <;> [subst xl; (intro hx; clear_value xl)]) | (refine keptP_cut (c := c) (p := xl) ?_ ?_ <;> [subst xl; (intro hx; clear_value xl)]) | subst xl)
    | apply kept_startUserReset | apply kept_reloadAccept | apply kept_ite | apply keptP_ite | apply keptP_mk
    | apply kept_foldl | apply keptP_foldl
    | split
    | apply kept_mk | apply queueOk_of | apply freshOk_of | apply freshOk_add | apply regsOk_of | apply mgcOk_of | apply fabOk_of | apply storeOk_of | apply cfgOk_of | apply dramsOk_of)

end Sys2Proof.Machine
end

