-- ==== Sys2Proof/Laws/KeptLoad.lean ====
section
/-! SUPPORT. What every operation of Machine/Load.lean keeps (Laws/Kept.lean). -/
set_option linter.unusedTactic false
set_option linter.unreachableTactic false
namespace Sys2Proof.Machine
open Sys2Proof

theorem kept_setFlash {c : Keep} : ∀ x0 x1 x2 x3, Kept c x0 → Kept c (setFlash x0 x1 x2 x3) := by
  intros
  unfold setFlash
  repeat' (with_reducible first
    | assumption
    | intro _
    | apply kept_ite
    | split
    | apply kept_mk | apply queueOk_of | apply freshOk_of | apply freshOk_add | apply regsOk_of | apply mgcOk_of | apply fabOk_of | apply storeOk_of | apply cfgOk_of | apply dramsOk_of
    | apply cfgOk_mk | apply flashAOk_of | apply flashBOk_of | apply flashOk_tput)

theorem kept_setReader {c : Keep} : ∀ x0 x1, Kept c x0 → Kept c (setReader x0 x1) := by
  intros
  unfold setReader
  repeat' (with_reducible first
    | assumption
    | intro _
    | apply kept_ite
    | split
    | apply kept_mk | apply queueOk_of | apply freshOk_of | apply freshOk_add | apply regsOk_of | apply mgcOk_of | apply fabOk_of | apply storeOk_of | apply cfgOk_of | apply dramsOk_of
    | apply cfgOk_mk | apply flashAOk_of | apply flashBOk_of)

theorem kept_clearMemory {c : Keep} : ∀ x0, Kept c x0 → Kept c (clearMemory x0) := by
  intros
  unfold clearMemory
  repeat' (with_reducible first
    | assumption
    | intro _
    | apply kept_ite
    | split
    | apply kept_mk | apply queueOk_of | apply freshOk_of | apply freshOk_add | apply regsOk_of | apply mgcOk_of | apply fabOk_of | apply storeOk_of | apply cfgOk_of | apply dramsOk_of
    | apply fabOk_mk | apply framesOk_of | apply framesOk_tput | apply framesOk_tdrop | exact framesOk_nil)

theorem kept_deviceFault {c : Keep} : ∀ x0, Kept c x0 → Kept c (deviceFault x0) := by
  intros
  unfold deviceFault
  repeat' (with_reducible first
    | assumption
    | intro _
    | (extract_lets +onlyGivenNames xl; first | (refine kept_cut (c := c) (s := xl) ?_ ?_ <;> [subst xl; (intro hx; clear_value xl)]) | (refine keptP_cut (c := c) (p := xl) ?_ ?_ <;> [subst xl; (intro hx; clear_value xl)]) | subst xl)
    | apply kept_clearMemory | apply kept_put | apply kept_setPhase | apply kept_raise | apply kept_ite
    | split
    | apply kept_mk | apply queueOk_of | apply freshOk_of | apply freshOk_add | apply regsOk_of | apply mgcOk_of | apply fabOk_of | apply storeOk_of | apply cfgOk_of | apply dramsOk_of
    | apply cfgOk_mk | apply flashAOk_of | apply flashBOk_of)

theorem kept_imageFail {c : Keep} : ∀ x0 x1 x2 x3, Kept c x0 → Kept c (imageFail x0 x1 x2 x3) := by
  intros
  unfold imageFail
  repeat' (with_reducible first
    | assumption
    | intro _
    | (extract_lets +onlyGivenNames xl; first | (refine kept_cut (c := c) (s := xl) ?_ ?_ <;> [subst xl; (intro hx; clear_value xl)]) | (refine keptP_cut (c := c) (p := xl) ?_ ?_ <;> [subst xl; (intro hx; clear_value xl)]) | subst xl)
    | apply kept_put | apply kept_setWord | apply kept_setReader | apply kept_deviceFault | apply kept_raise | apply kept_ite
    | split
    | apply kept_mk | apply queueOk_of | apply freshOk_of | apply freshOk_add | apply regsOk_of | apply mgcOk_of | apply fabOk_of | apply storeOk_of | apply cfgOk_of | apply dramsOk_of
    | apply cfgOk_mk | apply flashAOk_of | apply flashBOk_of)

theorem kept_readFail {c : Keep} : ∀ x0 x1 x2, Kept c x0 → Kept c (readFail x0 x1 x2) := by
  intros
  unfold readFail
  repeat' (with_reducible first
    | assumption
    | intro _
    | (extract_lets +onlyGivenNames xl; first | (refine kept_cut (c := c) (s := xl) ?_ ?_ <;> [subst xl; (intro hx; clear_value xl)]) | (refine keptP_cut (c := c) (p := xl) ?_ ?_ <;> [subst xl; (intro hx; clear_value xl)]) | subst xl)
    | apply kept_imageFail | apply kept_reloadFail | apply kept_setWord | apply kept_ite
    | split
    | apply kept_mk | apply queueOk_of | apply freshOk_of | apply freshOk_add | apply regsOk_of | apply mgcOk_of | apply fabOk_of | apply storeOk_of | apply cfgOk_of | apply dramsOk_of)

theorem kept_wardFail {c : Keep} : ∀ x0 x1 x2, Kept c x0 → Kept c (wardFail x0 x1 x2) := by
  intros
  unfold wardFail
  repeat' (with_reducible first
    | assumption
    | intro _
    | apply kept_readFail | apply kept_setWord | apply kept_ite
    | split)

theorem kept_loadStart {c : Keep} : ∀ x0 x1 x2, Kept c x0 → Kept c (loadStart x0 x1 x2) := by
  intros
  unfold loadStart
  repeat' (with_reducible first
    | assumption
    | intro _
    | (extract_lets +onlyGivenNames xl; first | (refine kept_cut (c := c) (s := xl) ?_ ?_ <;> [subst xl; (intro hx; clear_value xl)]) | (refine keptP_cut (c := c) (p := xl) ?_ ?_ <;> [subst xl; (intro hx; clear_value xl)]) | subst xl)
    | apply kept_put | apply kept_ite
    | split
    | apply kept_mk | apply queueOk_of | apply freshOk_of | apply freshOk_add | apply regsOk_of | apply mgcOk_of | apply fabOk_of | apply storeOk_of | apply cfgOk_of | apply dramsOk_of
    | apply cfgOk_mk | apply flashAOk_of | apply flashBOk_of)

theorem kept_discoveryDone {c : Keep} : ∀ x0 x1 x2, Kept c x0 → Kept c (discoveryDone x0 x1 x2) := by
  intros
  unfold discoveryDone
  repeat' (with_reducible first
    | assumption
    | intro _
    | (extract_lets +onlyGivenNames xl; first | (refine kept_cut (c := c) (s := xl) ?_ ?_ <;> [subst xl; (intro hx; clear_value xl)]) | (refine keptP_cut (c := c) (p := xl) ?_ ?_ <;> [subst xl; (intro hx; clear_value xl)]) | subst xl)
    | apply kept_imageFail | apply kept_raise | apply kept_put | apply kept_setPhase | apply kept_setReader | apply kept_ite
    | split
    | apply kept_mk | apply queueOk_of | apply freshOk_of | apply freshOk_add | apply regsOk_of | apply mgcOk_of | apply fabOk_of | apply storeOk_of | apply cfgOk_of | apply dramsOk_of
    | apply cfgOk_mk | apply flashAOk_of | apply flashBOk_of)

theorem kept_execDiscoveryDone {c : Keep} : ∀ x0 x1 x2, Kept c x2 → KeptR c (execDiscoveryDone x0 x1 x2) := by
  intros
  unfold execDiscoveryDone
  repeat' (with_reducible first
    | assumption
    | intro _
    | apply kept_discoveryDone | apply keptR_ite | apply keptR_next | apply kept_ite
    | split)

theorem kept_clearDone {c : Keep} : ∀ x0, Kept c x0 → Kept c (clearDone x0) := by
  intros
  unfold clearDone
  repeat' (with_reducible first
    | assumption
    | intro _
    | (extract_lets +onlyGivenNames xl; first | (refine kept_cut (c := c) (s := xl) ?_ ?_ <;> [subst xl; (intro hx; clear_value xl)]) | (refine keptP_cut (c := c) (p := xl) ?_ ?_ <;> [subst xl; (intro hx; clear_value xl)]) | subst xl)
    | apply kept_clearMemory | apply kept_put | apply kept_ite
    | split
    | apply kept_mk | apply queueOk_of | apply freshOk_of | apply freshOk_add | apply regsOk_of | apply mgcOk_of | apply fabOk_of | apply storeOk_of | apply cfgOk_of | apply dramsOk_of
    | apply cfgOk_mk | apply flashAOk_of | apply flashBOk_of)

theorem kept_execConfigClearDone {c : Keep} : ∀ x0, Kept c x0 → KeptR c (execConfigClearDone x0) := by
  intros
  unfold execConfigClearDone
  repeat' (with_reducible first
    | assumption
    | intro _
    | apply kept_clearDone | apply keptR_ite | apply keptR_next | apply kept_ite
    | split)

theorem kept_takeFrame {c : Keep} : ∀ x0 x1 x2 x3 x4, Kept c x0 → KeptP c (takeFrame x0 x1 x2 x3 x4) := by
  intros
  unfold takeFrame
  repeat' (with_reducible first
    | assumption
    | intro _
    | (extract_lets +onlyGivenNames xl; first | (refine kept_cut (c := c) (s := xl) ?_ ?_ <;> [subst xl; (intro hx; clear_value xl)]) | (refine keptP_cut (c := c) (p := xl) ?_ ?_ <;> [subst xl; (intro hx; clear_value xl)]) | subst xl)
    | apply kept_writeFrame | apply kept_ite | apply keptP_ite | apply keptP_mk
    | split)

theorem kept_takeRows {c : Keep} : ∀ x0 x1 x2 x3 x4, Kept c x0 → Kept c (takeRows x0 x1 x2 x3 x4) := by
  intros
  unfold takeRows
  repeat' (with_reducible first
    | assumption
    | intro _
    | (extract_lets +onlyGivenNames xl; first | (refine kept_cut (c := c) (s := xl) ?_ ?_ <;> [subst xl; (intro hx; clear_value xl)]) | (refine keptP_cut (c := c) (p := xl) ?_ ?_ <;> [subst xl; (intro hx; clear_value xl)]) | subst xl)
    | apply kept_setRow | apply kept_ite
    | split)

theorem kept_takeMap {c : Keep} : ∀ x0 x1 x2 x3, Kept c x0 → Kept c (takeMap x0 x1 x2 x3) := by
  intros
  unfold takeMap
  repeat' (with_reducible first
    | assumption
    | intro _
    | (extract_lets +onlyGivenNames xl; first | (refine kept_cut (c := c) (s := xl) ?_ ?_ <;> [subst xl; (intro hx; clear_value xl)]) | (refine keptP_cut (c := c) (p := xl) ?_ ?_ <;> [subst xl; (intro hx; clear_value xl)]) | subst xl)
    | apply kept_ite
    | split
    | apply kept_mk | apply queueOk_of | apply freshOk_of | apply freshOk_add | apply regsOk_of | apply mgcOk_of | apply fabOk_of | apply storeOk_of | apply cfgOk_of | apply dramsOk_of)

theorem kept_takeRecord {c : Keep} : ∀ x0 x1 x2 x3 x4, Kept c x0 → KeptP c (takeRecord x0 x1 x2 x3 x4) := by
  intro s r x off l h
  unfold takeRecord
  split
  · exact kept_takeFrame _ _ _ _ _ h
  · exact kept_takeRows _ _ _ _ _ h
  · exact kept_takeMap _ _ _ _ h
  · exact h
  · exact h

theorem kept_withPairs {c : Keep} : ∀ x0 x1 x2, Kept c x0 → Kept c (withPairs x0 x1 x2) := by
  intros
  unfold withPairs
  repeat' (with_reducible first
    | assumption
    | intro _
    | (rename _ = (_, _) => hq; first | (refine kept_fst_cut (c := c) hq ?_ ?_ <;> [clear hq; (clear hq; intro hr)]) | clear hq)
    | (extract_lets +onlyGivenNames xl; first | (refine kept_cut (c := c) (s := xl) ?_ ?_ <;> [subst xl; (intro hx; clear_value xl)]) | (refine keptP_cut (c := c) (p := xl) ?_ ?_ <;> [subst xl; (intro hx; clear_value xl)]) | subst xl)
    | apply kept_setStream | apply kept_ite | apply keptP_ite | apply keptP_mk
    | apply kept_foldl | apply keptP_foldl
    | split)

theorem kept_dramOff {c : Keep} : ∀ x0 x1 x2, Kept c x0 → Kept c (dramOff x0 x1 x2) := by
  intros
  unfold dramOff
  repeat' (with_reducible first
    | assumption
    | intro _
    | (extract_lets +onlyGivenNames xl; first | (refine kept_cut (c := c) (s := xl) ?_ ?_ <;> [subst xl; (intro hx; clear_value xl)]) | (refine keptP_cut (c := c) (p := xl) ?_ ?_ <;> [subst xl; (intro hx; clear_value xl)]) | subst xl)
    | apply kept_setDram | apply kept_put | apply kept_updateSeals | apply kept_dramLevels | apply kept_setDramState | apply kept_ite
    | split
    | apply kept_mk | apply queueOk_of | apply freshOk_of | apply freshOk_add | apply regsOk_of | apply mgcOk_of | apply fabOk_of | apply storeOk_of | apply cfgOk_of | apply dramsOk_of
    | exact dramOk_init | exact memOk_nil | apply dramOk_dramOf | apply memOk_of | apply memOk_ite | apply dramOk_mk)

theorem kept_earlyChannel {c : Keep} : ∀ x0 x1 x2, Kept c x0 → KeptP c (earlyChannel x0 x1 x2) := by
  intros
  unfold earlyChannel
  repeat' (with_reducible first
    | assumption
    | intro _
    | (extract_lets +onlyGivenNames xl; first | (refine kept_cut (c := c) (s := xl) ?_ ?_ <;> [subst xl; (intro hx; clear_value xl)]) | (refine keptP_cut (c := c) (p := xl) ?_ ?_ <;> [subst xl; (intro hx; clear_value xl)]) | subst xl)
    | apply kept_withPairs | apply kept_dramOff | apply kept_dramStart | apply kept_ite | apply keptP_ite | apply keptP_mk
    | split
    | apply kept_mk | apply queueOk_of | apply freshOk_of | apply freshOk_add | apply regsOk_of | apply mgcOk_of | apply fabOk_of | apply storeOk_of | apply cfgOk_of | apply dramsOk_of)

theorem kept_earlyFields {c : Keep} : ∀ x0 x1, Kept c x0 → KeptP c (earlyFields x0 x1) := by
  intros
  unfold earlyFields
  repeat' (with_reducible first
    | assumption
    | intro _
    | (rename _ = (_, _) => hq; first | (refine kept_fst_cut (c := c) hq ?_ ?_ <;> [clear hq; (clear hq; intro hr)]) | clear hq)
    | (extract_lets +onlyGivenNames xl; first | (refine kept_cut (c := c) (s := xl) ?_ ?_ <;> [subst xl; (intro hx; clear_value xl)]) | (refine keptP_cut (c := c) (p := xl) ?_ ?_ <;> [subst xl; (intro hx; clear_value xl)]) | subst xl)
    | (apply kept_fst; first | assumption | apply kept_earlyChannel)
    | apply kept_earlyChannel | apply kept_ite | apply keptP_ite | apply keptP_mk
    | split
    | apply kept_mk | apply queueOk_of | apply freshOk_of | apply freshOk_add | apply regsOk_of | apply mgcOk_of | apply fabOk_of | apply storeOk_of | apply cfgOk_of | apply dramsOk_of)

theorem kept_takeSections {c : Keep} : ∀ x0 x1 x2, Kept c x1 → KeptP c (takeSections x0 x1 x2) := by
  intro x0
  induction x0 with
  | zero =>
    intros
    unfold takeSections
    first | assumption | exact keptP_mk (by assumption)
  | succ n ih =>
    intros
    unfold takeSections
    repeat' (with_reducible first
      | assumption
      | (apply kept_fst; first | assumption | apply kept_takeRecord | apply kept_earlyFields | apply ih)
      | (rename _ = (_, _) => hq; first | (refine kept_fst_cut (c := c) hq ?_ ?_ <;> [clear hq; (clear hq; intro hr)]) | clear hq)
      | (extract_lets +onlyGivenNames xl; first | (refine kept_cut (c := c) (s := xl) ?_ ?_ <;> [subst xl; (intro hx; clear_value xl)]) | (refine keptP_cut (c := c) (p := xl) ?_ ?_ <;> [subst xl; (intro hx; clear_value xl)]) | subst xl)
      | apply ih | apply kept_takeRecord | apply kept_earlyFields | apply keptP_ite | apply kept_ite | apply keptP_mk
      | split
      | apply kept_mk | apply queueOk_of | apply freshOk_of | apply regsOk_of | apply mgcOk_of | apply fabOk_of | apply storeOk_of | apply cfgOk_of | apply dramsOk_of | apply cfgOk_mk | apply flashAOk_of | apply flashBOk_of)

theorem kept_keyLatch {c : Keep} : ∀ x0, Kept c x0 → Kept c (keyLatch x0) := by
  intros
  unfold keyLatch
  repeat' (with_reducible first
    | assumption
    | intro _
    | (extract_lets +onlyGivenNames xl; first | (refine kept_cut (c := c) (s := xl) ?_ ?_ <;> [subst xl; (intro hx; clear_value xl)]) | (refine keptP_cut (c := c) (p := xl) ?_ ?_ <;> [subst xl; (intro hx; clear_value xl)]) | subst xl)
    | apply kept_put | apply kept_ite
    | split
    | apply kept_mk | apply queueOk_of | apply freshOk_of | apply freshOk_add | apply regsOk_of | apply mgcOk_of | apply fabOk_of | apply storeOk_of | apply cfgOk_of | apply dramsOk_of
    | apply cfgOk_mk | apply flashAOk_of | apply flashBOk_of)

theorem kept_headerCause {c : Keep} : ∀ x0 x1 x2, Kept c x0 → KeptP c (headerCause x0 x1 x2) := by
  intros
  unfold headerCause
  repeat' (with_reducible first
    | assumption
    | intro _
    | (extract_lets +onlyGivenNames xl; first | (refine kept_cut (c := c) (s := xl) ?_ ?_ <;> [subst xl; (intro hx; clear_value xl)]) | (refine keptP_cut (c := c) (p := xl) ?_ ?_ <;> [subst xl; (intro hx; clear_value xl)]) | subst xl)
    | apply kept_setWord | apply kept_raise | apply kept_keyLatch | apply kept_put | apply kept_ite | apply keptP_ite | apply keptP_mk
    | split)

theorem kept_hearthHeader {c : Keep} : ∀ x0 x1 x2, Kept c x0 → KeptP c (hearthHeader x0 x1 x2) := by
  intros
  unfold hearthHeader
  repeat' (with_reducible first
    | assumption
    | intro _
    | (extract_lets +onlyGivenNames xl; first | (refine kept_cut (c := c) (s := xl) ?_ ?_ <;> [subst xl; (intro hx; clear_value xl)]) | (refine keptP_cut (c := c) (p := xl) ?_ ?_ <;> [subst xl; (intro hx; clear_value xl)]) | subst xl)
    | apply kept_setWord | apply kept_ite | apply keptP_ite | apply keptP_mk
    | split)

theorem kept_chunkTaken {c : Keep} : ∀ x0 x1 x2, Kept c x0 → Kept c (chunkTaken x0 x1 x2) := by
  intros
  unfold chunkTaken
  repeat' (with_reducible first
    | assumption
    | intro _
    | (rename _ = (_, _) => hq; first | (refine kept_fst_cut (c := c) hq ?_ ?_ <;> [clear hq; (clear hq; intro hr)]) | clear hq)
    | (extract_lets +onlyGivenNames xl; first | (refine kept_cut (c := c) (s := xl) ?_ ?_ <;> [subst xl; (intro hx; clear_value xl)]) | (refine keptP_cut (c := c) (p := xl) ?_ ?_ <;> [subst xl; (intro hx; clear_value xl)]) | subst xl)
    | (apply kept_fst; first | assumption | apply kept_headerCause | apply kept_hearthHeader | apply kept_takeSections)
    | apply kept_headerCause | apply kept_hearthHeader | apply kept_readFail | apply kept_takeSections | apply kept_setReader | apply kept_put | apply kept_ite | apply keptP_ite | apply keptP_mk
    | split
    | apply kept_mk | apply queueOk_of | apply freshOk_of | apply freshOk_add | apply regsOk_of | apply mgcOk_of | apply fabOk_of | apply storeOk_of | apply cfgOk_of | apply dramsOk_of)

theorem kept_chunkFailed {c : Keep} : ∀ x0 x1 x2, Kept c x0 → Kept c (chunkFailed x0 x1 x2) := by
  intros
  unfold chunkFailed
  repeat' (with_reducible first
    | assumption
    | intro _
    | apply kept_setReader | apply kept_bump | apply kept_readFail | apply kept_put | apply kept_ite
    | split
    | apply kept_mk | apply queueOk_of | apply freshOk_of | apply freshOk_add | apply regsOk_of | apply mgcOk_of | apply fabOk_of | apply storeOk_of | apply cfgOk_of | apply dramsOk_of)

theorem kept_chunkRead {c : Keep} : ∀ x0 x1, Kept c x0 → Kept c (chunkRead x0 x1) := by
  intros
  unfold chunkRead
  repeat' (with_reducible first
    | assumption
    | intro _
    | (extract_lets +onlyGivenNames xl; first | (refine kept_cut (c := c) (s := xl) ?_ ?_ <;> [subst xl; (intro hx; clear_value xl)]) | (refine keptP_cut (c := c) (p := xl) ?_ ?_ <;> [subst xl; (intro hx; clear_value xl)]) | subst xl)
    | apply kept_chunkFailed | apply kept_chunkTaken | apply kept_ite
    | split
    | apply kept_mk | apply queueOk_of | apply freshOk_of | apply freshOk_add | apply regsOk_of | apply mgcOk_of | apply fabOk_of | apply storeOk_of | apply cfgOk_of | apply dramsOk_of)

theorem kept_hearthStreamRead {c : Keep} : ∀ x0, Kept c x0 → Kept c (hearthStreamRead x0) := by
  intros
  unfold hearthStreamRead
  repeat' (with_reducible first
    | assumption
    | intro _
    | (extract_lets +onlyGivenNames xl; first | (refine kept_cut (c := c) (s := xl) ?_ ?_ <;> [subst xl; (intro hx; clear_value xl)]) | (refine keptP_cut (c := c) (p := xl) ?_ ?_ <;> [subst xl; (intro hx; clear_value xl)]) | subst xl)
    | apply kept_readFail | apply kept_setReader | apply kept_ite
    | split
    | apply kept_mk | apply queueOk_of | apply freshOk_of | apply freshOk_add | apply regsOk_of | apply mgcOk_of | apply fabOk_of | apply storeOk_of | apply cfgOk_of | apply dramsOk_of)

theorem kept_execHearthStreamRead {c : Keep} : ∀ x0, Kept c x0 → KeptR c (execHearthStreamRead x0) := by
  intros
  unfold execHearthStreamRead
  repeat' (with_reducible first
    | assumption
    | intro _
    | apply kept_hearthStreamRead | apply keptR_ite | apply keptR_next | apply kept_ite
    | split)

theorem kept_hearthCheckDone {c : Keep} : ∀ x0, Kept c x0 → Kept c (hearthCheckDone x0) := by
  intros
  unfold hearthCheckDone
  repeat' (with_reducible first
    | assumption
    | intro _
    | apply kept_readFail | apply kept_wardFail | apply kept_reloadDone | apply kept_ite
    | split
    | apply kept_mk | apply queueOk_of | apply freshOk_of | apply freshOk_add | apply regsOk_of | apply mgcOk_of | apply fabOk_of | apply storeOk_of | apply cfgOk_of | apply dramsOk_of)

end Sys2Proof.Machine
end

