-- ==== Sys2Proof/Laws/KeptCommit.lean ====
section
/-! SUPPORT. What every operation of Machine/Commit.lean keeps (Laws/Kept.lean). -/
set_option linter.unusedTactic false
set_option linter.unreachableTactic false
namespace Sys2Proof.Machine
open Sys2Proof

theorem kept_sliceAbandon {c : Keep} : ∀ x0, Kept c x0 → Kept c (sliceAbandon x0) := by
  intros
  unfold sliceAbandon
  repeat' (with_reducible first
    | assumption
    | intro _
    | (extract_lets +onlyGivenNames xl; first | (refine kept_cut (c := c) (s := xl) ?_ ?_ <;> [subst xl; (intro hx; clear_value xl)]) | (refine keptP_cut (c := c) (p := xl) ?_ ?_ <;> [subst xl; (intro hx; clear_value xl)]) | subst xl)
    | apply kept_columnResume | apply kept_portsReleased | apply kept_sliceEnd | apply kept_blockAbandon | apply kept_pllUpdate | apply kept_ite
    | split
    | apply kept_mk | apply queueOk_of | apply freshOk_of | apply freshOk_add | apply regsOk_of | apply mgcOk_of | apply fabOk_of | apply storeOk_of | apply cfgOk_of | apply dramsOk_of
    | apply fabOk_mk | apply framesOk_of)

theorem kept_dropFabric {c : Keep} : ∀ x0, Kept c x0 → Kept c (dropFabric x0) := by
  intros
  unfold dropFabric
  repeat' (with_reducible first
    | assumption
    | intro _
    | (extract_lets +onlyGivenNames xl; first | (refine kept_cut (c := c) (s := xl) ?_ ?_ <;> [subst xl; (intro hx; clear_value xl)]) | (refine keptP_cut (c := c) (p := xl) ?_ ?_ <;> [subst xl; (intro hx; clear_value xl)]) | subst xl)
    | apply kept_removeShown | apply kept_updateSeals | apply kept_ite
    | split
    | apply kept_mk | apply queueOk_of | apply freshOk_of | apply freshOk_add | apply regsOk_of | apply mgcOk_of | apply fabOk_of | apply storeOk_of | apply cfgOk_of | apply dramsOk_of
    | apply fabOk_mk | apply framesOk_of
    | apply storeOk_mk | apply contentOk_of)

theorem kept_laneOff {c : Keep} : ∀ x0 x1, Kept c x0 → Kept c (laneOff x0 x1) := by
  intros
  unfold laneOff
  repeat' (with_reducible first
    | assumption
    | intro _
    | (extract_lets +onlyGivenNames xl; first | (refine kept_cut (c := c) (s := xl) ?_ ?_ <;> [subst xl; (intro hx; clear_value xl)]) | (refine keptP_cut (c := c) (p := xl) ?_ ?_ <;> [subst xl; (intro hx; clear_value xl)]) | subst xl)
    | apply kept_linkOff | apply kept_put | apply kept_pllUpdate | apply kept_ite
    | split)

theorem kept_stopLinks {c : Keep} : ∀ x0, Kept c x0 → Kept c (stopLinks x0) := by
  intros
  unfold stopLinks
  repeat' (with_reducible first
    | assumption
    | intro _
    | (rename _ = (_, _) => hq; first | (refine kept_fst_cut (c := c) hq ?_ ?_ <;> [clear hq; (clear hq; intro hr)]) | clear hq)
    | (extract_lets +onlyGivenNames xl; first | (refine kept_cut (c := c) (s := xl) ?_ ?_ <;> [subst xl; (intro hx; clear_value xl)]) | (refine keptP_cut (c := c) (p := xl) ?_ ?_ <;> [subst xl; (intro hx; clear_value xl)]) | subst xl)
    | apply kept_kwrOff | apply kept_put | apply kept_laneOff | apply kept_ite | apply keptP_ite | apply keptP_mk
    | apply kept_foldl | apply keptP_foldl
    | split)

theorem kept_stopScrub {c : Keep} : ∀ x0, Kept c x0 → Kept c (stopScrub x0) := by
  intros
  unfold stopScrub
  repeat' (with_reducible first
    | assumption
    | intro _
    | (extract_lets +onlyGivenNames xl; first | (refine kept_cut (c := c) (s := xl) ?_ ?_ <;> [subst xl; (intro hx; clear_value xl)]) | (refine keptP_cut (c := c) (p := xl) ?_ ?_ <;> [subst xl; (intro hx; clear_value xl)]) | subst xl)
    | apply kept_sliceAbandon | apply kept_put | apply kept_ite
    | split
    | apply kept_mk | apply queueOk_of | apply freshOk_of | apply freshOk_add | apply regsOk_of | apply mgcOk_of | apply fabOk_of | apply storeOk_of | apply cfgOk_of | apply dramsOk_of)

theorem kept_stopDesign {c : Keep} : ∀ x0, Kept c x0 → Kept c (stopDesign x0) := by
  intros
  unfold stopDesign
  repeat' (with_reducible first
    | assumption
    | intro _
    | (extract_lets +onlyGivenNames xl; first | (refine kept_cut (c := c) (s := xl) ?_ ?_ <;> [subst xl; (intro hx; clear_value xl)]) | (refine keptP_cut (c := c) (p := xl) ?_ ?_ <;> [subst xl; (intro hx; clear_value xl)]) | subst xl)
    | apply kept_reloadsDrop | apply kept_stopScrub | apply kept_wakeSlot | apply kept_dropFabric | apply kept_pinsHot | apply kept_probesOff | apply kept_zeroLevels | apply kept_stopLinks | apply kept_ite
    | split
    | apply kept_mk | apply queueOk_of | apply freshOk_of | apply freshOk_add | apply regsOk_of | apply mgcOk_of | apply fabOk_of | apply storeOk_of | apply cfgOk_of | apply dramsOk_of
    | apply cfgOk_mk | apply flashAOk_of | apply flashBOk_of)

theorem kept_closeHasps {c : Keep} : ∀ x0, Kept c x0 → Kept c (closeHasps x0) := by
  intros
  unfold closeHasps
  repeat' (with_reducible first
    | assumption
    | intro _
    | apply kept_put | apply kept_ite
    | split)

theorem kept_warmRecommit {c : Keep} : ∀ x0, Kept c x0 → Kept c (warmRecommit x0) := by
  intros
  unfold warmRecommit
  repeat' (with_reducible first
    | assumption
    | intro _
    | (extract_lets +onlyGivenNames xl; first | (refine kept_cut (c := c) (s := xl) ?_ ?_ <;> [subst xl; (intro hx; clear_value xl)]) | (refine keptP_cut (c := c) (p := xl) ?_ ?_ <;> [subst xl; (intro hx; clear_value xl)]) | subst xl)
    | apply kept_put | apply kept_closeHasps | apply kept_stopDesign | apply kept_loadStart | apply kept_ite
    | split
    | apply kept_mk | apply queueOk_of | apply freshOk_of | apply freshOk_add | apply regsOk_of | apply mgcOk_of | apply fabOk_of | apply storeOk_of | apply cfgOk_of | apply dramsOk_of
    | apply cfgOk_mk | apply flashAOk_of | apply flashBOk_of)

theorem kept_execWarmRecommit {c : Keep} : ∀ x0, Kept c x0 → KeptR c (execWarmRecommit x0) := by
  intros
  unfold execWarmRecommit
  repeat' (with_reducible first
    | assumption
    | intro _
    | apply kept_warmRecommit | apply keptR_ite | apply keptR_next | apply kept_ite
    | split)

theorem kept_hingesFirst {c : Keep} : ∀ x0, Kept c x0 → Kept c (hingesFirst x0) := by
  intros
  unfold hingesFirst
  repeat' (with_reducible first
    | assumption
    | intro _
    | (rename _ = (_, _) => hq; first | (refine kept_fst_cut (c := c) hq ?_ ?_ <;> [clear hq; (clear hq; intro hr)]) | clear hq)
    | (extract_lets +onlyGivenNames xl; first | (refine kept_cut (c := c) (s := xl) ?_ ?_ <;> [subst xl; (intro hx; clear_value xl)]) | (refine keptP_cut (c := c) (p := xl) ?_ ?_ <;> [subst xl; (intro hx; clear_value xl)]) | subst xl)
    | apply kept_setSeal | apply kept_put | apply kept_ite | apply keptP_ite | apply keptP_mk
    | apply kept_foldl | apply keptP_foldl
    | split
    | apply kept_mk | apply queueOk_of | apply freshOk_of | apply freshOk_add | apply regsOk_of | apply mgcOk_of | apply fabOk_of | apply storeOk_of | apply cfgOk_of | apply dramsOk_of)

theorem kept_commitFabric {c : Keep} : ∀ x0, Kept c x0 → Kept c (commitFabric x0) := by
  intros
  unfold commitFabric
  repeat' (with_reducible first
    | assumption
    | intro _
    | (rename _ = (_, _) => hq; first | (refine kept_fst_cut (c := c) hq ?_ ?_ <;> [clear hq; (clear hq; intro hr)]) | clear hq)
    | (extract_lets +onlyGivenNames xl; first | (refine kept_cut (c := c) (s := xl) ?_ ?_ <;> [subst xl; (intro hx; clear_value xl)]) | (refine keptP_cut (c := c) (p := xl) ?_ ?_ <;> [subst xl; (intro hx; clear_value xl)]) | subst xl)
    | apply kept_dropFabric | apply kept_insertTokens | apply kept_isoStat | apply kept_setHearth | apply kept_ite | apply keptP_ite | apply keptP_mk
    | apply kept_foldl | apply keptP_foldl
    | split
    | apply kept_mk | apply queueOk_of | apply freshOk_of | apply freshOk_add | apply regsOk_of | apply mgcOk_of | apply fabOk_of | apply storeOk_of | apply cfgOk_of | apply dramsOk_of
    | apply fabOk_mk | apply framesOk_of)

theorem kept_commitCore {c : Keep} : ∀ x0, Kept c x0 → Kept c (commitCore x0) := by
  intros
  unfold commitCore
  repeat' (with_reducible first
    | assumption
    | intro _
    | (rename _ = (_, _) => hq; first | (refine kept_fst_cut (c := c) hq ?_ ?_ <;> [clear hq; (clear hq; intro hr)]) | clear hq)
    | (extract_lets +onlyGivenNames xl; first | (refine kept_cut (c := c) (s := xl) ?_ ?_ <;> [subst xl; (intro hx; clear_value xl)]) | (refine keptP_cut (c := c) (p := xl) ?_ ?_ <;> [subst xl; (intro hx; clear_value xl)]) | subst xl)
    | apply kept_hingesFirst | apply kept_commitFabric | apply kept_put | apply kept_State_setPace | apply kept_pinsCommit | apply kept_governorWarm | apply kept_patrolRestart | apply kept_wakeSlot | apply kept_ite | apply keptP_ite | apply keptP_mk
    | apply kept_foldl | apply keptP_foldl
    | split
    | apply kept_mk | apply queueOk_of | apply freshOk_of | apply freshOk_add | apply regsOk_of | apply mgcOk_of | apply fabOk_of | apply storeOk_of | apply cfgOk_of | apply dramsOk_of)

theorem kept_streamState {c : Keep} : ∀ x0 x1, Kept c x0 → Kept c (streamState x0 x1) := by
  intros
  unfold streamState
  repeat' (with_reducible first
    | assumption
    | intro _
    | apply kept_withPairs | apply kept_ite
    | split
    | apply kept_mk | apply queueOk_of | apply freshOk_of | apply freshOk_add | apply regsOk_of | apply mgcOk_of | apply fabOk_of | apply storeOk_of | apply cfgOk_of | apply dramsOk_of)

theorem kept_clearBlocks {c : Keep} : ∀ x0, Kept c x0 → Kept c (clearBlocks x0) := by
  intros
  unfold clearBlocks
  repeat' (with_reducible first
    | assumption
    | intro _
    | (extract_lets +onlyGivenNames xl; first | (refine kept_cut (c := c) (s := xl) ?_ ?_ <;> [subst xl; (intro hx; clear_value xl)]) | (refine keptP_cut (c := c) (p := xl) ?_ ?_ <;> [subst xl; (intro hx; clear_value xl)]) | subst xl)
    | apply kept_ite
    | split
    | apply kept_mk | apply queueOk_of | apply freshOk_of | apply freshOk_add | apply regsOk_of | apply mgcOk_of | apply fabOk_of | apply storeOk_of | apply cfgOk_of | apply dramsOk_of
    | apply storeOk_mk | apply contentOk_of | apply contentOk_tput | apply contentOk_tdrop | exact contentOk_nil)

theorem kept_clearBad {c : Keep} : ∀ x0, Kept c x0 → Kept c (clearBad x0) := by
  intros
  unfold clearBad
  repeat' (with_reducible first
    | assumption
    | intro _
    | (rename _ = (_, _) => hq; first | (refine kept_fst_cut (c := c) hq ?_ ?_ <;> [clear hq; (clear hq; intro hr)]) | clear hq)
    | (extract_lets +onlyGivenNames xl; first | (refine kept_cut (c := c) (s := xl) ?_ ?_ <;> [subst xl; (intro hx; clear_value xl)]) | (refine keptP_cut (c := c) (p := xl) ?_ ?_ <;> [subst xl; (intro hx; clear_value xl)]) | subst xl)
    | apply kept_isoByDevice | apply kept_putBit | apply kept_put | apply kept_ite | apply keptP_ite | apply keptP_mk
    | apply kept_foldl | apply keptP_foldl
    | split
    | apply kept_mk | apply queueOk_of | apply freshOk_of | apply freshOk_add | apply regsOk_of | apply mgcOk_of | apply fabOk_of | apply storeOk_of | apply cfgOk_of | apply dramsOk_of)

theorem kept_commitCfg {c : Keep} : ∀ x0 x1, Kept c x0 → Kept c (commitCfg x0 x1) := by
  intros
  unfold commitCfg
  repeat' (with_reducible first
    | assumption
    | intro _
    | (extract_lets +onlyGivenNames xl; first | (refine kept_cut (c := c) (s := xl) ?_ ?_ <;> [subst xl; (intro hx; clear_value xl)]) | (refine keptP_cut (c := c) (p := xl) ?_ ?_ <;> [subst xl; (intro hx; clear_value xl)]) | subst xl)
    | apply kept_put | apply kept_bump | apply kept_ite
    | apply kept_elim
    | split
    | apply kept_mk | apply queueOk_of | apply freshOk_of | apply freshOk_add | apply regsOk_of | apply mgcOk_of | apply fabOk_of | apply storeOk_of | apply cfgOk_of | apply dramsOk_of
    | apply cfgOk_mk | apply flashAOk_of | apply flashBOk_of)

theorem kept_commandFromStream {c : Keep} : ∀ x0, Kept c x0 → Kept c (commandFromStream x0) := by
  intros
  unfold commandFromStream
  repeat' (with_reducible first
    | assumption
    | intro _
    | (rename _ = (_, _) => hq; first | (refine kept_fst_cut (c := c) hq ?_ ?_ <;> [clear hq; (clear hq; intro hr)]) | clear hq)
    | (extract_lets +onlyGivenNames xl; first | (refine kept_cut (c := c) (s := xl) ?_ ?_ <;> [subst xl; (intro hx; clear_value xl)]) | (refine keptP_cut (c := c) (p := xl) ?_ ?_ <;> [subst xl; (intro hx; clear_value xl)]) | subst xl)
    | apply kept_setCommanded | apply kept_ite | apply keptP_ite | apply keptP_mk
    | apply kept_foldl | apply keptP_foldl
    | split)

theorem kept_startLinks {c : Keep} : ∀ x0, Kept c x0 → Kept c (startLinks x0) := by
  intros
  unfold startLinks
  repeat' (with_reducible first
    | assumption
    | intro _
    | (rename _ = (_, _) => hq; first | (refine kept_fst_cut (c := c) hq ?_ ?_ <;> [clear hq; (clear hq; intro hr)]) | clear hq)
    | (extract_lets +onlyGivenNames xl; first | (refine kept_cut (c := c) (s := xl) ?_ ?_ <;> [subst xl; (intro hx; clear_value xl)]) | (refine keptP_cut (c := c) (p := xl) ?_ ?_ <;> [subst xl; (intro hx; clear_value xl)]) | subst xl)
    | apply kept_presetCord | apply kept_put | apply kept_laneKick | apply kept_updateSeals | apply kept_pllUpdate | apply kept_kwrRole | apply kept_ite | apply keptP_ite | apply keptP_mk
    | apply kept_foldl | apply keptP_foldl
    | split)

theorem kept_commit {c : Keep} : ∀ x0 x1, Kept c x0 → Kept c (commit x0 x1) := by
  intros
  unfold commit
  repeat' (with_reducible first
    | assumption
    | intro _
    | (extract_lets +onlyGivenNames xl; first | (refine kept_cut (c := c) (s := xl) ?_ ?_ <;> [subst xl; (intro hx; clear_value xl)]) | (refine keptP_cut (c := c) (p := xl) ?_ ?_ <;> [subst xl; (intro hx; clear_value xl)]) | subst xl)
    | apply kept_streamState | apply kept_setWord | apply kept_put | apply kept_commitCfg | apply kept_clearBlocks | apply kept_clearBad | apply kept_commitCore | apply kept_streamPins | apply kept_commandFromStream | apply kept_setPhase | apply kept_ite
    | split
    | apply kept_mk | apply queueOk_of | apply freshOk_of | apply freshOk_add | apply regsOk_of | apply mgcOk_of | apply fabOk_of | apply storeOk_of | apply cfgOk_of | apply dramsOk_of)

theorem kept_wardCheckDone {c : Keep} : ∀ x0, Kept c x0 → Kept c (wardCheckDone x0) := by
  intros
  unfold wardCheckDone
  repeat' (with_reducible first
    | assumption
    | intro _
    | apply kept_readFail | apply kept_streamState | apply kept_wardFail | apply kept_commit | apply kept_ite
    | split
    | apply kept_mk | apply queueOk_of | apply freshOk_of | apply freshOk_add | apply regsOk_of | apply mgcOk_of | apply fabOk_of | apply storeOk_of | apply cfgOk_of | apply dramsOk_of)

theorem kept_execWardCheckDone {c : Keep} : ∀ x0, Kept c x0 → KeptR c (execWardCheckDone x0) := by
  intros
  unfold execWardCheckDone
  repeat' (with_reducible first
    | assumption
    | intro _
    | apply kept_wardCheckDone | apply keptR_ite | apply keptR_next | apply kept_ite
    | split)

end Sys2Proof.Machine
end

