-- ==== Sys2Proof/Laws/KeptKeys.lean ====
section
/-! SUPPORT. What every operation of Machine/Keys.lean keeps (Laws/Kept.lean). -/
set_option linter.unusedTactic false
set_option linter.unreachableTactic false
namespace Sys2Proof.Machine
open Sys2Proof

theorem kept_keyStatus {c : Keep} : ∀ x0, Kept c x0 → Kept c (keyStatus x0) := by
  intros
  unfold keyStatus
  repeat' (with_reducible first
    | assumption
    | intro _
    | (extract_lets +onlyGivenNames xl; first | (refine kept_cut (c := c) (s := xl) ?_ ?_ <;> [subst xl; (intro hx; clear_value xl)]) | (refine keptP_cut (c := c) (p := xl) ?_ ?_ <;> [subst xl; (intro hx; clear_value xl)]) | subst xl)
    | apply kept_put | apply kept_ite
    | split)

theorem kept_clearStaged {c : Keep} : ∀ x0, Kept c x0 → Kept c (clearStaged x0) := by
  intros
  unfold clearStaged
  repeat' (with_reducible first
    | assumption
    | intro _
    | apply kept_ite
    | split
    | apply kept_mk | apply queueOk_of | apply freshOk_of | apply freshOk_add | apply regsOk_of | apply mgcOk_of | apply fabOk_of | apply storeOk_of | apply cfgOk_of | apply dramsOk_of
    | apply cfgOk_mk | apply flashAOk_of | apply flashBOk_of)

theorem kept_keyStage {c : Keep} : ∀ x0 x1 x2, Kept c x0 → Kept c (keyStage x0 x1 x2) := by
  intros
  unfold keyStage
  repeat' (with_reducible first
    | assumption
    | intro _
    | apply kept_ite
    | split
    | apply kept_mk | apply queueOk_of | apply freshOk_of | apply freshOk_add | apply regsOk_of | apply mgcOk_of | apply fabOk_of | apply storeOk_of | apply cfgOk_of | apply dramsOk_of
    | apply cfgOk_mk | apply flashAOk_of | apply flashBOk_of)

theorem kept_execKeyStage {c : Keep} : ∀ x0 x1 x2, Kept c x2 → KeptR c (execKeyStage x0 x1 x2) := by
  intros
  unfold execKeyStage
  repeat' (with_reducible first
    | assumption
    | intro _
    | apply kept_keyStage | apply keptR_ite | apply keptR_next | apply kept_ite
    | split)

theorem kept_keyExpect {c : Keep} : ∀ x0 x1 x2, Kept c x0 → Kept c (keyExpect x0 x1 x2) := by
  intros
  unfold keyExpect
  repeat' (with_reducible first
    | assumption
    | intro _
    | apply kept_ite
    | split
    | apply kept_mk | apply queueOk_of | apply freshOk_of | apply freshOk_add | apply regsOk_of | apply mgcOk_of | apply fabOk_of | apply storeOk_of | apply cfgOk_of | apply dramsOk_of
    | apply cfgOk_mk | apply flashAOk_of | apply flashBOk_of)

theorem kept_execKeyExpectedKcv {c : Keep} : ∀ x0 x1 x2, Kept c x2 → KeptR c (execKeyExpectedKcv x0 x1 x2) := by
  intros
  unfold execKeyExpectedKcv
  repeat' (with_reducible first
    | assumption
    | intro _
    | apply kept_keyExpect | apply keptR_ite | apply keptR_next | apply kept_ite
    | split)

theorem kept_keyCommand {c : Keep} : ∀ x0 x1 x2 x3 x4 x5, Kept c x0 → Kept c (keyCommand x0 x1 x2 x3 x4 x5) := by
  intros
  unfold keyCommand
  repeat' (with_reducible first
    | assumption
    | intro _
    | (extract_lets +onlyGivenNames xl; first | (refine kept_cut (c := c) (s := xl) ?_ ?_ <;> [subst xl; (intro hx; clear_value xl)]) | (refine keptP_cut (c := c) (p := xl) ?_ ?_ <;> [subst xl; (intro hx; clear_value xl)]) | subst xl)
    | apply kept_clearStaged | apply kept_keyStatus | apply kept_ite
    | split
    | apply kept_mk | apply queueOk_of | apply freshOk_of | apply freshOk_add | apply regsOk_of | apply mgcOk_of | apply fabOk_of | apply storeOk_of | apply cfgOk_of | apply dramsOk_of
    | apply cfgOk_mk | apply flashAOk_of | apply flashBOk_of)

theorem kept_execKeyringProgramEfuse {c : Keep} : ∀ x0 x1 x2, Kept c x2 → KeptR c (execKeyringProgramEfuse x0 x1 x2) := by
  intros
  unfold execKeyringProgramEfuse
  repeat' (with_reducible first
    | assumption
    | intro _
    | apply kept_keyCommand | apply keptR_ite | apply keptR_next | apply kept_ite
    | split)

theorem kept_execKeyringWriteBbram {c : Keep} : ∀ x0 x1 x2, Kept c x2 → KeptR c (execKeyringWriteBbram x0 x1 x2) := by
  intros
  unfold execKeyringWriteBbram
  repeat' (with_reducible first
    | assumption
    | intro _
    | apply kept_keyCommand | apply keptR_ite | apply keptR_next | apply kept_ite
    | split)

theorem kept_execKeyringZeroize {c : Keep} : ∀ x0 x1, Kept c x1 → KeptR c (execKeyringZeroize x0 x1) := by
  intros
  unfold execKeyringZeroize
  repeat' (with_reducible first
    | assumption
    | intro _
    | apply kept_keyCommand | apply keptR_ite | apply keptR_next | apply kept_ite
    | split)

theorem kept_execKeyringBlowKeySrc {c : Keep} : ∀ x0 x1 x2, Kept c x2 → KeptR c (execKeyringBlowKeySrc x0 x1 x2) := by
  intros
  unfold execKeyringBlowKeySrc
  repeat' (with_reducible first
    | assumption
    | intro _
    | apply kept_keyCommand | apply keptR_ite | apply keptR_next | apply kept_ite
    | split)

theorem kept_execKeyringBlowBbramOff {c : Keep} : ∀ x0 x1 x2, Kept c x2 → KeptR c (execKeyringBlowBbramOff x0 x1 x2) := by
  intros
  unfold execKeyringBlowBbramOff
  repeat' (with_reducible first
    | assumption
    | intro _
    | apply kept_keyCommand | apply keptR_ite | apply keptR_next | apply kept_ite
    | split)

theorem kept_execKeyringBlowRbOff {c : Keep} : ∀ x0 x1 x2, Kept c x2 → KeptR c (execKeyringBlowRbOff x0 x1 x2) := by
  intros
  unfold execKeyringBlowRbOff
  repeat' (with_reducible first
    | assumption
    | intro _
    | apply kept_keyCommand | apply keptR_ite | apply keptR_next | apply kept_ite
    | split)

theorem kept_execKeyringBlowMinVer {c : Keep} : ∀ x0 x1 x2, Kept c x2 → KeptR c (execKeyringBlowMinVer x0 x1 x2) := by
  intros
  unfold execKeyringBlowMinVer
  repeat' (with_reducible first
    | assumption
    | intro _
    | apply kept_keyCommand | apply keptR_ite | apply keptR_next | apply kept_ite
    | split)

theorem kept_execKeyringProgramKindBase {c : Keep} : ∀ x0 x1 x2 x3, Kept c x3 → KeptR c (execKeyringProgramKindBase x0 x1 x2 x3) := by
  intros
  unfold execKeyringProgramKindBase
  repeat' (with_reducible first
    | assumption
    | intro _
    | apply kept_keyCommand | apply keptR_ite | apply keptR_next | apply kept_ite
    | split)

theorem kept_keyEffect {c : Keep} : ∀ x0 x1, Kept c x0 → Kept c (keyEffect x0 x1) := by
  intros
  unfold keyEffect
  repeat' (with_reducible first
    | assumption
    | intro _
    | apply kept_keyStatus | apply kept_put | apply kept_ite
    | split
    | apply kept_mk | apply queueOk_of | apply freshOk_of | apply freshOk_add | apply regsOk_of | apply mgcOk_of | apply fabOk_of | apply storeOk_of | apply cfgOk_of | apply dramsOk_of
    | apply cfgOk_mk | apply flashAOk_of | apply flashBOk_of)

theorem kept_keyDone {c : Keep} : ∀ x0 x1, Kept c x0 → Kept c (keyDone x0 x1) := by
  intros
  unfold keyDone
  repeat' (with_reducible first
    | assumption
    | intro _
    | (extract_lets +onlyGivenNames xl; first | (refine kept_cut (c := c) (s := xl) ?_ ?_ <;> [subst xl; (intro hx; clear_value xl)]) | (refine keptP_cut (c := c) (p := xl) ?_ ?_ <;> [subst xl; (intro hx; clear_value xl)]) | subst xl)
    | apply kept_keyEffect | apply kept_keyStatus | apply kept_tookFree | apply kept_raise | apply kept_ite
    | split
    | apply kept_mk | apply queueOk_of | apply freshOk_of | apply freshOk_add | apply regsOk_of | apply mgcOk_of | apply fabOk_of | apply storeOk_of | apply cfgOk_of | apply dramsOk_of
    | apply cfgOk_mk | apply flashAOk_of | apply flashBOk_of)

theorem kept_execKeyringCommandDone {c : Keep} : ∀ x0 x1, Kept c x1 → KeptR c (execKeyringCommandDone x0 x1) := by
  intros
  unfold execKeyringCommandDone
  repeat' (with_reducible first
    | assumption
    | intro _
    | apply kept_keyDone | apply keptR_ite | apply keptR_next | apply kept_ite
    | split)

theorem kept_vbatLow {c : Keep} : ∀ x0, Kept c x0 → Kept c (vbatLow x0) := by
  intros
  unfold vbatLow
  repeat' (with_reducible first
    | assumption
    | intro _
    | apply kept_keyStatus | apply kept_ite
    | split
    | apply kept_mk | apply queueOk_of | apply freshOk_of | apply freshOk_add | apply regsOk_of | apply mgcOk_of | apply fabOk_of | apply storeOk_of | apply cfgOk_of | apply dramsOk_of
    | apply cfgOk_mk | apply flashAOk_of | apply flashBOk_of)

theorem kept_execVbatLow {c : Keep} : ∀ x0, Kept c x0 → KeptR c (execVbatLow x0) := by
  intros
  unfold execVbatLow
  repeat' (with_reducible first
    | assumption
    | intro _
    | apply kept_vbatLow | apply keptR_ite | apply keptR_next | apply kept_ite
    | split)

theorem kept_readbackIndex {c : Keep} : ∀ x0 x1, Kept c x0 → Kept c (readbackIndex x0 x1) := by
  intros
  unfold readbackIndex
  repeat' (with_reducible first
    | assumption
    | intro _
    | apply kept_setWord | apply kept_ite
    | split)

theorem kept_execReadbackIndexWrite {c : Keep} : ∀ x0 x1, Kept c x1 → KeptR c (execReadbackIndexWrite x0 x1) := by
  intros
  unfold execReadbackIndexWrite
  repeat' (with_reducible first
    | assumption
    | intro _
    | apply kept_readbackIndex | apply keptR_ite | apply keptR_next | apply kept_ite
    | split)

theorem kept_readbackRead {c : Keep} : ∀ x0, Kept c x0 → Kept c (readbackRead x0) := by
  intros
  unfold readbackRead
  repeat' (with_reducible first
    | assumption
    | intro _
    | (extract_lets +onlyGivenNames xl; first | (refine kept_cut (c := c) (s := xl) ?_ ?_ <;> [subst xl; (intro hx; clear_value xl)]) | (refine keptP_cut (c := c) (p := xl) ?_ ?_ <;> [subst xl; (intro hx; clear_value xl)]) | subst xl)
    | apply kept_put | apply kept_setWord | apply kept_ite
    | split)

theorem kept_execReadbackRead {c : Keep} : ∀ x0, Kept c x0 → KeptR c (execReadbackRead x0) := by
  intros
  unfold execReadbackRead
  repeat' (with_reducible first
    | assumption
    | intro _
    | apply kept_readbackRead | apply keptR_ite | apply keptR_next | apply kept_ite
    | split)

theorem kept_flashStart {c : Keep} : ∀ x0 x1, Kept c x0 → Kept c (flashStart x0 x1) := by
  intros
  unfold flashStart
  repeat' (with_reducible first
    | assumption
    | (extract_lets +onlyGivenNames xl; subst xl)
    | apply kept_put | apply kept_raise | apply kept_ite
    | split
    | apply kept_mk | apply queueOk_of | apply freshOk_of | apply regsOk_of | apply mgcOk_of | apply fabOk_of | apply storeOk_of | apply cfgOk_of | apply dramsOk_of | apply cfgOk_mk | apply flashAOk_of | apply flashBOk_of | apply mgcOk_mk | apply logOk_of | apply holdOk_of | apply queuesOk_of)

theorem kept_execFlashEraseSector {c : Keep} : ∀ x0, Kept c x0 → KeptR c (execFlashEraseSector x0) := by
  intros
  unfold execFlashEraseSector
  repeat' (with_reducible first
    | assumption
    | intro _
    | apply kept_flashStart | apply keptR_ite | apply keptR_next | apply kept_ite
    | split)

theorem kept_execFlashEraseBlock {c : Keep} : ∀ x0, Kept c x0 → KeptR c (execFlashEraseBlock x0) := by
  intros
  unfold execFlashEraseBlock
  repeat' (with_reducible first
    | assumption
    | intro _
    | apply kept_flashStart | apply keptR_ite | apply keptR_next | apply kept_ite
    | split)

theorem kept_execFlashProgram {c : Keep} : ∀ x0, Kept c x0 → KeptR c (execFlashProgram x0) := by
  intros
  unfold execFlashProgram
  repeat' (with_reducible first
    | assumption
    | intro _
    | apply kept_flashStart | apply keptR_ite | apply keptR_next | apply kept_ite
    | split)

theorem kept_execFlashCompare {c : Keep} : ∀ x0, Kept c x0 → KeptR c (execFlashCompare x0) := by
  intros
  unfold execFlashCompare
  repeat' (with_reducible first
    | assumption
    | intro _
    | apply kept_flashStart | apply keptR_ite | apply keptR_next | apply kept_ite
    | split)

theorem kept_execFlashRead {c : Keep} : ∀ x0, Kept c x0 → KeptR c (execFlashRead x0) := by
  intros
  unfold execFlashRead
  repeat' (with_reducible first
    | assumption
    | intro _
    | apply kept_flashStart | apply keptR_ite | apply keptR_next | apply kept_ite
    | split)

theorem kept_flashEffect {c : Keep} : ∀ x0 x1, Kept c x0 → KeptP c (flashEffect x0 x1) := by
  intros
  unfold flashEffect
  repeat' (with_reducible first
    | assumption
    | intro _
    | (rename _ = (_, _) => hq; first | (refine kept_fst_cut (c := c) hq ?_ ?_ <;> [clear hq; (clear hq; intro hr)]) | clear hq)
    | (extract_lets +onlyGivenNames xl; first | (refine kept_cut (c := c) (s := xl) ?_ ?_ <;> [subst xl; (intro hx; clear_value xl)]) | (refine keptP_cut (c := c) (p := xl) ?_ ?_ <;> [subst xl; (intro hx; clear_value xl)]) | subst xl)
    | apply kept_setFlash | apply kept_ite | apply keptP_ite | apply keptP_mk
    | apply kept_foldl | apply keptP_foldl
    | split
    | apply kept_mk | apply queueOk_of | apply freshOk_of | apply freshOk_add | apply regsOk_of | apply mgcOk_of | apply fabOk_of | apply storeOk_of | apply cfgOk_of | apply dramsOk_of
    | apply cfgOk_mk | apply flashAOk_of | apply flashBOk_of)

theorem kept_flashError {c : Keep} : ∀ x0 x1, Kept c x0 → Kept c (flashError x0 x1) := by
  intros
  unfold flashError
  repeat' (with_reducible first
    | assumption
    | intro _
    | (rename _ = (_, _) => hq; first | (refine kept_fst_cut (c := c) hq ?_ ?_ <;> [clear hq; (clear hq; intro hr)]) | clear hq)
    | (extract_lets +onlyGivenNames xl; first | (refine kept_cut (c := c) (s := xl) ?_ ?_ <;> [subst xl; (intro hx; clear_value xl)]) | (refine keptP_cut (c := c) (p := xl) ?_ ?_ <;> [subst xl; (intro hx; clear_value xl)]) | subst xl)
    | apply kept_setFlash | apply kept_tookFree | apply kept_ite | apply keptP_ite | apply keptP_mk
    | apply kept_foldl | apply keptP_foldl
    | split)

theorem kept_flashDone {c : Keep} : ∀ x0 x1, Kept c x0 → Kept c (flashDone x0 x1) := by
  intros
  unfold flashDone
  repeat' (with_reducible first
    | assumption
    | intro _
    | (rename _ = (_, _) => hq; first | (refine kept_fst_cut (c := c) hq ?_ ?_ <;> [clear hq; (clear hq; intro hr)]) | clear hq)
    | (extract_lets +onlyGivenNames xl; first | (refine kept_cut (c := c) (s := xl) ?_ ?_ <;> [subst xl; (intro hx; clear_value xl)]) | (refine keptP_cut (c := c) (p := xl) ?_ ?_ <;> [subst xl; (intro hx; clear_value xl)]) | subst xl)
    | (apply kept_fst; first | assumption | apply kept_flashEffect)
    | apply kept_flashEffect | apply kept_flashError | apply kept_put | apply kept_ite | apply keptP_ite | apply keptP_mk
    | split
    | apply kept_mk | apply queueOk_of | apply freshOk_of | apply freshOk_add | apply regsOk_of | apply mgcOk_of | apply fabOk_of | apply storeOk_of | apply cfgOk_of | apply dramsOk_of
    | apply cfgOk_mk | apply flashAOk_of | apply flashBOk_of)

theorem kept_execFlashServiceDone {c : Keep} : ∀ x0 x1, Kept c x1 → KeptR c (execFlashServiceDone x0 x1) := by
  intros
  unfold execFlashServiceDone
  repeat' (with_reducible first
    | assumption
    | intro _
    | apply kept_flashDone | apply keptR_ite | apply keptR_next | apply kept_ite
    | split)

theorem kept_flashResume {c : Keep} : ∀ x0, Kept c x0 → Kept c (flashResume x0) := by
  intros
  unfold flashResume
  repeat' (with_reducible first
    | assumption
    | intro _
    | apply kept_flashStart | apply kept_ite
    | split
    | apply kept_mk | apply queueOk_of | apply freshOk_of | apply freshOk_add | apply regsOk_of | apply mgcOk_of | apply fabOk_of | apply storeOk_of | apply cfgOk_of | apply dramsOk_of
    | apply cfgOk_mk | apply flashAOk_of | apply flashBOk_of)

theorem kept_execChunkRead {c : Keep} : ∀ x0 x1, Kept c x1 → KeptR c (execChunkRead x0 x1) := by
  intros
  unfold execChunkRead
  repeat' (with_reducible first
    | assumption
    | intro _
    | apply kept_flashResume | apply kept_chunkRead | apply keptR_ite | apply keptR_next | apply kept_ite
    | split)

theorem kept_execHearthStreamCheckDone {c : Keep} : ∀ x0, Kept c x0 → KeptR c (execHearthStreamCheckDone x0) := by
  intros
  unfold execHearthStreamCheckDone
  repeat' (with_reducible first
    | assumption
    | intro _
    | apply kept_flashResume | apply kept_hearthCheckDone | apply keptR_ite | apply keptR_next | apply kept_ite
    | split)

end Sys2Proof.Machine
end

