-- ==== Sys2Proof/Laws/KeptScrub.lean ====
section
/-! SUPPORT. What every operation of Machine/Scrub.lean keeps (Laws/Kept.lean). -/
set_option linter.unusedTactic false
set_option linter.unreachableTactic false
namespace Sys2Proof.Machine
open Sys2Proof

theorem kept_passBegin {c : Keep} : ∀ x0, Kept c x0 → Kept c (passBegin x0) := by
  intros
  unfold passBegin
  repeat' (with_reducible first
    | assumption
    | intro _
    | apply kept_put | apply kept_setWord | apply kept_ite
    | split
    | apply kept_mk | apply queueOk_of | apply freshOk_of | apply freshOk_add | apply regsOk_of | apply mgcOk_of | apply fabOk_of | apply storeOk_of | apply cfgOk_of | apply dramsOk_of)

theorem kept_passStart {c : Keep} : ∀ x0, Kept c x0 → Kept c (passStart x0) := by
  intros
  unfold passStart
  repeat' (with_reducible first
    | assumption
    | intro _
    | apply kept_passBegin | apply kept_ite
    | split
    | apply kept_mk | apply queueOk_of | apply freshOk_of | apply freshOk_add | apply regsOk_of | apply mgcOk_of | apply fabOk_of | apply storeOk_of | apply cfgOk_of | apply dramsOk_of)

theorem kept_execPeatPassStart {c : Keep} : ∀ x0, Kept c x0 → KeptR c (execPeatPassStart x0) := by
  intros
  unfold execPeatPassStart
  repeat' (with_reducible first
    | assumption
    | intro _
    | apply kept_passStart | apply keptR_ite | apply keptR_next | apply kept_ite
    | split)

theorem kept_scrubLast {c : Keep} : ∀ x0 x1 x2 x3, Kept c x0 → Kept c (scrubLast x0 x1 x2 x3) := by
  intros
  unfold scrubLast
  repeat' (with_reducible first
    | assumption
    | intro _
    | apply kept_setWord | apply kept_ite
    | split)

theorem kept_frameCorrect {c : Keep} : ∀ x0 x1 x2 x3, Kept c x0 → Kept c (frameCorrect x0 x1 x2 x3) := by
  intros
  unfold frameCorrect
  repeat' (with_reducible first
    | assumption
    | intro _
    | (extract_lets +onlyGivenNames xl; first | (refine kept_cut (c := c) (s := xl) ?_ ?_ <;> [subst xl; (intro hx; clear_value xl)]) | (refine keptP_cut (c := c) (p := xl) ?_ ?_ <;> [subst xl; (intro hx; clear_value xl)]) | subst xl)
    | apply kept_scrubLast | apply kept_writeFrame | apply kept_bump | apply kept_ite
    | split
    | apply kept_mk | apply queueOk_of | apply freshOk_of | apply freshOk_add | apply regsOk_of | apply mgcOk_of | apply fabOk_of | apply storeOk_of | apply cfgOk_of | apply dramsOk_of)

theorem kept_frameLostEss {c : Keep} : ∀ x0 x1 x2, Kept c x0 → Kept c (frameLostEss x0 x1 x2) := by
  intros
  unfold frameLostEss
  repeat' (with_reducible first
    | assumption
    | intro _
    | (extract_lets +onlyGivenNames xl; first | (refine kept_cut (c := c) (s := xl) ?_ ?_ <;> [subst xl; (intro hx; clear_value xl)]) | (refine keptP_cut (c := c) (p := xl) ?_ ?_ <;> [subst xl; (intro hx; clear_value xl)]) | subst xl)
    | apply kept_scrubLast | apply kept_bump | apply kept_reloadRequest | apply kept_isoByDevice | apply kept_isolateWrite | apply kept_raise | apply kept_ite
    | split)

theorem kept_framePend {c : Keep} : ∀ x0 x1 x2, Kept c x0 → Kept c (framePend x0 x1 x2) := by
  intros
  unfold framePend
  repeat' (with_reducible first
    | assumption
    | intro _
    | (extract_lets +onlyGivenNames xl; first | (refine kept_cut (c := c) (s := xl) ?_ ?_ <;> [subst xl; (intro hx; clear_value xl)]) | (refine keptP_cut (c := c) (p := xl) ?_ ?_ <;> [subst xl; (intro hx; clear_value xl)]) | subst xl)
    | apply kept_scrubLast | apply kept_bump | apply kept_put | apply kept_raise | apply kept_reloadRequest | apply kept_ite
    | split
    | apply kept_mk | apply queueOk_of | apply freshOk_of | apply freshOk_add | apply regsOk_of | apply mgcOk_of | apply fabOk_of | apply storeOk_of | apply cfgOk_of | apply dramsOk_of)

theorem kept_frameAct {c : Keep} : ∀ x0 x1 x2, Kept c x0 → Kept c (frameAct x0 x1 x2) := by
  intros
  unfold frameAct
  repeat' (with_reducible first
    | assumption
    | intro _
    | (extract_lets +onlyGivenNames xl; first | (refine kept_cut (c := c) (s := xl) ?_ ?_ <;> [subst xl; (intro hx; clear_value xl)]) | (refine keptP_cut (c := c) (p := xl) ?_ ?_ <;> [subst xl; (intro hx; clear_value xl)]) | subst xl)
    | apply kept_frameCorrect | apply kept_frameLostEss | apply kept_framePend | apply kept_markSpare | apply kept_ite
    | split
    | apply kept_mk | apply queueOk_of | apply freshOk_of | apply freshOk_add | apply regsOk_of | apply mgcOk_of | apply fabOk_of | apply storeOk_of | apply cfgOk_of | apply dramsOk_of)

theorem kept_rateUpdate {c : Keep} : ∀ x0, Kept c x0 → Kept c (rateUpdate x0) := by
  intros
  unfold rateUpdate
  repeat' (with_reducible first
    | assumption
    | intro _
    | (extract_lets +onlyGivenNames xl; first | (refine kept_cut (c := c) (s := xl) ?_ ?_ <;> [subst xl; (intro hx; clear_value xl)]) | (refine keptP_cut (c := c) (p := xl) ?_ ?_ <;> [subst xl; (intro hx; clear_value xl)]) | subst xl)
    | apply kept_put | apply kept_tookFree | apply kept_ite
    | split)

theorem kept_walkOn {c : Keep} : ∀ x0, Kept c x0 → Kept c (walkOn x0) := by
  intros
  unfold walkOn
  repeat' (with_reducible first
    | assumption
    | intro _
    | (extract_lets +onlyGivenNames xl; first | (refine kept_cut (c := c) (s := xl) ?_ ?_ <;> [subst xl; (intro hx; clear_value xl)]) | (refine keptP_cut (c := c) (p := xl) ?_ ?_ <;> [subst xl; (intro hx; clear_value xl)]) | subst xl)
    | apply kept_rateUpdate | apply kept_put | apply kept_passBegin | apply kept_ite
    | split
    | apply kept_mk | apply queueOk_of | apply freshOk_of | apply freshOk_add | apply regsOk_of | apply mgcOk_of | apply fabOk_of | apply storeOk_of | apply cfgOk_of | apply dramsOk_of)

theorem kept_frameRead {c : Keep} : ∀ x0 x1 x2 x3, Kept c x0 → Kept c (frameRead x0 x1 x2 x3) := by
  intros
  unfold frameRead
  repeat' (with_reducible first
    | assumption
    | intro _
    | (extract_lets +onlyGivenNames xl; first | (refine kept_cut (c := c) (s := xl) ?_ ?_ <;> [subst xl; (intro hx; clear_value xl)]) | (refine keptP_cut (c := c) (p := xl) ?_ ?_ <;> [subst xl; (intro hx; clear_value xl)]) | subst xl)
    | apply kept_bump | apply kept_setWord | apply kept_frameAct | apply kept_walkOn | apply kept_ite
    | split
    | apply kept_mk | apply queueOk_of | apply freshOk_of | apply freshOk_add | apply regsOk_of | apply mgcOk_of | apply fabOk_of | apply storeOk_of | apply cfgOk_of | apply dramsOk_of)

theorem kept_execScrubPriorityReport {c : Keep} : ∀ x0 x1, Kept c x1 → KeptR c (execScrubPriorityReport x0 x1) := by
  intros
  unfold execScrubPriorityReport
  repeat' (with_reducible first
    | assumption
    | intro _
    | apply kept_scrubReport | apply keptR_ite | apply keptR_next | apply kept_ite
    | split)

theorem kept_scrubRestart {c : Keep} : ∀ x0, Kept c x0 → Kept c (scrubRestart x0) := by
  intros
  unfold scrubRestart
  repeat' (with_reducible first
    | assumption
    | intro _
    | (extract_lets +onlyGivenNames xl; first | (refine kept_cut (c := c) (s := xl) ?_ ?_ <;> [subst xl; (intro hx; clear_value xl)]) | (refine keptP_cut (c := c) (p := xl) ?_ ?_ <;> [subst xl; (intro hx; clear_value xl)]) | subst xl)
    | apply kept_bump | apply kept_raise | apply kept_put | apply kept_ite
    | split
    | apply kept_mk | apply queueOk_of | apply freshOk_of | apply freshOk_add | apply regsOk_of | apply mgcOk_of | apply fabOk_of | apply storeOk_of | apply cfgOk_of | apply dramsOk_of)

theorem kept_heartbeatCheck {c : Keep} : ∀ x0, Kept c x0 → Kept c (heartbeatCheck x0) := by
  intros
  unfold heartbeatCheck
  repeat' (with_reducible first
    | assumption
    | intro _
    | (extract_lets +onlyGivenNames xl; first | (refine kept_cut (c := c) (s := xl) ?_ ?_ <;> [subst xl; (intro hx; clear_value xl)]) | (refine keptP_cut (c := c) (p := xl) ?_ ?_ <;> [subst xl; (intro hx; clear_value xl)]) | subst xl)
    | apply kept_scrubRestart | apply kept_ite
    | split
    | apply kept_mk | apply queueOk_of | apply freshOk_of | apply freshOk_add | apply regsOk_of | apply mgcOk_of | apply fabOk_of | apply storeOk_of | apply cfgOk_of | apply dramsOk_of)

theorem kept_execScrubHeartbeatCheck {c : Keep} : ∀ x0, Kept c x0 → KeptR c (execScrubHeartbeatCheck x0) := by
  intros
  unfold execScrubHeartbeatCheck
  repeat' (with_reducible first
    | assumption
    | intro _
    | apply kept_heartbeatCheck | apply keptR_ite | apply keptR_next | apply kept_ite
    | split)

theorem kept_execScrubCntClear {c : Keep} : ∀ x0, Kept c x0 → KeptR c (execScrubCntClear x0) := by
  intros
  unfold execScrubCntClear
  repeat' (with_reducible first
    | assumption
    | intro _
    | apply kept_setWord | apply keptR_ite | apply keptR_next | apply kept_ite
    | split)

end Sys2Proof.Machine
end

