-- ==== Sys2Proof/Laws/KeptSlices.lean ====
section
/-! SUPPORT. What every operation of Machine/Slices.lean keeps (Laws/Kept.lean). -/
set_option linter.unusedTactic false
set_option linter.unreachableTactic false
namespace Sys2Proof.Machine
open Sys2Proof

theorem kept_setSteer {c : Keep} : ∀ x0 x1 x2 x3, Kept c x0 → Kept c (setSteer x0 x1 x2 x3) := by
  intros
  unfold setSteer
  repeat' (with_reducible first
    | assumption
    | intro _
    | apply kept_ite
    | split
    | apply kept_mk | apply queueOk_of | apply freshOk_of | apply freshOk_add | apply regsOk_of | apply mgcOk_of | apply fabOk_of | apply storeOk_of | apply cfgOk_of | apply dramsOk_of
    | apply fabOk_mk | apply framesOk_of)

theorem kept_putColumn {c : Keep} : ∀ x0 x1 x2 x3, Kept c x0 → Kept c (putColumn x0 x1 x2 x3) := by
  intros
  unfold putColumn
  repeat' (with_reducible first
    | assumption
    | intro _
    | (rename _ = (_, _) => hq; first | (refine kept_fst_cut (c := c) hq ?_ ?_ <;> [clear hq; (clear hq; intro hr)]) | clear hq)
    | (extract_lets +onlyGivenNames xl; first | (refine kept_cut (c := c) (s := xl) ?_ ?_ <;> [subst xl; (intro hx; clear_value xl)]) | (refine keptP_cut (c := c) (p := xl) ?_ ?_ <;> [subst xl; (intro hx; clear_value xl)]) | subst xl)
    | apply kept_checkRows | apply kept_putFrame | apply kept_ite | apply keptP_ite | apply keptP_mk
    | apply kept_foldl | apply keptP_foldl
    | split)

theorem kept_copyFrames {c : Keep} : ∀ x0 x1 x2 x3, Kept c x0 → Kept c (copyFrames x0 x1 x2 x3) := by
  intros
  unfold copyFrames
  repeat' (with_reducible first
    | assumption
    | intro _
    | apply kept_putColumn | apply kept_ite
    | split)

theorem kept_scanCopy {c : Keep} : ∀ x0 x1 x2 x3, Kept c x0 → Kept c (scanCopy x0 x1 x2 x3) := by
  intros
  unfold scanCopy
  repeat' (with_reducible first
    | assumption
    | intro _
    | (extract_lets +onlyGivenNames xl; first | (refine kept_cut (c := c) (s := xl) ?_ ?_ <;> [subst xl; (intro hx; clear_value xl)]) | (refine keptP_cut (c := c) (p := xl) ?_ ?_ <;> [subst xl; (intro hx; clear_value xl)]) | subst xl)
    | apply kept_ite
    | split
    | apply kept_mk | apply queueOk_of | apply freshOk_of | apply freshOk_add | apply regsOk_of | apply mgcOk_of | apply fabOk_of | apply storeOk_of | apply cfgOk_of | apply dramsOk_of
    | apply fabOk_mk | apply framesOk_of)

theorem kept_testedFrames {c : Keep} : ∀ x0 x1 x2, Kept c x0 → Kept c (testedFrames x0 x1 x2) := by
  intros
  unfold testedFrames
  repeat' (with_reducible first
    | assumption
    | intro _
    | (extract_lets +onlyGivenNames xl; first | (refine kept_cut (c := c) (s := xl) ?_ ?_ <;> [subst xl; (intro hx; clear_value xl)]) | (refine keptP_cut (c := c) (p := xl) ?_ ?_ <;> [subst xl; (intro hx; clear_value xl)]) | subst xl)
    | apply kept_putColumn | apply kept_ite
    | split
    | apply kept_mk | apply queueOk_of | apply freshOk_of | apply freshOk_add | apply regsOk_of | apply mgcOk_of | apply fabOk_of | apply storeOk_of | apply cfgOk_of | apply dramsOk_of)

theorem kept_repStat {c : Keep} : ∀ x0, Kept c x0 → Kept c (repStat x0) := by
  intros
  unfold repStat
  repeat' (with_reducible first
    | assumption
    | intro _
    | (extract_lets +onlyGivenNames xl; first | (refine kept_cut (c := c) (s := xl) ?_ ?_ <;> [subst xl; (intro hx; clear_value xl)]) | (refine keptP_cut (c := c) (p := xl) ?_ ?_ <;> [subst xl; (intro hx; clear_value xl)]) | subst xl)
    | apply kept_setWord | apply kept_ite
    | split)

theorem kept_setRepair {c : Keep} : ∀ x0 x1, Kept c x0 → Kept c (setRepair x0 x1) := by
  intros
  unfold setRepair
  repeat' (with_reducible first
    | assumption
    | intro _
    | apply kept_repStat | apply kept_ite
    | split
    | apply kept_mk | apply queueOk_of | apply freshOk_of | apply freshOk_add | apply regsOk_of | apply mgcOk_of | apply fabOk_of | apply storeOk_of | apply cfgOk_of | apply dramsOk_of)

theorem kept_recordColumn {c : Keep} : ∀ x0 x1 x2, Kept c x0 → KeptO c (recordColumn x0 x1 x2) := by
  intros
  unfold recordColumn
  repeat' (with_reducible first
    | assumption
    | intro _
    | (extract_lets +onlyGivenNames xl; first | (refine kept_cut (c := c) (s := xl) ?_ ?_ <;> [subst xl; (intro hx; clear_value xl)]) | (refine keptP_cut (c := c) (p := xl) ?_ ?_ <;> [subst xl; (intro hx; clear_value xl)]) | subst xl)
    | apply kept_setRepair | apply kept_ite | apply keptO_ite | apply keptO_none | apply keptO_some
    | split
    | apply kept_mk | apply queueOk_of | apply freshOk_of | apply freshOk_add | apply regsOk_of | apply mgcOk_of | apply fabOk_of | apply storeOk_of | apply cfgOk_of | apply dramsOk_of)

theorem kept_recordRows {c : Keep} : ∀ x0 x1 x2 x3, Kept c x0 → KeptO c (recordRows x0 x1 x2 x3) := by
  intros
  unfold recordRows
  repeat' (with_reducible first
    | assumption
    | intro _
    | (extract_lets +onlyGivenNames xl; first | (refine kept_cut (c := c) (s := xl) ?_ ?_ <;> [subst xl; (intro hx; clear_value xl)]) | (refine keptP_cut (c := c) (p := xl) ?_ ?_ <;> [subst xl; (intro hx; clear_value xl)]) | subst xl)
    | apply kept_setRepair | apply kept_ite | apply keptO_ite | apply keptO_none | apply keptO_some
    | split
    | apply kept_mk | apply queueOk_of | apply freshOk_of | apply freshOk_add | apply regsOk_of | apply mgcOk_of | apply fabOk_of | apply storeOk_of | apply cfgOk_of | apply dramsOk_of
    | apply storeOk_mk | apply contentOk_of)

theorem kept_recordBlock {c : Keep} : ∀ x0 x1 x2, Kept c x0 → KeptO c (recordBlock x0 x1 x2) := by
  intros
  unfold recordBlock
  repeat' (with_reducible first
    | assumption
    | intro _
    | (extract_lets +onlyGivenNames xl; first | (refine kept_cut (c := c) (s := xl) ?_ ?_ <;> [subst xl; (intro hx; clear_value xl)]) | (refine keptP_cut (c := c) (p := xl) ?_ ?_ <;> [subst xl; (intro hx; clear_value xl)]) | subst xl)
    | apply kept_setRepair | apply kept_ite | apply keptO_ite | apply keptO_none | apply keptO_some
    | split
    | apply kept_mk | apply queueOk_of | apply freshOk_of | apply freshOk_add | apply regsOk_of | apply mgcOk_of | apply fabOk_of | apply storeOk_of | apply cfgOk_of | apply dramsOk_of)

theorem kept_repairWritten {c : Keep} : ∀ x0 x1, Kept c x0 → Kept c (repairWritten x0 x1) := by
  intros
  unfold repairWritten
  repeat' (with_reducible first
    | assumption
    | intro _
    | (extract_lets +onlyGivenNames xl; first | (refine kept_cut (c := c) (s := xl) ?_ ?_ <;> [subst xl; (intro hx; clear_value xl)]) | (refine keptP_cut (c := c) (p := xl) ?_ ?_ <;> [subst xl; (intro hx; clear_value xl)]) | subst xl)
    | apply kept_repStat | apply kept_raise | apply kept_ite
    | split
    | apply kept_mk | apply queueOk_of | apply freshOk_of | apply freshOk_add | apply regsOk_of | apply mgcOk_of | apply fabOk_of | apply storeOk_of | apply cfgOk_of | apply dramsOk_of)

theorem kept_execRepairRecordWriteDone {c : Keep} : ∀ x0 x1, Kept c x1 → KeptR c (execRepairRecordWriteDone x0 x1) := by
  intros
  unfold execRepairRecordWriteDone
  repeat' (with_reducible first
    | assumption
    | intro _
    | apply kept_repairWritten | apply keptR_ite | apply keptR_next | apply kept_ite
    | split)

theorem kept_repairClear {c : Keep} : ∀ x0 x1 x2, Kept c x0 → Kept c (repairClear x0 x1 x2) := by
  intros
  unfold repairClear
  repeat' (with_reducible first
    | assumption
    | intro _
    | apply kept_ite
    | split
    | apply kept_mk | apply queueOk_of | apply freshOk_of | apply freshOk_add | apply regsOk_of | apply mgcOk_of | apply fabOk_of | apply storeOk_of | apply cfgOk_of | apply dramsOk_of)

theorem kept_execRepairClearSdram {c : Keep} : ∀ x0 x1 x2, Kept c x2 → KeptR c (execRepairClearSdram x0 x1 x2) := by
  intros
  unfold execRepairClearSdram
  repeat' (with_reducible first
    | assumption
    | intro _
    | apply kept_repairClear | apply keptR_ite | apply keptR_next | apply kept_ite
    | split)

theorem kept_resultsClear {c : Keep} : ∀ x0, Kept c x0 → Kept c (resultsClear x0) := by
  intros
  unfold resultsClear
  repeat' (with_reducible first
    | assumption
    | intro _
    | apply kept_put | apply kept_ite
    | split
    | apply kept_mk | apply queueOk_of | apply freshOk_of | apply freshOk_add | apply regsOk_of | apply mgcOk_of | apply fabOk_of | apply storeOk_of | apply cfgOk_of | apply dramsOk_of)

theorem kept_addResults {c : Keep} : ∀ x0 x1, Kept c x0 → Kept c (addResults x0 x1) := by
  intros
  unfold addResults
  repeat' (with_reducible first
    | assumption
    | intro _
    | (extract_lets +onlyGivenNames xl; first | (refine kept_cut (c := c) (s := xl) ?_ ?_ <;> [subst xl; (intro hx; clear_value xl)]) | (refine keptP_cut (c := c) (p := xl) ?_ ?_ <;> [subst xl; (intro hx; clear_value xl)]) | subst xl)
    | apply kept_put | apply kept_bump | apply kept_ite
    | split
    | apply kept_mk | apply queueOk_of | apply freshOk_of | apply freshOk_add | apply regsOk_of | apply mgcOk_of | apply fabOk_of | apply storeOk_of | apply cfgOk_of | apply dramsOk_of)

theorem kept_testFail {c : Keep} : ∀ x0 x1 x2 x3, Kept c x0 → Kept c (testFail x0 x1 x2 x3) := by
  intros
  unfold testFail
  repeat' (with_reducible first
    | assumption
    | intro _
    | (extract_lets +onlyGivenNames xl; first | (refine kept_cut (c := c) (s := xl) ?_ ?_ <;> [subst xl; (intro hx; clear_value xl)]) | (refine keptP_cut (c := c) (p := xl) ?_ ?_ <;> [subst xl; (intro hx; clear_value xl)]) | subst xl)
    | apply kept_tookFree | apply kept_raise | apply kept_addResults | apply kept_ite
    | split
    | apply kept_mk | apply queueOk_of | apply freshOk_of | apply freshOk_add | apply regsOk_of | apply mgcOk_of | apply fabOk_of | apply storeOk_of | apply cfgOk_of | apply dramsOk_of)

theorem kept_roundEnd {c : Keep} : ∀ x0, Kept c x0 → Kept c (roundEnd x0) := by
  intros
  unfold roundEnd
  repeat' (with_reducible first
    | assumption
    | intro _
    | (extract_lets +onlyGivenNames xl; first | (refine kept_cut (c := c) (s := xl) ?_ ?_ <;> [subst xl; (intro hx; clear_value xl)]) | (refine keptP_cut (c := c) (p := xl) ?_ ?_ <;> [subst xl; (intro hx; clear_value xl)]) | subst xl)
    | apply kept_bump | apply kept_put | apply kept_ite
    | split
    | apply kept_mk | apply queueOk_of | apply freshOk_of | apply freshOk_add | apply regsOk_of | apply mgcOk_of | apply fabOk_of | apply storeOk_of | apply cfgOk_of | apply dramsOk_of)

theorem kept_roundOn {c : Keep} : ∀ x0, Kept c x0 → Kept c (roundOn x0) := by
  intros
  unfold roundOn
  repeat' (with_reducible first
    | assumption
    | intro _
    | (extract_lets +onlyGivenNames xl; first | (refine kept_cut (c := c) (s := xl) ?_ ?_ <;> [subst xl; (intro hx; clear_value xl)]) | (refine keptP_cut (c := c) (p := xl) ?_ ?_ <;> [subst xl; (intro hx; clear_value xl)]) | subst xl)
    | apply kept_roundEnd | apply kept_put | apply kept_ite
    | split
    | apply kept_mk | apply queueOk_of | apply freshOk_of | apply freshOk_add | apply regsOk_of | apply mgcOk_of | apply fabOk_of | apply storeOk_of | apply cfgOk_of | apply dramsOk_of)

theorem kept_nextSlice {c : Keep} : ∀ x0 x1, Kept c x1 → KeptP c (nextSlice x0 x1) := by
  intro n
  induction n with
  | zero =>
    intro s h
    exact h
  | succ n ih =>
    intro s h
    unfold nextSlice
    split
    · exact h
    · exact ih _ (kept_roundOn _ h)

theorem kept_sliceStat {c : Keep} : ∀ x0 x1 x2 x3, Kept c x0 → Kept c (sliceStat x0 x1 x2 x3) := by
  intros
  unfold sliceStat
  repeat' (with_reducible first
    | assumption
    | intro _
    | apply kept_put | apply kept_ite
    | split)

theorem kept_sliceBegin {c : Keep} : ∀ x0 x1, Kept c x0 → Kept c (sliceBegin x0 x1) := by
  intros
  unfold sliceBegin
  repeat' (with_reducible first
    | assumption
    | intro _
    | (extract_lets +onlyGivenNames xl; first | (refine kept_cut (c := c) (s := xl) ?_ ?_ <;> [subst xl; (intro hx; clear_value xl)]) | (refine keptP_cut (c := c) (p := xl) ?_ ?_ <;> [subst xl; (intro hx; clear_value xl)]) | subst xl)
    | apply kept_resultsClear | apply kept_sliceStat | apply kept_setBlock | apply kept_ite
    | split
    | apply kept_mk | apply queueOk_of | apply freshOk_of | apply freshOk_add | apply regsOk_of | apply mgcOk_of | apply fabOk_of | apply storeOk_of | apply cfgOk_of | apply dramsOk_of)

theorem kept_sliceStart {c : Keep} : ∀ x0, Kept c x0 → Kept c (sliceStart x0) := by
  intros
  unfold sliceStart
  repeat' (with_reducible first
    | assumption
    | intro _
    | (rename _ = (_, _) => hq; first | (refine kept_fst_cut (c := c) hq ?_ ?_ <;> [clear hq; (clear hq; intro hr)]) | clear hq)
    | (extract_lets +onlyGivenNames xl; first | (refine kept_cut (c := c) (s := xl) ?_ ?_ <;> [subst xl; (intro hx; clear_value xl)]) | (refine keptP_cut (c := c) (p := xl) ?_ ?_ <;> [subst xl; (intro hx; clear_value xl)]) | subst xl)
    | (apply kept_fst; first | assumption | apply kept_nextSlice)
    | apply kept_sliceStat | apply kept_nextSlice | apply kept_sliceBegin | apply kept_ite | apply keptP_ite | apply keptP_mk
    | split
    | apply kept_mk | apply queueOk_of | apply freshOk_of | apply freshOk_add | apply regsOk_of | apply mgcOk_of | apply fabOk_of | apply storeOk_of | apply cfgOk_of | apply dramsOk_of)

theorem kept_execBistSliceStart {c : Keep} : ∀ x0, Kept c x0 → KeptR c (execBistSliceStart x0) := by
  intros
  unfold execBistSliceStart
  repeat' (with_reducible first
    | assumption
    | intro _
    | apply kept_sliceStart | apply keptR_ite | apply keptR_next | apply kept_ite
    | split)

theorem kept_sliceResult {c : Keep} : ∀ x0 x1, Kept c x0 → Kept c (sliceResult x0 x1) := by
  intros
  unfold sliceResult
  repeat' (with_reducible first
    | assumption
    | intro _
    | (extract_lets +onlyGivenNames xl; first | (refine kept_cut (c := c) (s := xl) ?_ ?_ <;> [subst xl; (intro hx; clear_value xl)]) | (refine keptP_cut (c := c) (p := xl) ?_ ?_ <;> [subst xl; (intro hx; clear_value xl)]) | subst xl)
    | apply kept_sliceEnd | apply kept_roundOn | apply kept_ite
    | split
    | apply kept_mk | apply queueOk_of | apply freshOk_of | apply freshOk_add | apply regsOk_of | apply mgcOk_of | apply fabOk_of | apply storeOk_of | apply cfgOk_of | apply dramsOk_of)

theorem kept_columnPrecopy {c : Keep} : ∀ x0, Kept c x0 → Kept c (columnPrecopy x0) := by
  intros
  unfold columnPrecopy
  repeat' (with_reducible first
    | assumption
    | intro _
    | (extract_lets +onlyGivenNames xl; first | (refine kept_cut (c := c) (s := xl) ?_ ?_ <;> [subst xl; (intro hx; clear_value xl)]) | (refine keptP_cut (c := c) (p := xl) ?_ ?_ <;> [subst xl; (intro hx; clear_value xl)]) | subst xl)
    | apply kept_sliceAbandon | apply kept_copyFrames | apply kept_holdPorts | apply kept_setSteer | apply kept_ite
    | split
    | apply kept_mk | apply queueOk_of | apply freshOk_of | apply freshOk_add | apply regsOk_of | apply mgcOk_of | apply fabOk_of | apply storeOk_of | apply cfgOk_of | apply dramsOk_of)

theorem kept_execColumnPrecopyDone {c : Keep} : ∀ x0, Kept c x0 → KeptR c (execColumnPrecopyDone x0) := by
  intros
  unfold execColumnPrecopyDone
  repeat' (with_reducible first
    | assumption
    | intro _
    | apply kept_columnPrecopy | apply keptR_ite | apply keptR_next | apply kept_ite
    | split)

theorem kept_columnQuiesced {c : Keep} : ∀ x0, Kept c x0 → Kept c (columnQuiesced x0) := by
  intros
  unfold columnQuiesced
  repeat' (with_reducible first
    | assumption
    | intro _
    | (extract_lets +onlyGivenNames xl; first | (refine kept_cut (c := c) (s := xl) ?_ ?_ <;> [subst xl; (intro hx; clear_value xl)]) | (refine keptP_cut (c := c) (p := xl) ?_ ?_ <;> [subst xl; (intro hx; clear_value xl)]) | subst xl)
    | apply kept_ite
    | split
    | apply kept_mk | apply queueOk_of | apply freshOk_of | apply freshOk_add | apply regsOk_of | apply mgcOk_of | apply fabOk_of | apply storeOk_of | apply cfgOk_of | apply dramsOk_of)

theorem kept_execColumnQuiesced {c : Keep} : ∀ x0, Kept c x0 → KeptR c (execColumnQuiesced x0) := by
  intros
  unfold execColumnQuiesced
  repeat' (with_reducible first
    | assumption
    | intro _
    | apply kept_columnQuiesced | apply keptR_ite | apply keptR_next | apply kept_ite
    | split)

theorem kept_execColumnQuiesceTimeout {c : Keep} : ∀ x0, Kept c x0 → KeptR c (execColumnQuiesceTimeout x0) := by
  intros
  unfold execColumnQuiesceTimeout
  repeat' (with_reducible first
    | assumption
    | intro _
    | apply kept_afterHandover | apply kept_sliceAbandon | apply keptR_ite | apply keptR_next | apply kept_ite
    | split
    | apply kept_mk | apply queueOk_of | apply freshOk_of | apply freshOk_add | apply regsOk_of | apply mgcOk_of | apply fabOk_of | apply storeOk_of | apply cfgOk_of | apply dramsOk_of)

theorem kept_columnScanned {c : Keep} : ∀ x0 x1, Kept c x0 → Kept c (columnScanned x0 x1) := by
  intros
  unfold columnScanned
  repeat' (with_reducible first
    | assumption
    | intro _
    | (extract_lets +onlyGivenNames xl; first | (refine kept_cut (c := c) (s := xl) ?_ ?_ <;> [subst xl; (intro hx; clear_value xl)]) | (refine keptP_cut (c := c) (p := xl) ?_ ?_ <;> [subst xl; (intro hx; clear_value xl)]) | subst xl)
    | apply kept_scanCopy | apply kept_setSteer | apply kept_bump | apply kept_portsReleased | apply kept_columnResume | apply kept_sliceAbandon | apply kept_markSpare | apply kept_ite
    | split
    | apply kept_mk | apply queueOk_of | apply freshOk_of | apply freshOk_add | apply regsOk_of | apply mgcOk_of | apply fabOk_of | apply storeOk_of | apply cfgOk_of | apply dramsOk_of)

theorem kept_execColumnScanCopyDone {c : Keep} : ∀ x0 x1, Kept c x1 → KeptR c (execColumnScanCopyDone x0 x1) := by
  intros
  unfold execColumnScanCopyDone
  repeat' (with_reducible first
    | assumption
    | intro _
    | apply kept_afterHandover | apply kept_columnScanned | apply keptR_ite | apply keptR_next | apply kept_ite
    | split)

theorem kept_columnTested {c : Keep} : ∀ x0 x1, Kept c x0 → Kept c (columnTested x0 x1) := by
  intros
  unfold columnTested
  repeat' (with_reducible first
    | assumption
    | intro _
    | (rename _ = some _ => hq; first | (refine kept_some_cut (c := c) hq ?_ ?_ <;> [clear hq; (clear hq; intro hr)]) | clear hq)
    | (extract_lets +onlyGivenNames xl; first | (refine kept_cut (c := c) (s := xl) ?_ ?_ <;> [subst xl; (intro hx; clear_value xl)]) | (refine keptP_cut (c := c) (p := xl) ?_ ?_ <;> [subst xl; (intro hx; clear_value xl)]) | subst xl)
    | apply kept_testedFrames | apply kept_recordColumn | apply kept_testFail | apply kept_setSteer | apply kept_sliceResult | apply kept_ite | apply keptO_ite | apply keptO_none | apply keptO_some
    | split
    | apply kept_mk | apply queueOk_of | apply freshOk_of | apply freshOk_add | apply regsOk_of | apply mgcOk_of | apply fabOk_of | apply storeOk_of | apply cfgOk_of | apply dramsOk_of)

theorem kept_execColumnTestDone {c : Keep} : ∀ x0 x1, Kept c x1 → KeptR c (execColumnTestDone x0 x1) := by
  intros
  unfold execColumnTestDone
  repeat' (with_reducible first
    | assumption
    | intro _
    | apply kept_columnTested | apply keptR_ite | apply keptR_next | apply kept_ite
    | split)

theorem kept_blockTested {c : Keep} : ∀ x0 x1, Kept c x0 → Kept c (blockTested x0 x1) := by
  intros
  unfold blockTested
  repeat' (with_reducible first
    | assumption
    | intro _
    | (rename _ = some _ => hq; first | (refine kept_some_cut (c := c) hq ?_ ?_ <;> [clear hq; (clear hq; intro hr)]) | clear hq)
    | (extract_lets +onlyGivenNames xl; first | (refine kept_cut (c := c) (s := xl) ?_ ?_ <;> [subst xl; (intro hx; clear_value xl)]) | (refine keptP_cut (c := c) (p := xl) ?_ ?_ <;> [subst xl; (intro hx; clear_value xl)]) | subst xl)
    | apply kept_recordRows | apply kept_testFail | apply kept_recordBlock | apply kept_setBlock | apply kept_sliceResult | apply kept_ite | apply keptO_ite | apply keptO_none | apply keptO_some
    | split
    | apply kept_mk | apply queueOk_of | apply freshOk_of | apply freshOk_add | apply regsOk_of | apply mgcOk_of | apply fabOk_of | apply storeOk_of | apply cfgOk_of | apply dramsOk_of)

theorem kept_execBlockTestDone {c : Keep} : ∀ x0 x1, Kept c x1 → KeptR c (execBlockTestDone x0 x1) := by
  intros
  unfold execBlockTestDone
  repeat' (with_reducible first
    | assumption
    | intro _
    | apply kept_blockTested | apply keptR_ite | apply keptR_next | apply kept_ite
    | split)

theorem kept_laneResult {c : Keep} : ∀ x0 x1, Kept c x0 → Kept c (laneResult x0 x1) := by
  intros
  unfold laneResult
  repeat' (with_reducible first
    | assumption
    | intro _
    | (extract_lets +onlyGivenNames xl; first | (refine kept_cut (c := c) (s := xl) ?_ ?_ <;> [subst xl; (intro hx; clear_value xl)]) | (refine keptP_cut (c := c) (p := xl) ?_ ?_ <;> [subst xl; (intro hx; clear_value xl)]) | subst xl)
    | apply kept_testFail | apply kept_pllUpdate | apply kept_sliceResult | apply kept_ite
    | split
    | apply kept_mk | apply queueOk_of | apply freshOk_of | apply freshOk_add | apply regsOk_of | apply mgcOk_of | apply fabOk_of | apply storeOk_of | apply cfgOk_of | apply dramsOk_of)

theorem kept_execLaneTestDone {c : Keep} : ∀ x0 x1, Kept c x1 → KeptR c (execLaneTestDone x0 x1) := by
  intros
  unfold execLaneTestDone
  repeat' (with_reducible first
    | assumption
    | intro _
    | apply kept_laneResult | apply keptR_ite | apply keptR_next | apply kept_ite
    | split)

theorem kept_fifoTested {c : Keep} : ∀ x0 x1, Kept c x0 → Kept c (fifoTested x0 x1) := by
  intros
  unfold fifoTested
  repeat' (with_reducible first
    | assumption
    | intro _
    | (extract_lets +onlyGivenNames xl; first | (refine kept_cut (c := c) (s := xl) ?_ ?_ <;> [subst xl; (intro hx; clear_value xl)]) | (refine keptP_cut (c := c) (p := xl) ?_ ?_ <;> [subst xl; (intro hx; clear_value xl)]) | subst xl)
    | apply kept_testFail | apply kept_sliceResult | apply kept_ite
    | split
    | apply kept_mk | apply queueOk_of | apply freshOk_of | apply freshOk_add | apply regsOk_of | apply mgcOk_of | apply fabOk_of | apply storeOk_of | apply cfgOk_of | apply dramsOk_of)

theorem kept_execFifoTestDone {c : Keep} : ∀ x0 x1, Kept c x1 → KeptR c (execFifoTestDone x0 x1) := by
  intros
  unfold execFifoTestDone
  repeat' (with_reducible first
    | assumption
    | intro _
    | apply kept_fifoTested | apply keptR_ite | apply keptR_next | apply kept_ite
    | split)

theorem kept_watchHandover {c : Keep} : ∀ x0 x1, Kept c x0 → Kept c x1 → Kept c (watchHandover x0 x1) := by
  intros
  unfold watchHandover
  repeat' (with_reducible first
    | assumption
    | intro _
    | apply kept_afterHandover | apply kept_sliceAbandon | apply kept_ite
    | split
    | apply kept_mk | apply queueOk_of | apply freshOk_of | apply freshOk_add | apply regsOk_of | apply mgcOk_of | apply fabOk_of | apply storeOk_of | apply cfgOk_of | apply dramsOk_of)

theorem kept_execParticleUpset {c : Keep} : ∀ x0 x1, Kept c x1 → KeptR c (execParticleUpset x0 x1) := by
  intros
  unfold execParticleUpset
  repeat' (with_reducible first
    | assumption
    | intro _
    | apply kept_watchHandover | apply kept_upset | apply keptR_ite | apply keptR_next | apply kept_ite
    | split)

theorem kept_execFrameRead {c : Keep} : ∀ x0 x1 x2 x3, Kept c x3 → KeptR c (execFrameRead x0 x1 x2 x3) := by
  intros
  unfold execFrameRead
  repeat' (with_reducible first
    | assumption
    | intro _
    | apply kept_watchHandover | apply kept_frameRead | apply keptR_ite | apply keptR_next | apply kept_ite
    | split)

theorem kept_execHandshakeRequest {c : Keep} : ∀ x0 x1, Kept c x1 → KeptR c (execHandshakeRequest x0 x1) := by
  intros
  unfold execHandshakeRequest
  repeat' (with_reducible first
    | assumption
    | intro _
    | apply kept_watchHandover | apply kept_request | apply keptR_ite | apply keptR_next | apply kept_ite
    | split)

theorem kept_storeRequestFault {c : Keep} : ∀ x0 x1 x2 x3, Kept c x0 → Kept c (storeRequestFault x0 x1 x2 x3) := by
  intros
  unfold storeRequestFault
  repeat' (with_reducible first
    | assumption
    | intro _
    | (extract_lets +onlyGivenNames xl; first | (refine kept_cut (c := c) (s := xl) ?_ ?_ <;> [subst xl; (intro hx; clear_value xl)]) | (refine keptP_cut (c := c) (p := xl) ?_ ?_ <;> [subst xl; (intro hx; clear_value xl)]) | subst xl)
    | apply kept_storeFault | apply kept_afterHandover | apply kept_blockAbandon | apply kept_ite
    | split)

theorem kept_execStoreRequestFault {c : Keep} : ∀ x0 x1 x2 x3, Kept c x3 → KeptR c (execStoreRequestFault x0 x1 x2 x3) := by
  intros
  unfold execStoreRequestFault
  repeat' (with_reducible first
    | assumption
    | intro _
    | apply kept_storeRequestFault | apply keptR_ite | apply keptR_next | apply kept_ite
    | split)

theorem kept_execBlockHandoverQuiesced {c : Keep} : ∀ x0 x1 x2, Kept c x2 → KeptR c (execBlockHandoverQuiesced x0 x1 x2) := by
  intros
  unfold execBlockHandoverQuiesced
  repeat' (with_reducible first
    | assumption
    | intro _
    | apply kept_blockQuiesced | apply keptR_ite | apply keptR_next | apply kept_ite
    | split)

theorem kept_execBlockHandoverSwitch {c : Keep} : ∀ x0 x1 x2, Kept c x2 → KeptR c (execBlockHandoverSwitch x0 x1 x2) := by
  intros
  unfold execBlockHandoverSwitch
  repeat' (with_reducible first
    | assumption
    | intro _
    | apply kept_afterHandover | apply kept_blockSwitch | apply keptR_ite | apply keptR_next | apply kept_ite
    | split)

theorem kept_execBlockHandoverTimeout {c : Keep} : ∀ x0 x1 x2, Kept c x2 → KeptR c (execBlockHandoverTimeout x0 x1 x2) := by
  intros
  unfold execBlockHandoverTimeout
  repeat' (with_reducible first
    | assumption
    | intro _
    | apply kept_afterHandover | apply kept_blockAbandon | apply keptR_ite | apply keptR_next | apply kept_ite
    | split)

end Sys2Proof.Machine
end

