-- ==== Sys2Proof/Laws/KeptService.lean ====
section
/-! SUPPORT. What every operation of Machine/Service.lean keeps (Laws/Kept.lean). -/
set_option linter.unusedTactic false
set_option linter.unreachableTactic false
namespace Sys2Proof.Machine
open Sys2Proof

theorem kept_steerHearth {c : Keep} : ∀ x0 x1, Kept c x0 → Kept c (steerHearth x0 x1) := by
  intros
  unfold steerHearth
  repeat' (with_reducible first
    | assumption
    | intro _
    | (rename _ = (_, _) => hq; first | (refine kept_fst_cut (c := c) hq ?_ ?_ <;> [clear hq; (clear hq; intro hr)]) | clear hq)
    | (extract_lets +onlyGivenNames xl; first | (refine kept_cut (c := c) (s := xl) ?_ ?_ <;> [subst xl; (intro hx; clear_value xl)]) | (refine keptP_cut (c := c) (p := xl) ?_ ?_ <;> [subst xl; (intro hx; clear_value xl)]) | subst xl)
    | apply kept_setSteer | apply kept_ite | apply keptP_ite | apply keptP_mk
    | apply kept_foldl | apply keptP_foldl
    | split
    | apply kept_mk | apply queueOk_of | apply freshOk_of | apply freshOk_add | apply regsOk_of | apply mgcOk_of | apply fabOk_of | apply storeOk_of | apply cfgOk_of | apply dramsOk_of)

theorem kept_blocksHearth {c : Keep} : ∀ x0 x1, Kept c x0 → Kept c (blocksHearth x0 x1) := by
  intros
  unfold blocksHearth
  repeat' (with_reducible first
    | assumption
    | intro _
    | (rename _ = (_, _) => hq; first | (refine kept_fst_cut (c := c) hq ?_ ?_ <;> [clear hq; (clear hq; intro hr)]) | clear hq)
    | (extract_lets +onlyGivenNames xl; first | (refine kept_cut (c := c) (s := xl) ?_ ?_ <;> [subst xl; (intro hx; clear_value xl)]) | (refine keptP_cut (c := c) (p := xl) ?_ ?_ <;> [subst xl; (intro hx; clear_value xl)]) | subst xl)
    | apply kept_setBlock | apply kept_ite | apply keptP_ite | apply keptP_mk
    | apply kept_foldl | apply keptP_foldl
    | split)

theorem kept_rowsApply {c : Keep} : ∀ x0, Kept c x0 → Kept c (rowsApply x0) := by
  intros
  unfold rowsApply
  repeat' (with_reducible first
    | assumption
    | intro _
    | (rename _ = (_, _) => hq; first | (refine kept_fst_cut (c := c) hq ?_ ?_ <;> [clear hq; (clear hq; intro hr)]) | clear hq)
    | (extract_lets +onlyGivenNames xl; first | (refine kept_cut (c := c) (s := xl) ?_ ?_ <;> [subst xl; (intro hx; clear_value xl)]) | (refine keptP_cut (c := c) (p := xl) ?_ ?_ <;> [subst xl; (intro hx; clear_value xl)]) | subst xl)
    | apply kept_ite | apply keptP_ite | apply keptP_mk
    | apply kept_foldl | apply keptP_foldl
    | split
    | apply kept_mk | apply queueOk_of | apply freshOk_of | apply freshOk_add | apply regsOk_of | apply mgcOk_of | apply fabOk_of | apply storeOk_of | apply cfgOk_of | apply dramsOk_of
    | apply storeOk_mk | apply contentOk_of)

theorem kept_fullFail {c : Keep} : ∀ x0 x1, KeptP c x0 → KeptP c (fullFail x0 x1) := by
  intro x f h
  have h : Kept c x.1 := h
  unfold fullFail
  dsimp only
  split
  · split
    · exact keptP_mk (kept_testFail _ _ _ _ h)
    · split
      · exact keptP_mk (kept_steerHearth _ _ (kept_testFail _ _ _ _ (kept_recordColumn _ _ _ h _ ‹_›)))
      · exact keptP_mk (kept_testFail _ _ _ _ h)
  · split
    · exact keptP_mk (kept_testFail _ _ _ _ h)
    · split
      · exact keptP_mk (kept_testFail _ _ _ _ (kept_recordRows _ _ _ _ h _ ‹_›))
      · split
        · exact keptP_mk (kept_blocksHearth _ _ (kept_testFail _ _ _ _ (kept_recordBlock _ _ _ h _ ‹_›)))
        · exact keptP_mk (kept_testFail _ _ _ _ h)
  · exact keptP_mk (kept_testFail _ _ _ _ h)

theorem kept_fullTest {c : Keep} : ∀ x0 x1 x2 x3 x4, Kept c x0 → KeptP c (fullTest x0 x1 x2 x3 x4) := by
  intro s fails el inc ms h
  unfold fullTest
  refine keptP_foldl (keptP_mk (kept_foldl (kept_put (kept_put (kept_resultsClear _ h))) ?_)) fun p x hp => kept_fullFail _ _ hp
  intro s n hs
  refine kept_foldl hs ?_
  intro s k hs
  split
  · exact kept_testedFrames _ _ _ hs
  · exact hs

theorem kept_testEnd {c : Keep} : ∀ x0, Kept c x0 → Kept c (testEnd x0) := by
  intros
  unfold testEnd
  repeat' (with_reducible first
    | assumption
    | intro _
    | (rename _ = (_, _) => hq; first | (refine kept_fst_cut (c := c) hq ?_ ?_ <;> [clear hq; (clear hq; intro hr)]) | clear hq)
    | (extract_lets +onlyGivenNames xl; first | (refine kept_cut (c := c) (s := xl) ?_ ?_ <;> [subst xl; (intro hx; clear_value xl)]) | (refine keptP_cut (c := c) (p := xl) ?_ ?_ <;> [subst xl; (intro hx; clear_value xl)]) | subst xl)
    | apply kept_pllUpdate | apply kept_ite | apply keptP_ite | apply keptP_mk
    | apply kept_foldl | apply keptP_foldl
    | split)

theorem kept_startupTest {c : Keep} : ∀ x0 x1 x2 x3 x4, Kept c x0 → Kept c (startupTest x0 x1 x2 x3 x4) := by
  intros
  unfold startupTest
  repeat' (with_reducible first
    | assumption
    | intro _
    | (rename _ = (_, _) => hq; first | (refine kept_fst_cut (c := c) hq ?_ ?_ <;> [clear hq; (clear hq; intro hr)]) | clear hq)
    | (extract_lets +onlyGivenNames xl; first | (refine kept_cut (c := c) (s := xl) ?_ ?_ <;> [subst xl; (intro hx; clear_value xl)]) | (refine keptP_cut (c := c) (p := xl) ?_ ?_ <;> [subst xl; (intro hx; clear_value xl)]) | subst xl)
    | (apply kept_fst; first | assumption | apply kept_fullTest)
    | apply kept_fullTest | apply kept_loadStart | apply kept_testEnd | apply kept_setPhase | apply kept_ite | apply keptP_ite | apply keptP_mk
    | split)

theorem kept_execStartupBistDone {c : Keep} : ∀ x0 x1 x2 x3 x4, Kept c x4 → KeptR c (execStartupBistDone x0 x1 x2 x3 x4) := by
  intros
  unfold execStartupBistDone
  repeat' (with_reducible first
    | assumption
    | intro _
    | apply kept_startupTest | apply keptR_ite | apply keptR_next | apply kept_ite
    | split)

theorem kept_shutdownTest {c : Keep} : ∀ x0, Kept c x0 → Kept c (shutdownTest x0) := by
  intros
  unfold shutdownTest
  repeat' (with_reducible first
    | assumption
    | intro _
    | (extract_lets +onlyGivenNames xl; first | (refine kept_cut (c := c) (s := xl) ?_ ?_ <;> [subst xl; (intro hx; clear_value xl)]) | (refine keptP_cut (c := c) (p := xl) ?_ ?_ <;> [subst xl; (intro hx; clear_value xl)]) | subst xl)
    | apply kept_setPhase | apply kept_stopDesign | apply kept_put | apply kept_vfabStart | apply kept_flashResume | apply kept_ite
    | split
    | apply kept_mk | apply queueOk_of | apply freshOk_of | apply freshOk_add | apply regsOk_of | apply mgcOk_of | apply fabOk_of | apply storeOk_of | apply cfgOk_of | apply dramsOk_of)

theorem kept_execShutdownTest {c : Keep} : ∀ x0, Kept c x0 → KeptR c (execShutdownTest x0) := by
  intros
  unfold execShutdownTest
  repeat' (with_reducible first
    | assumption
    | intro _
    | apply kept_shutdownTest | apply keptR_ite | apply keptR_next | apply kept_ite
    | split)

theorem kept_hoursSave {c : Keep} : ∀ x0, Kept c x0 → Kept c (hoursSave x0) := by
  intros
  unfold hoursSave
  repeat' (with_reducible first
    | assumption
    | intro _
    | apply kept_ite
    | split
    | apply kept_mk | apply queueOk_of | apply freshOk_of | apply freshOk_add | apply regsOk_of | apply mgcOk_of | apply fabOk_of | apply storeOk_of | apply cfgOk_of | apply dramsOk_of)

theorem kept_shutdownDone {c : Keep} : ∀ x0 x1 x2 x3 x4, Kept c x0 → Kept c (shutdownDone x0 x1 x2 x3 x4) := by
  intros
  unfold shutdownDone
  repeat' (with_reducible first
    | assumption
    | intro _
    | (rename _ = (_, _) => hq; first | (refine kept_fst_cut (c := c) hq ?_ ?_ <;> [clear hq; (clear hq; intro hr)]) | clear hq)
    | (extract_lets +onlyGivenNames xl; first | (refine kept_cut (c := c) (s := xl) ?_ ?_ <;> [subst xl; (intro hx; clear_value xl)]) | (refine keptP_cut (c := c) (p := xl) ?_ ?_ <;> [subst xl; (intro hx; clear_value xl)]) | subst xl)
    | (apply kept_fst; first | assumption | apply kept_fullTest)
    | apply kept_fullTest | apply kept_hoursSave | apply kept_testEnd | apply kept_put | apply kept_ite | apply keptP_ite | apply keptP_mk
    | split
    | apply kept_mk | apply queueOk_of | apply freshOk_of | apply freshOk_add | apply regsOk_of | apply mgcOk_of | apply fabOk_of | apply storeOk_of | apply cfgOk_of | apply dramsOk_of)

theorem kept_execFullTestDone {c : Keep} : ∀ x0 x1 x2 x3 x4, Kept c x4 → KeptR c (execFullTestDone x0 x1 x2 x3 x4) := by
  intros
  unfold execFullTestDone
  repeat' (with_reducible first
    | assumption
    | intro _
    | apply kept_shutdownDone | apply keptR_ite | apply keptR_next | apply kept_ite
    | split)

theorem kept_serviceHour {c : Keep} : ∀ x0 x1, Kept c x0 → Kept c (serviceHour x0 x1) := by
  intros
  unfold serviceHour
  repeat' (with_reducible first
    | assumption
    | intro _
    | (extract_lets +onlyGivenNames xl; first | (refine kept_cut (c := c) (s := xl) ?_ ?_ <;> [subst xl; (intro hx; clear_value xl)]) | (refine keptP_cut (c := c) (p := xl) ?_ ?_ <;> [subst xl; (intro hx; clear_value xl)]) | subst xl)
    | apply kept_bump | apply kept_put | apply kept_tookFree | apply kept_ite
    | split
    | apply kept_mk | apply queueOk_of | apply freshOk_of | apply freshOk_add | apply regsOk_of | apply mgcOk_of | apply fabOk_of | apply storeOk_of | apply cfgOk_of | apply dramsOk_of)

theorem kept_execServiceHour {c : Keep} : ∀ x0 x1, Kept c x1 → KeptR c (execServiceHour x0 x1) := by
  intros
  unfold execServiceHour
  repeat' (with_reducible first
    | assumption
    | intro _
    | apply kept_serviceHour | apply keptR_ite | apply keptR_next | apply kept_ite
    | split)

theorem kept_execServiceHoursSave {c : Keep} : ∀ x0, Kept c x0 → KeptR c (execServiceHoursSave x0) := by
  intros
  unfold execServiceHoursSave
  repeat' (with_reducible first
    | assumption
    | intro _
    | apply kept_hoursSave | apply keptR_ite | apply keptR_next | apply kept_ite
    | split)

theorem kept_pinsLeave {c : Keep} : ∀ x0 x1, Kept c x0 → Kept c (pinsLeave x0 x1) := by
  intros
  unfold pinsLeave
  repeat' (with_reducible first
    | assumption
    | intro _
    | (rename _ = (_, _) => hq; first | (refine kept_fst_cut (c := c) hq ?_ ?_ <;> [clear hq; (clear hq; intro hr)]) | clear hq)
    | (extract_lets +onlyGivenNames xl; first | (refine kept_cut (c := c) (s := xl) ?_ ?_ <;> [subst xl; (intro hx; clear_value xl)]) | (refine keptP_cut (c := c) (p := xl) ?_ ?_ <;> [subst xl; (intro hx; clear_value xl)]) | subst xl)
    | apply kept_leavePin | apply kept_State_setPins | apply kept_ite | apply keptP_ite | apply keptP_mk
    | apply kept_foldl | apply keptP_foldl
    | split
    | apply kept_mk | apply queueOk_of | apply freshOk_of | apply freshOk_add | apply regsOk_of | apply mgcOk_of | apply fabOk_of | apply storeOk_of | apply cfgOk_of | apply dramsOk_of)

theorem kept_jtagTake {c : Keep} : ∀ x0, Kept c x0 → Kept c (jtagTake x0) := by
  intros
  unfold jtagTake
  repeat' (with_reducible first
    | assumption
    | intro _
    | (rename _ = (_, _) => hq; first | (refine kept_fst_cut (c := c) hq ?_ ?_ <;> [clear hq; (clear hq; intro hr)]) | clear hq)
    | (extract_lets +onlyGivenNames xl; first | (refine kept_cut (c := c) (s := xl) ?_ ?_ <;> [subst xl; (intro hx; clear_value xl)]) | (refine keptP_cut (c := c) (p := xl) ?_ ?_ <;> [subst xl; (intro hx; clear_value xl)]) | subst xl)
    | apply kept_put | apply kept_pinsLeave | apply kept_linkOff | apply kept_updateSeals | apply kept_kwrFollow | apply kept_ite | apply keptP_ite | apply keptP_mk
    | apply kept_foldl | apply keptP_foldl
    | split)

theorem kept_jtagRelease {c : Keep} : ∀ x0, Kept c x0 → Kept c (jtagRelease x0) := by
  intros
  unfold jtagRelease
  repeat' (with_reducible first
    | assumption
    | intro _
    | (rename _ = (_, _) => hq; first | (refine kept_fst_cut (c := c) hq ?_ ?_ <;> [clear hq; (clear hq; intro hr)]) | clear hq)
    | (extract_lets +onlyGivenNames xl; first | (refine kept_cut (c := c) (s := xl) ?_ ?_ <;> [subst xl; (intro hx; clear_value xl)]) | (refine keptP_cut (c := c) (p := xl) ?_ ?_ <;> [subst xl; (intro hx; clear_value xl)]) | subst xl)
    | apply kept_updateSeals | apply kept_put | apply kept_laneKick | apply kept_ite | apply keptP_ite | apply keptP_mk
    | apply kept_foldl | apply keptP_foldl
    | split)

theorem kept_jtagCurrent {c : Keep} : ∀ x0 x1 x2 x3 x4, Kept c x0 → Kept c (jtagCurrent x0 x1 x2 x3 x4) := by
  intros
  unfold jtagCurrent
  repeat' (with_reducible first
    | assumption
    | intro _
    | (extract_lets +onlyGivenNames xl; first | (refine kept_cut (c := c) (s := xl) ?_ ?_ <;> [subst xl; (intro hx; clear_value xl)]) | (refine keptP_cut (c := c) (p := xl) ?_ ?_ <;> [subst xl; (intro hx; clear_value xl)]) | subst xl)
    | apply kept_put | apply kept_jtagTake | apply kept_jtagRelease | apply kept_ite
    | split
    | apply kept_mk | apply queueOk_of | apply freshOk_of | apply freshOk_add | apply regsOk_of | apply mgcOk_of | apply fabOk_of | apply storeOk_of | apply cfgOk_of | apply dramsOk_of)

theorem kept_execJtagExtest {c : Keep} : ∀ x0 x1, Kept c x1 → KeptR c (execJtagExtest x0 x1) := by
  intros
  unfold execJtagExtest
  repeat' (with_reducible first
    | assumption
    | intro _
    | apply kept_jtagCurrent | apply keptR_ite | apply keptR_next | apply kept_ite
    | split)

theorem kept_execJtagIdcode {c : Keep} : ∀ x0 x1, Kept c x1 → KeptR c (execJtagIdcode x0 x1) := by
  intros
  unfold execJtagIdcode
  repeat' (with_reducible first
    | assumption
    | intro _
    | apply kept_jtagCurrent | apply keptR_ite | apply keptR_next | apply kept_ite
    | split)

theorem kept_execJtagSamplePreload {c : Keep} : ∀ x0 x1, Kept c x1 → KeptR c (execJtagSamplePreload x0 x1) := by
  intros
  unfold execJtagSamplePreload
  repeat' (with_reducible first
    | assumption
    | intro _
    | apply kept_jtagCurrent | apply keptR_ite | apply keptR_next | apply kept_ite
    | split)

theorem kept_execJtagClamp {c : Keep} : ∀ x0 x1, Kept c x1 → KeptR c (execJtagClamp x0 x1) := by
  intros
  unfold execJtagClamp
  repeat' (with_reducible first
    | assumption
    | intro _
    | apply kept_jtagCurrent | apply keptR_ite | apply keptR_next | apply kept_ite
    | split)

theorem kept_execJtagHighz {c : Keep} : ∀ x0 x1, Kept c x1 → KeptR c (execJtagHighz x0 x1) := by
  intros
  unfold execJtagHighz
  repeat' (with_reducible first
    | assumption
    | intro _
    | apply kept_jtagCurrent | apply keptR_ite | apply keptR_next | apply kept_ite
    | split)

theorem kept_execJtagExtestPulse {c : Keep} : ∀ x0 x1, Kept c x1 → KeptR c (execJtagExtestPulse x0 x1) := by
  intros
  unfold execJtagExtestPulse
  repeat' (with_reducible first
    | assumption
    | intro _
    | apply kept_jtagCurrent | apply keptR_ite | apply keptR_next | apply kept_ite
    | split)

theorem kept_execJtagExtestTrain {c : Keep} : ∀ x0 x1, Kept c x1 → KeptR c (execJtagExtestTrain x0 x1) := by
  intros
  unfold execJtagExtestTrain
  repeat' (with_reducible first
    | assumption
    | intro _
    | apply kept_jtagCurrent | apply keptR_ite | apply keptR_next | apply kept_ite
    | split)

theorem kept_execJtagBypass {c : Keep} : ∀ x0 x1, Kept c x1 → KeptR c (execJtagBypass x0 x1) := by
  intros
  unfold execJtagBypass
  repeat' (with_reducible first
    | assumption
    | intro _
    | apply kept_jtagCurrent | apply keptR_ite | apply keptR_next | apply kept_ite
    | split)

theorem kept_execJtagInstructionEnd {c : Keep} : ∀ x0, Kept c x0 → KeptR c (execJtagInstructionEnd x0) := by
  intros
  unfold execJtagInstructionEnd
  repeat' (with_reducible first
    | assumption
    | intro _
    | (extract_lets +onlyGivenNames xl; first | (refine kept_cut (c := c) (s := xl) ?_ ?_ <;> [subst xl; (intro hx; clear_value xl)]) | (refine keptP_cut (c := c) (p := xl) ?_ ?_ <;> [subst xl; (intro hx; clear_value xl)]) | subst xl)
    | apply kept_jtagRelease | apply keptR_ite | apply keptR_next | apply kept_ite
    | split
    | apply kept_mk | apply queueOk_of | apply freshOk_of | apply freshOk_add | apply regsOk_of | apply mgcOk_of | apply fabOk_of | apply storeOk_of | apply cfgOk_of | apply dramsOk_of)

end Sys2Proof.Machine
end

