-- ==== Sys2Proof/Laws/KeptPower.lean ====
section
/-! SUPPORT. What every operation of Machine/Power.lean keeps (Laws/Kept.lean). -/
set_option linter.unusedTactic false
set_option linter.unreachableTactic false
namespace Sys2Proof.Machine
open Sys2Proof

theorem kept_State_setPwr {c : Keep} : ∀ x0 x1, Kept c x0 → Kept c (State.setPwr x0 x1) := by
  intros
  unfold State.setPwr
  repeat' (with_reducible first
    | assumption
    | intro _
    | apply kept_ite
    | split
    | apply kept_mk | apply queueOk_of | apply freshOk_of | apply freshOk_add | apply regsOk_of | apply mgcOk_of | apply fabOk_of | apply storeOk_of | apply cfgOk_of | apply dramsOk_of)

theorem kept_cutCal {c : Keep} : ∀ x0, Kept c x0 → Kept c (cutCal x0) := by
  intros
  unfold cutCal
  repeat' (with_reducible first
    | assumption
    | intro _
    | (extract_lets +onlyGivenNames xl; first | (refine kept_cut (c := c) (s := xl) ?_ ?_ <;> [subst xl; (intro hx; clear_value xl)]) | (refine keptP_cut (c := c) (p := xl) ?_ ?_ <;> [subst xl; (intro hx; clear_value xl)]) | subst xl)
    | apply kept_ite
    | split
    | apply kept_mk | apply queueOk_of | apply freshOk_of | apply freshOk_add | apply regsOk_of | apply mgcOk_of | apply fabOk_of | apply storeOk_of | apply cfgOk_of | apply dramsOk_of)

theorem kept_cutRepair {c : Keep} : ∀ x0, Kept c x0 → Kept c (cutRepair x0) := by
  intros
  unfold cutRepair
  repeat' (with_reducible first
    | assumption
    | intro _
    | (extract_lets +onlyGivenNames xl; first | (refine kept_cut (c := c) (s := xl) ?_ ?_ <;> [subst xl; (intro hx; clear_value xl)]) | (refine keptP_cut (c := c) (p := xl) ?_ ?_ <;> [subst xl; (intro hx; clear_value xl)]) | subst xl)
    | apply kept_tookFree | apply kept_ite
    | split
    | apply kept_mk | apply queueOk_of | apply freshOk_of | apply freshOk_add | apply regsOk_of | apply mgcOk_of | apply fabOk_of | apply storeOk_of | apply cfgOk_of | apply dramsOk_of)

theorem kept_coldReset {c : Keep} : ∀ x0 x1 x2, Kept c x0 → Kept c (coldReset x0 x1 x2) := by
  intro s n p h
  have h := kept_cutRepair _ (kept_cutCal s h)
  unfold coldReset
  exact kept_put (kept_foldl (kept_foldl (kept_foldl ⟨h.queue, h.fresh, rfl, ⟨logOk_nil, holdOk_nil, queuesOk_nil⟩, framesOk_nil,
    contentOk_nil, h.cfg, dramsOk_nil⟩ fun _ _ h => kept_put h) fun _ _ h => kept_put h) fun _ _ h => kept_put (kept_put h))

theorem kept_supplyRise {c : Keep} : ∀ x0, Kept c x0 → Kept c (supplyRise x0) := by
  intros
  unfold supplyRise
  repeat' (with_reducible first
    | assumption
    | intro _
    | (extract_lets +onlyGivenNames xl; first | (refine kept_cut (c := c) (s := xl) ?_ ?_ <;> [subst xl; (intro hx; clear_value xl)]) | (refine keptP_cut (c := c) (p := xl) ?_ ?_ <;> [subst xl; (intro hx; clear_value xl)]) | subst xl)
    | apply kept_put | apply kept_tookFree | apply kept_State_setPwr | apply kept_ite
    | split
    | apply kept_mk | apply queueOk_of | apply freshOk_of | apply freshOk_add | apply regsOk_of | apply mgcOk_of | apply fabOk_of | apply storeOk_of | apply cfgOk_of | apply dramsOk_of)

theorem kept_execSupplyRise {c : Keep} : ∀ x0, Kept c x0 → KeptR c (execSupplyRise x0) := by
  intros
  unfold execSupplyRise
  repeat' (with_reducible first
    | assumption
    | intro _
    | apply kept_supplyRise | apply keptR_ite | apply keptR_next | apply kept_ite
    | split)

theorem kept_porRelease {c : Keep} : ∀ x0 x1 x2, Kept c x0 → Kept c (porRelease x0 x1 x2) := by
  intros
  unfold porRelease
  repeat' (with_reducible first
    | assumption
    | intro _
    | (rename _ = (_, _) => hq; first | (refine kept_fst_cut (c := c) hq ?_ ?_ <;> [clear hq; (clear hq; intro hr)]) | clear hq)
    | (extract_lets +onlyGivenNames xl; first | (refine kept_cut (c := c) (s := xl) ?_ ?_ <;> [subst xl; (intro hx; clear_value xl)]) | (refine keptP_cut (c := c) (p := xl) ?_ ?_ <;> [subst xl; (intro hx; clear_value xl)]) | subst xl)
    | apply kept_put | apply kept_State_setPwr | apply kept_ite | apply keptP_ite | apply keptP_mk
    | apply kept_foldl | apply keptP_foldl
    | split
    | apply kept_mk | apply queueOk_of | apply freshOk_of | apply freshOk_add | apply regsOk_of | apply mgcOk_of | apply fabOk_of | apply storeOk_of | apply cfgOk_of | apply dramsOk_of)

theorem kept_execPowerOnResetRelease {c : Keep} : ∀ x0 x1 x2, Kept c x2 → KeptR c (execPowerOnResetRelease x0 x1 x2) := by
  intros
  unfold execPowerOnResetRelease
  repeat' (with_reducible first
    | assumption
    | intro _
    | apply kept_porRelease | apply keptR_ite | apply keptR_next | apply kept_ite
    | split)

theorem kept_rootLock {c : Keep} : ∀ x0, Kept c x0 → Kept c (rootLock x0) := by
  intros
  unfold rootLock
  repeat' (with_reducible first
    | assumption
    | intro _
    | (extract_lets +onlyGivenNames xl; first | (refine kept_cut (c := c) (s := xl) ?_ ?_ <;> [subst xl; (intro hx; clear_value xl)]) | (refine keptP_cut (c := c) (p := xl) ?_ ?_ <;> [subst xl; (intro hx; clear_value xl)]) | subst xl)
    | apply kept_put | apply kept_updateSeals | apply kept_State_setPwr | apply kept_ite
    | split
    | apply kept_mk | apply queueOk_of | apply freshOk_of | apply freshOk_add | apply regsOk_of | apply mgcOk_of | apply fabOk_of | apply storeOk_of | apply cfgOk_of | apply dramsOk_of)

theorem kept_execRootPllLock {c : Keep} : ∀ x0, Kept c x0 → KeptR c (execRootPllLock x0) := by
  intros
  unfold execRootPllLock
  repeat' (with_reducible first
    | assumption
    | intro _
    | apply kept_rootLock | apply keptR_ite | apply keptR_next | apply kept_ite
    | split)

theorem kept_execPorst {c : Keep} : ∀ x0, Kept c x0 → KeptR c (execPorst x0) := by
  intros
  unfold execPorst
  repeat' (with_reducible first
    | assumption
    | intro _
    | apply kept_coldReset | apply keptR_ite | apply keptR_next | apply kept_ite
    | split)

theorem kept_execBrownout {c : Keep} : ∀ x0, Kept c x0 → KeptR c (execBrownout x0) := by
  intros
  unfold execBrownout
  repeat' (with_reducible first
    | assumption
    | intro _
    | (extract_lets +onlyGivenNames xl; first | (refine kept_cut (c := c) (s := xl) ?_ ?_ <;> [subst xl; (intro hx; clear_value xl)]) | (refine keptP_cut (c := c) (p := xl) ?_ ?_ <;> [subst xl; (intro hx; clear_value xl)]) | subst xl)
    | apply kept_coldReset | apply kept_put | apply kept_State_setPwr | apply keptR_ite | apply keptR_next | apply kept_ite
    | split
    | apply kept_mk | apply queueOk_of | apply freshOk_of | apply freshOk_add | apply regsOk_of | apply mgcOk_of | apply fabOk_of | apply storeOk_of | apply cfgOk_of | apply dramsOk_of)

theorem kept_refLost {c : Keep} : ∀ x0, Kept c x0 → Kept c (refLost x0) := by
  intros
  unfold refLost
  repeat' (with_reducible first
    | assumption
    | intro _
    | (extract_lets +onlyGivenNames xl; first | (refine kept_cut (c := c) (s := xl) ?_ ?_ <;> [subst xl; (intro hx; clear_value xl)]) | (refine keptP_cut (c := c) (p := xl) ?_ ?_ <;> [subst xl; (intro hx; clear_value xl)]) | subst xl)
    | apply kept_put | apply kept_coldReset | apply kept_ite
    | split
    | apply kept_mk | apply queueOk_of | apply freshOk_of | apply freshOk_add | apply regsOk_of | apply mgcOk_of | apply fabOk_of | apply storeOk_of | apply cfgOk_of | apply dramsOk_of | apply mgcOk_mk | apply logOk_of | apply holdOk_of | apply queuesOk_of | exact logOk_nil | exact holdOk_nil | exact queuesOk_nil)

theorem kept_execRefLost {c : Keep} : ∀ x0, Kept c x0 → KeptR c (execRefLost x0) := by
  intros
  unfold execRefLost
  repeat' (with_reducible first
    | assumption
    | intro _
    | apply kept_refLost | apply keptR_ite | apply keptR_next | apply kept_ite
    | split)

theorem kept_lockLost {c : Keep} : ∀ x0, Kept c x0 → Kept c (lockLost x0) := by
  intros
  unfold lockLost
  repeat' (with_reducible first
    | assumption
    | intro _
    | (extract_lets +onlyGivenNames xl; first | (refine kept_cut (c := c) (s := xl) ?_ ?_ <;> [subst xl; (intro hx; clear_value xl)]) | (refine keptP_cut (c := c) (p := xl) ?_ ?_ <;> [subst xl; (intro hx; clear_value xl)]) | subst xl)
    | apply kept_coldReset | apply kept_ite
    | split
    | apply kept_mk | apply queueOk_of | apply freshOk_of | apply freshOk_add | apply regsOk_of | apply mgcOk_of | apply fabOk_of | apply storeOk_of | apply cfgOk_of | apply dramsOk_of | apply mgcOk_mk | apply logOk_of | apply holdOk_of | apply queuesOk_of | exact logOk_nil | exact holdOk_nil | exact queuesOk_nil)

theorem kept_execRootPllLockLost {c : Keep} : ∀ x0, Kept c x0 → KeptR c (execRootPllLockLost x0) := by
  intros
  unfold execRootPllLockLost
  repeat' (with_reducible first
    | assumption
    | intro _
    | apply kept_lockLost | apply keptR_ite | apply keptR_next | apply kept_ite
    | split)

theorem kept_bootCal {c : Keep} : ∀ x0, Kept c x0 → Kept c (bootCal x0) := by
  intros
  unfold bootCal
  repeat' (with_reducible first
    | assumption
    | intro _
    | (rename _ = (_, _) => hq; first | (refine kept_fst_cut (c := c) hq ?_ ?_ <;> [clear hq; (clear hq; intro hr)]) | clear hq)
    | (extract_lets +onlyGivenNames xl; first | (refine kept_cut (c := c) (s := xl) ?_ ?_ <;> [subst xl; (intro hx; clear_value xl)]) | (refine keptP_cut (c := c) (p := xl) ?_ ?_ <;> [subst xl; (intro hx; clear_value xl)]) | subst xl)
    | apply kept_presetCord | apply kept_raise | apply kept_ite | apply keptP_ite | apply keptP_mk
    | apply kept_foldl | apply keptP_foldl
    | split
    | apply kept_mk | apply queueOk_of | apply freshOk_of | apply freshOk_add | apply regsOk_of | apply mgcOk_of | apply fabOk_of | apply storeOk_of | apply cfgOk_of | apply dramsOk_of | apply mgcOk_mk | apply logOk_of | apply holdOk_of | apply queuesOk_of | exact logOk_nil | exact holdOk_nil | exact queuesOk_nil)

theorem kept_bootRemaps {c : Keep} : ∀ x0 x1, Kept c x0 → Kept c (bootRemaps x0 x1) := by
  intros
  unfold bootRemaps
  repeat' (with_reducible first
    | assumption
    | intro _
    | (rename _ = (_, _) => hq; first | (refine kept_fst_cut (c := c) hq ?_ ?_ <;> [clear hq; (clear hq; intro hr)]) | clear hq)
    | (extract_lets +onlyGivenNames xl; first | (refine kept_cut (c := c) (s := xl) ?_ ?_ <;> [subst xl; (intro hx; clear_value xl)]) | (refine keptP_cut (c := c) (p := xl) ?_ ?_ <;> [subst xl; (intro hx; clear_value xl)]) | subst xl)
    | apply kept_setWord | apply kept_ite | apply keptP_ite | apply keptP_mk
    | apply kept_foldl | apply keptP_foldl
    | split)

theorem kept_bootRepair {c : Keep} : ∀ x0, Kept c x0 → Kept c (bootRepair x0) := by
  intros
  unfold bootRepair
  repeat' (with_reducible first
    | assumption
    | intro _
    | (rename _ = (_, _) => hq; first | (refine kept_fst_cut (c := c) hq ?_ ?_ <;> [clear hq; (clear hq; intro hr)]) | clear hq)
    | (extract_lets +onlyGivenNames xl; first | (refine kept_cut (c := c) (s := xl) ?_ ?_ <;> [subst xl; (intro hx; clear_value xl)]) | (refine keptP_cut (c := c) (p := xl) ?_ ?_ <;> [subst xl; (intro hx; clear_value xl)]) | subst xl)
    | apply kept_raise | apply kept_setRepair | apply kept_blocksHearth | apply kept_steerHearth | apply kept_bootRemaps | apply kept_rowsApply | apply kept_put | apply kept_repStat | apply kept_cordMap | apply kept_ite | apply keptP_ite | apply keptP_mk
    | apply kept_foldl | apply keptP_foldl
    | split
    | apply kept_mk | apply queueOk_of | apply freshOk_of | apply freshOk_add | apply regsOk_of | apply mgcOk_of | apply fabOk_of | apply storeOk_of | apply cfgOk_of | apply dramsOk_of)

theorem kept_bootRecord {c : Keep} : ∀ x0, Kept c x0 → KeptP c (bootRecord x0) := by
  intros
  unfold bootRecord
  repeat' (with_reducible first
    | assumption
    | intro _
    | (extract_lets +onlyGivenNames xl; first | (refine kept_cut (c := c) (s := xl) ?_ ?_ <;> [subst xl; (intro hx; clear_value xl)]) | (refine keptP_cut (c := c) (p := xl) ?_ ?_ <;> [subst xl; (intro hx; clear_value xl)]) | subst xl)
    | apply kept_put | apply kept_ite | apply keptP_ite | apply keptP_mk
    | split
    | apply kept_mk | apply queueOk_of | apply freshOk_of | apply freshOk_add | apply regsOk_of | apply mgcOk_of | apply fabOk_of | apply storeOk_of | apply cfgOk_of | apply dramsOk_of)

theorem kept_vfabCommand {c : Keep} : ∀ x0 x1, Kept c x0 → Kept c (vfabCommand x0 x1) := by
  intros
  unfold vfabCommand
  repeat' (with_reducible first
    | assumption
    | intro _
    | apply kept_State_setPace | apply kept_put | apply kept_ite
    | split
    | apply kept_mk | apply queueOk_of | apply freshOk_of | apply freshOk_add | apply regsOk_of | apply mgcOk_of | apply fabOk_of | apply storeOk_of | apply cfgOk_of | apply dramsOk_of)

theorem kept_vfabBoot {c : Keep} : ∀ x0 x1, Kept c x0 → Kept c (vfabBoot x0 x1) := by
  intros
  unfold vfabBoot
  repeat' (with_reducible first
    | assumption
    | intro _
    | (extract_lets +onlyGivenNames xl; first | (refine kept_cut (c := c) (s := xl) ?_ ?_ <;> [subst xl; (intro hx; clear_value xl)]) | (refine keptP_cut (c := c) (p := xl) ?_ ?_ <;> [subst xl; (intro hx; clear_value xl)]) | subst xl)
    | apply kept_vfabCommand | apply kept_vfabFault | apply kept_ite
    | split)

theorem kept_mgcReady {c : Keep} : ∀ x0, Kept c x0 → Kept c (mgcReady x0) := by
  intros
  unfold mgcReady
  repeat' (with_reducible first
    | assumption
    | intro _
    | (extract_lets +onlyGivenNames xl; first | (refine kept_cut (c := c) (s := xl) ?_ ?_ <;> [subst xl; (intro hx; clear_value xl)]) | (refine keptP_cut (c := c) (p := xl) ?_ ?_ <;> [subst xl; (intro hx; clear_value xl)]) | subst xl)
    | apply kept_replayHeld | apply kept_put | apply kept_raise | apply kept_ite
    | split
    | apply kept_mk | apply queueOk_of | apply freshOk_of | apply freshOk_add | apply regsOk_of | apply mgcOk_of | apply fabOk_of | apply storeOk_of | apply cfgOk_of | apply dramsOk_of | apply mgcOk_mk | apply logOk_of | apply holdOk_of | apply queuesOk_of | exact logOk_nil | exact holdOk_nil | exact queuesOk_nil)

theorem kept_mgcBoot {c : Keep} : ∀ x0 x1, Kept c x0 → Kept c (mgcBoot x0 x1) := by
  intros
  unfold mgcBoot
  repeat' (with_reducible first
    | assumption
    | intro _
    | (rename _ = (_, _) => hq; first | (refine kept_fst_cut (c := c) hq ?_ ?_ <;> [clear hq; (clear hq; intro hr)]) | clear hq)
    | (extract_lets +onlyGivenNames xl; first | (refine kept_cut (c := c) (s := xl) ?_ ?_ <;> [subst xl; (intro hx; clear_value xl)]) | (refine keptP_cut (c := c) (p := xl) ?_ ?_ <;> [subst xl; (intro hx; clear_value xl)]) | subst xl)
    | (apply kept_fst; first | assumption | apply kept_bootRecord)
    | apply kept_showPhys | apply kept_bootRepair | apply kept_bootCal | apply kept_bootRecord | apply kept_put | apply kept_mgcReady | apply kept_vfabBoot | apply kept_keyStatus | apply kept_loadStart | apply kept_setPhase | apply kept_ite | apply keptP_ite | apply keptP_mk
    | split)

theorem kept_execMgcBootDone {c : Keep} : ∀ x0 x1, Kept c x1 → KeptR c (execMgcBootDone x0 x1) := by
  intros
  unfold execMgcBootDone
  repeat' (with_reducible first
    | assumption
    | intro _
    | apply kept_mgcBoot | apply keptR_ite | apply keptR_next | apply kept_ite
    | split)

theorem kept_powerPhase {c : Keep} : ∀ x0 x1, Kept c x0 → Kept c (powerPhase x0 x1) := by
  intros
  unfold powerPhase
  repeat' (with_reducible first
    | assumption
    | intro _
    | apply kept_clearStaged | apply kept_closeHasps | apply kept_setPhase | apply kept_ite
    | split)

theorem kept_lanesReturn {c : Keep} : ∀ x0, Kept c x0 → Kept c (lanesReturn x0) := by
  intros
  unfold lanesReturn
  repeat' (with_reducible first
    | assumption
    | intro _
    | (rename _ = (_, _) => hq; first | (refine kept_fst_cut (c := c) hq ?_ ?_ <;> [clear hq; (clear hq; intro hr)]) | clear hq)
    | (extract_lets +onlyGivenNames xl; first | (refine kept_cut (c := c) (s := xl) ?_ ?_ <;> [subst xl; (intro hx; clear_value xl)]) | (refine keptP_cut (c := c) (p := xl) ?_ ?_ <;> [subst xl; (intro hx; clear_value xl)]) | subst xl)
    | apply kept_leaveBanked | apply kept_ite | apply keptP_ite | apply keptP_mk
    | apply kept_foldl | apply keptP_foldl
    | split)

theorem kept_simmerEnter {c : Keep} : ∀ x0, Kept c x0 → Kept c (simmerEnter x0) := by
  intros
  unfold simmerEnter
  repeat' (with_reducible first
    | assumption
    | intro _
    | apply kept_powerPhase | apply kept_State_setPwr | apply kept_ite
    | split
    | apply kept_mk | apply queueOk_of | apply freshOk_of | apply freshOk_add | apply regsOk_of | apply mgcOk_of | apply fabOk_of | apply storeOk_of | apply cfgOk_of | apply dramsOk_of)

theorem kept_bankedEnter {c : Keep} : ∀ x0, Kept c x0 → Kept c (bankedEnter x0) := by
  intros
  unfold bankedEnter
  repeat' (with_reducible first
    | assumption
    | intro _
    | (rename _ = (_, _) => hq; first | (refine kept_fst_cut (c := c) hq ?_ ?_ <;> [clear hq; (clear hq; intro hr)]) | clear hq)
    | (extract_lets +onlyGivenNames xl; first | (refine kept_cut (c := c) (s := xl) ?_ ?_ <;> [subst xl; (intro hx; clear_value xl)]) | (refine keptP_cut (c := c) (p := xl) ?_ ?_ <;> [subst xl; (intro hx; clear_value xl)]) | subst xl)
    | apply kept_powerPhase | apply kept_keepLevels | apply kept_State_setPwr | apply kept_updateSeals | apply kept_stopScrub | apply kept_zeroLevels | apply kept_probesOff | apply kept_laneGoBanked | apply kept_dropReplay | apply kept_kwrFollow | apply kept_ite | apply keptP_ite | apply keptP_mk
    | apply kept_foldl | apply keptP_foldl
    | split
    | apply kept_mk | apply queueOk_of | apply freshOk_of | apply freshOk_add | apply regsOk_of | apply mgcOk_of | apply fabOk_of | apply storeOk_of | apply cfgOk_of | apply dramsOk_of)

theorem kept_simmerLeave {c : Keep} : ∀ x0, Kept c x0 → Kept c (simmerLeave x0) := by
  intros
  unfold simmerLeave
  repeat' (with_reducible first
    | assumption
    | intro _
    | apply kept_powerPhase | apply kept_State_setPwr | apply kept_put | apply kept_ite
    | split
    | apply kept_mk | apply queueOk_of | apply freshOk_of | apply freshOk_add | apply regsOk_of | apply mgcOk_of | apply fabOk_of | apply storeOk_of | apply cfgOk_of | apply dramsOk_of)

theorem kept_powerResume {c : Keep} : ∀ x0, Kept c x0 → Kept c (powerResume x0) := by
  intros
  unfold powerResume
  repeat' (with_reducible first
    | assumption
    | intro _
    | apply kept_simmerEnter | apply kept_bankedEnter | apply kept_ite
    | split
    | apply kept_mk | apply queueOk_of | apply freshOk_of | apply freshOk_add | apply regsOk_of | apply mgcOk_of | apply fabOk_of | apply storeOk_of | apply cfgOk_of | apply dramsOk_of)

theorem kept_simmerDone {c : Keep} : ∀ x0, Kept c x0 → Kept c (simmerDone x0) := by
  intros
  unfold simmerDone
  repeat' (with_reducible first
    | assumption
    | intro _
    | apply kept_powerResume | apply kept_vfabStart | apply kept_powerPhase | apply kept_ite
    | split)

theorem kept_runReached {c : Keep} : ∀ x0, Kept c x0 → Kept c (runReached x0) := by
  intros
  unfold runReached
  repeat' (with_reducible first
    | assumption
    | intro _
    | apply kept_powerResume | apply kept_passStart | apply kept_startLinks | apply kept_setPhase | apply kept_lanesReturn | apply kept_powerPhase | apply kept_simmerDone | apply kept_ite
    | split
    | apply kept_mk | apply queueOk_of | apply freshOk_of | apply freshOk_add | apply regsOk_of | apply mgcOk_of | apply fabOk_of | apply storeOk_of | apply cfgOk_of | apply dramsOk_of)

theorem kept_execRunReached {c : Keep} : ∀ x0, Kept c x0 → KeptR c (execRunReached x0) := by
  intros
  unfold execRunReached
  repeat' (with_reducible first
    | assumption
    | intro _
    | apply kept_runReached | apply keptR_ite | apply keptR_next | apply kept_ite
    | split)

theorem kept_powerRefuse {c : Keep} : ∀ x0 x1 x2, Kept c x0 → Kept c (powerRefuse x0 x1 x2) := by
  intros
  unfold powerRefuse
  repeat' (with_reducible first
    | assumption
    | intro _
    | apply kept_raise | apply kept_put | apply kept_ite
    | split)

theorem kept_cmdSimmer {c : Keep} : ∀ x0, Kept c x0 → Kept c (cmdSimmer x0) := by
  intros
  unfold cmdSimmer
  repeat' (with_reducible first
    | assumption
    | intro _
    | apply kept_powerRefuse | apply kept_put | apply kept_State_setPwr | apply kept_powerResume | apply kept_ite
    | split
    | apply kept_mk | apply queueOk_of | apply freshOk_of | apply freshOk_add | apply regsOk_of | apply mgcOk_of | apply fabOk_of | apply storeOk_of | apply cfgOk_of | apply dramsOk_of)

theorem kept_cmdBanked {c : Keep} : ∀ x0, Kept c x0 → Kept c (cmdBanked x0) := by
  intros
  unfold cmdBanked
  repeat' (with_reducible first
    | assumption
    | intro _
    | apply kept_powerRefuse | apply kept_powerResume | apply kept_put | apply kept_State_setPwr | apply kept_ite
    | split
    | apply kept_mk | apply queueOk_of | apply freshOk_of | apply freshOk_add | apply regsOk_of | apply mgcOk_of | apply fabOk_of | apply storeOk_of | apply cfgOk_of | apply dramsOk_of)

theorem kept_cmdRun {c : Keep} : ∀ x0, Kept c x0 → Kept c (cmdRun x0) := by
  intros
  unfold cmdRun
  repeat' (with_reducible first
    | assumption
    | intro _
    | (extract_lets +onlyGivenNames xl; first | (refine kept_cut (c := c) (s := xl) ?_ ?_ <;> [subst xl; (intro hx; clear_value xl)]) | (refine keptP_cut (c := c) (p := xl) ?_ ?_ <;> [subst xl; (intro hx; clear_value xl)]) | subst xl)
    | apply kept_powerRefuse | apply kept_put | apply kept_State_setPwr | apply kept_simmerLeave | apply kept_wakeEvent | apply kept_ite
    | split
    | apply kept_mk | apply queueOk_of | apply freshOk_of | apply freshOk_add | apply regsOk_of | apply mgcOk_of | apply fabOk_of | apply storeOk_of | apply cfgOk_of | apply dramsOk_of)

theorem kept_execPwrCmdSimmer {c : Keep} : ∀ x0, Kept c x0 → KeptR c (execPwrCmdSimmer x0) := by
  intros
  unfold execPwrCmdSimmer
  repeat' (with_reducible first
    | assumption
    | intro _
    | apply kept_cmdSimmer | apply kept_commandIf | apply keptR_ite | apply keptR_next | apply kept_ite
    | split)

theorem kept_execPwrCmdRun {c : Keep} : ∀ x0, Kept c x0 → KeptR c (execPwrCmdRun x0) := by
  intros
  unfold execPwrCmdRun
  repeat' (with_reducible first
    | assumption
    | intro _
    | apply kept_cmdRun | apply kept_commandIf | apply keptR_ite | apply keptR_next | apply kept_ite
    | split)

theorem kept_execPwrCmdBanked {c : Keep} : ∀ x0, Kept c x0 → KeptR c (execPwrCmdBanked x0) := by
  intros
  unfold execPwrCmdBanked
  repeat' (with_reducible first
    | assumption
    | intro _
    | apply kept_cmdBanked | apply kept_commandIf | apply keptR_ite | apply keptR_next | apply kept_ite
    | split)

theorem kept_simmerConfirm {c : Keep} : ∀ x0, Kept c x0 → Kept c (simmerConfirm x0) := by
  intros
  unfold simmerConfirm
  repeat' (with_reducible first
    | assumption
    | intro _
    | (extract_lets +onlyGivenNames xl; first | (refine kept_cut (c := c) (s := xl) ?_ ?_ <;> [subst xl; (intro hx; clear_value xl)]) | (refine keptP_cut (c := c) (p := xl) ?_ ?_ <;> [subst xl; (intro hx; clear_value xl)]) | subst xl)
    | apply kept_powerResume | apply kept_powerPhase | apply kept_ite
    | split)

theorem kept_rampEnd {c : Keep} : ∀ x0, Kept c x0 → Kept c (rampEnd x0) := by
  intros
  unfold rampEnd
  repeat' (with_reducible first
    | assumption
    | intro _
    | (rename _ = (_, _) => hq; first | (refine kept_fst_cut (c := c) hq ?_ ?_ <;> [clear hq; (clear hq; intro hr)]) | clear hq)
    | (extract_lets +onlyGivenNames xl; first | (refine kept_cut (c := c) (s := xl) ?_ ?_ <;> [subst xl; (intro hx; clear_value xl)]) | (refine keptP_cut (c := c) (p := xl) ?_ ?_ <;> [subst xl; (intro hx; clear_value xl)]) | subst xl)
    | apply kept_State_setPwr | apply kept_simmerConfirm | apply kept_State_setPace | apply kept_ite | apply keptP_ite | apply keptP_mk
    | apply kept_foldl | apply keptP_foldl
    | split
    | apply kept_mk | apply queueOk_of | apply freshOk_of | apply freshOk_add | apply regsOk_of | apply mgcOk_of | apply fabOk_of | apply storeOk_of | apply cfgOk_of | apply dramsOk_of)

theorem kept_clockDivide {c : Keep} : ∀ x0, Kept c x0 → Kept c (clockDivide x0) := by
  intros
  unfold clockDivide
  repeat' (with_reducible first
    | assumption
    | intro _
    | (extract_lets +onlyGivenNames xl; first | (refine kept_cut (c := c) (s := xl) ?_ ?_ <;> [subst xl; (intro hx; clear_value xl)]) | (refine keptP_cut (c := c) (p := xl) ?_ ?_ <;> [subst xl; (intro hx; clear_value xl)]) | subst xl)
    | apply kept_put | apply kept_vfabStart | apply kept_rampEnd | apply kept_simmerConfirm | apply kept_State_setPwr | apply kept_ite
    | split
    | apply kept_mk | apply queueOk_of | apply freshOk_of | apply freshOk_add | apply regsOk_of | apply mgcOk_of | apply fabOk_of | apply storeOk_of | apply cfgOk_of | apply dramsOk_of)

theorem kept_execSimmerClockDivide {c : Keep} : ∀ x0, Kept c x0 → KeptR c (execSimmerClockDivide x0) := by
  intros
  unfold execSimmerClockDivide
  repeat' (with_reducible first
    | assumption
    | intro _
    | apply kept_clockDivide | apply keptR_ite | apply keptR_next | apply kept_ite
    | split)

theorem kept_simmerFail {c : Keep} : ∀ x0, Kept c x0 → Kept c (simmerFail x0) := by
  intros
  unfold simmerFail
  repeat' (with_reducible first
    | assumption
    | intro _
    | (extract_lets +onlyGivenNames xl; first | (refine kept_cut (c := c) (s := xl) ?_ ?_ <;> [subst xl; (intro hx; clear_value xl)]) | (refine keptP_cut (c := c) (p := xl) ?_ ?_ <;> [subst xl; (intro hx; clear_value xl)]) | subst xl)
    | apply kept_raise | apply kept_simmerLeave | apply kept_ite
    | split)

theorem kept_execSimmerConfirmTimeout {c : Keep} : ∀ x0, Kept c x0 → KeptR c (execSimmerConfirmTimeout x0) := by
  intros
  unfold execSimmerConfirmTimeout
  repeat' (with_reducible first
    | assumption
    | intro _
    | apply kept_simmerFail | apply keptR_ite | apply keptR_next | apply kept_ite
    | split)

theorem kept_vfabWatch {c : Keep} : ∀ x0 x1, Kept c x0 → Kept c x1 → Kept c (vfabWatch x0 x1) := by
  intros
  unfold vfabWatch
  repeat' (with_reducible first
    | assumption
    | intro _
    | apply kept_simmerFail | apply kept_ite
    | split)

theorem kept_execVfabRampStep {c : Keep} : ∀ x0 x1, Kept c x1 → KeptR c (execVfabRampStep x0 x1) := by
  intros
  unfold execVfabRampStep
  repeat' (with_reducible first
    | assumption
    | intro _
    | (extract_lets +onlyGivenNames xl; first | (refine kept_cut (c := c) (s := xl) ?_ ?_ <;> [subst xl; (intro hx; clear_value xl)]) | (refine keptP_cut (c := c) (p := xl) ?_ ?_ <;> [subst xl; (intro hx; clear_value xl)]) | subst xl)
    | apply kept_vfabWatch | apply kept_vfabStep | apply kept_rampEnd | apply keptR_ite | apply keptR_next | apply kept_ite
    | split)

theorem kept_execVfabReadVout {c : Keep} : ∀ x0 x1 x2, Kept c x2 → KeptR c (execVfabReadVout x0 x1 x2) := by
  intros
  unfold execVfabReadVout
  repeat' (with_reducible first
    | assumption
    | intro _
    | apply kept_simmerConfirm | apply kept_vfabWatch | apply kept_vfabRead | apply keptR_ite | apply keptR_next | apply kept_ite
    | split)

theorem kept_execPmbAlert {c : Keep} : ∀ x0, Kept c x0 → KeptR c (execPmbAlert x0) := by
  intros
  unfold execPmbAlert
  repeat' (with_reducible first
    | assumption
    | intro _
    | apply kept_vfabWatch | apply kept_vfabFault | apply keptR_ite | apply keptR_next | apply kept_ite
    | split)

theorem kept_execVfabMismatchTimeout {c : Keep} : ∀ x0, Kept c x0 → KeptR c (execVfabMismatchTimeout x0) := by
  intros
  unfold execVfabMismatchTimeout
  repeat' (with_reducible first
    | assumption
    | intro _
    | apply kept_vfabWatch | apply kept_vfabMismatch | apply keptR_ite | apply keptR_next | apply kept_ite
    | split)

theorem kept_windowEnd {c : Keep} : ∀ x0 x1 x2 x3, Kept c x0 → Kept c (windowEnd x0 x1 x2 x3) := by
  intros
  unfold windowEnd
  repeat' (with_reducible first
    | assumption
    | intro _
    | (extract_lets +onlyGivenNames xl; first | (refine kept_cut (c := c) (s := xl) ?_ ?_ <;> [subst xl; (intro hx; clear_value xl)]) | (refine keptP_cut (c := c) (p := xl) ?_ ?_ <;> [subst xl; (intro hx; clear_value xl)]) | subst xl)
    | apply kept_paceEnd | apply kept_State_setPwr | apply kept_State_setPace | apply kept_simmerConfirm | apply kept_ite
    | split
    | apply kept_mk | apply queueOk_of | apply freshOk_of | apply freshOk_add | apply regsOk_of | apply mgcOk_of | apply fabOk_of | apply storeOk_of | apply cfgOk_of | apply dramsOk_of)

theorem kept_execPaceWindowEnd {c : Keep} : ∀ x0 x1 x2 x3, Kept c x3 → KeptR c (execPaceWindowEnd x0 x1 x2 x3) := by
  intros
  unfold execPaceWindowEnd
  repeat' (with_reducible first
    | assumption
    | intro _
    | apply kept_windowEnd | apply keptR_ite | apply keptR_next | apply kept_ite
    | split)

theorem kept_bankedCut {c : Keep} : ∀ x0, Kept c x0 → Kept c (bankedCut x0) := by
  intros
  unfold bankedCut
  repeat' (with_reducible first
    | assumption
    | intro _
    | (extract_lets +onlyGivenNames xl; first | (refine kept_cut (c := c) (s := xl) ?_ ?_ <;> [subst xl; (intro hx; clear_value xl)]) | (refine keptP_cut (c := c) (p := xl) ?_ ?_ <;> [subst xl; (intro hx; clear_value xl)]) | subst xl)
    | apply kept_dropFabric | apply kept_put | apply kept_ite
    | split
    | apply kept_mk | apply queueOk_of | apply freshOk_of | apply freshOk_add | apply regsOk_of | apply mgcOk_of | apply fabOk_of | apply storeOk_of | apply cfgOk_of | apply dramsOk_of
    | apply storeOk_mk | apply contentOk_of | apply contentOk_tput | apply contentOk_tdrop | exact contentOk_nil)

theorem kept_suppliesAs {c : Keep} : ∀ x0 x1, Kept c x0 → Kept c (suppliesAs x0 x1) := by
  intros
  unfold suppliesAs
  repeat' (with_reducible first
    | assumption
    | intro _
    | apply kept_put | apply kept_ite
    | split)

theorem kept_bankedOff {c : Keep} : ∀ x0, Kept c x0 → Kept c (bankedOff x0) := by
  intros
  unfold bankedOff
  repeat' (with_reducible first
    | assumption
    | intro _
    | (rename _ = (_, _) => hq; first | (refine kept_fst_cut (c := c) hq ?_ ?_ <;> [clear hq; (clear hq; intro hr)]) | clear hq)
    | (extract_lets +onlyGivenNames xl; first | (refine kept_cut (c := c) (s := xl) ?_ ?_ <;> [subst xl; (intro hx; clear_value xl)]) | (refine keptP_cut (c := c) (p := xl) ?_ ?_ <;> [subst xl; (intro hx; clear_value xl)]) | subst xl)
    | apply kept_powerPhase | apply kept_State_setPwr | apply kept_bankHot | apply kept_ite | apply keptP_ite | apply keptP_mk
    | apply kept_foldl | apply keptP_foldl
    | split
    | apply kept_mk | apply queueOk_of | apply freshOk_of | apply freshOk_add | apply regsOk_of | apply mgcOk_of | apply fabOk_of | apply storeOk_of | apply cfgOk_of | apply dramsOk_of)

theorem kept_wakeLatched {c : Keep} : ∀ x0, Kept c x0 → Kept c (wakeLatched x0) := by
  intros
  unfold wakeLatched
  repeat' (with_reducible first
    | assumption
    | intro _
    | apply kept_wakeEvent | apply kept_State_setPwr | apply kept_ite
    | split
    | apply kept_mk | apply queueOk_of | apply freshOk_of | apply freshOk_add | apply regsOk_of | apply mgcOk_of | apply fabOk_of | apply storeOk_of | apply cfgOk_of | apply dramsOk_of)

theorem kept_bankedDone {c : Keep} : ∀ x0, Kept c x0 → Kept c (bankedDone x0) := by
  intros
  unfold bankedDone
  repeat' (with_reducible first
    | assumption
    | intro _
    | apply kept_wakeLatched | apply kept_bankedOff | apply kept_suppliesAs | apply kept_bankedCut | apply kept_ite
    | split)

theorem kept_execBankedEntryComplete {c : Keep} : ∀ x0, Kept c x0 → KeptR c (execBankedEntryComplete x0) := by
  intros
  unfold execBankedEntryComplete
  repeat' (with_reducible first
    | assumption
    | intro _
    | apply kept_bankedDone | apply keptR_ite | apply keptR_next | apply kept_ite
    | split)

theorem kept_bankedWake {c : Keep} : ∀ x0 x1, Kept c x0 → Kept c (bankedWake x0 x1) := by
  intros
  unfold bankedWake
  repeat' (with_reducible first
    | assumption
    | intro _
    | apply kept_wakePin | apply kept_wakeEvent | apply kept_alarmFire | apply kept_ite
    | split)

theorem kept_execBankedWake {c : Keep} : ∀ x0 x1, Kept c x1 → KeptR c (execBankedWake x0 x1) := by
  intros
  unfold execBankedWake
  repeat' (with_reducible first
    | assumption
    | intro _
    | apply kept_bankedWake | apply keptR_ite | apply keptR_next | apply kept_ite
    | split)

theorem kept_pinsReturn {c : Keep} : ∀ x0, Kept c x0 → Kept c (pinsReturn x0) := by
  intros
  unfold pinsReturn
  repeat' (with_reducible first
    | assumption
    | intro _
    | apply kept_withPairs | apply kept_restorePins | apply kept_ite
    | split
    | apply kept_mk | apply queueOk_of | apply freshOk_of | apply freshOk_add | apply regsOk_of | apply mgcOk_of | apply fabOk_of | apply storeOk_of | apply cfgOk_of | apply dramsOk_of)

theorem kept_bankedReady {c : Keep} : ∀ x0, Kept c x0 → Kept c (bankedReady x0) := by
  intros
  unfold bankedReady
  repeat' (with_reducible first
    | assumption
    | intro _
    | (extract_lets +onlyGivenNames xl; first | (refine kept_cut (c := c) (s := xl) ?_ ?_ <;> [subst xl; (intro hx; clear_value xl)]) | (refine keptP_cut (c := c) (p := xl) ?_ ?_ <;> [subst xl; (intro hx; clear_value xl)]) | subst xl)
    | apply kept_suppliesAs | apply kept_put | apply kept_State_setPwr | apply kept_setRamping | apply kept_vfabCommand | apply kept_raise | apply kept_commitCore | apply kept_pinsReturn | apply kept_ite
    | split
    | apply kept_mk | apply queueOk_of | apply freshOk_of | apply freshOk_add | apply regsOk_of | apply mgcOk_of | apply fabOk_of | apply storeOk_of | apply cfgOk_of | apply dramsOk_of)

theorem kept_execBankedSuppliesReady {c : Keep} : ∀ x0, Kept c x0 → KeptR c (execBankedSuppliesReady x0) := by
  intros
  unfold execBankedSuppliesReady
  repeat' (with_reducible first
    | assumption
    | intro _
    | apply kept_bankedReady | apply keptR_ite | apply keptR_next | apply kept_ite
    | split)

theorem kept_bankedLate {c : Keep} : ∀ x0 x1, Kept c x0 → Kept c (bankedLate x0 x1) := by
  intros
  unfold bankedLate
  repeat' (with_reducible first
    | assumption
    | intro _
    | (extract_lets +onlyGivenNames xl; first | (refine kept_cut (c := c) (s := xl) ?_ ?_ <;> [subst xl; (intro hx; clear_value xl)]) | (refine keptP_cut (c := c) (p := xl) ?_ ?_ <;> [subst xl; (intro hx; clear_value xl)]) | subst xl)
    | apply kept_suppliesAs | apply kept_State_setPwr | apply kept_ite
    | split
    | apply kept_mk | apply queueOk_of | apply freshOk_of | apply freshOk_add | apply regsOk_of | apply mgcOk_of | apply fabOk_of | apply storeOk_of | apply cfgOk_of | apply dramsOk_of)

theorem kept_execBankedSupplyLate {c : Keep} : ∀ x0 x1, Kept c x1 → KeptR c (execBankedSupplyLate x0 x1) := by
  intros
  unfold execBankedSupplyLate
  repeat' (with_reducible first
    | assumption
    | intro _
    | apply kept_bankedLate | apply keptR_ite | apply keptR_next | apply kept_ite
    | split)

theorem kept_tick {c : Keep} : ∀ x0, Kept c x0 → Kept c (tick x0) := by
  intros
  unfold tick
  repeat' (with_reducible first
    | assumption
    | intro _
    | (rename _ = (_, _) => hq; first | (refine kept_fst_cut (c := c) hq ?_ ?_ <;> [clear hq; (clear hq; intro hr)]) | clear hq)
    | (extract_lets +onlyGivenNames xl; first | (refine kept_cut (c := c) (s := xl) ?_ ?_ <;> [subst xl; (intro hx; clear_value xl)]) | (refine keptP_cut (c := c) (p := xl) ?_ ?_ <;> [subst xl; (intro hx; clear_value xl)]) | subst xl)
    | apply kept_timebaseViews | apply kept_tmbSample | apply kept_powerResume | apply kept_simmerDone | apply kept_ite | apply keptP_ite | apply keptP_mk
    | apply kept_foldl | apply keptP_foldl
    | split
    | apply kept_mk | apply queueOk_of | apply freshOk_of | apply freshOk_add | apply regsOk_of | apply mgcOk_of | apply fabOk_of | apply storeOk_of | apply cfgOk_of | apply dramsOk_of)

end Sys2Proof.Machine
end

