-- ==== Sys2Proof/Laws/KeptRegWrite.lean ====
section
/-! SUPPORT. What every operation of Machine/RegWrite.lean keeps (Laws/Kept.lean). -/
set_option linter.unusedTactic false
set_option linter.unreachableTactic false
namespace Sys2Proof.Machine
open Sys2Proof

theorem kept_readRegister {c : Keep} : ∀ x0 x1, Kept c x0 → KeptP c (readRegister x0 x1) := by
  intros
  unfold readRegister
  repeat' (with_reducible first
    | assumption
    | intro _
    | (extract_lets +onlyGivenNames xl; first | (refine kept_cut (c := c) (s := xl) ?_ ?_ <;> [subst xl; (intro hx; clear_value xl)]) | (refine keptP_cut (c := c) (p := xl) ?_ ?_ <;> [subst xl; (intro hx; clear_value xl)]) | subst xl)
    | apply kept_timebaseRead | apply kept_readbackRead | apply kept_ite | apply keptP_ite | apply keptP_mk
    | split)

theorem kept_plainWrite {c : Keep} : ∀ x0 x1 x2 x3, Kept c x0 → Kept c (plainWrite x0 x1 x2 x3) := by
  intros
  unfold plainWrite
  repeat' (with_reducible first
    | assumption
    | intro _
    | (rename _ = (_, _) => hq; first | (refine kept_fst_cut (c := c) hq ?_ ?_ <;> [clear hq; (clear hq; intro hr)]) | clear hq)
    | (extract_lets +onlyGivenNames xl; first | (refine kept_cut (c := c) (s := xl) ?_ ?_ <;> [subst xl; (intro hx; clear_value xl)]) | (refine keptP_cut (c := c) (p := xl) ?_ ?_ <;> [subst xl; (intro hx; clear_value xl)]) | subst xl)
    | apply kept_setWord | apply kept_ite | apply keptP_ite | apply keptP_mk
    | apply kept_foldl | apply keptP_foldl
    | split)

theorem kept_when {c : Keep} : ∀ x0 x1 x2, (∀ s, Kept c s → Kept c (x1 s)) → Kept c x2 → Kept c (when x0 x1 x2) := by
  intro b f s h hs
  unfold when
  split
  · exact h _ hs
  · exact hs

theorem kept_writeFab {c : Keep} : ∀ x0 x1 x2 x3 x4, Kept c x0 → Kept c (writeFab x0 x1 x2 x3 x4) := by
  intros
  unfold writeFab
  repeat' (with_reducible first
    | assumption
    | intro _
    | (rename _ = (_, _) => hq; first | (refine kept_fst_cut (c := c) hq ?_ ?_ <;> [clear hq; (clear hq; intro hr)]) | clear hq)
    | (extract_lets +onlyGivenNames xl; first | (refine kept_cut (c := c) (s := xl) ?_ ?_ <;> [subst xl; (intro hx; clear_value xl)]) | (refine keptP_cut (c := c) (p := xl) ?_ ?_ <;> [subst xl; (intro hx; clear_value xl)]) | subst xl)
    | apply kept_userReset | apply kept_setWord | apply kept_put | apply kept_probeWrite | apply kept_plainWrite | apply kept_governorEnable | apply kept_governorDisable | apply kept_commandIf | apply kept_vfabTarget | apply kept_setRamping | apply kept_vfabStart | apply kept_ite | apply keptP_ite | apply keptP_mk
    | apply kept_foldl | apply keptP_foldl
    | split)

theorem kept_writeHng {c : Keep} : ∀ x0 x1 x2 x3, Kept c x0 → Kept c (writeHng x0 x1 x2 x3) := by
  intros
  unfold writeHng
  repeat' (with_reducible first
    | assumption
    | intro _
    | (extract_lets +onlyGivenNames xl; first | (refine kept_cut (c := c) (s := xl) ?_ ?_ <;> [subst xl; (intro hx; clear_value xl)]) | (refine keptP_cut (c := c) (p := xl) ?_ ?_ <;> [subst xl; (intro hx; clear_value xl)]) | subst xl)
    | apply kept_plainWrite | apply kept_put | apply kept_setWord | apply kept_sideReset | apply kept_userClockWrite | apply kept_flushWrite | apply kept_clearWrite | apply kept_mailboxPush | apply kept_mailboxPop | apply kept_ite
    | split)

theorem kept_seekWrite {c : Keep} : ∀ x0 x1 x2, Kept c x0 → Kept c (seekWrite x0 x1 x2) := by
  intros
  unfold seekWrite
  repeat' (with_reducible first
    | assumption
    | intro _
    | (extract_lets +onlyGivenNames xl; first | (refine kept_cut (c := c) (s := xl) ?_ ?_ <;> [subst xl; (intro hx; clear_value xl)]) | (refine keptP_cut (c := c) (p := xl) ?_ ?_ <;> [subst xl; (intro hx; clear_value xl)]) | subst xl)
    | apply kept_plainWrite | apply kept_ite
    | split
    | apply kept_mk | apply queueOk_of | apply freshOk_of | apply freshOk_add | apply regsOk_of | apply mgcOk_of | apply fabOk_of | apply storeOk_of | apply cfgOk_of | apply dramsOk_of)

theorem kept_laneWrite {c : Keep} : ∀ x0 x1 x2 x3 x4, Kept c x0 → Kept c (laneWrite x0 x1 x2 x3 x4) := by
  intros
  unfold laneWrite
  repeat' (with_reducible first
    | assumption
    | intro _
    | (extract_lets +onlyGivenNames xl; first | (refine kept_cut (c := c) (s := xl) ?_ ?_ <;> [subst xl; (intro hx; clear_value xl)]) | (refine keptP_cut (c := c) (p := xl) ?_ ?_ <;> [subst xl; (intro hx; clear_value xl)]) | subst xl)
    | apply kept_plainWrite | apply kept_commandIf | apply kept_laneModeWrite | apply kept_laneActive | apply kept_laneIdleHold | apply kept_laneBanked | apply kept_retrain | apply kept_setWord | apply kept_autowake | apply kept_ite
    | split
    | apply kept_mk | apply queueOk_of | apply freshOk_of | apply freshOk_add | apply regsOk_of | apply mgcOk_of | apply fabOk_of | apply storeOk_of | apply cfgOk_of | apply dramsOk_of)

theorem kept_writeLne {c : Keep} : ∀ x0 x1 x2 x3 x4, Kept c x0 → Kept c (writeLne x0 x1 x2 x3 x4) := by
  intros
  unfold writeLne
  repeat' (with_reducible first
    | assumption
    | intro _
    | (extract_lets +onlyGivenNames xl; first | (refine kept_cut (c := c) (s := xl) ?_ ?_ <;> [subst xl; (intro hx; clear_value xl)]) | (refine keptP_cut (c := c) (p := xl) ?_ ?_ <;> [subst xl; (intro hx; clear_value xl)]) | subst xl)
    | apply kept_plainWrite | apply kept_cordMap | apply kept_cordRate | apply kept_laneWrite | apply kept_put | apply kept_seekWrite | apply kept_ite
    | split)

theorem kept_ringWrite {c : Keep} : ∀ x0 x1 x2 x3 x4, Kept c x0 → Kept c (ringWrite x0 x1 x2 x3 x4) := by
  intros
  unfold ringWrite
  repeat' (with_reducible first
    | assumption
    | intro _
    | (extract_lets +onlyGivenNames xl; first | (refine kept_cut (c := c) (s := xl) ?_ ?_ <;> [subst xl; (intro hx; clear_value xl)]) | (refine keptP_cut (c := c) (p := xl) ?_ ?_ <;> [subst xl; (intro hx; clear_value xl)]) | subst xl)
    | apply kept_plainWrite | apply kept_commandIf | apply kept_kwrWidthWrite | apply kept_kwrRole | apply kept_ite
    | split)

theorem kept_cycleWrite {c : Keep} : ∀ x0 x1 x2 x3, Kept c x0 → Kept c (cycleWrite x0 x1 x2 x3) := by
  intros
  unfold cycleWrite
  repeat' (with_reducible first
    | assumption
    | intro _
    | (extract_lets +onlyGivenNames xl; first | (refine kept_cut (c := c) (s := xl) ?_ ?_ <;> [subst xl; (intro hx; clear_value xl)]) | (refine keptP_cut (c := c) (p := xl) ?_ ?_ <;> [subst xl; (intro hx; clear_value xl)]) | subst xl)
    | apply kept_plainWrite | apply kept_ite
    | split)

theorem kept_writeKwr {c : Keep} : ∀ x0 x1 x2 x3 x4, Kept c x0 → Kept c (writeKwr x0 x1 x2 x3 x4) := by
  intros
  unfold writeKwr
  repeat' (with_reducible first
    | assumption
    | intro _
    | (extract_lets +onlyGivenNames xl; first | (refine kept_cut (c := c) (s := xl) ?_ ?_ <;> [subst xl; (intro hx; clear_value xl)]) | (refine keptP_cut (c := c) (p := xl) ?_ ?_ <;> [subst xl; (intro hx; clear_value xl)]) | subst xl)
    | apply kept_ringWrite | apply kept_cycleWrite | apply kept_setWord | apply kept_alarmSet | apply kept_alarmClear | apply kept_plainWrite | apply kept_ite
    | split)

theorem kept_writeDrm {c : Keep} : ∀ x0 x1 x2 x3 x4, Kept c x0 → Kept c (writeDrm x0 x1 x2 x3 x4) := by
  intros
  unfold writeDrm
  repeat' (with_reducible first
    | assumption
    | intro _
    | (extract_lets +onlyGivenNames xl; first | (refine kept_cut (c := c) (s := xl) ?_ ?_ <;> [subst xl; (intro hx; clear_value xl)]) | (refine keptP_cut (c := c) (p := xl) ?_ ?_ <;> [subst xl; (intro hx; clear_value xl)]) | subst xl)
    | apply kept_plainWrite | apply kept_setDram | apply kept_setPpr | apply kept_commandIf | apply kept_rateRequest | apply kept_setWord | apply kept_tempSource | apply kept_sweepRequest | apply kept_ite
    | split
    | apply kept_mk | apply queueOk_of | apply freshOk_of | apply freshOk_add | apply regsOk_of | apply mgcOk_of | apply fabOk_of | apply storeOk_of | apply cfgOk_of | apply dramsOk_of
    | exact dramOk_init | exact memOk_nil | apply dramOk_dramOf | apply memOk_of | apply memOk_ite | apply dramOk_mk)

theorem kept_writePin {c : Keep} : ∀ x0 x1 x2 x3 x4, Kept c x0 → Kept c (writePin x0 x1 x2 x3 x4) := by
  intros
  unfold writePin
  repeat' (with_reducible first
    | assumption
    | intro _
    | (extract_lets +onlyGivenNames xl; first | (refine kept_cut (c := c) (s := xl) ?_ ?_ <;> [subst xl; (intro hx; clear_value xl)]) | (refine keptP_cut (c := c) (p := xl) ?_ ?_ <;> [subst xl; (intro hx; clear_value xl)]) | subst xl)
    | apply kept_cfgStage | apply kept_applyGroup | apply kept_queueWrite | apply kept_put | apply kept_plainWrite | apply kept_setPortOut | apply kept_tmbWrite | apply kept_ite
    | split
    | apply kept_mk | apply queueOk_of | apply freshOk_of | apply freshOk_add | apply regsOk_of | apply mgcOk_of | apply fabOk_of | apply storeOk_of | apply cfgOk_of | apply dramsOk_of)

theorem kept_writeCfg {c : Keep} : ∀ x0 x1 x2 x3, Kept c x0 → Kept c (writeCfg x0 x1 x2 x3) := by
  intros
  unfold writeCfg
  repeat' (with_reducible first
    | assumption
    | intro _
    | (extract_lets +onlyGivenNames xl; first | (refine kept_cut (c := c) (s := xl) ?_ ?_ <;> [subst xl; (intro hx; clear_value xl)]) | (refine keptP_cut (c := c) (p := xl) ?_ ?_ <;> [subst xl; (intro hx; clear_value xl)]) | subst xl)
    | apply kept_plainWrite | apply kept_warmRecommit | apply kept_readbackIndex | apply kept_flashStart | apply kept_ite
    | split)

theorem kept_scrubFollow {c : Keep} : ∀ x0, Kept c x0 → Kept c (scrubFollow x0) := by
  intros
  unfold scrubFollow
  repeat' (with_reducible first
    | assumption
    | intro _
    | apply kept_put | apply kept_ite
    | split
    | apply kept_mk | apply queueOk_of | apply freshOk_of | apply freshOk_add | apply regsOk_of | apply mgcOk_of | apply fabOk_of | apply storeOk_of | apply cfgOk_of | apply dramsOk_of)

theorem kept_writeScb {c : Keep} : ∀ x0 x1 x2 x3 x4, Kept c x0 → Kept c (writeScb x0 x1 x2 x3 x4) := by
  intros
  unfold writeScb
  repeat' (with_reducible first
    | assumption
    | intro _
    | (rename _ = (_, _) => hq; first | (refine kept_fst_cut (c := c) hq ?_ ?_ <;> [clear hq; (clear hq; intro hr)]) | clear hq)
    | (extract_lets +onlyGivenNames xl; first | (refine kept_cut (c := c) (s := xl) ?_ ?_ <;> [subst xl; (intro hx; clear_value xl)]) | (refine keptP_cut (c := c) (p := xl) ?_ ?_ <;> [subst xl; (intro hx; clear_value xl)]) | subst xl)
    | apply kept_plainWrite | apply kept_scrubFollow | apply kept_setWord | apply kept_reloadRequest | apply kept_isolateWrite | apply kept_releaseWrite | apply kept_isoCommanded | apply kept_shutdownTest | apply kept_ite | apply keptP_ite | apply keptP_mk
    | apply kept_foldl | apply keptP_foldl
    | split
    | apply kept_mk | apply queueOk_of | apply freshOk_of | apply freshOk_add | apply regsOk_of | apply mgcOk_of | apply fabOk_of | apply storeOk_of | apply cfgOk_of | apply dramsOk_of)

theorem kept_ringDoorbell {c : Keep} : ∀ x0 x1, Kept c x0 → Kept c (ringDoorbell x0 x1) := by
  intros
  unfold ringDoorbell
  repeat' (with_reducible first
    | assumption
    | intro _
    | apply kept_offerEvent | apply kept_putBit | apply kept_ite
    | split)

theorem kept_writeMgc {c : Keep} : ∀ x0 x1 x2 x3, Kept c x0 → Kept c (writeMgc x0 x1 x2 x3) := by
  intros
  unfold writeMgc
  repeat' (with_reducible first
    | assumption
    | intro _
    | (rename _ = (_, _) => hq; first | (refine kept_fst_cut (c := c) hq ?_ ?_ <;> [clear hq; (clear hq; intro hr)]) | clear hq)
    | (extract_lets +onlyGivenNames xl; first | (refine kept_cut (c := c) (s := xl) ?_ ?_ <;> [subst xl; (intro hx; clear_value xl)]) | (refine keptP_cut (c := c) (p := xl) ?_ ?_ <;> [subst xl; (intro hx; clear_value xl)]) | subst xl)
    | apply kept_ringDoorbell | apply kept_plainWrite | apply kept_ite | apply keptP_ite | apply keptP_mk
    | apply kept_foldl | apply keptP_foldl
    | split)

theorem kept_writeClk {c : Keep} : ∀ x0 x1 x2 x3, Kept c x0 → Kept c (writeClk x0 x1 x2 x3) := by
  intros
  unfold writeClk
  repeat' (with_reducible first
    | assumption
    | intro _
    | (extract_lets +onlyGivenNames xl; first | (refine kept_cut (c := c) (s := xl) ?_ ?_ <;> [subst xl; (intro hx; clear_value xl)]) | (refine keptP_cut (c := c) (p := xl) ?_ ?_ <;> [subst xl; (intro hx; clear_value xl)]) | subst xl)
    | apply kept_plainWrite | apply kept_put | apply kept_alarmCompareWrite | apply kept_ite
    | split)

theorem kept_powerWrite {c : Keep} : ∀ x0 x1 x2, Kept c x0 → Kept c (powerWrite x0 x1 x2) := by
  intros
  unfold powerWrite
  repeat' (with_reducible first
    | assumption
    | intro _
    | (extract_lets +onlyGivenNames xl; first | (refine kept_cut (c := c) (s := xl) ?_ ?_ <;> [subst xl; (intro hx; clear_value xl)]) | (refine keptP_cut (c := c) (p := xl) ?_ ?_ <;> [subst xl; (intro hx; clear_value xl)]) | subst xl)
    | apply kept_commandIf | apply kept_cmdRun | apply kept_cmdSimmer | apply kept_cmdBanked | apply kept_ite
    | split
    | apply kept_mk | apply queueOk_of | apply freshOk_of | apply freshOk_add | apply regsOk_of | apply mgcOk_of | apply fabOk_of | apply storeOk_of | apply cfgOk_of | apply dramsOk_of)

theorem kept_writePwr {c : Keep} : ∀ x0 x1 x2 x3 x4, Kept c x0 → Kept c (writePwr x0 x1 x2 x3 x4) := by
  intros
  unfold writePwr
  repeat' (with_reducible first
    | assumption
    | intro _
    | apply kept_powerWrite | apply kept_plainWrite | apply kept_ite
    | split)

theorem kept_writeRegister {c : Keep} : ∀ x0 x1 x2 x3 x4, Kept c x0 → Kept c (writeRegister x0 x1 x2 x3 x4) := by
  intros
  unfold writeRegister
  repeat' (with_reducible first
    | assumption
    | intro _
    | apply kept_writeMgc | apply kept_writeFab | apply kept_writeHng | apply kept_writeLne | apply kept_writeKwr | apply kept_writeDrm | apply kept_writePin | apply kept_writeCfg | apply kept_writeScb | apply kept_writeClk | apply kept_writePwr | apply kept_ite
    | split
    | apply kept_mk | apply queueOk_of | apply freshOk_of | apply freshOk_add | apply regsOk_of | apply mgcOk_of | apply fabOk_of | apply storeOk_of | apply cfgOk_of | apply dramsOk_of)

theorem kept_busAccess {c : Keep} : ∀ x0 x1, Kept c x0 → KeptP c (busAccess x0 x1) := by
  intros
  unfold busAccess
  repeat' (with_reducible first
    | assumption
    | intro _
    | (rename _ = (_, _) => hq; first | (refine kept_fst_cut (c := c) hq ?_ ?_ <;> [clear hq; (clear hq; intro hr)]) | clear hq)
    | (extract_lets +onlyGivenNames xl; first | (refine kept_cut (c := c) (s := xl) ?_ ?_ <;> [subst xl; (intro hx; clear_value xl)]) | (refine keptP_cut (c := c) (p := xl) ?_ ?_ <;> [subst xl; (intro hx; clear_value xl)]) | subst xl)
    | (apply kept_fst; first | assumption | apply kept_readRegister)
    | apply kept_put | apply kept_readRegister | apply kept_writeRegister | apply kept_ite | apply keptP_ite | apply keptP_mk
    | split)

theorem kept_accessEdge {c : Keep} : ∀ x0, Kept c x0 → Kept c (accessEdge x0) := by
  intros
  unfold accessEdge
  repeat' (with_reducible first
    | assumption
    | intro _
    | (rename _ = (_, _) => hq; first | (refine kept_fst_cut (c := c) hq ?_ ?_ <;> [clear hq; (clear hq; intro hr)]) | clear hq)
    | (extract_lets +onlyGivenNames xl; first | (refine kept_cut (c := c) (s := xl) ?_ ?_ <;> [subst xl; (intro hx; clear_value xl)]) | (refine keptP_cut (c := c) (p := xl) ?_ ?_ <;> [subst xl; (intro hx; clear_value xl)]) | subst xl)
    | (apply kept_fst; first | assumption | apply kept_busAccess)
    | apply kept_busAccess | apply kept_ite | apply keptP_ite | apply keptP_mk
    | split
    | apply kept_mk | apply queueOk_of | apply freshOk_of | apply freshOk_add | apply regsOk_of | apply mgcOk_of | apply fabOk_of | apply storeOk_of | apply cfgOk_of | apply dramsOk_of)

theorem kept_execCtlhAccessEdge {c : Keep} : ∀ x0, Kept c x0 → KeptR c (execCtlhAccessEdge x0) := by
  intros
  unfold execCtlhAccessEdge
  repeat' (with_reducible first
    | assumption
    | intro _
    | apply kept_accessEdge | apply keptR_ite | apply keptR_next | apply kept_ite
    | split)

theorem kept_execRegisterWrite {c : Keep} : ∀ x0 x1 x2 x3, Kept c x3 → KeptR c (execRegisterWrite x0 x1 x2 x3) := by
  intros
  unfold execRegisterWrite
  repeat' (with_reducible first
    | assumption
    | intro _
    | (rename _ = (_, _) => hq; first | (refine kept_fst_cut (c := c) hq ?_ ?_ <;> [clear hq; (clear hq; intro hr)]) | clear hq)
    | (apply kept_fst; first | assumption | apply kept_busAccess)
    | apply kept_busAccess | apply kept_writeRegister | apply keptR_ite | apply keptR_next | apply kept_ite | apply keptP_ite | apply keptP_mk
    | split)

theorem kept_execWakeTimeWrite {c : Keep} : ∀ x0 x1 x2, Kept c x2 → KeptR c (execWakeTimeWrite x0 x1 x2) := by
  intros
  unfold execWakeTimeWrite
  repeat' (with_reducible first
    | assumption
    | intro _
    | apply kept_wakeTimeWrite | apply keptR_ite | apply keptR_next | apply kept_ite
    | split)

theorem kept_execDoorbellRing {c : Keep} : ∀ x0 x1, Kept c x1 → KeptR c (execDoorbellRing x0 x1) := by
  intros
  unfold execDoorbellRing
  repeat' (with_reducible first
    | assumption
    | intro _
    | apply kept_ringDoorbell | apply keptR_ite | apply keptR_next | apply kept_ite
    | split)

end Sys2Proof.Machine
end

