-- ==== Sys2Proof/Laws/KeptDeliver.lean ====
section
/-! SUPPORT. What every operation of Machine/Deliver.lean keeps (Laws/Kept.lean). -/
set_option linter.unusedTactic false
set_option linter.unreachableTactic false
namespace Sys2Proof.Machine
open Sys2Proof

theorem kept_doorbellIn {c : Keep} : ∀ x0 x1, Kept c x0 → Kept c (doorbellIn x0 x1) := by
  intros
  unfold doorbellIn
  repeat' (with_reducible first
    | assumption
    | intro _
    | (extract_lets +onlyGivenNames xl; first | (refine kept_cut (c := c) (s := xl) ?_ ?_ <;> [subst xl; (intro hx; clear_value xl)]) | (refine keptP_cut (c := c) (p := xl) ?_ ?_ <;> [subst xl; (intro hx; clear_value xl)]) | subst xl)
    | apply kept_putBit | apply kept_raise | apply kept_ite
    | split)

theorem kept_endpointPulse {c : Keep} : ∀ x0 x1, Kept c x0 → Kept c (endpointPulse x0 x1) := by
  intros
  unfold endpointPulse
  repeat' (with_reducible first
    | assumption
    | intro _
    | apply kept_pinEvent | apply kept_alarmSet | apply kept_alarmClear | apply kept_doorbellIn | apply kept_gpevEvent | apply kept_ite
    | split)

theorem kept_eventReqSeen {c : Keep} : ∀ x0 x1, Kept c x0 → Kept c (eventReqSeen x0 x1) := by
  intros
  unfold eventReqSeen
  repeat' (with_reducible first
    | assumption
    | intro _
    | (extract_lets +onlyGivenNames xl; first | (refine kept_cut (c := c) (s := xl) ?_ ?_ <;> [subst xl; (intro hx; clear_value xl)]) | (refine keptP_cut (c := c) (p := xl) ?_ ?_ <;> [subst xl; (intro hx; clear_value xl)]) | subst xl)
    | apply kept_endpointPulse | apply kept_setEv | apply kept_presentAt | apply kept_ite
    | split
    | apply kept_mk | apply queueOk_of | apply freshOk_of | apply freshOk_add | apply regsOk_of | apply mgcOk_of | apply fabOk_of | apply storeOk_of | apply cfgOk_of | apply dramsOk_of)

theorem kept_execEventReqSeen {c : Keep} : ∀ x0 x1, Kept c x1 → KeptR c (execEventReqSeen x0 x1) := by
  intros
  unfold execEventReqSeen
  repeat' (with_reducible first
    | assumption
    | intro _
    | apply kept_eventReqSeen | apply keptR_ite | apply keptR_next | apply kept_ite
    | split)

theorem kept_popFabric {c : Keep} : ∀ x0 x1, Kept c x0 → Kept c (popFabric x0 x1) := by
  intros
  unfold popFabric
  repeat' (with_reducible first
    | assumption
    | intro _
    | (rename _ = (_, _) => hq; first | (refine kept_fst_cut (c := c) hq ?_ ?_ <;> [clear hq; (clear hq; intro hr)]) | clear hq)
    | (extract_lets +onlyGivenNames xl; first | (refine kept_cut (c := c) (s := xl) ?_ ?_ <;> [subst xl; (intro hx; clear_value xl)]) | (refine keptP_cut (c := c) (p := xl) ?_ ?_ <;> [subst xl; (intro hx; clear_value xl)]) | subst xl)
    | (apply kept_fst; first | assumption | apply kept_fifoPop)
    | apply kept_fifoPop | apply kept_presentAt | apply kept_ite | apply keptP_ite | apply keptP_mk
    | split
    | apply kept_mk | apply queueOk_of | apply freshOk_of | apply freshOk_add | apply regsOk_of | apply mgcOk_of | apply fabOk_of | apply storeOk_of | apply cfgOk_of | apply dramsOk_of)

theorem kept_readerPop {c : Keep} : ∀ x0 x1, Kept c x0 → Kept c (readerPop x0 x1) := by
  intros
  unfold readerPop
  repeat' (with_reducible first
    | assumption
    | intro _
    | (rename _ = (_, _) => hq; first | (refine kept_fst_cut (c := c) hq ?_ ?_ <;> [clear hq; (clear hq; intro hr)]) | clear hq)
    | (apply kept_fst; first | assumption | apply kept_fifoPop)
    | apply kept_laneSend | apply kept_popFabric | apply kept_requestTake | apply kept_portEntry | apply kept_mailboxPop | apply kept_fifoPop | apply kept_ite | apply keptP_ite | apply keptP_mk
    | split
    | apply kept_mk | apply queueOk_of | apply freshOk_of | apply freshOk_add | apply regsOk_of | apply mgcOk_of | apply fabOk_of | apply storeOk_of | apply cfgOk_of | apply dramsOk_of)

theorem kept_execFifoPop {c : Keep} : ∀ x0 x1, Kept c x1 → KeptR c (execFifoPop x0 x1) := by
  intros
  unfold execFifoPop
  repeat' (with_reducible first
    | assumption
    | intro _
    | apply kept_readerPop | apply keptR_ite | apply keptR_next | apply kept_ite
    | split)

theorem kept_sealSeen {c : Keep} : ∀ x0 x1, Kept c x0 → Kept c (sealSeen x0 x1) := by
  intros
  unfold sealSeen
  repeat' (with_reducible first
    | assumption
    | intro _
    | (extract_lets +onlyGivenNames xl; first | (refine kept_cut (c := c) (s := xl) ?_ ?_ <;> [subst xl; (intro hx; clear_value xl)]) | (refine keptP_cut (c := c) (p := xl) ?_ ?_ <;> [subst xl; (intro hx; clear_value xl)]) | subst xl)
    | apply kept_fifoSealCrossing | apply kept_autowake | apply kept_ite
    | split)

theorem kept_execFifoSealCrossing {c : Keep} : ∀ x0 x1, Kept c x1 → KeptR c (execFifoSealCrossing x0 x1) := by
  intros
  unfold execFifoSealCrossing
  repeat' (with_reducible first
    | assumption
    | intro _
    | apply kept_sealSeen | apply keptR_ite | apply keptR_next | apply kept_ite
    | split)

end Sys2Proof.Machine
end

