-- ==== Sys2Proof/Laws/KeptDictionary.lean ====
section
/-! SUPPORT. What every operation of Machine/Dictionary.lean keeps (Laws/Kept.lean). -/
set_option linter.unusedTactic false
set_option linter.unreachableTactic false
namespace Sys2Proof.Machine
open Sys2Proof

theorem kept_closeCal {c : Keep} : ∀ x0 x1, Kept c x0 → Kept c (closeCal x0 x1) := by
  intros
  unfold closeCal
  repeat' (with_reducible first
    | assumption
    | intro _
    | apply kept_putBit | apply kept_ite
    | split)

theorem kept_closeExpert {c : Keep} : ∀ x0 x1, Kept c x0 → Kept c (closeExpert x0 x1) := by
  intros
  unfold closeExpert
  repeat' (with_reducible first
    | assumption
    | intro _
    | apply kept_closeCal | apply kept_putBit | apply kept_ite
    | split)

theorem kept_expertWrite {c : Keep} : ∀ x0 x1 x2, Kept c x0 → KeptS c (expertWrite x0 x1 x2) := by
  intros
  unfold expertWrite
  repeat' (with_reducible first
    | assumption
    | intro _
    | apply kept_closeExpert | apply kept_putBit | apply kept_ite | apply keptS_ite | apply keptS_inl | apply keptS_inr
    | split)

theorem kept_calWrite {c : Keep} : ∀ x0 x1 x2, Kept c x0 → KeptS c (calWrite x0 x1 x2) := by
  intros
  unfold calWrite
  repeat' (with_reducible first
    | assumption
    | intro _
    | apply kept_closeCal | apply kept_putBit | apply kept_ite | apply keptS_ite | apply keptS_inl | apply keptS_inr
    | split)

theorem kept_readObj {c : Keep} : ∀ x0 x1 x2, Kept c x0 → KeptP c (readObj x0 x1 x2) := by
  intros
  unfold readObj
  repeat' (with_reducible first
    | assumption
    | intro _
    | (rename _ = (_, _) => hq; first | (refine kept_fst_cut (c := c) hq ?_ ?_ <;> [clear hq; (clear hq; intro hr)]) | clear hq)
    | (extract_lets +onlyGivenNames xl; first | (refine kept_cut (c := c) (s := xl) ?_ ?_ <;> [subst xl; (intro hx; clear_value xl)]) | (refine keptP_cut (c := c) (p := xl) ?_ ?_ <;> [subst xl; (intro hx; clear_value xl)]) | subst xl)
    | (apply kept_fst; first | assumption | apply kept_readRegister)
    | apply kept_readRegister | apply kept_ite | apply keptP_ite | apply keptP_mk
    | split
    | apply kept_mk | apply queueOk_of | apply freshOk_of | apply freshOk_add | apply regsOk_of | apply mgcOk_of | apply fabOk_of | apply storeOk_of | apply cfgOk_of | apply dramsOk_of)

theorem kept_bounded {c : Keep} : ∀ x0 x1 x2 x3, Kept c x3 → KeptS c (bounded x0 x1 x2 x3) := by
  intros
  unfold bounded
  repeat' (with_reducible first
    | assumption
    | intro _
    | apply kept_ite | apply keptS_ite | apply keptS_inl | apply keptS_inr
    | split
    | apply kept_mk | apply queueOk_of | apply freshOk_of | apply freshOk_add | apply regsOk_of | apply mgcOk_of | apply fabOk_of | apply storeOk_of | apply cfgOk_of | apply dramsOk_of)

theorem kept_fieldWrite {c : Keep} : ∀ x0 x1 x2, Kept c x0 → KeptS c (fieldWrite x0 x1 x2) := by
  intros
  unfold fieldWrite
  repeat' (with_reducible first
    | assumption
    | intro _
    | (extract_lets +onlyGivenNames xl; first | (refine kept_cut (c := c) (s := xl) ?_ ?_ <;> [subst xl; (intro hx; clear_value xl)]) | (refine keptP_cut (c := c) (p := xl) ?_ ?_ <;> [subst xl; (intro hx; clear_value xl)]) | subst xl)
    | apply kept_writeRegister | apply kept_ite | apply keptS_ite | apply keptS_inl | apply keptS_inr
    | split)

theorem kept_setAll {c : Keep} : ∀ x0 x1 x2 x3, Kept c x0 → Kept c (setAll x0 x1 x2 x3) := by
  intros
  unfold setAll
  repeat' (with_reducible first
    | assumption
    | intro _
    | (rename _ = (_, _) => hq; first | (refine kept_fst_cut (c := c) hq ?_ ?_ <;> [clear hq; (clear hq; intro hr)]) | clear hq)
    | (extract_lets +onlyGivenNames xl; first | (refine kept_cut (c := c) (s := xl) ?_ ?_ <;> [subst xl; (intro hx; clear_value xl)]) | (refine keptP_cut (c := c) (p := xl) ?_ ?_ <;> [subst xl; (intro hx; clear_value xl)]) | subst xl)
    | apply kept_put | apply kept_ite | apply keptP_ite | apply keptP_mk
    | apply kept_foldl | apply keptP_foldl
    | split)

theorem kept_keyCommandWrite {c : Keep} : ∀ x0 x1 x2, Kept c x0 → Kept c (keyCommandWrite x0 x1 x2) := by
  intros
  unfold keyCommandWrite
  repeat' (with_reducible first
    | assumption
    | intro _
    | apply kept_keyCommand | apply kept_tookFree | apply kept_ite
    | split)

theorem kept_keyArgWrite {c : Keep} : ∀ x0 x1, Kept c x0 → Kept c (keyArgWrite x0 x1) := by
  intros
  unfold keyArgWrite
  repeat' (with_reducible first
    | assumption
    | intro _
    | apply kept_ite
    | split
    | apply kept_mk | apply queueOk_of | apply freshOk_of | apply freshOk_add | apply regsOk_of | apply mgcOk_of | apply fabOk_of | apply storeOk_of | apply cfgOk_of | apply dramsOk_of
    | apply cfgOk_mk | apply flashAOk_of | apply flashBOk_of)

theorem kept_ownWrite {c : Keep} : ∀ x0 x1 x2 x3, Kept c x0 → KeptS c (ownWrite x0 x1 x2 x3) := by
  intros
  unfold ownWrite
  repeat' (with_reducible first
    | assumption
    | intro _
    | (rename _ = Sum.inl _ => hq; first | (refine kept_inl_cut (c := c) hq ?_ ?_ <;> [clear hq; (clear hq; intro hr)]) | clear hq)
    | (extract_lets +onlyGivenNames xl; first | (refine kept_cut (c := c) (s := xl) ?_ ?_ <;> [subst xl; (intro hx; clear_value xl)]) | (refine keptP_cut (c := c) (p := xl) ?_ ?_ <;> [subst xl; (intro hx; clear_value xl)]) | subst xl)
    | apply kept_expertWrite | apply kept_calWrite | apply kept_bounded | apply kept_setAll | apply kept_flushWrite | apply kept_clearWrite | apply kept_queueWrite | apply kept_keyExpect | apply kept_keyCommandWrite | apply kept_keyArgWrite | apply kept_repairClear | apply kept_wakeTimeWrite | apply kept_ite | apply keptS_ite | apply keptS_inl | apply keptS_inr
    | split
    | apply kept_mk | apply queueOk_of | apply freshOk_of | apply freshOk_add | apply regsOk_of | apply mgcOk_of | apply fabOk_of | apply storeOk_of | apply cfgOk_of | apply dramsOk_of | apply mgcOk_mk | apply logOk_of | apply holdOk_of | apply queuesOk_of | exact logOk_nil | exact holdOk_nil | exact queuesOk_nil)

theorem kept_writeObj {c : Keep} : ∀ x0 x1 x2 x3, Kept c x0 → KeptS c (writeObj x0 x1 x2 x3) := by
  intros
  unfold writeObj
  repeat' (with_reducible first
    | assumption
    | intro _
    | (rename _ = Sum.inl _ => hq; first | (refine kept_inl_cut (c := c) hq ?_ ?_ <;> [clear hq; (clear hq; intro hr)]) | clear hq)
    | apply kept_put | apply kept_keyStage | apply kept_writeRegister | apply kept_fieldWrite | apply kept_ownWrite | apply kept_ite | apply keptS_ite | apply keptS_inl | apply keptS_inr
    | split
    | apply kept_mk | apply queueOk_of | apply freshOk_of | apply freshOk_add | apply regsOk_of | apply mgcOk_of | apply fabOk_of | apply storeOk_of | apply cfgOk_of | apply dramsOk_of
    | apply cfgOk_mk | apply flashAOk_of | apply flashBOk_of)

end Sys2Proof.Machine
end

