-- ==== Sys2Proof/Laws/KeptSdo.lean ====
section
/-! SUPPORT. What every operation of Machine/Sdo.lean keeps (Laws/Kept.lean). -/
set_option linter.unusedTactic false
set_option linter.unreachableTactic false
namespace Sys2Proof.Machine
open Sys2Proof

theorem kept_setSession {c : Keep} : ∀ x0 x1 x2, Kept c x0 → Kept c (setSession x0 x1 x2) := by
  intros
  unfold setSession
  repeat' (with_reducible first
    | assumption
    | intro _
    | apply kept_ite
    | split
    | apply kept_mk | apply queueOk_of | apply freshOk_of | apply freshOk_add | apply regsOk_of | apply mgcOk_of | apply fabOk_of | apply storeOk_of | apply cfgOk_of | apply dramsOk_of | apply mgcOk_mk | apply logOk_of | apply holdOk_of | apply queuesOk_of | exact logOk_nil | exact holdOk_nil | exact queuesOk_nil)

theorem kept_setOwed {c : Keep} : ∀ x0 x1 x2, Kept c x0 → Kept c (setOwed x0 x1 x2) := by
  intros
  unfold setOwed
  repeat' (with_reducible first
    | assumption
    | intro _
    | apply kept_ite
    | split
    | apply kept_mk | apply queueOk_of | apply freshOk_of | apply freshOk_add | apply regsOk_of | apply mgcOk_of | apply fabOk_of | apply storeOk_of | apply cfgOk_of | apply dramsOk_of | apply mgcOk_mk | apply logOk_of | apply holdOk_of | apply queuesOk_of | exact logOk_nil | exact holdOk_nil | exact queuesOk_nil)

theorem kept_setAnswer {c : Keep} : ∀ x0 x1 x2, Kept c x0 → Kept c (setAnswer x0 x1 x2) := by
  intros
  unfold setAnswer
  repeat' (with_reducible first
    | assumption
    | intro _
    | apply kept_ite
    | split
    | apply kept_mk | apply queueOk_of | apply freshOk_of | apply freshOk_add | apply regsOk_of | apply mgcOk_of | apply fabOk_of | apply storeOk_of | apply cfgOk_of | apply dramsOk_of | apply mgcOk_mk | apply logOk_of | apply holdOk_of | apply queuesOk_of | exact logOk_nil | exact holdOk_nil | exact queuesOk_nil)

theorem kept_ringSend {c : Keep} : ∀ x0 x1 x2 x3 x4, Kept c x0 → Kept c (ringSend x0 x1 x2 x3 x4) := by
  intros
  unfold ringSend
  repeat' (with_reducible first
    | assumption
    | intro _
    | apply kept_setKwr | apply kept_ite
    | split
    | apply kept_mk | apply queueOk_of | apply freshOk_of | apply freshOk_add | apply regsOk_of | apply mgcOk_of | apply fabOk_of | apply storeOk_of | apply cfgOk_of | apply dramsOk_of)

theorem kept_respond {c : Keep} : ∀ x0 x1 x2, Kept c x0 → Kept c (respond x0 x1 x2) := by
  intros
  unfold respond
  repeat' (with_reducible first
    | assumption
    | intro _
    | (extract_lets +onlyGivenNames xl; first | (refine kept_cut (c := c) (s := xl) ?_ ?_ <;> [subst xl; (intro hx; clear_value xl)]) | (refine keptP_cut (c := c) (p := xl) ?_ ?_ <;> [subst xl; (intro hx; clear_value xl)]) | subst xl)
    | apply kept_setOwed | apply kept_setAnswer | apply kept_ringSend | apply kept_ite
    | split
    | apply kept_mk | apply queueOk_of | apply freshOk_of | apply freshOk_add | apply regsOk_of | apply mgcOk_of | apply fabOk_of | apply storeOk_of | apply cfgOk_of | apply dramsOk_of)

theorem kept_abortWith {c : Keep} : ∀ x0 x1 x2 x3 x4, Kept c x0 → Kept c (abortWith x0 x1 x2 x3 x4) := by
  intros
  unfold abortWith
  repeat' (with_reducible first
    | assumption
    | intro _
    | apply kept_respond | apply kept_setSession | apply kept_ite
    | split)

theorem kept_pushRequests {c : Keep} : ∀ x0 x1, Kept c x1 → Kept c (pushRequests x0 x1) := by
  intro x0
  induction x0 with
  | zero =>
    intros
    unfold pushRequests
    first | assumption | exact keptP_mk (by assumption)
  | succ n ih =>
    intros
    unfold pushRequests
    repeat' (with_reducible first
      | assumption
      | intro _
      | (rename _ = (_, _) => hq; first | (refine kept_fst_cut (c := c) hq ?_ ?_ <;> [clear hq; (clear hq; intro hr)]) | clear hq)
      | (extract_lets +onlyGivenNames xl; first | (refine kept_cut (c := c) (s := xl) ?_ ?_ <;> [subst xl; (intro hx; clear_value xl)]) | (refine keptP_cut (c := c) (p := xl) ?_ ?_ <;> [subst xl; (intro hx; clear_value xl)]) | subst xl)
      | (apply kept_fst; first | assumption | apply kept_fifoPush)
      | apply ih | apply kept_fifoPush | apply kept_ite | apply keptP_ite | apply keptP_mk
      | split
      | apply kept_mk | apply queueOk_of | apply freshOk_of | apply freshOk_add | apply regsOk_of | apply mgcOk_of | apply fabOk_of | apply storeOk_of | apply cfgOk_of | apply dramsOk_of | apply mgcOk_mk | apply logOk_of | apply holdOk_of | apply queuesOk_of | exact logOk_nil | exact holdOk_nil | exact queuesOk_nil)

theorem kept_pubSend {c : Keep} : ∀ x0 x1, Kept c x0 → Kept c (pubSend x0 x1) := by
  intros
  unfold pubSend
  repeat' (with_reducible first
    | assumption
    | intro _
    | (extract_lets +onlyGivenNames xl; first | (refine kept_cut (c := c) (s := xl) ?_ ?_ <;> [subst xl; (intro hx; clear_value xl)]) | (refine keptP_cut (c := c) (p := xl) ?_ ?_ <;> [subst xl; (intro hx; clear_value xl)]) | subst xl)
    | apply kept_pushRequests | apply kept_ite
    | apply kept_elim
    | split
    | apply kept_mk | apply queueOk_of | apply freshOk_of | apply freshOk_add | apply regsOk_of | apply mgcOk_of | apply fabOk_of | apply storeOk_of | apply cfgOk_of | apply dramsOk_of | apply mgcOk_mk | apply logOk_of | apply holdOk_of | apply queuesOk_of | exact logOk_nil | exact holdOk_nil | exact queuesOk_nil)

theorem kept_pubRefuse {c : Keep} : ∀ x0 x1, Kept c x0 → Kept c (pubRefuse x0 x1) := by
  intros
  unfold pubRefuse
  repeat' (with_reducible first
    | assumption
    | intro _
    | apply kept_abortWith | apply kept_ite
    | split
    | apply kept_mk | apply queueOk_of | apply freshOk_of | apply freshOk_add | apply regsOk_of | apply mgcOk_of | apply fabOk_of | apply storeOk_of | apply cfgOk_of | apply dramsOk_of)

theorem kept_pubNext {c : Keep} : ∀ x0, Kept c x0 → Kept c (pubNext x0) := by
  intros
  unfold pubNext
  repeat' (with_reducible first
    | assumption
    | intro _
    | (rename _ = (_, _) => hq; first | (refine kept_fst_cut (c := c) hq ?_ ?_ <;> [clear hq; (clear hq; intro hr)]) | clear hq)
    | (extract_lets +onlyGivenNames xl; first | (refine kept_cut (c := c) (s := xl) ?_ ?_ <;> [subst xl; (intro hx; clear_value xl)]) | (refine keptP_cut (c := c) (p := xl) ?_ ?_ <;> [subst xl; (intro hx; clear_value xl)]) | subst xl)
    | apply kept_pubSend | apply kept_pubRefuse | apply kept_ite | apply keptP_ite | apply keptP_mk
    | apply kept_foldl | apply keptP_foldl
    | split
    | apply kept_mk | apply queueOk_of | apply freshOk_of | apply freshOk_add | apply regsOk_of | apply mgcOk_of | apply fabOk_of | apply storeOk_of | apply cfgOk_of | apply dramsOk_of | apply mgcOk_mk | apply logOk_of | apply holdOk_of | apply queuesOk_of | exact logOk_nil | exact holdOk_nil | exact queuesOk_nil)

theorem kept_pubBegin {c : Keep} : ∀ x0 x1 x2, Kept c x0 → Kept c (pubBegin x0 x1 x2) := by
  intros
  unfold pubBegin
  repeat' (with_reducible first
    | assumption
    | intro _
    | (extract_lets +onlyGivenNames xl; first | (refine kept_cut (c := c) (s := xl) ?_ ?_ <;> [subst xl; (intro hx; clear_value xl)]) | (refine keptP_cut (c := c) (p := xl) ?_ ?_ <;> [subst xl; (intro hx; clear_value xl)]) | subst xl)
    | apply kept_setOwed | apply kept_pubNext | apply kept_ite
    | split
    | apply kept_mk | apply queueOk_of | apply freshOk_of | apply freshOk_add | apply regsOk_of | apply mgcOk_of | apply fabOk_of | apply storeOk_of | apply cfgOk_of | apply dramsOk_of | apply mgcOk_mk | apply logOk_of | apply holdOk_of | apply queuesOk_of | exact logOk_nil | exact holdOk_nil | exact queuesOk_nil)

theorem kept_sectionBegin {c : Keep} : ∀ x0 x1 x2, Kept c x0 → KeptS c (sectionBegin x0 x1 x2) := by
  intros
  unfold sectionBegin
  repeat' (with_reducible first
    | assumption
    | intro _
    | (rename _ = Sum.inl _ => hq; first | (refine kept_inl_cut (c := c) hq ?_ ?_ <;> [clear hq; (clear hq; intro hr)]) | clear hq)
    | apply kept_calWrite | apply kept_ite | apply keptS_ite | apply keptS_inl | apply keptS_inr
    | split
    | apply kept_mk | apply queueOk_of | apply freshOk_of | apply freshOk_add | apply regsOk_of | apply mgcOk_of | apply fabOk_of | apply storeOk_of | apply cfgOk_of | apply dramsOk_of)

theorem kept_finishWrite {c : Keep} : ∀ x0 x1 x2 x3 x4 x5, Kept c x0 → Kept c (finishWrite x0 x1 x2 x3 x4 x5) := by
  intros
  unfold finishWrite
  repeat' (with_reducible first
    | assumption
    | intro _
    | (rename _ = Sum.inl _ => hq; first | (refine kept_inl_cut (c := c) hq ?_ ?_ <;> [clear hq; (clear hq; intro hr)]) | clear hq)
    | (extract_lets +onlyGivenNames xl; first | (refine kept_cut (c := c) (s := xl) ?_ ?_ <;> [subst xl; (intro hx; clear_value xl)]) | (refine keptP_cut (c := c) (p := xl) ?_ ?_ <;> [subst xl; (intro hx; clear_value xl)]) | subst xl)
    | apply kept_abortWith | apply kept_pubBegin | apply kept_sectionBegin | apply kept_setOwed | apply kept_writeObj | apply kept_setAnswer | apply kept_respond | apply kept_ite | apply keptS_ite | apply keptS_inl | apply keptS_inr
    | split
    | apply kept_mk | apply queueOk_of | apply freshOk_of | apply freshOk_add | apply regsOk_of | apply mgcOk_of | apply fabOk_of | apply storeOk_of | apply cfgOk_of | apply dramsOk_of)

theorem kept_serve {c : Keep} : ∀ x0 x1 x2 x3 x4, Kept c x0 → (∀ s, Kept c s → Kept c (x4 s)) → Kept c (serve x0 x1 x2 x3 x4) := by
  intro s t i j f hs h
  unfold serve
  split
  · exact hs
  · exact kept_abortWith _ _ _ _ _ hs
  · exact h _ hs

theorem kept_downloadExpedited {c : Keep} : ∀ x0 x1 x2 x3 x4 x5, Kept c x0 → Kept c (downloadExpedited x0 x1 x2 x3 x4 x5) := by
  intros
  unfold downloadExpedited
  repeat' (with_reducible first
    | assumption
    | intro _
    | (extract_lets +onlyGivenNames xl; first | (refine kept_cut (c := c) (s := xl) ?_ ?_ <;> [subst xl; (intro hx; clear_value xl)]) | (refine keptP_cut (c := c) (p := xl) ?_ ?_ <;> [subst xl; (intro hx; clear_value xl)]) | subst xl)
    | apply kept_serve | apply kept_setSession | apply kept_abortWith | apply kept_finishWrite | apply kept_ite
    | split
    | apply kept_mk | apply queueOk_of | apply freshOk_of | apply freshOk_add | apply regsOk_of | apply mgcOk_of | apply fabOk_of | apply storeOk_of | apply cfgOk_of | apply dramsOk_of)

theorem kept_downloadInitiate {c : Keep} : ∀ x0 x1 x2 x3 x4, Kept c x0 → Kept c (downloadInitiate x0 x1 x2 x3 x4) := by
  intros
  unfold downloadInitiate
  repeat' (with_reducible first
    | assumption
    | intro _
    | (extract_lets +onlyGivenNames xl; first | (refine kept_cut (c := c) (s := xl) ?_ ?_ <;> [subst xl; (intro hx; clear_value xl)]) | (refine keptP_cut (c := c) (p := xl) ?_ ?_ <;> [subst xl; (intro hx; clear_value xl)]) | subst xl)
    | apply kept_serve | apply kept_setSession | apply kept_abortWith | apply kept_respond | apply kept_ite
    | split
    | apply kept_mk | apply queueOk_of | apply freshOk_of | apply freshOk_add | apply regsOk_of | apply mgcOk_of | apply fabOk_of | apply storeOk_of | apply cfgOk_of | apply dramsOk_of)

theorem kept_downloadSegment {c : Keep} : ∀ x0 x1 x2 x3 x4, Kept c x0 → Kept c (downloadSegment x0 x1 x2 x3 x4) := by
  intros
  unfold downloadSegment
  repeat' (with_reducible first
    | assumption
    | intro _
    | (extract_lets +onlyGivenNames xl; first | (refine kept_cut (c := c) (s := xl) ?_ ?_ <;> [subst xl; (intro hx; clear_value xl)]) | (refine keptP_cut (c := c) (p := xl) ?_ ?_ <;> [subst xl; (intro hx; clear_value xl)]) | subst xl)
    | apply kept_serve | apply kept_abortWith | apply kept_finishWrite | apply kept_setSession | apply kept_respond | apply kept_ite
    | split
    | apply kept_mk | apply queueOk_of | apply freshOk_of | apply freshOk_add | apply regsOk_of | apply mgcOk_of | apply fabOk_of | apply storeOk_of | apply cfgOk_of | apply dramsOk_of)

theorem kept_uploadValue {c : Keep} : ∀ x0 x1 x2 x3 x4, Kept c x0 → Kept c (uploadValue x0 x1 x2 x3 x4) := by
  intros
  unfold uploadValue
  repeat' (with_reducible first
    | assumption
    | intro _
    | (extract_lets +onlyGivenNames xl; first | (refine kept_cut (c := c) (s := xl) ?_ ?_ <;> [subst xl; (intro hx; clear_value xl)]) | (refine keptP_cut (c := c) (p := xl) ?_ ?_ <;> [subst xl; (intro hx; clear_value xl)]) | subst xl)
    | apply kept_respond | apply kept_setSession | apply kept_ite
    | split)

theorem kept_uploadInitiate {c : Keep} : ∀ x0 x1 x2 x3, Kept c x0 → Kept c (uploadInitiate x0 x1 x2 x3) := by
  intros
  unfold uploadInitiate
  repeat' (with_reducible first
    | assumption
    | intro _
    | (rename _ = (_, _) => hq; first | (refine kept_fst_cut (c := c) hq ?_ ?_ <;> [clear hq; (clear hq; intro hr)]) | clear hq)
    | (extract_lets +onlyGivenNames xl; first | (refine kept_cut (c := c) (s := xl) ?_ ?_ <;> [subst xl; (intro hx; clear_value xl)]) | (refine keptP_cut (c := c) (p := xl) ?_ ?_ <;> [subst xl; (intro hx; clear_value xl)]) | subst xl)
    | (apply kept_fst; first | assumption | apply kept_readObj)
    | apply kept_serve | apply kept_setSession | apply kept_abortWith | apply kept_pubBegin | apply kept_readObj | apply kept_uploadValue | apply kept_ite | apply keptP_ite | apply keptP_mk
    | split
    | apply kept_mk | apply queueOk_of | apply freshOk_of | apply freshOk_add | apply regsOk_of | apply mgcOk_of | apply fabOk_of | apply storeOk_of | apply cfgOk_of | apply dramsOk_of)

theorem kept_uploadEnd {c : Keep} : ∀ x0 x1 x2 x3, Kept c x0 → Kept c (uploadEnd x0 x1 x2 x3) := by
  intros
  unfold uploadEnd
  repeat' (with_reducible first
    | assumption
    | intro _
    | (extract_lets +onlyGivenNames xl; first | (refine kept_cut (c := c) (s := xl) ?_ ?_ <;> [subst xl; (intro hx; clear_value xl)]) | (refine keptP_cut (c := c) (p := xl) ?_ ?_ <;> [subst xl; (intro hx; clear_value xl)]) | subst xl)
    | apply kept_setSession | apply kept_ite
    | split
    | apply kept_mk | apply queueOk_of | apply freshOk_of | apply freshOk_add | apply regsOk_of | apply mgcOk_of | apply fabOk_of | apply storeOk_of | apply cfgOk_of | apply dramsOk_of | apply mgcOk_mk | apply logOk_of | apply holdOk_of | apply queuesOk_of | exact logOk_nil | exact holdOk_nil | exact queuesOk_nil)

theorem kept_uploadSegment {c : Keep} : ∀ x0 x1 x2, Kept c x0 → Kept c (uploadSegment x0 x1 x2) := by
  intros
  unfold uploadSegment
  repeat' (with_reducible first
    | assumption
    | intro _
    | (extract_lets +onlyGivenNames xl; first | (refine kept_cut (c := c) (s := xl) ?_ ?_ <;> [subst xl; (intro hx; clear_value xl)]) | (refine keptP_cut (c := c) (p := xl) ?_ ?_ <;> [subst xl; (intro hx; clear_value xl)]) | subst xl)
    | apply kept_serve | apply kept_abortWith | apply kept_uploadEnd | apply kept_setSession | apply kept_respond | apply kept_ite
    | split
    | apply kept_mk | apply queueOk_of | apply freshOk_of | apply freshOk_add | apply regsOk_of | apply mgcOk_of | apply fabOk_of | apply storeOk_of | apply cfgOk_of | apply dramsOk_of)

theorem kept_segmentTimeout {c : Keep} : ∀ x0 x1, Kept c x0 → Kept c (segmentTimeout x0 x1) := by
  intros
  unfold segmentTimeout
  repeat' (with_reducible first
    | assumption
    | intro _
    | apply kept_abortWith | apply kept_ite
    | split
    | apply kept_mk | apply queueOk_of | apply freshOk_of | apply freshOk_add | apply regsOk_of | apply mgcOk_of | apply fabOk_of | apply storeOk_of | apply cfgOk_of | apply dramsOk_of)

theorem kept_execSdoDownloadExpedited {c : Keep} : ∀ x0 x1 x2 x3 x4 x5, Kept c x5 → KeptR c (execSdoDownloadExpedited x0 x1 x2 x3 x4 x5) := by
  intros
  unfold execSdoDownloadExpedited
  repeat' (with_reducible first
    | assumption
    | intro _
    | apply kept_downloadExpedited | apply keptR_ite | apply keptR_next | apply kept_ite
    | split)

theorem kept_execSdoDownloadInitiate {c : Keep} : ∀ x0 x1 x2 x3 x4, Kept c x4 → KeptR c (execSdoDownloadInitiate x0 x1 x2 x3 x4) := by
  intros
  unfold execSdoDownloadInitiate
  repeat' (with_reducible first
    | assumption
    | intro _
    | apply kept_downloadInitiate | apply keptR_ite | apply keptR_next | apply kept_ite
    | split)

theorem kept_execSdoDownloadSegment {c : Keep} : ∀ x0 x1 x2 x3 x4, Kept c x4 → KeptR c (execSdoDownloadSegment x0 x1 x2 x3 x4) := by
  intros
  unfold execSdoDownloadSegment
  repeat' (with_reducible first
    | assumption
    | intro _
    | apply kept_downloadSegment | apply keptR_ite | apply keptR_next | apply kept_ite
    | split)

theorem kept_execSdoUploadInitiate {c : Keep} : ∀ x0 x1 x2 x3, Kept c x3 → KeptR c (execSdoUploadInitiate x0 x1 x2 x3) := by
  intros
  unfold execSdoUploadInitiate
  repeat' (with_reducible first
    | assumption
    | intro _
    | apply kept_uploadInitiate | apply keptR_ite | apply keptR_next | apply kept_ite
    | split)

theorem kept_execSdoUploadSegment {c : Keep} : ∀ x0 x1 x2, Kept c x2 → KeptR c (execSdoUploadSegment x0 x1 x2) := by
  intros
  unfold execSdoUploadSegment
  repeat' (with_reducible first
    | assumption
    | intro _
    | apply kept_uploadSegment | apply keptR_ite | apply keptR_next | apply kept_ite
    | split)

theorem kept_execSdoSegmentTimeout {c : Keep} : ∀ x0 x1, Kept c x1 → KeptR c (execSdoSegmentTimeout x0 x1) := by
  intros
  unfold execSdoSegmentTimeout
  repeat' (with_reducible first
    | assumption
    | intro _
    | apply kept_segmentTimeout | apply keptR_ite | apply keptR_next | apply kept_ite
    | split)

theorem kept_requestFrame {c : Keep} : ∀ x0 x1 x2, Kept c x0 → Kept c (requestFrame x0 x1 x2) := by
  intros
  unfold requestFrame
  repeat' (with_reducible first
    | assumption
    | intro _
    | (extract_lets +onlyGivenNames xl; first | (refine kept_cut (c := c) (s := xl) ?_ ?_ <;> [subst xl; (intro hx; clear_value xl)]) | (refine keptP_cut (c := c) (p := xl) ?_ ?_ <;> [subst xl; (intro hx; clear_value xl)]) | subst xl)
    | apply kept_downloadSegment | apply kept_downloadExpedited | apply kept_downloadInitiate | apply kept_uploadInitiate | apply kept_uploadSegment | apply kept_setSession | apply kept_serve | apply kept_abortWith | apply kept_ite
    | split
    | apply kept_mk | apply queueOk_of | apply freshOk_of | apply freshOk_add | apply regsOk_of | apply mgcOk_of | apply fabOk_of | apply storeOk_of | apply cfgOk_of | apply dramsOk_of)

theorem kept_ringRequest {c : Keep} : ∀ x0 x1 x2, Kept c x0 → Kept c (ringRequest x0 x1 x2) := by
  intros
  unfold ringRequest
  repeat' (with_reducible first
    | assumption
    | intro _
    | (rename _ = (_, _) => hq; first | (refine kept_fst_cut (c := c) hq ?_ ?_ <;> [clear hq; (clear hq; intro hr)]) | clear hq)
    | (apply kept_fst; first | assumption | apply kept_rxMgmt)
    | apply kept_rxMgmt | apply kept_requestFrame | apply kept_ite | apply keptP_ite | apply keptP_mk
    | split
    | apply kept_mk | apply queueOk_of | apply freshOk_of | apply freshOk_add | apply regsOk_of | apply mgcOk_of | apply fabOk_of | apply storeOk_of | apply cfgOk_of | apply dramsOk_of | apply mgcOk_mk | apply logOk_of | apply holdOk_of | apply queuesOk_of | exact logOk_nil | exact holdOk_nil | exact queuesOk_nil)

theorem kept_execKwrRxMgmt {c : Keep} : ∀ x0 x1 x2, Kept c x2 → KeptR c (execKwrRxMgmt x0 x1 x2) := by
  intros
  unfold execKwrRxMgmt
  repeat' (with_reducible first
    | assumption
    | intro _
    | apply kept_fromControl | apply kept_ringRequest | apply keptR_ite | apply keptR_next | apply kept_ite
    | split)

theorem kept_pubAnswer {c : Keep} : ∀ x0 x1 x2 x3, Kept c x0 → Kept c (pubAnswer x0 x1 x2 x3) := by
  intros
  unfold pubAnswer
  repeat' (with_reducible first
    | assumption
    | intro _
    | (extract_lets +onlyGivenNames xl; first | (refine kept_cut (c := c) (s := xl) ?_ ?_ <;> [subst xl; (intro hx; clear_value xl)]) | (refine keptP_cut (c := c) (p := xl) ?_ ?_ <;> [subst xl; (intro hx; clear_value xl)]) | subst xl)
    | apply kept_abortWith | apply kept_respond | apply kept_uploadValue | apply kept_ite
    | split
    | apply kept_mk | apply queueOk_of | apply freshOk_of | apply freshOk_add | apply regsOk_of | apply mgcOk_of | apply fabOk_of | apply storeOk_of | apply cfgOk_of | apply dramsOk_of)

theorem kept_pubTake {c : Keep} : ∀ x0 x1 x2, Kept c x0 → Kept c (pubTake x0 x1 x2) := by
  intros
  unfold pubTake
  repeat' (with_reducible first
    | assumption
    | intro _
    | apply kept_pubNext | apply kept_pubAnswer | apply kept_ite
    | split
    | apply kept_mk | apply queueOk_of | apply freshOk_of | apply freshOk_add | apply regsOk_of | apply mgcOk_of | apply fabOk_of | apply storeOk_of | apply cfgOk_of | apply dramsOk_of | apply mgcOk_mk | apply logOk_of | apply holdOk_of | apply queuesOk_of | exact logOk_nil | exact holdOk_nil | exact queuesOk_nil)

theorem kept_takePacket {c : Keep} : ∀ x0 x1 x2, Kept c x1 → KeptP c (takePacket x0 x1 x2) := by
  intro x0
  induction x0 with
  | zero =>
    intros
    unfold takePacket
    first | assumption | exact keptP_mk (by assumption)
  | succ n ih =>
    intros
    unfold takePacket
    repeat' (with_reducible first
      | assumption
      | (apply kept_fst; first | assumption | apply kept_fifoPop | apply ih)
      | (rename _ = (_, _) => hq; first | (refine kept_fst_cut (c := c) hq ?_ ?_ <;> [clear hq; (clear hq; intro hr)]) | clear hq)
      | (extract_lets +onlyGivenNames xl; first | (refine kept_cut (c := c) (s := xl) ?_ ?_ <;> [subst xl; (intro hx; clear_value xl)]) | (refine keptP_cut (c := c) (p := xl) ?_ ?_ <;> [subst xl; (intro hx; clear_value xl)]) | subst xl)
      | apply ih | apply kept_fifoPop | apply keptP_ite | apply kept_ite | apply keptP_mk
      | split
      | apply kept_mk | apply queueOk_of | apply freshOk_of | apply regsOk_of | apply mgcOk_of | apply fabOk_of | apply storeOk_of | apply cfgOk_of | apply dramsOk_of | apply cfgOk_mk | apply flashAOk_of | apply flashBOk_of)

theorem kept_pubPacket {c : Keep} : ∀ x0, Kept c x0 → Kept c (pubPacket x0) := by
  intros
  unfold pubPacket
  repeat' (with_reducible first
    | assumption
    | intro _
    | (rename _ = (_, _) => hq; first | (refine kept_fst_cut (c := c) hq ?_ ?_ <;> [clear hq; (clear hq; intro hr)]) | clear hq)
    | (extract_lets +onlyGivenNames xl; first | (refine kept_cut (c := c) (s := xl) ?_ ?_ <;> [subst xl; (intro hx; clear_value xl)]) | (refine keptP_cut (c := c) (p := xl) ?_ ?_ <;> [subst xl; (intro hx; clear_value xl)]) | subst xl)
    | (apply kept_fst; first | assumption | apply kept_takePacket)
    | apply kept_takePacket | apply kept_raise | apply kept_pubTake | apply kept_ite | apply keptP_ite | apply keptP_mk
    | split
    | apply kept_mk | apply queueOk_of | apply freshOk_of | apply freshOk_add | apply regsOk_of | apply mgcOk_of | apply fabOk_of | apply storeOk_of | apply cfgOk_of | apply dramsOk_of)

theorem kept_execPubResponse {c : Keep} : ∀ x0, Kept c x0 → KeptR c (execPubResponse x0) := by
  intros
  unfold execPubResponse
  repeat' (with_reducible first
    | assumption
    | intro _
    | apply kept_pubPacket | apply keptR_ite | apply keptR_next | apply kept_ite
    | split)

theorem kept_execPubEvent {c : Keep} : ∀ x0, Kept c x0 → KeptR c (execPubEvent x0) := by
  intros
  unfold execPubEvent
  repeat' (with_reducible first
    | assumption
    | intro _
    | apply kept_pubPacket | apply keptR_ite | apply keptR_next | apply kept_ite
    | split)

theorem kept_pubTimeout {c : Keep} : ∀ x0, Kept c x0 → Kept c (pubTimeout x0) := by
  intros
  unfold pubTimeout
  repeat' (with_reducible first
    | assumption
    | intro _
    | (extract_lets +onlyGivenNames xl; first | (refine kept_cut (c := c) (s := xl) ?_ ?_ <;> [subst xl; (intro hx; clear_value xl)]) | (refine keptP_cut (c := c) (p := xl) ?_ ?_ <;> [subst xl; (intro hx; clear_value xl)]) | subst xl)
    | apply kept_raise | apply kept_pubNext | apply kept_abortWith | apply kept_ite
    | split
    | apply kept_mk | apply queueOk_of | apply freshOk_of | apply freshOk_add | apply regsOk_of | apply mgcOk_of | apply fabOk_of | apply storeOk_of | apply cfgOk_of | apply dramsOk_of | apply mgcOk_mk | apply logOk_of | apply holdOk_of | apply queuesOk_of | exact logOk_nil | exact holdOk_nil | exact queuesOk_nil)

theorem kept_execPubTimeout {c : Keep} : ∀ x0, Kept c x0 → KeptR c (execPubTimeout x0) := by
  intros
  unfold execPubTimeout
  repeat' (with_reducible first
    | assumption
    | intro _
    | apply kept_pubTimeout | apply keptR_ite | apply keptR_next | apply kept_ite
    | split)

theorem kept_sectionWrite {c : Keep} : ∀ x0 x1 x2 x3, Kept c x0 → Kept c (sectionWrite x0 x1 x2 x3) := by
  intros
  unfold sectionWrite
  repeat' (with_reducible first
    | assumption
    | intro _
    | apply kept_serve | apply kept_finishWrite | apply kept_setSession | apply kept_ite
    | split)

theorem kept_execCalSectionWrite {c : Keep} : ∀ x0 x1 x2 x3, Kept c x3 → KeptR c (execCalSectionWrite x0 x1 x2 x3) := by
  intros
  unfold execCalSectionWrite
  repeat' (with_reducible first
    | assumption
    | intro _
    | apply kept_sectionWrite | apply keptR_ite | apply keptR_next | apply kept_ite
    | split)

theorem kept_sectionDone {c : Keep} : ∀ x0, Kept c x0 → Kept c (sectionDone x0) := by
  intros
  unfold sectionDone
  repeat' (with_reducible first
    | assumption
    | intro _
    | (rename _ = (_, _) => hq; first | (refine kept_fst_cut (c := c) hq ?_ ?_ <;> [clear hq; (clear hq; intro hr)]) | clear hq)
    | (rename _ = Sum.inl _ => hq; first | (refine kept_inl_cut (c := c) hq ?_ ?_ <;> [clear hq; (clear hq; intro hr)]) | clear hq)
    | (extract_lets +onlyGivenNames xl; first | (refine kept_cut (c := c) (s := xl) ?_ ?_ <;> [subst xl; (intro hx; clear_value xl)]) | (refine keptP_cut (c := c) (p := xl) ?_ ?_ <;> [subst xl; (intro hx; clear_value xl)]) | subst xl)
    | apply kept_calWrite | apply kept_respond | apply kept_ite | apply keptP_ite | apply keptP_mk | apply keptS_ite | apply keptS_inl | apply keptS_inr
    | apply kept_foldl | apply keptP_foldl
    | split
    | apply kept_mk | apply queueOk_of | apply freshOk_of | apply freshOk_add | apply regsOk_of | apply mgcOk_of | apply fabOk_of | apply storeOk_of | apply cfgOk_of | apply dramsOk_of)

theorem kept_execCalWriteDone {c : Keep} : ∀ x0, Kept c x0 → KeptR c (execCalWriteDone x0) := by
  intros
  unfold execCalWriteDone
  repeat' (with_reducible first
    | assumption
    | intro _
    | apply kept_sectionDone | apply keptR_ite | apply keptR_next | apply kept_ite
    | split)

theorem kept_bankSwapped {c : Keep} : ∀ x0 x1, Kept c x0 → Kept c (bankSwapped x0 x1) := by
  intros
  unfold bankSwapped
  repeat' (with_reducible first
    | assumption
    | intro _
    | (extract_lets +onlyGivenNames xl; first | (refine kept_cut (c := c) (s := xl) ?_ ?_ <;> [subst xl; (intro hx; clear_value xl)]) | (refine keptP_cut (c := c) (p := xl) ?_ ?_ <;> [subst xl; (intro hx; clear_value xl)]) | subst xl)
    | apply kept_setFifo | apply kept_rxPayOwed | apply kept_dramOutRetry | apply kept_pushRequests | apply kept_ite
    | split)

theorem kept_execFifoBankSwap {c : Keep} : ∀ x0 x1, Kept c x1 → KeptR c (execFifoBankSwap x0 x1) := by
  intros
  unfold execFifoBankSwap
  repeat' (with_reducible first
    | assumption
    | intro _
    | apply kept_bankSwapped | apply keptR_ite | apply keptR_next | apply kept_ite
    | split)

end Sys2Proof.Machine
end

