-- ==== Sys2Proof/Laws/KeptMgc.lean ====
section
/-! SUPPORT. What every operation of Machine/Mgc.lean keeps (Laws/Kept.lean). -/
set_option linter.unusedTactic false
set_option linter.unreachableTactic false
namespace Sys2Proof.Machine
open Sys2Proof

theorem kept_abortTransfer {c : Keep} : ∀ x0 x1, Kept c x0 → Kept c (abortTransfer x0 x1) := by
  intros
  unfold abortTransfer
  repeat' (with_reducible first
    | assumption
    | intro _
    | apply kept_abortWith | apply kept_ite
    | split
    | apply kept_mk | apply queueOk_of | apply freshOk_of | apply freshOk_add | apply regsOk_of | apply mgcOk_of | apply fabOk_of | apply storeOk_of | apply cfgOk_of | apply dramsOk_of)

theorem kept_firmwareStop {c : Keep} : ∀ x0, Kept c x0 → Kept c (firmwareStop x0) := by
  intro s h
  unfold firmwareStop
  split
  · have hc := kept_clearStaged _ (kept_closeHasps _ (kept_bump (f := MGC_STAT_restarts) (k := 1)
      (kept_foldl (l := [Transport.can, .spi, .kwr]) h fun s t hs => kept_abortTransfer s t hs)))
    refine kept_raise _ _ _ (kept_ite ?_ (kept_put ?_)) <;>
      exact ⟨hc.queue, hc.fresh, hc.regs, hc.mgc, hc.fab, hc.store, hc.cfg, hc.dram⟩
  · exact h

theorem kept_execMgcFirmwareStop {c : Keep} : ∀ x0, Kept c x0 → KeptR c (execMgcFirmwareStop x0) := by
  intros
  unfold execMgcFirmwareStop
  repeat' (with_reducible first
    | assumption
    | intro _
    | apply kept_firmwareStop | apply keptR_ite | apply keptR_next | apply kept_ite
    | split)

theorem kept_restartEnd {c : Keep} : ∀ x0, Kept c x0 → Kept c (restartEnd x0) := by
  intros
  unfold restartEnd
  repeat' (with_reducible first
    | assumption
    | intro _
    | (rename _ = (_, _) => hq; first | (refine kept_fst_cut (c := c) hq ?_ ?_ <;> [clear hq; (clear hq; intro hr)]) | clear hq)
    | (extract_lets +onlyGivenNames xl; first | (refine kept_cut (c := c) (s := xl) ?_ ?_ <;> [subst xl; (intro hx; clear_value xl)]) | (refine keptP_cut (c := c) (p := xl) ?_ ?_ <;> [subst xl; (intro hx; clear_value xl)]) | subst xl)
    | apply kept_put | apply kept_startRemap | apply kept_flashResume | apply kept_replayHeld | apply kept_ite | apply keptP_ite | apply keptP_mk
    | apply kept_foldl | apply keptP_foldl
    | split)

theorem kept_execMgcRestartEnd {c : Keep} : ∀ x0, Kept c x0 → KeptR c (execMgcRestartEnd x0) := by
  intros
  unfold execMgcRestartEnd
  repeat' (with_reducible first
    | assumption
    | intro _
    | apply kept_restartEnd | apply keptR_ite | apply keptR_next | apply kept_ite
    | split)

theorem kept_overflowNote {c : Keep} : ∀ x0 x1, Kept c x0 → Kept c (overflowNote x0 x1) := by
  intro s t hs
  have hq := hs.mgc.2.2 t.idx
  unfold overflowNote
  dsimp only
  split
  · rename_i h
    simp only [Bool.and_eq_true, decide_eq_true_eq] at h
    have hk : Kept c ((logWrite s ⟨s.timebase, true, 0xA002,
        packWord [(34, t.idx), (16, s.get MGC_EM_CNT_dropped)]⟩).bump MGC_EM_CNT_sent 1) := kept_bump (kept_logWrite hs)
    split
    · refine kept_setQueue ⟨hk.queue, hk.fresh, hk.regs, hk.mgc, hk.fab, hk.store, hk.cfg, hk.dram⟩ ?_
      simp only [List.length_append, List.length_singleton]
      omega
    · exact kept_setQueue ⟨hk.queue, hk.fresh, hk.regs, hk.mgc, hk.fab, hk.store, hk.cfg, hk.dram⟩ hq
  · exact hs

theorem kept_emTake {c : Keep} : ∀ x0 x1, Kept c x0 → KeptP c (emTake x0 x1) := by
  intro s t hs
  have hq := hs.mgc.2.2 t.idx
  unfold emTake
  split
  · exact hs
  · rename_i e rest h
    refine kept_overflowNote _ _ (kept_setQueue hs ?_)
    have h2 : (tget (fun _ => EmQueue.init) s.mgc.queues t.idx).items = e :: rest := h
    rw [h2] at hq
    simp only [List.length_cons] at hq
    dsimp only
    omega

theorem kept_setEmSent {c : Keep} : ∀ x0 x1 x2, Kept c x0 → Kept c (setEmSent x0 x1 x2) := by
  intros
  unfold setEmSent
  repeat' (with_reducible first
    | assumption
    | intro _
    | apply kept_ite
    | split
    | apply kept_mk | apply queueOk_of | apply freshOk_of | apply freshOk_add | apply regsOk_of | apply mgcOk_of | apply fabOk_of | apply storeOk_of | apply cfgOk_of | apply dramsOk_of | apply mgcOk_mk | apply logOk_of | apply holdOk_of | apply queuesOk_of | exact logOk_nil | exact holdOk_nil | exact queuesOk_nil)

theorem kept_spiOut {c : Keep} : ∀ x0 x1, Kept c x0 → Kept c (spiOut x0 x1) := by
  intros
  unfold spiOut
  repeat' (with_reducible first
    | assumption
    | intro _
    | apply kept_ite
    | split
    | apply kept_mk | apply queueOk_of | apply freshOk_of | apply freshOk_add | apply regsOk_of | apply mgcOk_of | apply fabOk_of | apply storeOk_of | apply cfgOk_of | apply dramsOk_of | apply mgcOk_mk | apply logOk_of | apply holdOk_of | apply queuesOk_of | exact logOk_nil | exact holdOk_nil | exact queuesOk_nil)

theorem kept_spiServe {c : Keep} : ∀ x0 x1, Kept c x0 → (∀ s, Kept c s → Kept c (x1 s)) → Kept c (spiServe x0 x1) := by
  intro s f hs h
  unfold spiServe
  split
  · exact hs
  split
  · exact ⟨hs.queue, hs.fresh, hs.regs, hs.mgc, hs.fab, hs.store, hs.cfg, hs.dram⟩
  · exact h _ hs

theorem kept_spiRequest {c : Keep} : ∀ x0 x1, Kept c x0 → Kept c (spiRequest x0 x1) := by
  intros
  unfold spiRequest
  repeat' (with_reducible first
    | assumption
    | intro _
    | (extract_lets +onlyGivenNames xl; first | (refine kept_cut (c := c) (s := xl) ?_ ?_ <;> [subst xl; (intro hx; clear_value xl)]) | (refine keptP_cut (c := c) (p := xl) ?_ ?_ <;> [subst xl; (intro hx; clear_value xl)]) | subst xl)
    | apply kept_spiServe | apply kept_spiOut | apply kept_requestFrame | apply kept_ite
    | split
    | apply kept_mk | apply queueOk_of | apply freshOk_of | apply freshOk_add | apply regsOk_of | apply mgcOk_of | apply fabOk_of | apply storeOk_of | apply cfgOk_of | apply dramsOk_of | apply mgcOk_mk | apply logOk_of | apply holdOk_of | apply queuesOk_of | exact logOk_nil | exact holdOk_nil | exact queuesOk_nil)

theorem kept_execSpiSdoRequest {c : Keep} : ∀ x0 x1, Kept c x1 → KeptR c (execSpiSdoRequest x0 x1) := by
  intros
  unfold execSpiSdoRequest
  repeat' (with_reducible first
    | assumption
    | intro _
    | apply kept_spiRequest | apply keptR_ite | apply keptR_next | apply kept_ite
    | split)

theorem kept_spiReadResponse {c : Keep} : ∀ x0, Kept c x0 → Kept c (spiReadResponse x0) := by
  intros
  unfold spiReadResponse
  repeat' (with_reducible first
    | assumption
    | intro _
    | apply kept_spiServe | apply kept_setAnswer | apply kept_spiOut | apply kept_ite
    | split
    | apply kept_mk | apply queueOk_of | apply freshOk_of | apply freshOk_add | apply regsOk_of | apply mgcOk_of | apply fabOk_of | apply storeOk_of | apply cfgOk_of | apply dramsOk_of)

theorem kept_execSpiReadResponse {c : Keep} : ∀ x0, Kept c x0 → KeptR c (execSpiReadResponse x0) := by
  intros
  unfold execSpiReadResponse
  repeat' (with_reducible first
    | assumption
    | intro _
    | apply kept_spiReadResponse | apply keptR_ite | apply keptR_next | apply kept_ite
    | split)

theorem kept_spiReadEmergency {c : Keep} : ∀ x0, Kept c x0 → Kept c (spiReadEmergency x0) := by
  intros
  unfold spiReadEmergency
  repeat' (with_reducible first
    | assumption
    | intro _
    | (rename _ = (_, _) => hq; first | (refine kept_fst_cut (c := c) hq ?_ ?_ <;> [clear hq; (clear hq; intro hr)]) | clear hq)
    | (apply kept_fst; first | assumption | apply kept_emTake)
    | apply kept_spiServe | apply kept_emTake | apply kept_setEmSent | apply kept_spiOut | apply kept_ite | apply keptP_ite | apply keptP_mk
    | split
    | apply kept_mk | apply queueOk_of | apply freshOk_of | apply freshOk_add | apply regsOk_of | apply mgcOk_of | apply fabOk_of | apply storeOk_of | apply cfgOk_of | apply dramsOk_of | apply mgcOk_mk | apply logOk_of | apply holdOk_of | apply queuesOk_of | exact logOk_nil | exact holdOk_nil | exact queuesOk_nil)

theorem kept_execSpiReadEmergency {c : Keep} : ∀ x0, Kept c x0 → KeptR c (execSpiReadEmergency x0) := by
  intros
  unfold execSpiReadEmergency
  repeat' (with_reducible first
    | assumption
    | intro _
    | apply kept_spiReadEmergency | apply keptR_ite | apply keptR_next | apply kept_ite
    | split)

theorem kept_spiReadStatus {c : Keep} : ∀ x0, Kept c x0 → Kept c (spiReadStatus x0) := by
  intros
  unfold spiReadStatus
  repeat' (with_reducible first
    | assumption
    | intro _
    | apply kept_spiServe | apply kept_spiOut | apply kept_ite
    | split)

theorem kept_execSpiReadStatus {c : Keep} : ∀ x0, Kept c x0 → KeptR c (execSpiReadStatus x0) := by
  intros
  unfold execSpiReadStatus
  repeat' (with_reducible first
    | assumption
    | intro _
    | apply kept_spiReadStatus | apply keptR_ite | apply keptR_next | apply kept_ite
    | split)

theorem kept_emergencySend {c : Keep} : ∀ x0 x1, Kept c x0 → Kept c (emergencySend x0 x1) := by
  intros
  unfold emergencySend
  repeat' (with_reducible first
    | assumption
    | intro _
    | (rename _ = (_, _) => hq; first | (refine kept_fst_cut (c := c) hq ?_ ?_ <;> [clear hq; (clear hq; intro hr)]) | clear hq)
    | (extract_lets +onlyGivenNames xl; first | (refine kept_cut (c := c) (s := xl) ?_ ?_ <;> [subst xl; (intro hx; clear_value xl)]) | (refine keptP_cut (c := c) (p := xl) ?_ ?_ <;> [subst xl; (intro hx; clear_value xl)]) | subst xl)
    | (apply kept_fst; first | assumption | apply kept_emTake)
    | apply kept_spiReadEmergency | apply kept_emTake | apply kept_setEmSent | apply kept_ringSend | apply kept_ite | apply keptP_ite | apply keptP_mk
    | split
    | apply kept_mk | apply queueOk_of | apply freshOk_of | apply freshOk_add | apply regsOk_of | apply mgcOk_of | apply fabOk_of | apply storeOk_of | apply cfgOk_of | apply dramsOk_of)

theorem kept_execEmergencySend {c : Keep} : ∀ x0 x1, Kept c x1 → KeptR c (execEmergencySend x0 x1) := by
  intros
  unfold execEmergencySend
  repeat' (with_reducible first
    | assumption
    | intro _
    | apply kept_emergencySend | apply keptR_ite | apply keptR_next | apply kept_ite
    | split)

theorem kept_heartbeat {c : Keep} : ∀ x0, Kept c x0 → Kept c (heartbeat x0) := by
  intros
  unfold heartbeat
  repeat' (with_reducible first
    | assumption
    | intro _
    | apply kept_tookFree | apply kept_ite
    | split
    | apply kept_mk | apply queueOk_of | apply freshOk_of | apply freshOk_add | apply regsOk_of | apply mgcOk_of | apply fabOk_of | apply storeOk_of | apply cfgOk_of | apply dramsOk_of | apply mgcOk_mk | apply logOk_of | apply holdOk_of | apply queuesOk_of | exact logOk_nil | exact holdOk_nil | exact queuesOk_nil)

theorem kept_execHeartbeatTimer {c : Keep} : ∀ x0, Kept c x0 → KeptR c (execHeartbeatTimer x0) := by
  intros
  unfold execHeartbeatTimer
  repeat' (with_reducible first
    | assumption
    | intro _
    | apply kept_heartbeat | apply keptR_ite | apply keptR_next | apply kept_ite
    | split)

theorem kept_busOff {c : Keep} : ∀ x0 x1, Kept c x0 → Kept c (busOff x0 x1) := by
  intros
  unfold busOff
  repeat' (with_reducible first
    | assumption
    | intro _
    | apply kept_put | apply kept_ite
    | split
    | apply kept_mk | apply queueOk_of | apply freshOk_of | apply freshOk_add | apply regsOk_of | apply mgcOk_of | apply fabOk_of | apply storeOk_of | apply cfgOk_of | apply dramsOk_of | apply mgcOk_mk | apply logOk_of | apply holdOk_of | apply queuesOk_of | exact logOk_nil | exact holdOk_nil | exact queuesOk_nil)

theorem kept_execCanBusOff {c : Keep} : ∀ x0 x1, Kept c x1 → KeptR c (execCanBusOff x0 x1) := by
  intros
  unfold execCanBusOff
  repeat' (with_reducible first
    | assumption
    | intro _
    | apply kept_busOff | apply keptR_ite | apply keptR_next | apply kept_ite
    | split)

theorem kept_busBack {c : Keep} : ∀ x0, Kept c x0 → Kept c (busBack x0) := by
  intros
  unfold busBack
  repeat' (with_reducible first
    | assumption
    | intro _
    | apply kept_raise | apply kept_put | apply kept_ite
    | split)

theorem kept_execCanBusOffRecovered {c : Keep} : ∀ x0, Kept c x0 → KeptR c (execCanBusOffRecovered x0) := by
  intros
  unfold execCanBusOffRecovered
  repeat' (with_reducible first
    | assumption
    | intro _
    | apply kept_busBack | apply keptR_ite | apply keptR_next | apply kept_ite
    | split)

theorem kept_whenServed {c : Keep} : ∀ x0 x1 x2, Kept c x0 → KeptS c x2 → Kept c (whenServed x0 x1 x2) := by
  intro s t r hs h
  unfold whenServed
  split
  · exact h _ rfl
  · exact hs

theorem kept_execExpertHaspOpen {c : Keep} : ∀ x0 x1 x2, Kept c x2 → KeptR c (execExpertHaspOpen x0 x1 x2) := by
  intros
  unfold execExpertHaspOpen
  repeat' (with_reducible first
    | assumption
    | intro _
    | (rename _ = Sum.inl _ => hq; first | (refine kept_inl_cut (c := c) hq ?_ ?_ <;> [clear hq; (clear hq; intro hr)]) | clear hq)
    | apply kept_whenServed | apply kept_expertWrite | apply keptR_ite | apply keptR_next | apply kept_ite | apply keptS_ite | apply keptS_inl | apply keptS_inr
    | split)

theorem kept_execExpertHaspClose {c : Keep} : ∀ x0 x1, Kept c x1 → KeptR c (execExpertHaspClose x0 x1) := by
  intros
  unfold execExpertHaspClose
  repeat' (with_reducible first
    | assumption
    | intro _
    | (rename _ = Sum.inl _ => hq; first | (refine kept_inl_cut (c := c) hq ?_ ?_ <;> [clear hq; (clear hq; intro hr)]) | clear hq)
    | apply kept_whenServed | apply kept_expertWrite | apply keptR_ite | apply keptR_next | apply kept_ite | apply keptS_ite | apply keptS_inl | apply keptS_inr
    | split)

theorem kept_execHaspIdleTimeout {c : Keep} : ∀ x0 x1, Kept c x1 → KeptR c (execHaspIdleTimeout x0 x1) := by
  intros
  unfold execHaspIdleTimeout
  repeat' (with_reducible first
    | assumption
    | intro _
    | apply kept_closeExpert | apply keptR_ite | apply keptR_next | apply kept_ite
    | split)

theorem kept_execCalHaspOpen {c : Keep} : ∀ x0 x1 x2, Kept c x2 → KeptR c (execCalHaspOpen x0 x1 x2) := by
  intros
  unfold execCalHaspOpen
  repeat' (with_reducible first
    | assumption
    | intro _
    | (rename _ = Sum.inl _ => hq; first | (refine kept_inl_cut (c := c) hq ?_ ?_ <;> [clear hq; (clear hq; intro hr)]) | clear hq)
    | apply kept_whenServed | apply kept_calWrite | apply keptR_ite | apply keptR_next | apply kept_ite | apply keptS_ite | apply keptS_inl | apply keptS_inr
    | split)

theorem kept_execCalHaspClose {c : Keep} : ∀ x0 x1, Kept c x1 → KeptR c (execCalHaspClose x0 x1) := by
  intros
  unfold execCalHaspClose
  repeat' (with_reducible first
    | assumption
    | intro _
    | (rename _ = Sum.inl _ => hq; first | (refine kept_inl_cut (c := c) hq ?_ ?_ <;> [clear hq; (clear hq; intro hr)]) | clear hq)
    | apply kept_whenServed | apply kept_calWrite | apply keptR_ite | apply keptR_next | apply kept_ite | apply keptS_ite | apply keptS_inl | apply keptS_inr
    | split)

theorem kept_setSettle {c : Keep} : ∀ x0 x1 x2, Kept c x0 → Kept c (setSettle x0 x1 x2) := by
  intros
  unfold setSettle
  repeat' (with_reducible first
    | assumption
    | intro _
    | apply kept_ite
    | split
    | apply kept_mk | apply queueOk_of | apply freshOk_of | apply freshOk_add | apply regsOk_of | apply mgcOk_of | apply fabOk_of | apply storeOk_of | apply cfgOk_of | apply dramsOk_of | apply mgcOk_mk | apply logOk_of | apply holdOk_of | apply queuesOk_of | exact logOk_nil | exact holdOk_nil | exact queuesOk_nil)

theorem kept_setDisagreed {c : Keep} : ∀ x0 x1 x2, Kept c x0 → Kept c (setDisagreed x0 x1 x2) := by
  intros
  unfold setDisagreed
  repeat' (with_reducible first
    | assumption
    | intro _
    | apply kept_ite
    | split
    | apply kept_mk | apply queueOk_of | apply freshOk_of | apply freshOk_add | apply regsOk_of | apply mgcOk_of | apply fabOk_of | apply storeOk_of | apply cfgOk_of | apply dramsOk_of | apply mgcOk_mk | apply logOk_of | apply holdOk_of | apply queuesOk_of | exact logOk_nil | exact holdOk_nil | exact queuesOk_nil)

theorem kept_setAgreeDue {c : Keep} : ∀ x0 x1 x2, Kept c x0 → Kept c (setAgreeDue x0 x1 x2) := by
  intros
  unfold setAgreeDue
  repeat' (with_reducible first
    | assumption
    | intro _
    | apply kept_ite
    | split
    | apply kept_mk | apply queueOk_of | apply freshOk_of | apply freshOk_add | apply regsOk_of | apply mgcOk_of | apply fabOk_of | apply storeOk_of | apply cfgOk_of | apply dramsOk_of | apply mgcOk_mk | apply logOk_of | apply holdOk_of | apply queuesOk_of | exact logOk_nil | exact holdOk_nil | exact queuesOk_nil)

theorem kept_pairRestart {c : Keep} : ∀ x0 x1, Kept c x0 → Kept c (pairRestart x0 x1) := by
  intros
  unfold pairRestart
  repeat' (with_reducible first
    | assumption
    | intro _
    | apply kept_setSettle | apply kept_ite
    | split)

theorem kept_pairCheck {c : Keep} : ∀ x0 x1, Kept c x0 → Kept c (pairCheck x0 x1) := by
  intros
  unfold pairCheck
  repeat' (with_reducible first
    | assumption
    | intro _
    | (extract_lets +onlyGivenNames xl; first | (refine kept_cut (c := c) (s := xl) ?_ ?_ <;> [subst xl; (intro hx; clear_value xl)]) | (refine keptP_cut (c := c) (p := xl) ?_ ?_ <;> [subst xl; (intro hx; clear_value xl)]) | subst xl)
    | apply kept_pairRestart | apply kept_setAgreeDue | apply kept_setDisagreed | apply kept_setSettle | apply kept_logState | apply kept_raise | apply kept_ite
    | split
    | apply kept_mk | apply queueOk_of | apply freshOk_of | apply freshOk_add | apply regsOk_of | apply mgcOk_of | apply fabOk_of | apply storeOk_of | apply cfgOk_of | apply dramsOk_of)

theorem kept_commandedCheck {c : Keep} : ∀ x0, Kept c x0 → Kept c (commandedCheck x0) := by
  intros
  unfold commandedCheck
  repeat' (with_reducible first
    | assumption
    | intro _
    | (rename _ = (_, _) => hq; first | (refine kept_fst_cut (c := c) hq ?_ ?_ <;> [clear hq; (clear hq; intro hr)]) | clear hq)
    | (extract_lets +onlyGivenNames xl; first | (refine kept_cut (c := c) (s := xl) ?_ ?_ <;> [subst xl; (intro hx; clear_value xl)]) | (refine keptP_cut (c := c) (p := xl) ?_ ?_ <;> [subst xl; (intro hx; clear_value xl)]) | subst xl)
    | apply kept_pairCheck | apply kept_ite | apply keptP_ite | apply keptP_mk
    | apply kept_foldl | apply keptP_foldl
    | split)

theorem kept_execCommandedActualCheck {c : Keep} : ∀ x0, Kept c x0 → KeptR c (execCommandedActualCheck x0) := by
  intros
  unfold execCommandedActualCheck
  repeat' (with_reducible first
    | assumption
    | intro _
    | apply kept_commandedCheck | apply keptR_ite | apply keptR_next | apply kept_ite
    | split)

end Sys2Proof.Machine
end

