-- ==== Sys2Proof/Laws/KeptDispatch.lean ====
section
/-! SUPPORT. What every operation of Machine/Dispatch.lean keeps (Laws/Kept.lean). -/
set_option linter.unusedTactic false
set_option linter.unreachableTactic false
namespace Sys2Proof.Machine
open Sys2Proof

theorem kept_exec {c : Keep} : ∀ x0 x1, Kept c x1 → KeptR c (exec x0 x1)
  | .supplyRise, _, h => kept_execSupplyRise _ h
  | .powerOnResetRelease _ _, _, h => kept_execPowerOnResetRelease _ _ _ h
  | .rootPllLock, _, h => kept_execRootPllLock _ h
  | .mgcBootDone _, _, h => kept_execMgcBootDone _ _ h
  | .startupBistDone _ _ _ _, _, h => kept_execStartupBistDone _ _ _ _ _ h
  | .runReached, _, h => kept_execRunReached _ h
  | .porst, _, h => kept_execPorst _ h
  | .brownout, _, h => kept_execBrownout _ h
  | .refLost, _, h => kept_execRefLost _ h
  | .rootPllLockLost, _, h => kept_execRootPllLockLost _ h
  | .mgcFirmwareStop, _, h => kept_execMgcFirmwareStop _ h
  | .mgcRestartEnd, _, h => kept_execMgcRestartEnd _ h
  | .handshakeRequest _, _, h => kept_execHandshakeRequest _ _ h
  | .handshakeAck _, _, h => kept_execHandshakeAck _ _ h
  | .handshakeRelease _, _, h => kept_execHandshakeRelease _ _ h
  | .handshakeReady _, _, h => kept_execHandshakeReady _ _ h
  | .cellFire _, _, h => kept_execCellFire _ _ h
  | .particleUpset _, _, h => kept_execParticleUpset _ _ h
  | .userResetRequest _, _, h => kept_execUserResetRequest _ _ h
  | .boundaryWaitEnd _, _, h => kept_execBoundaryWaitEnd _ _ h
  | .boundaryWaitTimeout _, _, h => kept_execBoundaryWaitTimeout _ _ h
  | .tokLastClear, _, h => kept_execTokLastClear _ h
  | .tokCntClear, _, h => kept_execTokCntClear _ h
  | .xbLastClear, _, h => kept_execXbLastClear _ h
  | .xbCntClear, _, h => kept_execXbCntClear _ h
  | .probeEnable _ _, _, h => kept_execProbeEnable _ _ _ h
  | .probeDisable _ _, _, h => kept_execProbeDisable _ _ _ h
  | .probeSelWrite _ _, _, h => kept_execProbeSelWrite _ _ _ h
  | .paceWindowStart, _, h => kept_execPaceWindowStart _ h
  | .paceWindowEnd _ _ _, _, h => kept_execPaceWindowEnd _ _ _ _ h
  | .governorPeriod _ _, _, h => kept_execGovernorPeriod _ _ _ h
  | .governorWarmEnd, _, h => kept_execGovernorWarmEnd _ h
  | .governorEnable, _, h => kept_execGovernorEnable _ h
  | .governorDisable, _, h => kept_execGovernorDisable _ h
  | .vfabTargetWrite _, _, h => kept_execVfabTargetWrite _ _ h
  | .vfabRampStep _, _, h => kept_execVfabRampStep _ _ h
  | .vfabReadVout _ _, _, h => kept_execVfabReadVout _ _ _ h
  | .pmbAlert, _, h => kept_execPmbAlert _ h
  | .vfabMismatchTimeout, _, h => kept_execVfabMismatchTimeout _ h
  | .storeRead _ _ _, _, h => kept_execStoreRead _ _ _ _ h
  | .storeWrite _ _ _, _, h => kept_execStoreWrite _ _ _ _ h
  | .storeExchange _ _ _, _, h => kept_execStoreExchange _ _ _ _ h
  | .storeRequestFault _ _ _, _, h => kept_execStoreRequestFault _ _ _ _ h
  | .storeResponse _ _ _, _, h => kept_execStoreResponse _ _ _ _ h
  | .blockHandoverQuiesced _ _, _, h => kept_execBlockHandoverQuiesced _ _ _ h
  | .blockHandoverSwitch _ _, _, h => kept_execBlockHandoverSwitch _ _ _ h
  | .blockHandoverTimeout _ _, _, h => kept_execBlockHandoverTimeout _ _ _ h
  | .eventOffered _, _, h => kept_execEventOffered _ _ h
  | .eventReqSeen _, _, h => kept_execEventReqSeen _ _ h
  | .eventTaken _, _, h => kept_execEventTaken _ _ h
  | .eventAckSeen _, _, h => kept_execEventAckSeen _ _ h
  | .eventReqLowSeen _, _, h => kept_execEventReqLowSeen _ _ h
  | .eventCrossingComplete _, _, h => kept_execEventCrossingComplete _ _ h
  | .wordValueWrite _ _, _, h => kept_execWordValueWrite _ _ _ h
  | .wordValueVisible _, _, h => kept_execWordValueVisible _ _ h
  | .wordSampleRequest _, _, h => kept_execWordSampleRequest _ _ h
  | .wordOutToken _, _, h => kept_execWordOutToken _ _ h
  | .wordOutWrite _, _, h => kept_execWordOutWrite _ _ h
  | .wordValidRestore _, _, h => kept_execWordValidRestore _ _ h
  | .ctlhRead, _, h => kept_execCtlhRead _ h
  | .ctlhWrite, _, h => kept_execCtlhWrite _ h
  | .ctlhMaskedWrite, _, h => kept_execCtlhMaskedWrite _ h
  | .ctlhReservedOp, _, h => kept_execCtlhReservedOp _ h
  | .ctlhAccessEdge, _, h => kept_execCtlhAccessEdge _ h
  | .ctlhResponse, _, h => kept_execCtlhResponse _ h
  | .reseatSxSeen _, _, h => kept_execReseatSxSeen _ _ h
  | .reseatXRelease _, _, h => kept_execReseatXRelease _ _ h
  | .reseatYOpen _, _, h => kept_execReseatYOpen _ _ h
  | .reseatXOpen _, _, h => kept_execReseatXOpen _ _ h
  | .hingeSideReset _, _, h => kept_execHingeSideReset _ _ h
  | .hingeSideResetEnd _, _, h => kept_execHingeSideResetEnd _ _ h
  | .userClockEnable _ _, _, h => kept_execUserClockEnable _ _ _ h
  | .userClockLost _, _, h => kept_execUserClockLost _ _ h
  | .userClockPresent _, _, h => kept_execUserClockPresent _ _ h
  | .hingeStall _, _, h => kept_execHingeStall _ _ h
  | .evStatClear _, _, h => kept_execEvStatClear _ _ h
  | .wdStatClear _, _, h => kept_execWdStatClear _ _ h
  | .stallLastClear, _, h => kept_execStallLastClear _ h
  | .ctlhStatClear, _, h => kept_execCtlhStatClear _ h
  | .fifoPush _ _, _, h => kept_execFifoPush _ _ _ h
  | .fifoSealTimeout _, _, h => kept_execFifoSealTimeout _ _ h
  | .fifoSealCrossing _, _, h => kept_execFifoSealCrossing _ _ h
  | .fifoPop _, _, h => kept_execFifoPop _ _ h
  | .fifoBankSwap _, _, h => kept_execFifoBankSwap _ _ h
  | .fifoParityError _ _, _, h => kept_execFifoParityError _ _ _ h
  | .fifoFlushPkt _, _, h => kept_execFifoFlushPkt _ _ h
  | .fifoFlushPoint _, _, h => kept_execFifoFlushPoint _ _ h
  | .fifoFlushReader _, _, h => kept_execFifoFlushReader _ _ h
  | .fifoClearNow _, _, h => kept_execFifoClearNow _ _ h
  | .fifoClearPoint _, _, h => kept_execFifoClearPoint _ _ h
  | .fifoClearReader _, _, h => kept_execFifoClearReader _ _ h
  | .fifoCntClear _, _, h => kept_execFifoCntClear _ _ h
  | .fifoSealToWrite _ _ _, _, h => kept_execFifoSealToWrite _ _ _ _ h
  | .mailboxPush _ _ _, _, h => kept_execMailboxPush _ _ _ _ h
  | .mailboxPop _, _, h => kept_execMailboxPop _ _ h
  | .cordRefLost _ _, _, h => kept_execCordRefLost _ _ _ h
  | .cordPllLock _, _, h => kept_execCordPllLock _ _ h
  | .cordRateWrite _ _, _, h => kept_execCordRateWrite _ _ _ h
  | .cordMapWrite _ _, _, h => kept_execCordMapWrite _ _ _ h
  | .laneModeWrite _ _, _, h => kept_execLaneModeWrite _ _ _ h
  | .laneRetrain _, _, h => kept_execLaneRetrain _ _ h
  | .laneSetActive _, _, h => kept_execLaneSetActive _ _ h
  | .laneSetIdleHold _, _, h => kept_execLaneSetIdleHold _ _ h
  | .laneSetBanked _, _, h => kept_execLaneSetBanked _ _ h
  | .laneCntClear _, _, h => kept_execLaneCntClear _ _ h
  | .signalDetected _, _, h => kept_execSignalDetected _ _ h
  | .signalLost _, _, h => kept_execSignalLost _ _ h
  | .alignInvalidHeader _ _, _, h => kept_execAlignInvalidHeader _ _ _ h
  | .alignHuntDone _, _, h => kept_execAlignHuntDone _ _ h
  | .alignLocked _, _, h => kept_execAlignLocked _ _ h
  | .adaptFreeze _, _, h => kept_execAdaptFreeze _ _ h
  | .adaptResume _, _, h => kept_execAdaptResume _ _ h
  | .rxIdleBlock _, _, h => kept_execRxIdleBlock _ _ h
  | .rxStartBlock _, _, h => kept_execRxStartBlock _ _ h
  | .rxDataBlock _ _, _, h => kept_execRxDataBlock _ _ _ h
  | .rxEndBlock _ _, _, h => kept_execRxEndBlock _ _ _ h
  | .rxTrainBlock _ _, _, h => kept_execRxTrainBlock _ _ _ h
  | .rxHoldBlock _, _, h => kept_execRxHoldBlock _ _ h
  | .rxInvalidBlock _ _, _, h => kept_execRxInvalidBlock _ _ _ h
  | .rxHoldExit _, _, h => kept_execRxHoldExit _ _ h
  | .rxHoldTimeout _, _, h => kept_execRxHoldTimeout _ _ h
  | .trainAdaptDone _, _, h => kept_execTrainAdaptDone _ _ h
  | .trainSuccess _ _, _, h => kept_execTrainSuccess _ _ _ h
  | .trainTimeout _, _, h => kept_execTrainTimeout _ _ h
  | .backoffElapsed _, _, h => kept_execBackoffElapsed _ _ h
  | .ethHiBer _ _, _, h => kept_execEthHiBer _ _ _ h
  | .ethRxBlock _ _, _, h => kept_execEthRxBlock _ _ _ h
  | .kwrRoleWrite _ _, _, h => kept_execKwrRoleWrite _ _ _ h
  | .kwrWidthWrite _ _, _, h => kept_execKwrWidthWrite _ _ _ h
  | .kwrCycleBoundary _, _, h => kept_execKwrCycleBoundary _ _ h
  | .kwrRxCycle _ _ _ _ _, _, h => kept_execKwrRxCycle _ _ _ _ _ _ h
  | .kwrRxCycleEnd _ _ _, _, h => kept_execKwrRxCycleEnd _ _ _ _ h
  | .kwrRxTime _ _ _ _ _, _, h => kept_execKwrRxTime _ _ _ _ _ _ h
  | .kwrRxTimeHigh _ _ _, _, h => kept_execKwrRxTimeHigh _ _ _ _ h
  | .kwrTimebaseSlew _, _, h => kept_execKwrTimebaseSlew _ _ h
  | .kwrRxSuperblock _ _ _, _, h => kept_execKwrRxSuperblock _ _ _ _ h
  | .kwrRxAck _ _ _ _, _, h => kept_execKwrRxAck _ _ _ _ _ h
  | .kwrRxReplay _ _ _, _, h => kept_execKwrRxReplay _ _ _ _ h
  | .kwrRxMgmt _ _, _, h => kept_execKwrRxMgmt _ _ _ h
  | .kwrRxSlot _, _, h => kept_execKwrRxSlot _ _ h
  | .kwrRxFill _ _, _, h => kept_execKwrRxFill _ _ _ h
  | .kwrInsertPacket _, _, h => kept_execKwrInsertPacket _ _ h
  | .kwrAckTimer _, _, h => kept_execKwrAckTimer _ _ h
  | .kwrHopReseat _, _, h => kept_execKwrHopReseat _ _ h
  | .kwrBufferInvalid _, _, h => kept_execKwrBufferInvalid _ _ h
  | .kwrCycleMissed _, _, h => kept_execKwrCycleMissed _ _ h
  | .kwrFrameNotReturned _, _, h => kept_execKwrFrameNotReturned _ _ h
  | .kwrAlarmWrite _, _, h => kept_execKwrAlarmWrite _ _ h
  | .kwrAlarmClear _, _, h => kept_execKwrAlarmClear _ _ h
  | .kwrCntClear _, _, h => kept_execKwrCntClear _ _ h
  | .sdramRead _ _, _, h => kept_execSdramRead _ _ _ h
  | .sdramWrite _ _, _, h => kept_execSdramWrite _ _ _ h
  | .sdramMaskedWrite _ _, _, h => kept_execSdramMaskedWrite _ _ _ h
  | .sdramRequestFault _ _, _, h => kept_execSdramRequestFault _ _ _ h
  | .sdramAccessDone _ _ _ _, _, h => kept_execSdramAccessDone _ _ _ _ _ h
  | .sdramRequestAged _ _ _, _, h => kept_execSdramRequestAged _ _ _ _ h
  | .sdramRequestLate _ _ _, _, h => kept_execSdramRequestLate _ _ _ _ h
  | .sdramRefreshDue _ _, _, h => kept_execSdramRefreshDue _ _ _ h
  | .sdramTempRead _ _ _, _, h => kept_execSdramTempRead _ _ _ _ h
  | .sdramRefresh1x _, _, h => kept_execSdramRefresh1x _ _ h
  | .sdramPatrolRead _ _, _, h => kept_execSdramPatrolRead _ _ _ h
  | .sdramSelfRefreshEnter _, _, h => kept_execSdramSelfRefreshEnter _ _ h
  | .sdramSelfRefreshExit _, _, h => kept_execSdramSelfRefreshExit _ _ h
  | .sdramLiveRemapDone _, _, h => kept_execSdramLiveRemapDone _ _ h
  | .sdramPprRequest _, _, h => kept_execSdramPprRequest _ _ h
  | .sdramPprWithdraw _, _, h => kept_execSdramPprWithdraw _ _ h
  | .sdramPprRecorded _, _, h => kept_execSdramPprRecorded _ _ h
  | .sdramParityAlert _, _, h => kept_execSdramParityAlert _ _ h
  | .sdramAlertRelease _, _, h => kept_execSdramAlertRelease _ _ h
  | .sdramEccClear _, _, h => kept_execSdramEccClear _ _ h
  | .sdramCntClear _, _, h => kept_execSdramCntClear _ _ h
  | .sweepStepDone _ _ _, _, h => kept_execSweepStepDone _ _ _ _ h
  | .sweepRequest _, _, h => kept_execSweepRequest _ _ h
  | .gatheringStart _, _, h => kept_execGatheringStart _ _ h
  | .trainingPause _, _, h => kept_execTrainingPause _ _ h
  | .pauseEnd _ _, _, h => kept_execPauseEnd _ _ _ h
  | .sdramRateRequest _ _, _, h => kept_execSdramRateRequest _ _ _ h
  | .rateChangeBegin _, _, h => kept_execRateChangeBegin _ _ h
  | .sdramCheckDone _ _, _, h => kept_execSdramCheckDone _ _ _ h
  | .bankSupplyChange _ _, _, h => kept_execBankSupplyChange _ _ _ h
  | .bankSupplyAgreed _, _, h => kept_execBankSupplyAgreed _ _ h
  | .bankSupplyLost _, _, h => kept_execBankSupplyLost _ _ h
  | .pinLevelChange _ _ _, _, h => kept_execPinLevelChange _ _ _ _ h
  | .pinMaskedWrite _ _ _, _, h => kept_execPinMaskedWrite _ _ _ _ h
  | .pinDoutWrite _ _ _, _, h => kept_execPinDoutWrite _ _ _ _ h
  | .pinDoutApply _, _, h => kept_execPinDoutApply _ _ h
  | .pinPulseEnd _ _, _, h => kept_execPinPulseEnd _ _ _ h
  | .pinCfgStage _ _ _, _, h => kept_execPinCfgStage _ _ _ _ h
  | .pinApply _ _, _, h => kept_execPinApply _ _ _ h
  | .pinSwitchTake _, _, h => kept_execPinSwitchTake _ _ h
  | .gpevPulseEnd _ _, _, h => kept_execGpevPulseEnd _ _ _ h
  | .portInputStrobe _, _, h => kept_execPortInputStrobe _ _ h
  | .portOutputEntry _, _, h => kept_execPortOutputEntry _ _ h
  | .tumblerFilterExpiry _ _, _, h => kept_execTumblerFilterExpiry _ _ _ h
  | .tumblerWindowTimeout _, _, h => kept_execTumblerWindowTimeout _ _ h
  | .tumblerStrictReturn _, _, h => kept_execTumblerStrictReturn _ _ h
  | .tumblerConfigWrite _ _ _, _, h => kept_execTumblerConfigWrite _ _ _ _ h
  | .tumblerStatClear _, _, h => kept_execTumblerStatClear _ _ h
  | .wakePinEdge _ _, _, h => kept_execWakePinEdge _ _ _ h
  | .discoveryDone _ _, _, h => kept_execDiscoveryDone _ _ _ h
  | .chunkRead _, _, h => kept_execChunkRead _ _ h
  | .wardCheckDone, _, h => kept_execWardCheckDone _ h
  | .configClearDone, _, h => kept_execConfigClearDone _ h
  | .warmRecommit, _, h => kept_execWarmRecommit _ h
  | .hearthStreamRead, _, h => kept_execHearthStreamRead _ h
  | .hearthStreamCheckDone, _, h => kept_execHearthStreamCheckDone _ h
  | .keyStage _ _, _, h => kept_execKeyStage _ _ _ h
  | .keyExpectedKcv _ _, _, h => kept_execKeyExpectedKcv _ _ _ h
  | .keyringProgramEfuse _ _, _, h => kept_execKeyringProgramEfuse _ _ _ h
  | .keyringWriteBbram _ _, _, h => kept_execKeyringWriteBbram _ _ _ h
  | .keyringZeroize _, _, h => kept_execKeyringZeroize _ _ h
  | .keyringBlowKeySrc _ _, _, h => kept_execKeyringBlowKeySrc _ _ _ h
  | .keyringBlowBbramOff _ _, _, h => kept_execKeyringBlowBbramOff _ _ _ h
  | .keyringBlowRbOff _ _, _, h => kept_execKeyringBlowRbOff _ _ _ h
  | .keyringBlowMinVer _ _, _, h => kept_execKeyringBlowMinVer _ _ _ h
  | .keyringProgramKindBase _ _ _, _, h => kept_execKeyringProgramKindBase _ _ _ _ h
  | .keyringCommandDone _, _, h => kept_execKeyringCommandDone _ _ h
  | .vbatLow, _, h => kept_execVbatLow _ h
  | .readbackIndexWrite _, _, h => kept_execReadbackIndexWrite _ _ h
  | .readbackRead, _, h => kept_execReadbackRead _ h
  | .flashEraseSector, _, h => kept_execFlashEraseSector _ h
  | .flashEraseBlock, _, h => kept_execFlashEraseBlock _ h
  | .flashProgram, _, h => kept_execFlashProgram _ h
  | .flashCompare, _, h => kept_execFlashCompare _ h
  | .flashRead, _, h => kept_execFlashRead _ h
  | .flashServiceDone _, _, h => kept_execFlashServiceDone _ _ h
  | .peatPassStart, _, h => kept_execPeatPassStart _ h
  | .frameRead _ _ _, _, h => kept_execFrameRead _ _ _ _ h
  | .scrubPriorityReport _, _, h => kept_execScrubPriorityReport _ _ h
  | .scrubHeartbeatCheck, _, h => kept_execScrubHeartbeatCheck _ h
  | .scrubCntClear, _, h => kept_execScrubCntClear _ h
  | .hearthIsolate _, _, h => kept_execHearthIsolate _ _ h
  | .hearthIsolateRelease _, _, h => kept_execHearthIsolateRelease _ _ h
  | .hearthReloadRequest _ _, _, h => kept_execHearthReloadRequest _ _ _ h
  | .hearthReloadRetry _, _, h => kept_execHearthReloadRetry _ _ h
  | .bistSliceStart, _, h => kept_execBistSliceStart _ h
  | .columnPrecopyDone, _, h => kept_execColumnPrecopyDone _ h
  | .columnQuiesced, _, h => kept_execColumnQuiesced _ h
  | .columnQuiesceTimeout, _, h => kept_execColumnQuiesceTimeout _ h
  | .columnScanCopyDone _, _, h => kept_execColumnScanCopyDone _ _ h
  | .columnTestDone _, _, h => kept_execColumnTestDone _ _ h
  | .blockTestDone _, _, h => kept_execBlockTestDone _ _ h
  | .laneTestDone _, _, h => kept_execLaneTestDone _ _ h
  | .fifoTestDone _, _, h => kept_execFifoTestDone _ _ h
  | .repairRecordWriteDone _, _, h => kept_execRepairRecordWriteDone _ _ h
  | .repairClearSdram _ _, _, h => kept_execRepairClearSdram _ _ _ h
  | .shutdownTest, _, h => kept_execShutdownTest _ h
  | .fullTestDone _ _ _ _, _, h => kept_execFullTestDone _ _ _ _ _ h
  | .serviceHour _, _, h => kept_execServiceHour _ _ h
  | .serviceHoursSave, _, h => kept_execServiceHoursSave _ h
  | .jtagExtest _, _, h => kept_execJtagExtest _ _ h
  | .jtagIdcode _, _, h => kept_execJtagIdcode _ _ h
  | .jtagSamplePreload _, _, h => kept_execJtagSamplePreload _ _ h
  | .jtagClamp _, _, h => kept_execJtagClamp _ _ h
  | .jtagHighz _, _, h => kept_execJtagHighz _ _ h
  | .jtagExtestPulse _, _, h => kept_execJtagExtestPulse _ _ h
  | .jtagExtestTrain _, _, h => kept_execJtagExtestTrain _ _ h
  | .jtagBypass _, _, h => kept_execJtagBypass _ _ h
  | .jtagInstructionEnd, _, h => kept_execJtagInstructionEnd _ h
  | .sdoDownloadExpedited _ _ _ _ _, _, h => kept_execSdoDownloadExpedited _ _ _ _ _ _ h
  | .sdoDownloadInitiate _ _ _ _, _, h => kept_execSdoDownloadInitiate _ _ _ _ _ h
  | .sdoDownloadSegment _ _ _ _, _, h => kept_execSdoDownloadSegment _ _ _ _ _ h
  | .sdoUploadInitiate _ _ _, _, h => kept_execSdoUploadInitiate _ _ _ _ h
  | .sdoUploadSegment _ _, _, h => kept_execSdoUploadSegment _ _ _ h
  | .sdoSegmentTimeout _, _, h => kept_execSdoSegmentTimeout _ _ h
  | .pubResponse, _, h => kept_execPubResponse _ h
  | .pubEvent, _, h => kept_execPubEvent _ h
  | .pubTimeout, _, h => kept_execPubTimeout _ h
  | .spiSdoRequest _, _, h => kept_execSpiSdoRequest _ _ h
  | .spiReadResponse, _, h => kept_execSpiReadResponse _ h
  | .spiReadEmergency, _, h => kept_execSpiReadEmergency _ h
  | .spiReadStatus, _, h => kept_execSpiReadStatus _ h
  | .canBusOff _, _, h => kept_execCanBusOff _ _ h
  | .canBusOffRecovered, _, h => kept_execCanBusOffRecovered _ h
  | .expertHaspOpen _ _, _, h => kept_execExpertHaspOpen _ _ _ h
  | .expertHaspClose _, _, h => kept_execExpertHaspClose _ _ h
  | .haspIdleTimeout _, _, h => kept_execHaspIdleTimeout _ _ h
  | .calHaspOpen _ _, _, h => kept_execCalHaspOpen _ _ _ h
  | .calHaspClose _, _, h => kept_execCalHaspClose _ _ h
  | .commandedActualCheck, _, h => kept_execCommandedActualCheck _ h
  | .emergencySend _, _, h => kept_execEmergencySend _ _ h
  | .heartbeatTimer, _, h => kept_execHeartbeatTimer _ h
  | .doorbellRing _, _, h => kept_execDoorbellRing _ _ h
  | .calSectionWrite _ _ _, _, h => kept_execCalSectionWrite _ _ _ _ h
  | .calWriteDone, _, h => kept_execCalWriteDone _ h
  | .timebaseRead, _, h => kept_execTimebaseRead _ h
  | .alarmFire _, _, h => kept_execAlarmFire _ _ h
  | .alarmCompareWrite _ _, _, h => kept_execAlarmCompareWrite _ _ _ h
  | .alarmSkippedClear _, _, h => kept_execAlarmSkippedClear _ _ h
  | .wakeTimeWrite _ _, _, h => kept_execWakeTimeWrite _ _ _ h
  | .hearthWakeSlot, _, h => kept_execHearthWakeSlot _ h
  | .singleHearthWake _, _, h => kept_execSingleHearthWake _ _ h
  | .pwrCmdSimmer, _, h => kept_execPwrCmdSimmer _ h
  | .pwrCmdRun, _, h => kept_execPwrCmdRun _ h
  | .pwrCmdBanked, _, h => kept_execPwrCmdBanked _ h
  | .simmerClockDivide, _, h => kept_execSimmerClockDivide _ h
  | .simmerConfirmTimeout, _, h => kept_execSimmerConfirmTimeout _ h
  | .bankedEntryComplete, _, h => kept_execBankedEntryComplete _ h
  | .bankedWake _, _, h => kept_execBankedWake _ _ h
  | .bankedSuppliesReady, _, h => kept_execBankedSuppliesReady _ h
  | .bankedSupplyLate _, _, h => kept_execBankedSupplyLate _ _ h
  | .registerWrite _ _ _, _, h => kept_execRegisterWrite _ _ _ _ h

end Sys2Proof.Machine
end

