-- ==== Sys2Proof/Laws/Memory.lean ====
section
/-! SUPPORT. Laws of the addressed memories: what a cell reads after a write, and that every operation on a memory keeps its
canonical form, which the state at reset has. -/
namespace Sys2Proof.Machine
open Sys2Proof

theorem memory_wf_reset : Memory.wf State.reset = true := rfl

/-- A fold of steps that each keep a property keeps it. -/
theorem foldl_keeps {α β : Type} (P : α → Prop) (f : α → β → α) (h : ∀ a b, P a → P (f a b)) :
    ∀ (l : List β) (a : α), P a → P (l.foldl f a)
  | [], _, ha => ha
  | b :: l, a, ha => foldl_keeps P f h l (f a b) (h a b ha)

/-! ## Store blocks -/

theorem blockRow_setRow (s : State) (h pb row h' pb' row' : Nat) (v : W36) :
    blockRow (setRow s h pb row v) h' pb' row' =
      if (h' * 102 + pb') * 1024 + row' = (h * 102 + pb) * 1024 + row then v else blockRow s h' pb' row' := by
  simp only [blockRow, setRow, tget_tput]

theorem wf_setRow (s : State) (h pb row : Nat) (v : W36) (hw : Memory.wf s = true) : Memory.wf (setRow s h pb row v) = true := by
  simp only [Memory.wf, Bool.and_eq_true] at hw ⊢
  exact ⟨⟨⟨⟨⟨twf_tput _ _ _ _ hw.1.1.1.1.1, hw.1.1.1.1.2⟩, hw.1.1.1.2⟩, hw.1.1.2⟩, hw.1.2⟩, hw.2⟩

theorem wf_copyBlock (s : State) (h a b : Nat) (hw : Memory.wf s = true) : Memory.wf (copyBlock s h a b) = true :=
  foldl_keeps (fun s => Memory.wf s = true) _ (fun s r hs => wf_setRow s h b r _ hs) _ s hw

theorem wf_clearBlocks (s : State) (hw : Memory.wf s = true) : Memory.wf (clearBlocks s) = true := by
  unfold clearBlocks
  simp only [Memory.wf, Bool.and_eq_true] at hw ⊢
  exact ⟨⟨⟨⟨⟨twf_tdrop _ _ _ hw.1.1.1.1.1, hw.1.1.1.1.2⟩, hw.1.1.1.2⟩, hw.1.1.2⟩, hw.1.2⟩, hw.2⟩

/-! ## The flashes -/

theorem flashOctet_setFlash (s : State) (b b' : Bool) (a a' : Nat) (v : Octet) :
    flashOctet (setFlash s b a v) b' a' = if b' = b ∧ a' = a then v else flashOctet s b' a' := by
  cases b <;> cases b' <;> simp [flashOctet, setFlash, tget_tput]

theorem wf_setFlash (s : State) (b : Bool) (a : Nat) (v : Octet) (hw : Memory.wf s = true) :
    Memory.wf (setFlash s b a v) = true := by
  simp only [Memory.wf, Bool.and_eq_true] at hw ⊢
  cases b
  · exact ⟨⟨⟨⟨⟨hw.1.1.1.1.1, twf_tput _ _ _ _ hw.1.1.1.1.2⟩, hw.1.1.1.2⟩, hw.1.1.2⟩, hw.1.2⟩, hw.2⟩
  · exact ⟨⟨⟨⟨⟨hw.1.1.1.1.1, hw.1.1.1.1.2⟩, twf_tput _ _ _ _ hw.1.1.1.2⟩, hw.1.1.2⟩, hw.1.2⟩, hw.2⟩

/-! ## The SDRAM channels -/

theorem memDouble_putDouble (x : Dram) (l l' : DramLoc) (j j' : Nat) (v : BitVec 80) :
    memDouble (putDouble x l j v) l' j' = if lineNumber l' * 8 + j' = lineNumber l * 8 + j then v else memDouble x l' j' := by
  simp only [memDouble, putDouble, tget_tput]

theorem wf_putDouble (x : Dram) (l : DramLoc) (j : Nat) (v : BitVec 80) (h : twf (fun _ => 0) x.mem = true) :
    twf (fun _ => 0) (putDouble x l j v).mem = true := twf_tput _ _ _ _ h

theorem wf_flipBits (x : Dram) (l : DramLoc) (fs : List DramFlip) (h : twf (fun _ => 0) x.mem = true) :
    twf (fun _ => 0) (flipBits x l fs).mem = true :=
  foldl_keeps (fun x : Dram => twf (fun _ => 0) x.mem = true) _ (fun x _ hx => wf_putDouble x l _ _ hx) fs x h

theorem wf_writeLine (x : Dram) (l : DramLoc) (r : DramReq) (ds : List (W72 × Nat × Nat))
    (h : twf (fun _ => 0) x.mem = true) : twf (fun _ => 0) (writeLine x l r ds).mem = true := by
  refine foldl_keeps (fun x : Dram => twf (fun _ => 0) x.mem = true) _ (fun x j hx => ?_) _ x h
  dsimp only
  split
  · exact wf_putDouble x l _ _ hx
  · split
    · exact hx
    · exact wf_putDouble x l _ _ hx

theorem wf_setDram (s : State) (c : Nat) (x : Dram) (hw : Memory.wf s = true) (h : twf (fun _ => 0) x.mem = true) :
    Memory.wf (setDram s c x) = true := by
  have key : ∀ k, twf (fun _ => 0) (dramOf s k).mem = true → twf (fun _ => 0) (dramOf (setDram s c x) k).mem = true := by
    intro k hk
    simp only [dramOf, setDram, tget_tput] at hk ⊢
    split
    · exact h
    · exact hk
  simp only [Memory.wf, Bool.and_eq_true] at hw ⊢
  exact ⟨⟨⟨⟨⟨hw.1.1.1.1.1, hw.1.1.1.1.2⟩, hw.1.1.1.2⟩, key 0 hw.1.1.2⟩, key 1 hw.1.2⟩, hw.2⟩

theorem wf_writeBack (s : State) (c : Fin 2) (l : DramLoc) (ds : List (W72 × Nat × Nat)) (hw : Memory.wf s = true) :
    Memory.wf (writeBack s c.val l ds) = true := by
  refine wf_setDram s c.val _ hw (foldl_keeps (fun x : Dram => twf (fun _ => 0) x.mem = true) _ (fun x e hx => ?_) _ _ ?_)
  · split
    · exact wf_putDouble x _ _ _ hx
    · exact hx
  · simp only [Memory.wf, Bool.and_eq_true] at hw
    have : c.val = 0 ∨ c.val = 1 := by omega
    rcases this with h | h <;> rw [h]
    · exact hw.1.1.2
    · exact hw.1.2

/-! ## Configuration frames -/

theorem wf_frames (s : State) (t : Tbl (BitVec 1308)) (hw : Memory.wf s = true) (h : twf (fun _ => 0) t = true) :
    Memory.wf { s with fab := { s.fab with frames := t } } = true := by
  simp only [Memory.wf, Bool.and_eq_true] at hw ⊢
  exact ⟨hw.1, h⟩

theorem frames_of_wf (s : State) (hw : Memory.wf s = true) : twf (fun _ => 0) s.fab.frames = true := by
  simp only [Memory.wf, Bool.and_eq_true] at hw
  exact hw.2

theorem wf_clearMemory (s : State) (hw : Memory.wf s = true) : Memory.wf (clearMemory s) = true :=
  wf_frames s [] hw rfl

/-- What every operation keeps (Laws/Kept.lean) includes the canonical form of every memory. -/
theorem wf_of_kept {c : Keep} {s : State} (h : Kept c s) : Memory.wf s = true := by
  have h0 := h.dram 0
  have h1 := h.dram 1
  simp only [Memory.wf, Bool.and_eq_true]
  exact ⟨⟨⟨⟨⟨h.store, h.cfg.1⟩, h.cfg.2⟩, h0⟩, h1⟩, h.fab⟩

theorem frameOf_putFrame (s : State) (h col row f : Nat) (v : BitVec 1308) (h' col' row' f' : Nat) :
    frameOf (putFrame s h col row f v) h' col' row' f' =
      if frameKey h' col' row' f' = frameKey h col row f then v else frameOf s h' col' row' f' := by
  simp only [frameOf, putFrame, tget_tput]

theorem wf_putFrame (s : State) (h col row f : Nat) (v : BitVec 1308) (hw : Memory.wf s = true) :
    Memory.wf (putFrame s h col row f v) = true :=
  wf_frames s _ hw (twf_tput _ _ _ _ (frames_of_wf s hw))

theorem wf_writeFrame {c : Keep} {s : State} (a : FrameAddr) (v : BitVec 1308) (h : Kept c s) :
    Memory.wf (writeFrame s a v) = true := wf_of_kept (kept_writeFrame s a v h)

theorem wf_clearHearth {c : Keep} {s : State} (h : Nat) (hk : Kept c s) : Memory.wf (clearHearth s h) = true :=
  wf_of_kept (kept_clearHearth s h hk)

theorem wf_takeFrame {c : Keep} {s : State} (r : Reader) (h n : Nat) (l : List Octet) (hk : Kept c s) :
    Memory.wf (takeFrame s r h n l).1 = true := wf_of_kept (kept_takeFrame s r h n l hk)

theorem wf_copyFrames {c : Keep} {s : State} (h p q : Nat) (hk : Kept c s) : Memory.wf (copyFrames s h p q) = true :=
  wf_of_kept (kept_copyFrames s h p q hk)

theorem wf_testedFrames {c : Keep} {s : State} (h p : Nat) (hk : Kept c s) : Memory.wf (testedFrames s h p) = true :=
  wf_of_kept (kept_testedFrames s h p hk)

end Sys2Proof.Machine
end

