-- ==== Sys2Proof/Laws/Pcs.lean ====
section
/-! SUPPORT. Laws of the scrambler (08 R175): a descrambler that starts from the scrambler's state gives back what was
scrambled, and its state follows the scrambler's. -/
namespace Sys2Proof.Machine
open Sys2Proof

theorem descrambleBit_scrambleBit (st : BitVec 58) (b : Bool) :
    descrambleBit st (scrambleBit st b).1 = (b, (scrambleBit st b).2) := by
  simp only [descrambleBit, scrambleBit]
  cases b <;> cases st.getLsbD 38 <;> cases st.getLsbD 57 <;> rfl

theorem descrambleBits_scrambleBits (l : List Bool) (st : BitVec 58) :
    descrambleBits st (scrambleBits st l).1 = (l, (scrambleBits st l).2) := by
  induction l generalizing st with
  | nil => rfl
  | cons b l ih => simp only [scrambleBits, descrambleBits, descrambleBit_scrambleBit, ih]

end Sys2Proof.Machine
end

