-- ==== Sys2Proof/WellFormed.lean ====
section
/-! DEFINITION. WellFormed: the commands whose operands the outside can offer, where their types do not say it. A command
that is not well formed still has a meaning (DESIGN CHOICE, log entry 1); no claim needs one. -/
namespace Sys2Proof

/-- Operands that a type leaves too wide: transfers carry at most 7 or exactly 8 octets (R380, R382) and a section at most
4,096 (Table 15.3); bus-off is entered at 256 to 263 errors (Table 15.18); a handshake names a channel of 1 to 64 positions
(R21, R22); no more parts of a test are incomplete than are eligible (R371). -/
def Instr.wellFormed : Instr → Bool
  | .sdoDownloadSegment _ _ data last => decide (data.length ≤ 7) && (last || data.length == 7)
  | .spiSdoRequest frame => frame.length == 8
  | .calSectionWrite _ _ data => decide (data.length ≤ 4096)
  | .canBusOff tec => decide (256 ≤ tec.toNat) && decide (tec.toNat ≤ 263)
  | .handshakeRequest rails => decide (1 ≤ rails.length) && decide (rails.length ≤ 64)
  | .handshakeAck dsts => decide (1 ≤ dsts.length) && decide (dsts.length ≤ 64)
  | .handshakeRelease srcs => decide (1 ≤ srcs.length) && decide (srcs.length ≤ 64)
  | .handshakeReady dsts => decide (1 ≤ dsts.length) && decide (dsts.length ≤ 64)
  | .startupBistDone _ eligible incomplete _ => decide (incomplete.toNat ≤ eligible.toNat)
  | .fullTestDone _ eligible incomplete _ => decide (incomplete.toNat ≤ eligible.toNat)
  | _ => true

end Sys2Proof
end

