-- ==== Sys2Proof/Tests/Slice0.lean ====
section
/-! SUPPORT. Tests: an ill-formed command for each check of WellFormed, a state for each hypothesis of an obligation, and
small single steps whose expected results are the spec's own. -/
-- One test at a time: a test that waits for the proofs before it holds a thread of its own.
set_option Elab.async false
namespace Sys2Proof.Tests
open Sys2Proof Sys2Proof.Machine

/-! ## WellFormed refuses each kind of ill-formed command -/

theorem test_refuses_long_segment : (Instr.sdoDownloadSegment .can false (List.replicate 8 0) true).wellFormed = false := by
  decide

theorem test_refuses_short_middle_segment :
    (Instr.sdoDownloadSegment .can false (List.replicate 6 0) false).wellFormed = false := by decide

theorem test_refuses_spi_frame_of_seven : (Instr.spiSdoRequest (List.replicate 7 0)).wellFormed = false := by decide

theorem test_refuses_long_section : (Instr.calSectionWrite .can 0 (List.replicate 4097 0)).wellFormed = false := by
  decide +kernel

theorem test_refuses_bus_off_at_255 : (Instr.canBusOff 255).wellFormed = false := by decide

theorem test_refuses_bus_off_at_264 : (Instr.canBusOff 264).wellFormed = false := by decide

theorem test_refuses_empty_request : (Instr.handshakeRequest []).wellFormed = false := by decide

theorem test_refuses_empty_ack : (Instr.handshakeAck []).wellFormed = false := by decide

theorem test_refuses_empty_release : (Instr.handshakeRelease []).wellFormed = false := by decide

theorem test_refuses_empty_ready : (Instr.handshakeReady []).wellFormed = false := by decide

theorem test_refuses_startup_incomplete : (Instr.startupBistDone [] 3 4 0).wellFormed = false := by decide

theorem test_refuses_full_incomplete : (Instr.fullTestDone [] 3 4 0).wellFormed = false := by decide

theorem test_accepts_segment_of_seven : (Instr.sdoDownloadSegment .can true (List.replicate 7 0) false).wellFormed = true := by
  decide

/-! ## Small states -/

/-- The state after a command, from `s`. -/
def after (c : Instr) (s : State) : State :=
  match exec c s with
  | .next t => t
  | .fault _ | .refused _ => s

/-- Reset with the device in a phase. -/
def inPhase (p : Phase) : State := { State.reset with pwr := { State.reset.pwr with phase := p } }

/-- A committed fabric with hearth 0 awake. -/
def awake : State := { State.reset with fab := { State.reset.fab with committed := true, hearths := [(0, .awake)] } }

/-- Cell 0 of column 0, row 0 of hearth 0, and its first input port. -/
def cell0 : Cell := ⟨0, 0, 0, 0⟩

/-- The same with cell 0 driving the digit 1, which code 0 of every L1 destination of its tile selects. -/
def driven : State := drive awake (.cell cell0) 2

/-- Event hinge 869 with a crossing in progress and the pending slot set. -/
def busyEvent : State :=
  let s := (awake.put (HNG_EV_CFG_host 869) 0).put (HNG_EV_STAT_pending 869) 1
  setEv s 869 { evOf s 869 with sl := { Seal.closed with open0 := true, open1 := true }, req := true, snd := .request }

/-! ## The hypotheses of the obligations can be met -/

theorem witness_waking : (inPhase .waking).pwr.phase = .waking := by decide

theorem witness_request_cell : mayRequest (setStage awake cell0 (some 1)) (.cell cell0) 2 = true := by decide +kernel

theorem witness_not_valid : validAt awake (.slot cell0 0) = false := by decide +kernel

theorem witness_not_joined : joinOf awake (.cell cell0) = false := by decide

theorem witness_not_neutral : seen driven (.slot cell0 0) ≠ 0 := by decide +kernel

theorem witness_guarded_inputs : inputDigit driven cell0 0 = some 1 ∧
    inputDigit driven cell0 (1 + recBits driven cell0 169 1) = some 1 := by decide +kernel

/-- Cell 0 in FUNCTION mode with port A in use: mode 0001b in bits 179 to 176 of its record, bit 175 set (Table 2.8). -/
def lookingUp : State := { driven with fab := { driven.fab with frames := [(0, 2 ^ 176 + 2 ^ 175)] } }

theorem witness_function : cellRuns lookingUp cell0 = true ∧ stageOf lookingUp cell0 = none ∧ cellMode lookingUp cell0 = 1 ∧
    portDigits lookingUp cell0 [inUse lookingUp cell0 0, inUse lookingUp cell0 1, inUse lookingUp cell0 2] =
      some [1, 0, 0] := by decide +kernel

theorem witness_clear : exec .tokLastClear awake = .next (awake.setWord FAB_TOK_LAST 0) ∧ FAB_TOK_CNT_cnt.addr ≠ FAB_TOK_LAST :=
  ⟨rfl, by decide⟩

theorem witness_bad_hearth : (awake.putBit SCB_HRL_BAD_bad 0 true).bit SCB_HRL_BAD_bad 0 = true ∧
    awake.bit SCB_HRL_BAD_bad 0 = false := by decide

/-- The fabric of `awake` with CK100 running: the governor runs (Table 4.7). -/
def governed : State := { awake with pwr := { awake.pwr with clocked := true } }

/-- The same with pace trims of 1.0 in section 1, and windows under way. -/
def windowed : State := paceStart { governed with mgc := { governed.mgc with cal := [(1, .generic)] } }

theorem witness_window : awake.fab.committed = true ∧ awake.get FAB_PACE_CFG_period ≠ 0 ∧
    State.reset.fab.committed = false ∧ tget (fun _ => false) windowed.pace.windows 0 = true ∧
    tget (fun _ => false) awake.pace.windows 0 = false ∧ windowed.get FAB_PACE_CFG_period ≠ 0 ∧
    windowed.pwr.phase ≠ .simmerEntry := by decide +kernel

/-- 46,080 and 40,960 tokens are 2,250 and 2,000 MT/s, which agree within 12.5 % to the last; 46,100 tokens are 2,251. -/
theorem witness_rates : 46080 * 25 * paceTrim windowed 0 false / (512 * 65536) = 2250 ∧
    40960 * 25 * paceTrim windowed 0 true / (512 * 65536) = 2000 ∧ 8 * (2250 - 2000) ≤ 2000 ∧
    46100 * 25 * paceTrim windowed 0 false / (512 * 65536) = 2250 ∧
    46110 * 25 * paceTrim windowed 0 false / (512 * 65536) = 2251 ∧ 2000 < 8 * (2251 - 2000) := by decide +kernel

theorem witness_third_window :
    tget (fun _ => 0) (windowed.setPace { windowed.pace with bad := [(0, 2)] }).pace.bad 0 = 2 ∧
    tget (fun _ => false) windowed.pace.reported 0 = false := by decide +kernel

theorem witness_governor : governed.fab.committed = true ∧ governed.pwr.clocked = true ∧
    (governed.put FAB_GOV_CFG_en 0).flag FAB_GOV_CFG_en = false ∧ awake.pwr.clocked = false := by decide

theorem witness_exempt : exempt (governed.putBit FAB_GOV_EXEMPT_exempt 3 true) 3 = true := by decide

/-- The management controller in full service. -/
def serving : State := State.reset.put MGC_STAT_state 1

theorem witness_serving : serving.mgcFull = true ∧ serving.mgcServing = true ∧ State.reset.mgcFull = false ∧
    State.reset.mgcServing = false ∧ (800 : BitVec 10).toNat % 5 = 0 := by decide

theorem witness_regulator : (awake.setPace { awake.pace with stopped := true }).pace.stopped = true ∧
    awake.pace.stopped = false := by decide

theorem witness_refused_access : (0 : BitVec 2) ≠ 3 ∧ (0 : Addr).toNat / 0x80000 = 0 := by decide

theorem witness_open_access : accessStatus (awake.setWord HNG_CTLH_CFG (2 ^ 11)) 0 FAB_TOK_LAST = 0 := by decide

theorem witness_head : takeHead { Fifo.init with drain := [⟨5, true, false⟩], drainSeen := true } =
    some (⟨5, true, false⟩, { Fifo.init with drain := [], drainSeen := true }) := by decide

theorem witness_empty_fifo : Fifo.init.slot = none ∧ Fifo.init.full = none ∧ Fifo.init.drain = [] := by decide

theorem witness_in_packet : ({ Fifo.init with inPkt := true }).inPkt = true := by decide

theorem witness_stop : exec .mgcFirmwareStop State.reset = .next (after .mgcFirmwareStop State.reset) := rfl

theorem witness_front : ({ State.reset with pending := [.rootPllLock] }).pending = [.rootPllLock] := rfl

theorem witness_idle : Inv State.reset ∧ State.reset.pending = [] ∧ step State.reset = .next (tick State.reset) :=
  ⟨⟨rfl, ⟨Nat.zero_le _, Nat.zero_le _, fun _ => Nat.zero_le _⟩, rfl⟩, rfl, rfl⟩

theorem witness_command : exec .rootPllLock State.reset = .next State.reset := rfl

theorem witness_banked : ((inPhase .banked).put CLK_STAT_ref_ok 1).pwr.phase = .banked ∧
    ((inPhase .banked).put CLK_STAT_ref_ok 1).flag CLK_STAT_ref_ok = true := by decide

/-- A reader that has read a whole full-device stream with the tag `tag`. -/
def readDone (tag : List Octet) : Reader := { newReader none false true 0 none with complete := true, tag := tag }

theorem witness_tag_wrong : tagOk State.reset (readDone []) = false := by decide

theorem witness_tag_right :
    tagOk State.reset (readDone (gcmTag State.reset.cfg.key (hdrIv []) 0 512 (hdrLen []))) = true := by
  simp [tagOk, readDone, newReader]

theorem witness_read_done (t : List Octet) : (readDone t).complete = true ∧ (readDone t).hearth = none := ⟨rfl, rfl⟩

/-! Routes of one producer to every position of a bundle, with the digit 0 on each. -/

/-- Frames of hearth 0 with the bits `l` set, each a column, a row, a frame and a bit. -/
def withFrames (s : State) (l : List (Nat × Nat × Nat × Nat)) : State :=
  { s with fab := { s.fab with frames := l.foldl (fun t e =>
    let k := frameKey 0 e.1 e.2.1 e.2.2.1
    tput (fun _ => 0) t k (tget (fun _ => 0) t k ||| BitVec.ofNat 1308 (2 ^ e.2.2.2))) s.fab.frames } }

/-- The L2 rows of the first 12 side ports of column 0 select side source 90: group 29 and member 26 (Table 3.8). -/
def sideRoutes (s : State) : State :=
  withFrames s ((List.range 12).flatMap (fun p =>
    let d := 63 * ((864 + p) % 31)
    [d + 26, d + 32 + 29].map (fun b => (0, (864 + p) / 31, 7 + b / 1296, b % 1296))))

/-- The L3 rows of the first `n` hinge ports select hinge source 500: member 44 and group 105 (Table 3.8). -/
def hingeRoutes (s : State) (n : Nat) : State :=
  withFrames s ((List.range n).flatMap (fun p =>
    let d := 7104 + p
    [178 * (d % 4) + 44, 178 * (d % 4) + 72 + 105].map (fun b => (d / 128, d / 4 % 32, 9, b))))

/-- Port A of slot 0 sees a read of nonet 0. -/
def storeAsked : State := drive (sideRoutes awake) (.side 0 0 90) 1

theorem witness_store_request : requestOf storeAsked 0 0 false = some ⟨0, 0, 0, 0⟩ ∧ hearthSt storeAsked 0 = .awake ∧
    portBusy storeAsked 0 0 false = false ∧ (portOf storeAsked 0 0 false).faulted = false ∧
    (blockOf storeAsked 0 0).1 ≠ 2 ∧ bandHeld storeAsked 0 0 false = false ∧
    rivalOf storeAsked 0 0 false ⟨0, 0, 0, 0⟩ = none := by decide +kernel

theorem witness_store_waits : requestOf awake 0 0 false = none ∧ (portOf awake 0 0 false).read = none := by decide +kernel

/-- R106: a read request on port A is served at once: its acknowledge rises and its value waits for the response. -/
theorem test_store_read : (portOf (after (.storeRead 0 0 false) storeAsked) 0 0 false).read = some 0 ∧
    ackOf (after (.storeRead 0 0 false) storeAsked) (.side 0 0 0) = true := by decide +kernel

/-- Port B of slot 0 with a read value in hand. -/
def storeAnswers : State := setPort awake 0 0 true { portOf awake 0 0 true with read := some 5 }

theorem witness_store_response : (portOf storeAnswers 0 0 true).read = some 5 ∧
    (responseSrcs storeAnswers 0 0 true).all (phase0 storeAnswers) = true := by decide +kernel

/-- The control hinge hosted by hearth 0 at port 0 and open, with the digit 0 on its 49 request positions. -/
def ctlAsked : State :=
  let s := (drive (hingeRoutes awake 49) (.hinge 0 500) 1).put HNG_CTLH_CFG_host 0
  { s with hng := { s.hng with ctlSeal := { s.hng.ctlSeal with open0 := true, open1 := true } } }

theorem witness_ctl_request : ctlToken ctlAsked = some ⟨0, 0, 0, 0⟩ ∧ hingeHosted ctlAsked = true ∧
    ctlAsked.hng.ctlSeal.open0 = true ∧ ctlAsked.hng.ctlReq = none ∧ ctlAsked.hng.ctlDone = none ∧
    ctlAsked.hng.ctlResp = none := by decide +kernel

/-- R135: the request is captured, and its positions see the acknowledge. -/
theorem test_ctl_capture : (after .ctlhRead ctlAsked).hng.ctlReq = some ⟨0, 0, 0, 0⟩ ∧
    ackOf (after .ctlhRead ctlAsked) (.hinge 0 48) = true := by decide +kernel

theorem witness_ctl_steps : ({ ctlAsked.hng with ctlReq := some ⟨0, 0, 0, 0⟩ }).ctlReq = some ⟨0, 0, 0, 0⟩ ∧
    ctlAsked.hng.ctlSeal.open1 = true ∧ ({ ctlAsked.hng with ctlDone := some ⟨0, 1⟩ }).ctlDone = some ⟨0, 1⟩ ∧
    portsIdle ctlAsked 0 49 19 = true ∧ awake.hng.ctlSeal.open0 = false := by decide +kernel

/-- Word hinge 60 out of hearth 0 at port 0, 10 bits wide, with the digit 0 on its value positions. -/
def wordAsked : State :=
  (((drive (hingeRoutes awake 10) (.hinge 0 500) 1).put (HNG_WD_CFG_host 60) 0).put (HNG_WD_CFG_dir 60) 1).put
    (HNG_WD_CFG_width 60) 10

theorem witness_word_token : wdUsed wordAsked 60 = true ∧ wdOut wordAsked 60 = true ∧ (wdOf wordAsked 60).waiting = none ∧
    valueToken wordAsked 60 = some [0, 0, 0, 0, 0] ∧ wdUsed awake 60 = false := by decide +kernel

/-- FIFO 80 into hearth 0 at port 0, open, with the digit 0 on its 19 writer's positions. -/
def fifoAsked : State :=
  let s := (((drive (hingeRoutes awake 19) (.hinge 0 500) 1).put (HNG_FIFO_CFG_host 80) 0).put (HNG_FIFO_CFG_wkind 80) 0)
  setFifo s 80 { fifoOf s 80 with sl := { (fifoOf s 80).sl with open0 := true, open1 := true }, knowsEmpty := true }

theorem witness_fifo_push : fifoUsed fifoAsked 80 = true ∧ (fifoOf fifoAsked 80).sl.open0 = true ∧
    fifoAsked.flag (HNG_FIFO_STAT_wdrop 80) = false ∧ (beforePush fifoAsked 80 (fifoOf fifoAsked 80)).full = none ∧
    offeredEntry fifoAsked 80 = some ⟨0, false, false⟩ ∧ fifoUsed awake 80 = false ∧
    portsIdle fifoAsked 0 0 19 = true := by decide +kernel

/-- An enabled user clock, and one that is lost already. -/
theorem witness_user_clock : (awake.put (HNG_UCLK_en 3) 1).flag (HNG_UCLK_en 3) = true ∧
    tget (fun _ => false) awake.hng.gone 3 = false ∧ awake.flag (HNG_UCLK_en 3) = false ∧
    tget (fun _ => false) (setGone awake 3 true).hng.gone 3 = true := by decide +kernel

theorem witness_stall : stallLimit busyEvent (.ev 869) ≠ 0 ∧ hingeUsed busyEvent (.ev 869) = true ∧
    busyEvent.hng.stalls.contains (hingeKind (.ev 869)) = false ∧ (stalledSide busyEvent (.ev 869)).isSome = true ∧
    stalledSide awake (.ev 869) = none := by decide +kernel

/-- A write of one word to line 0 of channel 0, in front of port pair 0, with the channel in READY. -/
def dramAsked : State :=
  let s := State.reset.put (DRM_STAT_state 0) 2
  setDram s 0 { dramOf s 0 with inbox := [(0, [⟨2 ^ 34, false, false⟩, ⟨0, false, false⟩, ⟨7, true, false⟩])] }

theorem witness_dram_request : (requestHere (packetTake dramAsked 0 0) 0 0).any (fun r =>
      r.port == 0 && r.op == 1 && r.sound && !r.aborted && (decodeAddr dramAsked 0 r.addr).any (fun l =>
        !reservedRow dramAsked 0 l)) = true ∧ dramTakes (packetTake dramAsked 0 0) 0 = true ∧
    requestHere (packetTake awake 0 0) 0 0 = none ∧ decodeAddr awake 0 (2 ^ 36) = none := by decide +kernel

theorem witness_loop : (fresh awake 0).get (LNE_CTL_loop 0) = 0 ∧
    (fresh (awake.put (LNE_CTL_loop 0) 2) 0).get (LNE_CTL_loop 0) = 2 ∧
    (fresh (awake.put (LNE_CTL_loop 0) 1) 0).get (LNE_CTL_loop 0) = 1 ∧
    (laneOf (fresh (setLane awake 0 { laneOf awake 0 with back := [idleBlock] }) 0) 0).back = [idleBlock] ∧
    (kwrFresh awake 0).get (LNE_CTL_loop 0) ≠ 1 := by decide +kernel

/-! ## Single steps -/

/-- Table 16.4 step 1: the supplies rise from COLD. -/
theorem test_supply_rise : (after .supplyRise State.reset).pwr.phase = .supplies := by decide +kernel

/-- Table 16.2: a brownout outside COLD takes a cold reset with cause 3. -/
theorem test_brownout : (after .brownout (inPhase .run)).get CLK_STAT_cause = 3 ∧
    (after .brownout (inPhase .run)).pwr.phase = .cold := by decide +kernel

/-- R95: 800 mV is a step of 5 in range and is stored; 803 mV is not, and 645 mV is out of range. -/
theorem test_vfab_target : (after (.vfabTargetWrite 800) serving).get FAB_VFAB_CTL_target = 800 ∧
    (after (.vfabTargetWrite 805) (after (.vfabTargetWrite 803) serving)).get FAB_VFAB_CTL_target = 805 ∧
    after (.vfabTargetWrite 645) serving = serving := by decide +kernel

/-- Table 4.5: the leakage at 85 degrees is 3.9 W. -/
theorem test_leakage : leakage 85 = 3900000 := by decide

/-- R288, and the example under R289: D = 4h, the fabric writes M = 3h, V = 3h, then the MGC M = 6h, V = 0h; it settles at 1h. -/
theorem test_masked_writes : maskedWrite 4 3 3 = 7 ∧ maskedWrite (maskedWrite 4 3 3) 6 0 = 1 := by decide

/-- Table 10.10, and the worked example there: one rank of 16 Gbit devices in byte lanes, map 1; line 1,000 starts at word
16,384,000 in row 500, and its next line lies in bank 1. -/
theorem test_map_one : decodeAddr ((State.reset.put (DRM_CFG_dens 0) 1).put (DRM_CFG_map 0) 1) 0 16384000 =
      some ⟨0, 0, 0, 500, 0⟩ ∧
    decodeAddr ((State.reset.put (DRM_CFG_dens 0) 1).put (DRM_CFG_map 0) 1) 0 16384016 = some ⟨0, 0, 1, 500, 0⟩ := by
  decide +kernel

/-- R416's worked example: a step from 999,900,000 to 1,000,600,000 passes 1,000,000,000 and 1,000,320,000 of a periodic
alarm; the compare value advances to 1,000,640,000 and skipped reads 1. -/
def alarmStepped : State :=
  timebaseStep { (setAlmCmp (((State.reset.put (CLK_ALM_CFG_en 2) 1).put (CLK_ALM_CFG_per 2) 1).put (CLK_ALM_PER_plen 2)
    320000) 2 1000000000) with timebase := 999900000 } 1000600000

theorem test_alarm_step : almCmp alarmStepped 2 = 1000640000 ∧ alarmStepped.get (CLK_ALM_CFG_skipped 2) = 1 := by
  decide +kernel

/-- Table 6.10 step 5: an event that finds a crossing in progress and the pending slot set merges: mcount = 1, MERGED set. -/
theorem test_event_merges : (after (.eventOffered 869) busyEvent).get (HNG_EV_STAT_mcount 869) = 1 ∧
    (after (.eventOffered 869) busyEvent).flag (HNG_EV_STAT_merged 869) = true := by decide +kernel

/-- R130: 5 and 6 differ in one bit of the Gray register; the step from 2^w - 1 to 0 is one step. -/
theorem test_gray : grayOf 5 ^^^ grayOf 6 = 2 ∧ oneStep 8 0 255 = true ∧ oneStep 8 2 0 = false := by decide +kernel

/-- R136: an access with the operation code 3 answers status 3; one of the MGC's block status 1. -/
theorem test_ctlh_status : accessStatus awake 3 0 = 3 ∧ accessStatus awake 0 0 = 1 := by decide +kernel

/-- R153, R156: an entry that ends a packet seals its bank, and the reader sees it after one crossing. -/
theorem test_fifo_order : (takeHead (sealCrossing (sealBank false (storeEntry false (storeEntry false
    { Fifo.init with knowsEmpty := true } ⟨1, false, false⟩) ⟨2, true, false⟩)))).map (·.1.data) = some 1 := by decide +kernel

/-- R104: at x9 nonet address 5 lies in row 1 at nonet 1. -/
theorem test_nonet : itemOf 0 5 = (1, 1, 1) ∧ bitsOf (mergeItem 0 0x1FF 0 5 0) 9 9 = 511 := by decide +kernel

/-- Table 2.8, R29: with A = 1 and B = C = 0 the index is 16; lut_o1[16] set gives the digit 2. -/
theorem test_lookup : lookup { driven with fab := { driven.fab with frames := [(0, 2 ^ 80)] } } cell0 1 0 0 = 2 := by
  decide +kernel

/-- Table 5.8, R103: slot 3 of hearth 0 maps to physical block 3 at reset, and slot 96 is SPARE. -/
theorem test_steering : blockOf State.reset 0 3 = (0, 3) ∧ blockOf State.reset 0 96 = (1, 96) := by decide

end Sys2Proof.Tests
end

section
/-! The timebase and its alarms (R7, R414 to R417): what each command of chapter 16's clocks does. -/
namespace Sys2Proof.Machine
open Sys2Proof

theorem exec_timebaseRead (s : State) : exec .timebaseRead s = .next (timebaseRead s) := rfl

theorem exec_alarmFire (s : State) (a : Fin 16) : exec (.alarmFire a) s = .next (alarmFire s a.val) := rfl

theorem exec_alarmCompareWrite (s : State) (a : Fin 16) (w : W36) :
    exec (.alarmCompareWrite a w) s = .next (alarmCompareWrite s a.val w) := rfl

theorem exec_alarmSkippedClear (s : State) (a : Fin 16) :
    exec (.alarmSkippedClear a) s = .next (s.put (CLK_ALM_CFG_skipped a.val) 0) := rfl

theorem exec_wakeTimeWrite (s : State) (t : Transport) (tb : W72) :
    exec (.wakeTimeWrite t tb) s =
      .next (if s.mgcServing && !(t == .kwr && s.get MGC_STAT_state == 3) then wakeTimeWrite s tb else s) := rfl

/-- Settles O54: each clause is the command's equation, with the operation it names written out. The alarm's clause is the
definition of `alarmFire` at the number of the alarm, R417's BANKED branch before R415's. -/
theorem timebaseAndAlarms : Obligations.TimebaseAndAlarms := by
  unfold Obligations.TimebaseAndAlarms
  refine ⟨?latch, ?fire, ?compare, exec_alarmSkippedClear, exec_wakeTimeWrite, ?wake⟩
  case latch =>
    intro s
    rw [exec_timebaseRead, timebaseRead]
  case fire =>
    intro s a
    rw [exec_alarmFire, alarmFire]
  case compare =>
    intro s a w
    rw [exec_alarmCompareWrite, alarmCompareWrite]
  case wake =>
    intro s tb
    rw [wakeTimeWrite]

end Sys2Proof.Machine
end

section
/-! The MGC's boot on the way to RUN (Table 1.4) and the restart of its firmware (R17): what each command does. -/
namespace Sys2Proof.Machine
open Sys2Proof

/-! ## From the boot to RUN -/

theorem exec_mgcBootDone (s : State) (v : VoutMode) : exec (.mgcBootDone v) s = .next (mgcBoot s v) := rfl

theorem exec_startupBistDone (s : State) (fails : List TestResult) (eligible incomplete : BitVec 24) (ms : BitVec 17) :
    exec (.startupBistDone fails eligible incomplete ms) s =
      .next (startupTest s fails eligible.toNat incomplete.toNat ms.toNat) := rfl

theorem exec_runReached (s : State) : exec .runReached s = .next (runReached s) := rfl

/-- Of the three phases that lead to RUN, the staggered wake is the one that waits for the start-up sweeps (R19). -/
theorem runReached_of_waking {s : State} (h : s.pwr.phase = .waking) :
    runReached s = if s.pwr.wakeSlot.isSome ∨ sweeping s = true then s
      else powerResume (passStart (startLinks (setPhase s .run))) := by
  simp only [runReached, h, Bool.or_eq_true]

/-- Settles O4: the boot, the start-up test and the regulator's first command are the named operations written out, and
RUN is reached through the branch of `runReached` for the staggered wake. -/
theorem bootGoesOnToRun : Obligations.BootGoesOnToRun := by
  unfold Obligations.BootGoesOnToRun
  refine ⟨?boot, ?startupTest, ?run, ?regulator⟩
  case boot =>
    intro s v
    rw [exec_mgcBootDone, mgcBoot]
  case startupTest =>
    intro s fails eligible incomplete ms
    rw [exec_startupBistDone, startupTest]
    simp only [testEnd]
  case run =>
    intro s hwaking
    rw [exec_runReached, runReached_of_waking hwaking]
  case regulator =>
    intro s m
    rw [vfabBoot]

/-! ## A restart of the firmware -/

theorem exec_mgcFirmwareStop (s : State) : exec .mgcFirmwareStop s = .next (firmwareStop s) := rfl

theorem exec_mgcRestartEnd (s : State) : exec .mgcRestartEnd s = .next (restartEnd s) := rfl

/-- Settles O5: the stop and the end of the restart are the named operations written out, channel 0's live remaps going on
before channel 1's. -/
theorem firmwareRestart : Obligations.FirmwareRestart := by
  unfold Obligations.FirmwareRestart
  refine ⟨?stop, ?restarted, ?staged, ?hasps⟩
  case stop =>
    intro s
    rw [exec_mgcFirmwareStop, firmwareStop]
  case restarted =>
    intro s
    rw [exec_mgcRestartEnd, restartEnd]
    simp only [List.foldl_cons, List.foldl_nil]
  case staged =>
    intro s
    rw [clearStaged]
  case hasps =>
    intro s
    rw [closeHasps]

end Sys2Proof.Machine
end

section
/-! What the settling of acknowledges leaves of the cells (R26, R41): the token stages and the states of the hearths. -/
namespace Sys2Proof.Machine
open Sys2Proof

/-- The two tables of the fabric that a cell's firing is judged by and leaves to later commands: the token stages and the
states of the hearths. -/
def cellTables (s : State) : Tbl (Option Digit) × Tbl HearthSt := (s.fab.stage, s.fab.hearths)

theorem stageOf_eq_of_cellTables {s t : State} (h : cellTables t = cellTables s) (c : Cell) : stageOf t c = stageOf s c :=
  congrArg (fun e : Tbl (Option Digit) × Tbl HearthSt => tget (fun _ => none) e.1 (cellKey c)) h

theorem hearthSt_eq_of_cellTables {s t : State} (h : cellTables t = cellTables s) (g : Nat) : hearthSt t g = hearthSt s g :=
  congrArg (fun e : Tbl (Option Digit) × Tbl HearthSt => tget (fun _ => HearthSt.inert) e.2 g) h

/-- What no step of a fold over `l` changes, the fold leaves as it was. -/
theorem foldl_leaves {α β γ : Type} (view : β → γ) {f : β → α → β} {l : List α}
    (hf : ∀ s, ∀ x ∈ l, view (f s x) = view s) (s : β) : view (l.foldl f s) = view s := by
  induction l generalizing s with
  | nil => rfl
  | cons x l ih =>
    rw [List.foldl_cons, ih fun s y hy => hf s y (List.mem_cons_of_mem x hy), hf s x List.mem_cons_self]

theorem cellTables_foldl {α : Type} {f : State → α → State} (hf : ∀ s x, cellTables (f s x) = cellTables s) (l : List α)
    (s : State) : cellTables (l.foldl f s) = cellTables s :=
  foldl_leaves cellTables (fun s x _ => hf s x) s

/-! ## Registers, emergencies and the log -/

@[simp] theorem cellTables_setWord (s : State) (a : Nat) (w : W36) : cellTables (s.setWord a w) = cellTables s := rfl
@[simp] theorem cellTables_put (s : State) (f : Field) (v : Nat) : cellTables (s.put f v) = cellTables s := rfl
@[simp] theorem cellTables_bump (s : State) (f : Field) (k : Nat) : cellTables (s.bump f k) = cellTables s := rfl
@[simp] theorem cellTables_putBit (s : State) (f : Field) (i : Nat) (b : Bool) :
    cellTables (s.putBit f i b) = cellTables s := rfl
@[simp] theorem cellTables_tookFree (s : State) : cellTables s.tookFree = cellTables s := rfl
@[simp] theorem cellTables_logWrite (s : State) (e : LogEntry) : cellTables (logWrite s e) = cellTables s := rfl

@[simp] theorem cellTables_holdEntry (s : State) (e : LogEntry) : cellTables (holdEntry s e) = cellTables s := by
  unfold holdEntry
  split <;> rfl

@[simp] theorem cellTables_enqueueOn (s : State) (t : Transport) (e : Emergency) :
    cellTables (enqueueOn s t e) = cellTables s := by
  simp only [enqueueOn]
  split <;> rfl

@[simp] theorem cellTables_sendEmergency (s : State) (code : BitVec 16) (d : W36) :
    cellTables (sendEmergency s code d) = cellTables s := by
  simp only [sendEmergency]
  split
  · simp only [cellTables_enqueueOn]
    rfl
  · rfl

@[simp] theorem cellTables_raise (s : State) (code : Nat) (d : W36) : cellTables (raise s code d) = cellTables s := by
  simp only [raise]
  split <;> simp

@[simp] theorem cellTables_stallDone (s : State) (kind idx : Nat) : cellTables (stallDone s kind idx) = cellTables s := by
  simp only [stallDone]
  split <;> rfl

/-! ## Rails and acknowledges -/

@[simp] theorem cellTables_countEvent (s : State) (h k n : Nat) : cellTables (countEvent s h k n) = cellTables s := rfl
@[simp] theorem cellTables_drive (s : State) (x : Src) (r : Rails) : cellTables (drive s x r) = cellTables s := rfl
@[simp] theorem cellTables_setAck (s : State) (d : Dst) (b : Bool) : cellTables (setAck s d b) = cellTables s := rfl
@[simp] theorem cellTables_rejoin (s : State) (x : Src) : cellTables (rejoin s x) = cellTables s := rfl

@[simp] theorem cellTables_countRoute (s : State) (d : Dst) : cellTables (countRoute s d) = cellTables s :=
  cellTables_foldl (fun s k => cellTables_countEvent s (dstHearth d) k 1) _ s

@[simp] theorem cellTables_moveAck (s : State) (d : Dst) (b : Bool) : cellTables (moveAck s d b) = cellTables s := by
  have counted : cellTables (if ackOf s d && !b then countRoute s d else s) = cellTables s := by
    split <;> simp
  simp only [moveAck]
  split <;> simp only [cellTables_rejoin, cellTables_setAck, counted]

@[simp] theorem cellTables_ackSlots (s : State) (c : Cell) (l : List Nat) : cellTables (ackSlots s c l) = cellTables s :=
  cellTables_foldl (fun s i => cellTables_moveAck s (.slot c (Fin.ofNat _ i)) true) l s

@[simp] theorem cellTables_ackPorts (s : State) (c : Cell) : cellTables (ackPorts s c) = cellTables s :=
  cellTables_ackSlots s c _

/-! ## Store-block ports -/

@[simp] theorem cellTables_setRow (s : State) (h pb row : Nat) (v : W36) : cellTables (setRow s h pb row v) = cellTables s := rfl
@[simp] theorem cellTables_setPort (s : State) (h b : Nat) (port : Bool) (p : StorePort) :
    cellTables (setPort s h b port p) = cellTables s := rfl
@[simp] theorem cellTables_setBlock (s : State) (h b : Nat) (e : Nat × Nat) : cellTables (setBlock s h b e) = cellTables s := rfl

@[simp] theorem cellTables_storeAccess (s : State) (h b : Nat) (port : Bool) (r : StoreCall) :
    cellTables (storeAccess s h b port r) = cellTables s := by
  simp only [storeAccess]
  rw [cellTables_foldl fun s d => cellTables_moveAck s d true]
  split <;> split <;> simp

@[simp] theorem cellTables_storeServe (s : State) (h b : Nat) (port : Bool) :
    cellTables (storeServe s h b port) = cellTables s := by
  unfold storeServe
  split
  · rfl
  · split <;> simp

@[simp] theorem cellTables_storeOrdered (s : State) (h b : Nat) (port : Bool) (r : StoreCall) :
    cellTables (storeOrdered s h b port r) = cellTables s := by
  unfold storeOrdered
  split
  · simp
  · split <;> simp

@[simp] theorem cellTables_storeResume (s : State) (h b : Nat) : cellTables (storeResume s h b) = cellTables s := by
  refine cellTables_foldl (fun s port => ?_) _ s
  dsimp only
  split
  · split <;> simp
  · rfl

@[simp] theorem cellTables_markSpare (s : State) (h : Fin 36) (p : Fin 66) : cellTables (markSpare s h p) = cellTables s := by
  unfold markSpare
  split <;> rfl

@[simp] theorem cellTables_sliceEnd (s : State) (result : Nat) : cellTables (sliceEnd s result) = cellTables s := by
  unfold sliceEnd
  dsimp only
  split
  · exact cellTables_markSpare s _ _
  · rfl

@[simp] theorem cellTables_blockAbandon (s : State) (h b : Nat) : cellTables (blockAbandon s h b) = cellTables s := by
  simp [blockAbandon]

@[simp] theorem cellTables_scrubReport (s : State) (a : FrameAddr) : cellTables (scrubReport s a) = cellTables s := by
  unfold scrubReport
  split <;> rfl

@[simp] theorem cellTables_storeFault (s : State) (h : Fin 36) (b : Fin 96) (port : Bool) (kind : Nat) :
    cellTables (storeFault s h b port kind) = cellTables s := by
  simp [storeFault]

/-! ## Rails that are raised and checked (R22, R25) -/

@[simp] theorem cellTables_tokenFault (s : State) (c : Cell) (kind : Nat) : cellTables (tokenFault s c kind) = cellTables s := by
  simp only [tokenFault, cellTables_raise]
  split <;> simp

@[simp] theorem cellTables_markStalled (s : State) (d : Dst) : cellTables (markStalled s d) = cellTables s := rfl

@[simp] theorem cellTables_sideFault (s : State) (h : Fin 36) (b : Fin 96) (port : Bool) (d : Dst) :
    cellTables (sideFault s h b port d) = cellTables s := by
  simp only [sideFault]
  split <;> simp

@[simp] theorem cellTables_checkInput (s : State) (d : Dst) : cellTables (checkInput s d) = cellTables s := by
  unfold checkInput
  repeat' split
  all_goals simp

@[simp] theorem cellTables_checkInputs (s : State) (x : Src) : cellTables (checkInputs s x) = cellTables s := by
  refine cellTables_foldl (fun s l => ?_) _ s
  cases l <;> simp

@[simp] theorem cellTables_raiseRails (s : State) (l : List (Src × Rails)) : cellTables (raiseRails s l) = cellTables s := by
  simp only [raiseRails]
  rw [cellTables_foldl fun s (e : Src × Rails) => cellTables_checkInputs s e.1,
    cellTables_foldl fun s (e : Src × Rails) => cellTables_drive s e.1 e.2]

@[simp] theorem cellTables_presentAt (s : State) (h p n v : Nat) : cellTables (presentAt s h p n v) = cellTables s := by
  unfold presentAt
  split <;> simp

/-! ## What a changed acknowledge brings about at the hinges (R133, R143) -/

@[simp] theorem cellTables_setWd (s : State) (j : Nat) (w : WdHinge) : cellTables (setWd s j w) = cellTables s := rfl

@[simp] theorem cellTables_wdPresent (s : State) (j : Nat) : cellTables (wdPresent s j) = cellTables s := by
  simp [wdPresent]

@[simp] theorem cellTables_wdNotify (s : State) (j : Nat) : cellTables (wdNotify s j) = cellTables s := by
  simp only [wdNotify]
  repeat' split
  all_goals simp

@[simp] theorem cellTables_wdNotices (s : State) : cellTables (wdNotices s) = cellTables s := by
  refine cellTables_foldl (fun s e => ?_) _ s
  split <;> simp

@[simp] theorem cellTables_ctlRelease (s : State) : cellTables (ctlRelease s) = cellTables s := by
  simp only [ctlRelease]
  split
  · exact cellTables_stallDone _ 3 0
  · rfl

@[simp] theorem cellTables_stallsTaken (s : State) : cellTables (stallsTaken s) = cellTables s := by
  refine cellTables_foldl (fun s e => ?_) _ s
  dsimp only
  repeat' split
  all_goals simp

@[simp] theorem cellTables_tokensTaken (s : State) : cellTables (tokensTaken s) = cellTables s := by
  simp [tokensTaken]

/-! ## Reinsertion in other hearths (R41) -/

/-- A cell's key names its hearth. -/
theorem cellKey_div_hearthSpan (c : Cell) : cellKey c / hearthSpan = c.h.val := by
  have := c.col.isLt
  have := c.row.isLt
  have := c.k.isLt
  simp only [cellKey, cellLocal, hearthSpan]
  omega

theorem cellKey_ne_of_hearth {c d : Cell} (h : c.h.val ≠ d.h.val) : cellKey c ≠ cellKey d := by
  intro e
  rw [← cellKey_div_hearthSpan c, ← cellKey_div_hearthSpan d, e] at h
  exact h rfl

theorem hearthSt_setHearth_ne (s : State) {g h : Nat} (x : HearthSt) (hne : g ≠ h) :
    hearthSt (setHearth s h x) g = hearthSt s g := tget_tput_ne _ _ _ hne

theorem stageOf_setHearth (s : State) (h : Nat) (x : HearthSt) (c : Cell) : stageOf (setHearth s h x) c = stageOf s c := rfl

theorem hearthSt_insertTile (s : State) (h col row g : Nat) : hearthSt (insertTile s h col row) g = hearthSt s g := by
  refine foldl_leaves (fun t => hearthSt t g) (fun s k _ => ?_) s
  dsimp only
  split <;> rfl

theorem hearthSt_insertTokens (s : State) (h g : Nat) : hearthSt (insertTokens s h) g = hearthSt s g := by
  unfold insertTokens
  exact foldl_leaves (fun t => hearthSt t g) (fun s a _ => hearthSt_insertTile s h a.col.val a.row.val g) s

theorem stageOf_setStage (s : State) (c : Cell) (v : Option Digit) : stageOf (setStage s c v) c = v := tget_tput_self _ _ _ _

theorem stageOf_setStage_ne (s : State) {c d : Cell} (v : Option Digit) (h : cellKey c ≠ cellKey d) :
    stageOf (setStage s d v) c = stageOf s c := tget_tput_ne _ _ v h

/-- The tokens inserted in a tile of one hearth leave the stages of every other hearth. -/
theorem stageOf_insertTile_ne (s : State) (h col row : Nat) {c : Cell} (hh : h < 36) (hne : c.h.val ≠ h) :
    stageOf (insertTile s h col row) c = stageOf s c := by
  unfold insertTile
  refine foldl_leaves (fun t => stageOf t c) (fun s k _ => ?_) s
  dsimp only
  split
  · refine stageOf_setStage_ne s _ (cellKey_ne_of_hearth ?_)
    simpa [Nat.mod_eq_of_lt hh] using hne
  · rfl

theorem stageOf_insertTokens_ne (s : State) {h : Nat} {c : Cell} (hne : c.h.val ≠ h) :
    stageOf (insertTokens s h) c = stageOf s c := by
  unfold insertTokens
  refine foldl_leaves (fun t => stageOf t c) (fun s a ha => ?_) s
  have hah : a.h.val = h := by
    simp only [List.mem_filter, Bool.and_eq_true, beq_iff_eq] at ha
    exact ha.2.1
  exact stageOf_insertTile_ne s h _ _ (hah ▸ a.h.isLt) hne

/-- The end of a boundary wait leaves the cells of an awake hearth: it acts in a hearth at its boundary only. -/
theorem boundaryEnd_of_awake {s : State} {c : Cell} (hc : hearthSt s c.h.val = .awake) (h : Nat) :
    stageOf (boundaryEnd s h) c = stageOf s c ∧ hearthSt (boundaryEnd s h) c.h.val = .awake := by
  unfold boundaryEnd
  split
  next hb =>
    have hne : c.h.val ≠ h := by
      rintro rfl
      simp [hc] at hb
    constructor
    · rw [reinsert, stageOf_setHearth, stageOf_insertTokens_ne s hne]
    · rw [reinsert, hearthSt_setHearth_ne _ _ hne, hearthSt_insertTokens, hc]
  next => exact ⟨rfl, hc⟩

theorem stageOf_boundaryEnds_of_awake {s : State} {c : Cell} (hc : hearthSt s c.h.val = .awake) :
    stageOf (boundaryEnds s) c = stageOf s c := by
  unfold boundaryEnds
  generalize s.fab.hearths = l
  induction l generalizing s with
  | nil => rfl
  | cons e l ih =>
    obtain ⟨hstage, hawake⟩ := boundaryEnd_of_awake hc e.1
    rw [List.foldl_cons, ih hawake, hstage]

/-- What follows changed acknowledges leaves the token stages of an awake hearth. -/
theorem stageOf_settled_of_awake {s : State} {c : Cell} (hc : hearthSt s c.h.val = .awake) :
    stageOf (settled s) c = stageOf s c := by
  have taken := cellTables_tokensTaken s
  calc stageOf (settled s) c
      = stageOf (boundaryEnds (tokensTaken s)) c := stageOf_eq_of_cellTables (cellTables_wdNotices _) c
    _ = stageOf (tokensTaken s) c :=
        stageOf_boundaryEnds_of_awake ((hearthSt_eq_of_cellTables taken c.h.val).trans hc)
    _ = stageOf s c := stageOf_eq_of_cellTables taken c

end Sys2Proof.Machine
end

section
/-! FUNCTION mode (R26, R29): the lookup of a cell, and the token stage after it fires. -/
namespace Sys2Proof.Machine
open Sys2Proof

theorem exec_cellFire (s : State) (c : Cell) : exec (.cellFire c) s = .next (settled (fire s c)) := rfl

/-- A field of one bit is 0 or 1. -/
theorem recBits_one_lt (s : State) (c : Cell) (lo : Nat) : recBits s c lo 1 < 2 := Nat.mod_lt _ (by decide)

/-- A digit's value by its bits, as R29's index takes them. -/
theorem digit_eq_bits (x : Digit) : x.toNat = 2 * bitsOf x 1 1 + bitsOf x 0 1 := by
  have := x.isLt
  simp only [bitsOf, Nat.shiftRight_eq_div_pow]
  omega

/-- The result of the lookup holds a bit of each table (R29). -/
theorem lookup_toNat (s : State) (c : Cell) (a b k : Digit) : (lookup s c a b k).toNat =
    2 * recBits s c (64 + (16 * a.toNat + 4 * b.toNat + k.toNat)) 1 + recBits s c (16 * a.toNat + 4 * b.toNat + k.toNat) 1 := by
  have h1 := recBits_one_lt s c (64 + (16 * a.toNat + 4 * b.toNat + k.toNat))
  have h0 := recBits_one_lt s c (16 * a.toNat + 4 * b.toNat + k.toNat)
  simp only [lookup, BitVec.toNat_ofNat]
  omega

theorem ports_of_portDigits {s : State} {c : Cell} {a b k : Digit}
    (h : portDigits s c [inUse s c 0, inUse s c 1, inUse s c 2] = some [a, b, k]) : ports s c = some (a, b, k) := by
  simp only [ports, h]

theorem hearthSt_of_cellRuns {s : State} {c : Cell} (h : cellRuns s c = true) : hearthSt s c.h.val = .awake := by
  simp only [cellRuns, Bool.and_eq_true, beq_iff_eq] at h
  exact h.1.1.2

/-- A cell that runs, with an empty token stage, in FUNCTION mode fires by the tables (R26). -/
theorem fire_function {s : State} {c : Cell} (hruns : cellRuns s c = true) (hempty : stageOf s c = none)
    (hmode : cellMode s c = 1) : fire s c = fireFunction s c := by
  simp [fire, hruns, hempty, hmode]

/-- What a cell emits stands in its token stage once its ports are acknowledged; the hearths stay as they are. -/
theorem cellTables_ackPorts_emit (s : State) (c : Cell) (v : Digit) :
    cellTables (ackPorts (emit s c v) c) = cellTables (setStage s c (some v)) := by
  simp [emit]

/-- Settles O9: the cell fires by `lookup`, whose digit its token stage keeps through the acknowledges and what follows
them, and the index that `lookup` forms is R29's. -/
theorem functionModeLooksUp : Obligations.FunctionModeLooksUp := by
  unfold Obligations.FunctionModeLooksUp
  intro s c x y z hruns hempty hmode hports
  have hfire : fire s c = ackPorts (emit s c (lookup s c x y z)) c := by
    rw [fire_function hruns hempty hmode, fireFunction, ports_of_portDigits hports]
  have htables := cellTables_ackPorts_emit s c (lookup s c x y z)
  have hawake : hearthSt (fire s c) c.h.val = .awake := by
    rw [hfire, hearthSt_eq_of_cellTables htables]
    exact hearthSt_of_cellRuns hruns
  refine ⟨settled (fire s c), lookup s c x y z, exec_cellFire s c, ?stage, ?digit⟩
  case stage =>
    rw [stageOf_settled_of_awake hawake, hfire, stageOf_eq_of_cellTables htables, stageOf_setStage]
  case digit =>
    have hindex : 32 * bitsOf x 1 1 + 16 * bitsOf x 0 1 + 8 * bitsOf y 1 1 + 4 * bitsOf y 0 1 + 2 * bitsOf z 1 1 +
        bitsOf z 0 1 = 16 * x.toNat + 4 * y.toNat + z.toNat := by
      have := digit_eq_bits x
      have := digit_eq_bits y
      have := digit_eq_bits z
      omega
    dsimp only
    rw [hindex]
    exact lookup_toNat s c x y z

end Sys2Proof.Machine
end

section
/-! The four phases of a token channel (R22 to R24): when each acts, and that a channel's own position is among those it
waits for. -/
namespace Sys2Proof.Machine
open Sys2Proof

theorem exec_handshakeRequest (s : State) (l : List (Src × Rails)) :
    exec (.handshakeRequest l) s = .next (watchHandover s (request s l)) := rfl

theorem exec_handshakeAck (s : State) (l : List Dst) : exec (.handshakeAck l) s = .next (acknowledge s l) := rfl

theorem exec_handshakeRelease (s : State) (l : List Src) : exec (.handshakeRelease l) s = .next (release s l) := rfl

theorem exec_handshakeReady (s : State) (l : List Dst) : exec (.handshakeReady l) s = .next (ready s l) := rfl

/-- A phase whose condition fails at one position of the list changes nothing. -/
theorem ite_all_of_mem {α : Type} {p : α → Bool} {l : List α} {x : α} (hx : x ∈ l) (hp : p x = false) (s t : State) :
    (if l.all p then t else s) = s := by
  refine if_neg fun h => ?_
  rw [List.all_eq_true.mp h x hx] at hp
  exact Bool.noConfusion hp

theorem acknowledge_of_not_mayAck {s : State} {l : List Dst} {d : Dst} (hd : d ∈ l) (h : mayAck s d = false) :
    acknowledge s l = s := ite_all_of_mem hd h _ _

theorem release_of_not_mayRelease {s : State} {l : List Src} {x : Src} (hx : x ∈ l) (h : mayRelease s l x = false) :
    release s l = s := ite_all_of_mem hx h _ _

theorem ready_of_not_mayReady {s : State} {l : List Dst} {d : Dst} (hd : d ∈ l) (h : mayReady s l d = false) :
    ready s l = s := ite_all_of_mem hd h _ _

/-! ## When a position permits its phase -/

theorem mayAck_of_not_valid {s : State} {d : Dst} (h : validAt s d = false) : mayAck s d = false := by
  simp [mayAck, h]

/-- One position of the channel that has not seen the acknowledge, or is not returned with it, holds a release back (R23). -/
theorem mayRelease_of_mate {s : State} {l : List Src} {x y : Src} (hy : y ∈ srcMates s x) (h : joinOf s y = false ∨ y ∉ l) :
    mayRelease s l x = false := by
  have hall : (srcMates s x).all (fun y => l.contains y && drivenBy s y != 0 && joinOf s y) = false := by
    refine List.all_eq_false.mpr ⟨y, hy, ?_⟩
    rcases h with hjoin | hout
    · simp [hjoin]
    · simp [hout]
  rw [mayRelease, hall, Bool.and_false]

/-- One position of the channel that is not neutral, or is not lowered with it, holds the acknowledge's fall back (R23). -/
theorem mayReady_of_mate {s : State} {l : List Dst} {d e : Dst} (he : e ∈ dstMates s d) (h : seen s e ≠ 0 ∨ e ∉ l) :
    mayReady s l d = false := by
  have hall : (dstMates s d).all (fun e => l.contains e && ackOf s e && seen s e == 0) = false := by
    refine List.all_eq_false.mpr ⟨e, he, ?_⟩
    rcases h with hrails | hout
    · simpa using fun _ _ => hrails
    · simp [hout]
  rw [mayReady, hall, Bool.and_false]

/-- A producer that may raise rails: what `mayRequest` asks, one by one (R20, R22, R26). -/
theorem mayRequest_cases {s : State} {x : Src} {r : Rails} (h : mayRequest s x r = true) :
    s.fab.committed = true ∧ phase0 s x = true ∧ oneHot r = true ∧
    ∃ c, x = .cell c ∧ cellRuns s c = true ∧ stageOf s c = some (digitOf r) := by
  cases x with
  | cell c =>
    simp only [mayRequest, Bool.and_eq_true, beq_iff_eq] at h
    obtain ⟨⟨⟨hcommitted, hphase⟩, hone⟩, hruns, hstage⟩ := h
    exact ⟨hcommitted, hphase, hone, c, rfl, hruns, hstage⟩
  | side _ _ _ | hinge _ _ | gate _ _ | carry _ => simp [mayRequest] at h

/-! ## A position belongs to its own channel (R21) -/

theorem hingeSpan_contains (s : State) (out : Bool) (h p : Nat) :
    (hingeSpan s out h p).1 ≤ p ∧ p < (hingeSpan s out h p).1 + (hingeSpan s out h p).2 := by
  unfold hingeSpan
  extract_lets within c
  split
  next hctl => simpa [within] using hctl.2
  next =>
    split
    next f hf =>
      have := List.find?_some hf
      simp only [within, Bool.and_eq_true, decide_eq_true_eq] at this
      exact this.2
    next =>
      split
      next j hj =>
        have := List.find?_some hj
        simp only [within, Bool.and_eq_true, decide_eq_true_eq] at this
        exact this.2
      next => exact ⟨Nat.le_refl p, Nat.lt_succ_self p⟩

/-- The ports counted from `b` reach port `p`. -/
theorem ofNat_offset {m : Nat} [NeZero m] {b n : Nat} (p : Fin m) (hb : b ≤ p.val) (hn : p.val < b + n) :
    ∃ d ∈ List.range n, Fin.ofNat m (b + d) = p := by
  refine ⟨p.val - b, List.mem_range.mpr (by omega), Fin.ext ?_⟩
  rw [Fin.val_ofNat, Nat.add_sub_cancel' hb, Nat.mod_eq_of_lt p.isLt]

theorem mem_srcMates_self (s : State) (x : Src) : x ∈ srcMates s x := by
  cases x with
  | side h col p =>
    simp only [srcMates]
    split
    · split
      next hmem => simpa using hmem
      next => exact List.mem_singleton_self _
    · exact List.mem_singleton_self _
  | hinge h p =>
    obtain ⟨hle, hlt⟩ := hingeSpan_contains s true h.val p.val
    obtain ⟨d, hd, hp⟩ := ofNat_offset p hle hlt
    exact List.mem_map.mpr ⟨d, hd, by rw [hp, Fin.ofNat_val_eq_self]⟩
  | cell _ | gate _ _ | carry _ => exact List.mem_singleton_self _

theorem mem_dstMates_self (s : State) (d : Dst) : d ∈ dstMates s d := by
  cases d with
  | slot c i =>
    simp only [dstMates]
    split
    next htap => exact List.mem_map.mpr ⟨i.val, by simpa using htap.2, by rw [Fin.ofNat_val_eq_self]⟩
    next => exact List.mem_singleton_self _
  | side h col p =>
    simp only [dstMates]
    split
    · split
      next hmem => simpa using hmem
      next => exact List.mem_singleton_self _
    · exact List.mem_singleton_self _
  | hinge h p =>
    obtain ⟨hle, hlt⟩ := hingeSpan_contains s false h.val p.val
    obtain ⟨d, hd, hp⟩ := ofNat_offset p hle hlt
    exact List.mem_map.mpr ⟨d, hd, by rw [hp, Fin.ofNat_val_eq_self]⟩
  | gate _ _ | carry _ => exact List.mem_singleton_self _

/-- Settles O10: each clause is a position at which the phase's condition fails; a position is one of its own channel, so the
clauses about one position follow from those about a mate. -/
theorem handshakesWaitForEveryPosition : Obligations.HandshakesWaitForEveryPosition := by
  unfold Obligations.HandshakesWaitForEveryPosition
  refine ⟨?ack, ?release, ?releaseMate, ?ready, ?readyMate⟩
  case ack =>
    intro s l d hd hvalid
    rw [exec_handshakeAck, acknowledge_of_not_mayAck hd (mayAck_of_not_valid hvalid)]
  case release =>
    intro s l x hx hjoin
    rw [exec_handshakeRelease, release_of_not_mayRelease hx (mayRelease_of_mate (mem_srcMates_self s x) (.inl hjoin))]
  case releaseMate =>
    intro s l x y hx hy hwaits
    rw [exec_handshakeRelease, release_of_not_mayRelease hx (mayRelease_of_mate hy hwaits)]
  case ready =>
    intro s l d hd hrails
    rw [exec_handshakeReady, ready_of_not_mayReady hd (mayReady_of_mate (mem_dstMates_self s d) (.inl hrails))]
  case readyMate =>
    intro s l d e hd he hwaits
    rw [exec_handshakeReady, ready_of_not_mayReady hd (mayReady_of_mate he hwaits)]

/-- Settles O7: each phase is its operation written out, the producers' return to neutral case by case, and what lets a
producer raise rails is `mayRequest_cases`. -/
theorem handshakePhases : Obligations.HandshakePhases := by
  unfold Obligations.HandshakePhases
  refine ⟨?request, ?ack, ?release, ?ready, ?producer⟩
  case request =>
    intro s l
    rw [exec_handshakeRequest, request]
    simp only [raiseRails]
  case ack =>
    intro s l
    rw [exec_handshakeAck, acknowledge]
  case release =>
    intro s l
    exact exec_handshakeRelease s l
  case ready =>
    intro s l
    rw [exec_handshakeReady, ready]
  case producer =>
    intro s x r h
    obtain ⟨hcommitted, hphase, hone, c, hx, hruns, hstage⟩ := mayRequest_cases h
    exact ⟨hcommitted, hphase, hone, c, hx, hearthSt_of_cellRuns hruns, hstage⟩

end Sys2Proof.Machine
end

section
/-! Upsets (R344, R25), user resets (R41 to R43, Tables 2.10 and 2.12) and the clear bits of the fault registers (R45, R72). -/
namespace Sys2Proof.Machine
open Sys2Proof

/-! ## Upsets -/

theorem exec_particleUpset (s : State) (u : Upset) : exec (.particleUpset u) s = .next (watchHandover s (upset s u)) := rfl

/-- Settles O11: the two kinds of upset, as `upset` tells them apart. -/
theorem upsetsFlipOneBit : Obligations.UpsetsFlipOneBit := by
  unfold Obligations.UpsetsFlipOneBit
  refine ⟨?frame, ?wire⟩
  case frame =>
    intro s a bit
    rw [exec_particleUpset, upset]
  case wire =>
    intro s x r
    rw [exec_particleUpset, upset]

/-! ## User resets -/

theorem exec_userResetRequest (s : State) (h : Fin 36) : exec (.userResetRequest h) s = .next (userReset s h) := rfl

theorem exec_boundaryWaitEnd (s : State) (h : Fin 36) : exec (.boundaryWaitEnd h) s = .next (boundaryEnd s h.val) := rfl

/-- The report of too long a wait for the boundary (R43). -/
theorem exec_boundaryWaitTimeout (s : State) (h : Fin 36) : exec (.boundaryWaitTimeout h) s =
    .next (if hearthSt s h.val = .boundary ∧ s.get FAB_URST_LIM_lim ≠ 0 then
      raise (s.putBit FAB_URST_STAT_bwait_over h.val true) 0x1103 (packWord [(30, h.val), (0, boundaryCount s h.val)])
    else s) :=
  (apply_ite Host.Outcome.next _ _ _).symm

/-- A user reset is discarded while the hearth's bit of SCB_HRL_BAD is set: it has no configuration (Table 2.12). -/
theorem userReset_of_bad {s : State} {h : Fin 36} (hbad : s.bit SCB_HRL_BAD_bad h.val = true) : userReset s h = s :=
  if_pos hbad

/-- A user reset is discarded while the hearth is not yet woken after commit (Table 2.12). -/
theorem userReset_of_not_woken {s : State} {h : Fin 36} (hst : hearthSt s h.val = .inert ∨ hearthSt s h.val = .waiting) :
    userReset s h = s := by
  unfold userReset
  rcases hst with hst | hst <;> simp [hst]

/-- A user reset of an awake hearth waits for the end of a handover in it; otherwise the hearth drains (Tables 2.10, 2.12). -/
theorem userReset_of_awake {s : State} {h : Fin 36} (hbad : ¬ s.bit SCB_HRL_BAD_bad h.val = true)
    (hst : hearthSt s h.val = .awake) : userReset s h =
      if handoverIn s h.val then { s.putBit FAB_URST_REQ_req h.val true with scb := { s.scb with
        waiting := if s.scb.waiting.contains h then s.scb.waiting else s.scb.waiting ++ [h] } }
      else boundaryEnd (drain (s.putBit FAB_URST_REQ_req h.val true) h.val .boundary) h.val := by
  simp only [userReset, if_neg hbad, hst, startUserReset]

/-- A hearth that is drained already keeps the request only: its reset runs, its isolation lasts, or its wake is due
(Table 2.12). -/
theorem userReset_of_drained {s : State} {h : Fin 36} (hbad : ¬ s.bit SCB_HRL_BAD_bad h.val = true)
    (hst : hearthSt s h.val = .boundary ∨ hearthSt s h.val = .isolated ∨ hearthSt s h.val = .rejoin) :
    userReset s h = s.putBit FAB_URST_REQ_req h.val true := by
  rcases hst with hst | hst | hst <;> simp only [userReset, if_neg hbad, hst]

/-- Settles O12: the request by the state of its hearth, and the wait with its end and its report as `boundaryEnd`, `reinsert`
and the timeout's command have them. -/
theorem userResetRuns : Obligations.UserResetRuns := by
  unfold Obligations.UserResetRuns
  refine ⟨?request, ?waitEnd, exec_boundaryWaitTimeout, ?boundary, ?reinsert⟩
  case request =>
    intro s h
    rw [exec_userResetRequest]
    by_cases hbad : s.bit SCB_HRL_BAD_bad h.val = true
    · rw [if_pos hbad, userReset_of_bad hbad]
    · rw [if_neg hbad]
      cases hst : hearthSt s h.val with
      | inert => simp [userReset_of_not_woken (.inl hst)]
      | waiting => simp [userReset_of_not_woken (.inr hst)]
      | awake => simp [userReset_of_awake hbad hst]
      | boundary => simp [userReset_of_drained hbad (.inl hst)]
      | isolated => simp [userReset_of_drained hbad (.inr (.inl hst))]
      | rejoin => simp [userReset_of_drained hbad (.inr (.inr hst))]
  case waitEnd =>
    intro s h
    rw [exec_boundaryWaitEnd, boundaryEnd]
  case boundary =>
    intro s h
    rw [boundaryEnd]
  case reinsert =>
    intro s h
    rw [reinsert]

/-! ## The clear bits -/

theorem exec_tokLastClear (s : State) : exec .tokLastClear s = .next (s.setWord FAB_TOK_LAST 0) := rfl

theorem exec_tokCntClear (s : State) : exec .tokCntClear s = .next (s.put FAB_TOK_CNT_cnt 0) := rfl

theorem exec_xbLastClear (s : State) : exec .xbLastClear s = .next (s.setWord FAB_XB_LAST 0) := rfl

theorem exec_xbCntClear (s : State) : exec .xbCntClear s = .next (s.put FAB_XB_CNT_cnt 0) := rfl

/-- A field of a register reads 0 once 0 is put in it. -/
theorem get_put_zero (s : State) (f : Field) (h : f.lo + f.width ≤ 36) : (s.put f 0).get f = 0 := by
  rw [get_put_self s f 0 h, Nat.zero_mod]

/-- Settles O13: each command is one write of 0, of which `word_setWord` and `get_put_self` say what is read afterwards. -/
theorem faultRegistersClear : Obligations.FaultRegistersClear := by
  unfold Obligations.FaultRegistersClear
  refine ⟨exec_tokLastClear, exec_tokCntClear, exec_xbLastClear, exec_xbCntClear,
    fun s t => ⟨?others, ?tokCnt, ?xbLast, ?xbCnt⟩⟩
  case others =>
    rintro ⟨⟩ a ha
    exact word_setWord_ne s 0 ha
  case tokCnt =>
    rintro ⟨⟩
    exact get_put_zero s FAB_TOK_CNT_cnt (by decide)
  case xbLast =>
    rintro ⟨⟩
    exact word_setWord_self s FAB_XB_LAST 0
  case xbCnt =>
    rintro ⟨⟩
    exact get_put_zero s FAB_XB_CNT_cnt (by decide)

end Sys2Proof.Machine
end

section
/-! Probes (R68 to R71): the word that a write of FAB_PRB_PIN_q stores, what an enable asks for, and the three commands. -/
namespace Sys2Proof.Machine
open Sys2Proof

/-! ## The word that a write stores -/

/-- The word that a write of every bit of FAB_PRB_PIN_q is judged by: refused and the reserved bits are 0 (Table 3.18). -/
def probeWritten (w : W36) : W36 := withBits (withBits w 33 1 0) 10 17 0

/-- The word that it stores before it is judged: en is 0 too. -/
def probeStored (w : W36) : W36 := withBits (probeWritten w) 35 1 0

/-- A field that lies clear of bits 33 and 26 to 10 is judged as written. -/
theorem bitsOf_probeWritten (w : W36) (lo width : Nat) (hreserved : lo + width ≤ 10 ∨ 27 ≤ lo)
    (hrefused : lo + width ≤ 33 ∨ 34 ≤ lo) : bitsOf (probeWritten w) lo width = bitsOf w lo width := by
  rw [probeWritten, bitsOf_withBits_other _ _ _ _ _ _ (by omega), bitsOf_withBits_other _ _ _ _ _ _ (by omega)]

@[simp] theorem bitsOf_probeStored_en (w : W36) : bitsOf (probeStored w) 35 1 = 0 := by
  rw [probeStored, bitsOf_withBits_self _ _ _ _ (by decide), Nat.zero_mod]

@[simp] theorem bitsOf_probeStored_refused (w : W36) : bitsOf (probeStored w) 33 1 = 0 := by
  rw [probeStored, bitsOf_withBits_other _ _ _ _ _ _ (by decide), probeWritten,
    bitsOf_withBits_other _ _ _ _ _ _ (by decide), bitsOf_withBits_self _ _ _ _ (by decide), Nat.zero_mod]

/-- Below refused, a write with en set or cleared stores the operand's fields that lie clear of the reserved bits. -/
theorem bitsOf_probeStored_withBits_en (w : W36) (e lo width : Nat) (hreserved : lo + width ≤ 10 ∨ 27 ≤ lo)
    (hrefused : lo + width ≤ 33) : bitsOf (probeStored (withBits w 35 1 e)) lo width = bitsOf w lo width := by
  rw [probeStored, bitsOf_withBits_other _ _ _ _ _ _ (by omega), bitsOf_probeWritten _ _ _ hreserved (.inl hrefused),
    bitsOf_withBits_other _ _ _ _ _ _ (by omega)]

/-! ## What a write of every bit does -/

/-- A probe may start on pin p of bank b (R69): the pin is a PARK pin of a bank under power, no user clock and no probe is on
it, and the selection with signal sig is valid. -/
def probeUsable (s : State) (q b p sig : Nat) : Bool :=
  decide (b < 12) && decide (p < 36) && pinFn s b p == 0 && !clockOn s b p && s.get (PIN_BANK_vsense b) != 0 &&
    (probeOn s b p).isNone && probeValid s q sig

theorem probeUsable_iff (s : State) (q b p sig : Nat) : probeUsable s q b p sig = true ↔
    b < 12 ∧ p < 36 ∧ pinFn s b p = 0 ∧ clockOn s b p = false ∧ s.get (PIN_BANK_vsense b) ≠ 0 ∧ probeOn s b p = none ∧
      probeValid s q sig = true := by
  simp only [probeUsable, Bool.and_eq_true, decide_eq_true_eq, beq_iff_eq, bne_iff_ne, Bool.not_eq_true',
    Option.isNone_iff_eq_none, and_assoc]

/-- A masked write with every bit in the mask is the word written. -/
theorem masked_allOnes (old w : W36) : (old &&& ~~~ BitVec.allOnes 36) ||| (w &&& BitVec.allOnes 36) = w := by
  simp only [BitVec.not_allOnes, BitVec.and_zero, BitVec.and_allOnes, BitVec.zero_or]

/-- What an enable with the word w does once its word is stored, from s before the write to t after it: it starts the probe,
with a fresh count of edges unless the probe drove this pin already, or refuses it (R69, R70). -/
def probeJudged (s t : State) (q : Nat) (w : W36) : State :=
  if probeUsable t q (bitsOf w 6 4) (bitsOf w 0 6) (bitsOf w 30 3) = true then
    (if bitsOf (s.word (FAB_PRB_PIN q)) 35 1 = 1 ∧ bitsOf (s.word (FAB_PRB_PIN q)) 0 10 = bitsOf w 0 10 then t
      else { t with fab := { t.fab with edges := tput (fun _ => 0) t.fab.edges q 0 } }).put (FAB_PRB_PIN_en q) 1
  else t.put (FAB_PRB_PIN_refused q) 1

/-- The judgement does not turn on the word's own en. -/
theorem probeJudged_withBits_en (s t : State) (q : Nat) (w : W36) (e : Nat) :
    probeJudged s t q (withBits w 35 1 e) = probeJudged s t q w := by
  have hbelow (lo width : Nat) (h : lo + width ≤ 35) : bitsOf (withBits w 35 1 e) lo width = bitsOf w lo width :=
    bitsOf_withBits_other _ _ _ _ _ _ (.inr h)
  simp only [probeJudged, hbelow 6 4 (by decide), hbelow 0 6 (by decide), hbelow 30 3 (by decide),
    hbelow 0 10 (by decide)]

/-- A write of every bit stores its word, and is then judged if its en is 1 (R69). -/
theorem probeWrite_allOnes (s : State) (q : Nat) (w : W36) : probeWrite s q (BitVec.allOnes 36) w =
    if bitsOf w 35 1 = 0 then s.setWord (FAB_PRB_PIN q) (probeStored w)
    else probeJudged s (s.setWord (FAB_PRB_PIN q) (probeStored w)) q w := by
  have hjudged : (BitVec.allOnes 36 &&& (maskOf 35 1 ||| maskOf 30 3 ||| maskOf 0 10) != 0) = true := by decide
  have hwritten : withBits (withBits w 33 1 0) 10 17 0 = probeWritten w := rfl
  have hstored : withBits (probeWritten w) 35 1 0 = probeStored w := rfl
  simp only [probeWrite, masked_allOnes, hwritten, hstored, hjudged, Bool.not_true, Bool.false_eq_true, if_false,
    bitsOf_probeWritten w 35 1 (by decide) (by decide), bitsOf_probeWritten w 30 3 (by decide) (by decide),
    bitsOf_probeWritten w 6 4 (by decide) (by decide), bitsOf_probeWritten w 0 6 (by decide) (by decide),
    bitsOf_probeWritten w 0 10 (by decide) (by decide), probeJudged, probeUsable]

/-- A disable only stores its word (R69). -/
theorem probeWrite_disable (s : State) (q : Nat) (w : W36) : probeWrite s q (BitVec.allOnes 36) (withBits w 35 1 0) =
    s.setWord (FAB_PRB_PIN q) (probeStored (withBits w 35 1 0)) := by
  have hen : bitsOf (withBits w 35 1 0) 35 1 = 0 := bitsOf_withBits_self _ _ _ _ (by decide)
  rw [probeWrite_allOnes, if_pos hen]

/-- An enable stores its word and is judged by its operand (R69). -/
theorem probeWrite_enable (s : State) (q : Nat) (w : W36) : probeWrite s q (BitVec.allOnes 36) (withBits w 35 1 1) =
    probeJudged s (s.setWord (FAB_PRB_PIN q) (probeStored (withBits w 35 1 1))) q w := by
  have hen : bitsOf (withBits w 35 1 1) 35 1 = 1 := bitsOf_withBits_self _ _ _ _ (by decide)
  rw [probeWrite_allOnes, if_neg (by omega), probeJudged_withBits_en]

/-! ## The commands -/

theorem exec_probeDisable (s : State) (q : Fin 16) (w : W36) : exec (.probeDisable q w) s =
    .next (probeWrite s q.val (BitVec.allOnes 36) (withBits w 35 1 0)) := rfl

theorem exec_probeEnable (s : State) (q : Fin 16) (w : W36) : exec (.probeEnable q w) s =
    .next (probeWrite s q.val (BitVec.allOnes 36) (withBits w 35 1 1)) := rfl

theorem exec_probeSelWrite (s : State) (q : Fin 16) (w : W36) : exec (.probeSelWrite q w) s =
    .next (s.setWord (FAB_PRB_SEL q.val) w) := rfl

/-- Settles O16: a disable and an enable are writes of every bit of the probe's register (`probeWrite_disable`,
`probeWrite_enable`), and an enable is judged by what `probeUsable_iff` lists. -/
theorem probeCommands : Obligations.ProbeCommands := by
  unfold Obligations.ProbeCommands
  refine ⟨?disable, ?enable, exec_probeSelWrite⟩
  case disable =>
    intro s q w
    refine ⟨probeStored (withBits w 35 1 0), ?_, bitsOf_probeStored_en _, bitsOf_probeStored_refused _,
      bitsOf_probeStored_withBits_en w 0 0 10 (by decide) (by decide)⟩
    rw [exec_probeDisable, probeWrite_disable]
  case enable =>
    intro s q w
    refine ⟨_, probeStored (withBits w 35 1 1), rfl, bitsOf_probeStored_en _, bitsOf_probeStored_refused _,
      bitsOf_probeStored_withBits_en w 1 0 10 (by decide) (by decide),
      bitsOf_probeStored_withBits_en w 1 30 3 (by decide) (by decide), ?_⟩
    rw [exec_probeEnable, probeWrite_enable]
    simp only [probeJudged, probeUsable_iff]

end Sys2Proof.Machine
end

section
/-! The state at reset (R8, R414): the invariant, and the identity maps of columns, blocks and lanes. -/
namespace Sys2Proof.Machine
open Sys2Proof

/-! ## The invariant -/

theorem regsCanonical_reset : RegsCanonical State.reset := twf_nil resetWord

theorem queuesBounded_reset : QueuesBounded State.reset :=
  ⟨Nat.zero_le _, Nat.zero_le _, fun _ => Nat.zero_le _⟩

theorem inv_reset : Inv State.reset := ⟨regsCanonical_reset, queuesBounded_reset, memory_wf_reset⟩

/-! ## The maps -/

@[simp] theorem word_reset (a : Nat) : State.reset.word a = resetWord a := rfl

theorem steerDefault_snd (key : Nat) : (steerDefault key).2 = key % 66 := by
  unfold steerDefault
  split <;> rfl

theorem blockDefault_snd (key : Nat) : (blockDefault key).2 = key % 102 := by
  unfold blockDefault
  split <;> rfl

/-- At reset a logical column maps to the physical column of its number (R62). -/
theorem steerOf_reset_snd (h c : Nat) (hc : c < 66) : (steerOf State.reset h c).2 = c :=
  calc (steerOf State.reset h c).2 = (66 * h + c) % 66 := steerDefault_snd _
    _ = c := by rw [Nat.mul_add_mod, Nat.mod_eq_of_lt hc]

/-- At reset a slot is served by the physical block of its number (R103). -/
theorem blockOf_reset_snd (h b : Nat) (hb : b < 102) : (blockOf State.reset h b).2 = b :=
  calc (blockOf State.reset h b).2 = (102 * h + b) % 102 := blockDefault_snd _
    _ = b := by rw [Nat.mul_add_mod, Nat.mod_eq_of_lt hb]

/-- The reset word of LNE_CORD_CFG_n holds 3, 2, 1 and 0 in map3 to map0. -/
theorem resetWord_LNE_CORD_CFG : ∀ n < 6, resetWord (LNE_CORD_CFG n) = 0xE4000000 := by decide

/-- At reset a logical lane of a cord maps to the physical lane of its number (R193). -/
theorem get_mapField_reset (n k : Nat) (hn : n < 6) (hk : k < 4) : State.reset.get (mapField n k) = k := by
  have hlanes : ∀ k < 4, bitsOf (0xE4000000 : W36) (24 + 2 * k) 2 = k := by decide
  rw [State.get, mapField, word_reset, resetWord_LNE_CORD_CFG n hn, hlanes k hk]

/-- Settles O58: each part of the invariant at reset, and each map as the table's default or the registers' reset word gives
it. -/
theorem resetMeetsTheInvariant : Obligations.ResetMeetsTheInvariant := by
  unfold Obligations.ResetMeetsTheInvariant
  exact ⟨inv_reset, rfl, rfl, rfl, fun h _ => ⟨steerOf_reset_snd h, blockOf_reset_snd h⟩,
    fun n hn k hk => get_mapField_reset n k hn hk⟩

end Sys2Proof.Machine
end

section
/-! What an emergency leaves as it was: it writes the management controller's log and queues, and counts in MGC_EM_CNT
(R397, R398, R449). -/
namespace Sys2Proof.Machine
open Sys2Proof

/-- What the chapter on pace reads beside the management controller: the queue of commands, the pace and power structures, and
one register. -/
structure BesideMgc where
  pending : List Instr
  pace : Pace
  pwr : Pwr
  word : W36

def besideMgc (a : Nat) (s : State) : BesideMgc := ⟨s.pending, s.pace, s.pwr, s.word a⟩

theorem besideMgc_put {a : Nat} {f : Field} (h : a ≠ f.addr) (s : State) (v : Nat) :
    besideMgc a (s.put f v) = besideMgc a s := by
  simp only [besideMgc, put_pending, put_pace, put_pwr, word_put_ne s f v h]

theorem besideMgc_bump {a : Nat} {f : Field} (h : a ≠ f.addr) (s : State) (k : Nat) :
    besideMgc a (s.bump f k) = besideMgc a s := besideMgc_put h s _

theorem besideMgc_holdEntry {a : Nat} (h : a ≠ MGC_EM_CNT) (s : State) (e : LogEntry) :
    besideMgc a (holdEntry s e) = besideMgc a s := by
  unfold holdEntry
  split
  · rfl
  · exact besideMgc_bump h s 1

theorem besideMgc_enqueueOn {a : Nat} (h : a ≠ MGC_EM_CNT) (s : State) (t : Transport) (e : Emergency) :
    besideMgc a (enqueueOn s t e) = besideMgc a s := by
  simp only [enqueueOn]
  split
  · rfl
  · exact besideMgc_bump h _ 1

theorem besideMgc_sendEmergency {a : Nat} (h : a ≠ MGC_EM_CNT) (s : State) (code : BitVec 16) (d : W36) :
    besideMgc a (sendEmergency s code d) = besideMgc a s := by
  have hcount : besideMgc a (s.bump MGC_EM_CNT_sent 1) = besideMgc a s := besideMgc_bump h s 1
  simp only [sendEmergency]
  split
  · simp only [besideMgc_enqueueOn h]
    exact hcount
  · exact hcount

theorem besideMgc_raise {a : Nat} (h : a ≠ MGC_EM_CNT) (s : State) (code : Nat) (d : W36) :
    besideMgc a (raise s code d) = besideMgc a s := by
  simp only [raise]
  split
  · exact besideMgc_sendEmergency h _ _ _
  · exact besideMgc_holdEntry h _ _

theorem word_raise (s : State) (code : Nat) (d : W36) {a : Nat} (h : a ≠ MGC_EM_CNT) :
    (raise s code d).word a = s.word a :=
  congrArg BesideMgc.word (besideMgc_raise h s code d)

@[simp] theorem raise_pending (s : State) (code : Nat) (d : W36) : (raise s code d).pending = s.pending :=
  congrArg BesideMgc.pending (besideMgc_raise (a := FAB_PACE_CFG) (by decide) s code d)

@[simp] theorem raise_pace (s : State) (code : Nat) (d : W36) : (raise s code d).pace = s.pace :=
  congrArg BesideMgc.pace (besideMgc_raise (a := FAB_PACE_CFG) (by decide) s code d)

@[simp] theorem raise_pwr (s : State) (code : Nat) (d : W36) : (raise s code d).pwr = s.pwr :=
  congrArg BesideMgc.pwr (besideMgc_raise (a := FAB_PACE_CFG) (by decide) s code d)

/-! ## The pace structure, and folds over the hearths -/

@[simp] theorem setPace_pace (s : State) (p : Pace) : (s.setPace p).pace = p := rfl
@[simp] theorem setPace_pwr (s : State) (p : Pace) : (s.setPace p).pwr = s.pwr := rfl

/-- What one step of a fold brings about and no step undoes holds at the end of the fold. -/
theorem foldl_establishes {α β : Type} {P : β → Prop} {f : β → α → β} {x : α} (hx : ∀ s, P (f s x))
    (hkeep : ∀ s y, P s → P (f s y)) {l : List α} (hmem : x ∈ l) (s : β) : P (l.foldl f s) := by
  have hlater (l : List α) (s : β) (hs : P s) : P (l.foldl f s) := by
    induction l generalizing s with
    | nil => exact hs
    | cons y l ih => exact ih _ (hkeep s y hs)
  induction l generalizing s with
  | nil => cases hmem
  | cons y l ih =>
    rcases List.mem_cons.mp hmem with rfl | hl
    · exact hlater l _ (hx s)
    · exact ih hl _

end Sys2Proof.Machine
end

section
/-! The governor (R88 to R92, Table 4.7): a period measures and then moves the levels. What each part of it leaves as it was,
and which levels it leaves at 0. -/
namespace Sys2Proof.Machine
open Sys2Proof

/-! ## One level -/

/-- A level just set reads the low 6 bits of what was set; the other levels keep their value. -/
theorem level_setLevel (s : State) (h v g : Nat) : level (setLevel s h v) g = if g = h then v % 64 else level s g := by
  by_cases hgh : g = h
  · subst hgh
    rw [if_pos rfl]
    exact get_put_self s (levelField g) v (by simp only [levelField]; omega)
  · rw [if_neg hgh]
    by_cases hreg : g / 6 = h / 6
    · exact get_put_lo s _ _ v (by simp only [levelField, hreg]) (by simp only [levelField]; omega)
    · exact get_put_addr s _ _ v (by simp only [levelField, FAB_GOV_LVL]; omega)

/-- The other registers of the governor and of VFAB lie below the levels (Tables 4.10 to 4.15). -/
theorem word_setLevel (s : State) (h v : Nat) {a : Nat} (ha : a < FAB_GOV_LVL 0) : (setLevel s h v).word a = s.word a :=
  word_put_ne s _ v (by simp only [levelField, FAB_GOV_LVL] at ha ⊢; omega)

theorem exempt_congr {s t : State} (h : t.word FAB_GOV_EXEMPT = s.word FAB_GOV_EXEMPT) (g : Nat) : exempt t g = exempt s g :=
  congrArg (fun w : W36 => bitN (bitsOf w 0 36) g) h

/-- en is read from FAB_GOV_CFG. -/
theorem get_en_congr {s t : State} (h : t.word FAB_GOV_CFG = s.word FAB_GOV_CFG) :
    t.get FAB_GOV_CFG_en = s.get FAB_GOV_CFG_en :=
  congrArg (fun w : W36 => bitsOf w 35 1) h

theorem flag_en_congr {s t : State} (h : t.word FAB_GOV_CFG = s.word FAB_GOV_CFG) :
    t.flag FAB_GOV_CFG_en = s.flag FAB_GOV_CFG_en := by
  rw [State.flag, State.flag, get_en_congr h]

theorem exempt_setLevel (s : State) (h v g : Nat) : exempt (setLevel s h v) g = exempt s g :=
  exempt_congr (word_setLevel s h v (by decide)) g

/-! ## What the moves of the levels leave as it was -/

/-- What a period has measured when it comes to the levels, and what it judges them by: the counts and p_dyn of the
estimators, p_est, and the registers FAB_GOV_CFG and FAB_GOV_EXEMPT, beside the queue of commands. -/
structure GovernorView where
  pending : List Instr
  counts : Tbl Nat
  pdyn : Tbl Nat
  estimate : Nat
  cfg : W36
  exempt : W36

def governorView (s : State) : GovernorView :=
  ⟨s.pending, s.pace.counts, s.pace.pdyn, s.get FAB_GOV_STAT_p_est, s.word FAB_GOV_CFG, s.word FAB_GOV_EXEMPT⟩

@[simp] theorem governorView_setLevel (s : State) (h v : Nat) : governorView (setLevel s h v) = governorView s := by
  simp only [governorView, State.get, word_setLevel s h v (a := FAB_GOV_STAT_p_est.addr) (by decide),
    word_setLevel s h v (a := FAB_GOV_CFG) (by decide), word_setLevel s h v (a := FAB_GOV_EXEMPT) (by decide)]
  rfl

@[simp] theorem governorView_raise (s : State) (code : Nat) (d : W36) :
    governorView (raise s code d) = governorView s := by
  simp only [governorView, State.get, raise_pending, raise_pace, word_raise s code d (a := FAB_GOV_STAT_p_est.addr) (by decide),
    word_raise s code d (a := FAB_GOV_CFG) (by decide), word_raise s code d (a := FAB_GOV_EXEMPT) (by decide)]

theorem governorView_put_cap (s : State) (v : Nat) : governorView (s.put FAB_GOV_STAT_cap v) = governorView s := by
  simp only [governorView, put_pending, put_pace, get_put_lo s FAB_GOV_STAT_cap FAB_GOV_STAT_p_est v rfl (by decide),
    word_put_ne s FAB_GOV_STAT_cap v (a := FAB_GOV_CFG) (by decide),
    word_put_ne s FAB_GOV_STAT_cap v (a := FAB_GOV_EXEMPT) (by decide)]

@[simp] theorem governorView_zeroLevels (s : State) : governorView (zeroLevels s) = governorView s :=
  foldl_leaves governorView (fun s h _ => governorView_setLevel s h 0) s

/-- The level that a hearth has after the clamp of R90 and R91. -/
def clampedLevel (s : State) (h : Nat) : Nat :=
  if exempt s h then 0 else min (level s h) (s.get FAB_GOV_CFG_max_stretch)

theorem clampLevels_of_en {s : State} (h : s.flag FAB_GOV_CFG_en = true) :
    clampLevels s = (List.range 36).foldl (fun s h => setLevel s h (clampedLevel s h)) s := by
  simp only [clampLevels, h, if_true, clampedLevel, apply_ite (setLevel _ _)]

theorem clampLevels_of_not_en {s : State} (h : s.flag FAB_GOV_CFG_en = false) : clampLevels s = zeroLevels s := by
  simp only [clampLevels, h, Bool.false_eq_true, if_false]

@[simp] theorem governorView_clampLevels (s : State) : governorView (clampLevels s) = governorView s := by
  cases hen : s.flag FAB_GOV_CFG_en with
  | true =>
    rw [clampLevels_of_en hen]
    exact foldl_leaves governorView (fun s h _ => governorView_setLevel s h _) s
  | false => rw [clampLevels_of_not_en hen, governorView_zeroLevels]

@[simp] theorem governorView_raiseLevels (l : List Nat) (excess : Nat) (s : State) :
    governorView (raiseLevels l excess s) = governorView s := by
  induction l generalizing excess s with
  | nil => rfl
  | cons h l ih =>
    rw [raiseLevels]
    split
    · rfl
    · split
      · rw [ih, governorView_setLevel]
      · exact ih excess s

/-- Lowering lets one hearth's level fall by one, or does nothing. -/
theorem lowerHighest_cases (s : State) :
    lowerHighest s = s ∨ ∃ h, lowerHighest s = setLevel s h (level s h - 1) := by
  unfold lowerHighest
  split
  · split
    · exact .inr ⟨_, rfl⟩
    · exact .inl rfl
  · exact .inl rfl

@[simp] theorem governorView_lowerHighest (s : State) : governorView (lowerHighest s) = governorView s := by
  rcases lowerHighest_cases s with h | ⟨h, hlow⟩
  · rw [h]
  · rw [hlow, governorView_setLevel]

@[simp] theorem governorView_capReached (s : State) : governorView (capReached s) = governorView s := by
  simp only [capReached]
  split
  · split
    · exact governorView_put_cap s 1
    · rw [governorView_raise]
      exact governorView_put_cap s 1
  · rfl

/-! ## Levels that are 0 -/

theorem level_zeroLevels (s : State) {h : Nat} (hh : h < 36) : level (zeroLevels s) h = 0 :=
  foldl_establishes (P := fun s => level s h = 0) (fun s => by simp [level_setLevel])
    (fun s g hs => by simp [level_setLevel, hs]) (List.mem_range.mpr hh) s

theorem exempt_clampLevels (s : State) (h : Nat) : exempt (clampLevels s) h = exempt s h :=
  exempt_congr (congrArg GovernorView.exempt (governorView_clampLevels s)) h

/-- The clamp puts every exempt hearth at level 0 (R90). -/
theorem level_clampLevels_of_exempt {s : State} {h : Nat} (hh : h < 36) (hex : exempt s h = true) :
    level (clampLevels s) h = 0 := by
  cases hen : s.flag FAB_GOV_CFG_en with
  | false => rw [clampLevels_of_not_en hen, level_zeroLevels s hh]
  | true =>
    rw [← exempt_clampLevels] at hex
    rw [clampLevels_of_en hen] at hex ⊢
    refine foldl_establishes (P := fun s => exempt s h = true → level s h = 0) ?own ?others (List.mem_range.mpr hh) s hex
    case own =>
      intro s hex
      rw [exempt_setLevel] at hex
      simp [level_setLevel, clampedLevel, hex]
    case others =>
      intro s g hs hex
      rw [exempt_setLevel] at hex
      rw [level_setLevel]
      split
      · next hg => simp [clampedLevel, ← hg, hex]
      · exact hs hex

theorem mem_insertByPower (s : State) (h x : Nat) (l : List Nat) : x ∈ insertByPower s h l ↔ x = h ∨ x ∈ l := by
  induction l with
  | nil => simp [insertByPower]
  | cons y l ih =>
    rw [insertByPower]
    split
    · simp
    · simp only [List.mem_cons, ih]
      exact or_left_comm

theorem mem_foldl_insertByPower (s : State) (x : Nat) (l acc : List Nat) :
    x ∈ l.foldl (fun l h => insertByPower s h l) acc ↔ x ∈ acc ∨ x ∈ l := by
  induction l generalizing acc with
  | nil => simp
  | cons h l ih => rw [List.foldl_cons, ih, mem_insertByPower, List.mem_cons, or_assoc, or_left_comm]

/-- Only a hearth that is not exempt is listed for a rise (R90). -/
theorem exempt_of_mem_byPower {s : State} {h : Nat} (hmem : h ∈ byPower s) : exempt s h = false := by
  rw [byPower, mem_foldl_insertByPower] at hmem
  rcases hmem with hnil | hmem
  · cases hnil
  · have hrise := (List.mem_filter.mp hmem).2
    simp only [Bool.and_eq_true, Bool.not_eq_true'] at hrise
    exact hrise.1

theorem level_raiseLevels_of_not_mem {h : Nat} {l : List Nat} (hl : h ∉ l) (excess : Nat) (s : State) :
    level (raiseLevels l excess s) h = level s h := by
  induction l generalizing excess s with
  | nil => rfl
  | cons g l ih =>
    have hg : h ≠ g := List.ne_of_not_mem_cons hl
    have hl : h ∉ l := List.not_mem_of_not_mem_cons hl
    rw [raiseLevels]
    split
    · rfl
    · split
      · rw [ih hl, level_setLevel, if_neg hg]
      · exact ih hl excess s

theorem level_lowerHighest_le (s : State) (h : Nat) : level (lowerHighest s) h ≤ level s h := by
  rcases lowerHighest_cases s with hlow | ⟨g, hlow⟩
  · rw [hlow]
  · rw [hlow, level_setLevel]
    split
    · next hg =>
      subst hg
      exact (Nat.mod_le _ _).trans (Nat.sub_le _ _)
    · exact le_rfl

theorem level_congr {s t : State} {h : Nat} (hw : t.word (FAB_GOV_LVL (h / 6)) = s.word (FAB_GOV_LVL (h / 6))) :
    level t h = level s h :=
  congrArg (fun w : W36 => bitsOf w (6 * (h % 6)) 6) hw

theorem level_capReached (s : State) (h : Nat) : level (capReached s) h = level s h := by
  have hcap : (s.put FAB_GOV_STAT_cap 1).word (FAB_GOV_LVL (h / 6)) = s.word (FAB_GOV_LVL (h / 6)) :=
    word_put_ne s _ 1 (by simp only [FAB_GOV_LVL, FAB_GOV_STAT_cap]; omega)
  refine level_congr ?_
  simp only [capReached]
  split
  · split
    · exact hcap
    · rw [word_raise _ _ _ (by simp only [FAB_GOV_LVL, MGC_EM_CNT]; omega)]
      exact hcap
  · rfl

end Sys2Proof.Machine
end

section
/-! A period of the governor as three parts: what the estimators deliver, what FAB_GOV_STAT shows of it, and the levels. -/
namespace Sys2Proof.Machine
open Sys2Proof

/-! ## The estimators -/

/-- The state when every estimator has delivered or stayed silent, and stale is marked (R88, Table 4.7). -/
def estimated (s : State) (silent : List (Fin 36)) : State :=
  (estimators s silent).put FAB_GOV_STAT_stale (b2n ((List.range 36).any (stale (estimators s silent))))

/-- What the estimators do not change: the queue of commands, the VFAB that the governor reckons with after a fault, and a
register below theirs. -/
structure BesideEstimates where
  pending : List Instr
  stopped : Bool
  commanded : Nat
  word : W36

def besideEstimates (a : Nat) (s : State) : BesideEstimates := ⟨s.pending, s.pace.stopped, s.pace.commanded, s.word a⟩

theorem besideEstimates_estimate {a : Nat} (ha : a < FAB_GOV_LVL 0) (s : State) (silent : Bool) (h : Nat) :
    besideEstimates a (estimate s silent h) = besideEstimates a s := by
  have hpwr : a ≠ FAB_GOV_PWR h := by
    simp only [FAB_GOV_LVL, FAB_GOV_PWR] at ha ⊢
    omega
  unfold estimate
  split
  · rfl
  · simp only [besideEstimates, word_setWord_ne _ _ hpwr]
    rfl

theorem besideEstimates_estimated {a : Nat} (ha : a < FAB_GOV_LVL 0) (hstat : a ≠ FAB_GOV_STAT) (s : State)
    (silent : List (Fin 36)) : besideEstimates a (estimated s silent) = besideEstimates a s := by
  calc besideEstimates a (estimated s silent) = besideEstimates a (estimators s silent) := by
        rw [estimated]
        simp only [besideEstimates, put_pending, put_pace, word_put_ne _ FAB_GOV_STAT_stale _ hstat]
    _ = besideEstimates a s := foldl_leaves (besideEstimates a) (fun s h _ => besideEstimates_estimate ha s _ h) s

theorem estimated_pending (s : State) (silent : List (Fin 36)) : (estimated s silent).pending = s.pending :=
  congrArg BesideEstimates.pending
    (besideEstimates_estimated (a := FAB_GOV_CFG) (by decide) (by decide) s silent)

theorem estimated_stopped (s : State) (silent : List (Fin 36)) : (estimated s silent).pace.stopped = s.pace.stopped :=
  congrArg BesideEstimates.stopped (besideEstimates_estimated (a := FAB_GOV_CFG) (by decide) (by decide) s silent)

theorem estimated_commanded (s : State) (silent : List (Fin 36)) :
    (estimated s silent).pace.commanded = s.pace.commanded :=
  congrArg BesideEstimates.commanded (besideEstimates_estimated (a := FAB_GOV_CFG) (by decide) (by decide) s silent)

theorem word_estimated {a : Nat} (ha : a < FAB_GOV_LVL 0) (hstat : a ≠ FAB_GOV_STAT) (s : State)
    (silent : List (Fin 36)) : (estimated s silent).word a = s.word a :=
  congrArg BesideEstimates.word (besideEstimates_estimated ha hstat s silent)

theorem estimated_counts (s : State) (silent : List (Fin 36)) : (estimated s silent).pace.counts = [] := rfl

theorem get_estimated {f : Field} (ha : f.addr < FAB_GOV_LVL 0) (hstat : f.addr ≠ FAB_GOV_STAT) (s : State)
    (silent : List (Fin 36)) : (estimated s silent).get f = s.get f := by
  rw [State.get, State.get, word_estimated ha hstat]

theorem governorVfab_estimated (s : State) (silent : List (Fin 36)) :
    governorVfab (estimated s silent) = governorVfab s := by
  rw [governorVfab, State.flag, estimated_stopped, estimated_commanded,
    get_estimated (f := FAB_VFAB_PMB_en) (by decide) (by decide),
    get_estimated (f := FAB_VFAB_CTL_actual) (by decide) (by decide),
    get_estimated (f := FAB_VFAB_CTL_target) (by decide) (by decide)]
  rfl

/-! ## p_leak and p_est -/

/-- The leakage at the voltage of the period, in the unit of `microwatt` (R86, R88). -/
def leakPower (s : State) (tempMax : Int) : Nat :=
  leakage tempMax * governorVfab s * governorVfab s * governorVfab s * 10

/-- The estimate of a period: the p_dyn of all 36 hearths beside the leakage (R88). -/
def estimateOf (s : State) (tempMax : Int) : Nat :=
  (List.range 36).foldl (fun a h => a + tget (fun _ => 0) s.pace.pdyn h) 0 + leakPower s tempMax

/-- The state when FAB_GOV_STAT shows p_leak and p_est (R88, Table 4.12). -/
def powerShown (s : State) (tempMax : Int) : State :=
  (s.put FAB_GOV_STAT_p_leak (min 4095 (leakPower s tempMax / (125000 * microwatt)))).put FAB_GOV_STAT_p_est
    (min 4095 (estimateOf s tempMax / (125000 * microwatt)))

theorem word_powerShown {a : Nat} (h : a ≠ FAB_GOV_STAT) (s : State) (tempMax : Int) :
    (powerShown s tempMax).word a = s.word a := by
  rw [powerShown, word_put_ne _ FAB_GOV_STAT_p_est _ h, word_put_ne _ FAB_GOV_STAT_p_leak _ h]

theorem powerShown_p_est (s : State) (tempMax : Int) : (powerShown s tempMax).get FAB_GOV_STAT_p_est =
    min 4095 (estimateOf s tempMax / (125000 * microwatt)) := by
  rw [powerShown, get_put_self _ _ _ (by decide)]
  exact Nat.mod_eq_of_lt (lt_of_le_of_lt (Nat.min_le_left 4095 _) (by decide))

/-! ## The levels -/

/-- The state when the levels that need no power to judge are set (R90, R91), and the periods without an excess are counted. -/
def clamped (s : State) (est : Nat) : State :=
  let calm := if limitUw s * microwatt < est then 0 else (clampLevels s).pace.calm + 1
  (clampLevels s).setPace { (clampLevels s).pace with
    calm := calm, capped := (clampLevels s).pace.capped && decide (calm < 1000) }

@[simp] theorem governorView_clamped (s : State) (est : Nat) : governorView (clamped s est) = governorView s :=
  governorView_clampLevels s

theorem level_clamped (s : State) (est h : Nat) : level (clamped s est) h = level (clampLevels s) h := rfl

/-- The levels of a period, from what it has measured: clamped, and with en = 1 raised over the limit and lowered well below it
(R88). -/
def levelled (s : State) (est : Nat) : State :=
  let limit := limitUw s * microwatt
  let c := clamped s est
  if c.flag FAB_GOV_CFG_en = false then c
  else if limit < est then capReached (raiseLevels (byPower c) ((est - limit) * excessScale) c)
  else if est < limit - c.get FAB_GOV_CFG_budget * 125000 * microwatt / 32 then lowerHighest c
  else c

theorem governorPeriod_of_runs {s : State} (h : governorRuns s = true) (silent : List (Fin 36)) (tempMax : Int) :
    governorPeriod s silent tempMax =
      levelled (powerShown (estimated s silent) tempMax) (estimateOf (estimated s silent) tempMax) := by
  rw [governorPeriod, if_pos h]
  rfl

/-- After the clamp a period leaves the levels, or, with en = 1, raises those of the hearths by power or lowers the highest. -/
theorem levelled_cases (s : State) (est : Nat) : levelled s est = clamped s est ∨
    (clamped s est).flag FAB_GOV_CFG_en = true ∧
      ((∃ excess, levelled s est = capReached (raiseLevels (byPower (clamped s est)) excess (clamped s est))) ∨
        levelled s est = lowerHighest (clamped s est)) := by
  rw [levelled]
  split
  · exact .inl rfl
  · next hen =>
    have hen := eq_true_of_ne_false hen
    split
    · exact .inr ⟨hen, .inl ⟨_, rfl⟩⟩
    · split
      · exact .inr ⟨hen, .inr rfl⟩
      · exact .inl rfl

@[simp] theorem governorView_levelled (s : State) (est : Nat) : governorView (levelled s est) = governorView s := by
  rcases levelled_cases s est with h | ⟨_, ⟨excess, h⟩ | h⟩ <;> simp [h]

/-- With en = 0 a period leaves every level 0. -/
theorem level_levelled_of_not_en {s : State} (hen : s.flag FAB_GOV_CFG_en = false) (est : Nat) {h : Nat} (hh : h < 36) :
    level (levelled s est) h = 0 := by
  have hoff : (clamped s est).flag FAB_GOV_CFG_en = false :=
    (flag_en_congr (congrArg GovernorView.cfg (governorView_clamped s est))).trans hen
  rcases levelled_cases s est with hl | ⟨hon, _⟩
  · rw [hl, level_clamped, clampLevels_of_not_en hen, level_zeroLevels s hh]
  · rw [hoff] at hon
    cases hon

/-- After the clamp a period raises no exempt hearth, so that it ends at level 0 (R90). -/
theorem level_levelled_of_exempt {s : State} (est : Nat) {h : Nat} (hh : h < 36) (hex : exempt s h = true) :
    level (levelled s est) h = 0 := by
  have hexc : exempt (clamped s est) h = true := (exempt_clampLevels s h).trans hex
  have hzero : level (clamped s est) h = 0 := level_clampLevels_of_exempt hh hex
  rcases levelled_cases s est with hl | ⟨_, ⟨excess, hl⟩ | hl⟩
  · rw [hl, hzero]
  · have hnot : h ∉ byPower (clamped s est) := fun hmem => by simp [exempt_of_mem_byPower hmem] at hexc
    rw [hl, level_capReached, level_raiseLevels_of_not_mem hnot, hzero]
  · exact Nat.le_zero.mp (by simpa only [hl, hzero] using level_lowerHighest_le (clamped s est) h)

/-! ## The commands -/

theorem exec_governorPeriod (silent : List (Fin 36)) (tempMax : Int) (s : State) :
    exec (.governorPeriod silent tempMax) s = .next (governorPeriod s silent tempMax) := rfl

theorem exec_governorWarmEnd (s : State) :
    exec .governorWarmEnd s = .next (if governorRuns s then s.put FAB_GOV_STAT_warm 0 else s) := rfl

theorem exec_governorEnable (s : State) : exec .governorEnable s = .next (if s.flag FAB_GOV_CFG_en then s else
    (zeroLevels (s.put FAB_GOV_CFG_en 1)).put FAB_GOV_STAT_warm 1) := rfl

theorem exec_governorDisable (s : State) : exec .governorDisable s = .next (s.put FAB_GOV_CFG_en 0) := rfl

theorem governorRuns_of {s : State} (hcommitted : s.fab.committed = true) (hclocked : s.pwr.clocked = true) :
    governorRuns s = true := by
  rw [governorRuns, hcommitted, hclocked, Bool.and_self]

theorem governorRuns_eq_false {s : State} (h : s.fab.committed = false ∨ s.pwr.clocked = false) :
    governorRuns s = false :=
  Bool.and_eq_false_iff.mpr h

/-- Once it has measured, a period of the running governor changes no more of what it judges the levels by. -/
theorem governorView_governorPeriod {s : State} (h : governorRuns s = true) (silent : List (Fin 36)) (tempMax : Int) :
    governorView (governorPeriod s silent tempMax) = governorView (powerShown (estimated s silent) tempMax) := by
  rw [governorPeriod_of_runs h, governorView_levelled]

/-! ## What a period leaves -/

/-- The registers below the levels, FAB_GOV_STAT aside, read after the measurement as they did before. -/
theorem word_measured {a : Nat} (ha : a < FAB_GOV_LVL 0) (hstat : a ≠ FAB_GOV_STAT) (s : State) (silent : List (Fin 36))
    (tempMax : Int) : (powerShown (estimated s silent) tempMax).word a = s.word a := by
  rw [word_powerShown hstat, word_estimated ha hstat]

theorem governorPeriod_pending {s : State} (h : governorRuns s = true) (silent : List (Fin 36)) (tempMax : Int) :
    (governorPeriod s silent tempMax).pending = s.pending :=
  (congrArg GovernorView.pending (governorView_governorPeriod h silent tempMax)).trans (estimated_pending s silent)

theorem governorPeriod_counts {s : State} (h : governorRuns s = true) (silent : List (Fin 36)) (tempMax : Int) :
    (governorPeriod s silent tempMax).pace.counts = [] :=
  congrArg GovernorView.counts (governorView_governorPeriod h silent tempMax)

theorem governorPeriod_pdyn {s : State} (h : governorRuns s = true) (silent : List (Fin 36)) (tempMax : Int) :
    (governorPeriod s silent tempMax).pace.pdyn = (estimated s silent).pace.pdyn :=
  congrArg GovernorView.pdyn (governorView_governorPeriod h silent tempMax)

theorem governorPeriod_p_est {s : State} (h : governorRuns s = true) (silent : List (Fin 36)) (tempMax : Int) :
    (governorPeriod s silent tempMax).get FAB_GOV_STAT_p_est =
      min 4095 (estimateOf (estimated s silent) tempMax / (125000 * microwatt)) :=
  (congrArg GovernorView.estimate (governorView_governorPeriod h silent tempMax)).trans (powerShown_p_est _ tempMax)

theorem word_governorPeriod_cfg {s : State} (h : governorRuns s = true) (silent : List (Fin 36)) (tempMax : Int) :
    (governorPeriod s silent tempMax).word FAB_GOV_CFG = s.word FAB_GOV_CFG :=
  (congrArg GovernorView.cfg (governorView_governorPeriod h silent tempMax)).trans
    (word_measured (by decide) (by decide) s silent tempMax)

/-- Settles O18: the switches are their commands' equations; a period keeps `governorView` of what it has measured, and with
en = 0 it leaves the levels as the clamp has zeroed them (`level_levelled_of_not_en`). -/
theorem governorSwitches : Obligations.GovernorSwitches := by
  unfold Obligations.GovernorSwitches
  refine ⟨exec_governorEnable, exec_governorDisable, ?warmEnd, ?period, ?stopped, ?algorithm⟩
  case warmEnd =>
    intro s hcommitted hclocked
    rw [exec_governorWarmEnd, if_pos (governorRuns_of hcommitted hclocked)]
  case period =>
    intro s silent tempMax hcommitted hclocked
    have hruns := governorRuns_of hcommitted hclocked
    refine ⟨_, exec_governorPeriod silent tempMax s, governorPeriod_pending hruns silent tempMax, ?_,
      governorPeriod_counts hruns silent tempMax, ?_⟩
    · exact get_en_congr (word_governorPeriod_cfg hruns silent tempMax)
    · intro hen h hh
      have hoff : (powerShown (estimated s silent) tempMax).flag FAB_GOV_CFG_en = false :=
        (flag_en_congr (word_measured (by decide) (by decide) s silent tempMax)).trans hen
      rw [governorPeriod_of_runs hruns, level_levelled_of_not_en hoff _ hh]
  case stopped =>
    intro s silent tempMax hstopped
    have hruns := governorRuns_eq_false hstopped
    rw [exec_governorPeriod, exec_governorWarmEnd, governorPeriod, hruns]
    exact ⟨rfl, rfl⟩
  case algorithm =>
    intro s silent tempMax
    rw [governorPeriod]

/-- Settles O19: the clamp puts every exempt hearth at 0 and no later move of the period raises it
(`level_levelled_of_exempt`), while p_est is the sum over all 36 hearths with the leakage, at a VFAB that the measurement does
not change. -/
theorem exemptHearthsAreNotStretched : Obligations.ExemptHearthsAreNotStretched := by
  unfold Obligations.ExemptHearthsAreNotStretched
  intro s silent tempMax hcommitted hclocked
  have hruns := governorRuns_of hcommitted hclocked
  refine ⟨_, exec_governorPeriod silent tempMax s, ?levels, ?estimate⟩
  case levels =>
    intro h hh hex
    have hmeasured : exempt (powerShown (estimated s silent) tempMax) h = true :=
      (exempt_congr (word_measured (by decide) (by decide) s silent tempMax) h).trans hex
    rw [governorPeriod_of_runs hruns, level_levelled_of_exempt _ hh hmeasured]
  case estimate =>
    rw [governorPeriod_p_est hruns, governorPeriod_pdyn hruns, estimateOf, leakPower, governorVfab_estimated]

end Sys2Proof.Machine
end

section
/-! Pace windows (R79 to R81): when a window starts, and what its end makes of the two trimmed rates. -/
namespace Sys2Proof.Machine
open Sys2Proof

theorem exec_paceWindowStart (s : State) : exec .paceWindowStart s = .next (paceStart s) := rfl

theorem exec_paceWindowEnd (s : State) (h : Fin 36) (na nb : Nat) :
    exec (.paceWindowEnd h na nb) s = .next (windowEnd s h.val na nb) := rfl

/-! ## The start -/

/-- The windows when one has started in every hearth. -/
def allWindows (t : Tbl Bool) : Tbl Bool := (List.range 36).foldl (fun t h => tput (fun _ => false) t h true) t

theorem tget_allWindows (t : Tbl Bool) {h : Nat} (hh : h < 36) : tget (fun _ => false) (allWindows t) h = true :=
  foldl_establishes (P := fun t => tget (fun _ => false) t h = true) (fun t => by simp)
    (fun t g ht => by simp [tget_tput, ht]) (List.mem_range.mpr hh) t

theorem paceStart_of_running {s : State} (hcommitted : s.fab.committed = true) (hperiod : s.get FAB_PACE_CFG_period ≠ 0) :
    paceStart s = s.setPace { s.pace with windows := allWindows s.pace.windows } := by
  rw [paceStart, if_neg (by simp [hcommitted, hperiod])]
  rfl

theorem paceStart_of_stopped {s : State} (h : s.fab.committed = false ∨ s.get FAB_PACE_CFG_period = 0) : paceStart s = s := by
  rw [paceStart, if_pos h.symm]

/-! ## The end -/

/-- No window of hearth `h` runs that could end: none was started, or a period of 0 has stopped the counters outside the entry
to SIMMER (R80). -/
abbrev NoWindow (s : State) (h : Nat) : Prop :=
  tget (fun _ => false) s.pace.windows h = false ∨ (s.get FAB_PACE_CFG_period = 0 ∧ s.pwr.phase ≠ .simmerEntry)

theorem paceEnd_of_noWindow {s : State} {h : Nat} (hno : NoWindow s h) (a b : Nat) : paceEnd s h a b = s := by
  rw [paceEnd, if_pos hno]

/-- The state in which the end of a window with the rates `a` and `b` leaves the pace structure and FAB_PACE_h, before 1107h is
raised. -/
def paceStored (s : State) (h a b : Nat) : State :=
  let p := min a b
  let f := paceFactor s p
  let s := if p = 0 ∨ 4096 ≤ 2048000 / p then s.tookFree else s
  let bad := if paceDiffer a b then tget (fun _ => 0) s.pace.bad h + 1 else 0
  let rep := tget (fun _ => false) s.pace.reported h
  let st := if paceDiffer a b then (if 3 ≤ bad ∨ rep = true then 2 else 1) else 1
  let s := s.setPace { s.pace with
    windows := tput (fun _ => false) s.pace.windows h false,
    bad := tput (fun _ => 0) s.pace.bad h bad,
    reported := tput (fun _ => false) s.pace.reported h (paceDiffer a b && (rep || decide (3 ≤ bad))) }
  s.setWord (FAB_PACE h) (packWord [(24, p % 4096), (12, f), (10, st)])

theorem paceStored_pwr (s : State) (h a b : Nat) : (paceStored s h a b).pwr = s.pwr := by
  simp only [paceStored, setWord_pwr, setPace_pwr]
  split <;> rfl

/-- A window that ends is stored, and may raise 1107h (R81). -/
theorem paceEnd_cases (s : State) (h a b : Nat) : paceEnd s h a b = s ∨ paceEnd s h a b = paceStored s h a b ∨
    ∃ d, paceEnd s h a b = raise (paceStored s h a b) 0x1107 d := by
  rw [paceEnd]
  split
  · exact .inl rfl
  · exact .inr ((ite_eq_or_eq _ _ _).symm.imp_right fun hraise => ⟨_, hraise⟩)

/-- The end of a window moves the device to no other phase. -/
theorem paceEnd_pwr (s : State) (h a b : Nat) : (paceEnd s h a b).pwr = s.pwr := by
  rcases paceEnd_cases s h a b with hend | hend | ⟨d, hend⟩
  · rw [hend]
  · rw [hend, paceStored_pwr]
  · rw [hend, raise_pwr, paceStored_pwr]

theorem windowEnd_of_running {s : State} {h : Nat} (hw : tget (fun _ => false) s.pace.windows h = true) (na nb : Nat) :
    windowEnd s h na nb =
      let a := trimmedRate s h false na
      let b := trimmedRate s h true nb
      let t := paceEnd s h a b
      if t.pwr.phase = .simmerEntry ∧ t.pwr.rampDone = true then
        let n := tget (fun _ => 0) t.pwr.agree h
        let n := if n = 0 then 1 else if paceAgrees (s.get (FAB_PACE_pace h)) (min a b) then 2 else 1
        let t := t.setPwr { t.pwr with agree := tput (fun _ => 0) t.pwr.agree h n }
        let t := if t.flag FAB_VFAB_PMB_en then
            t.setPace { t.pace with windows := tput (fun _ => false) t.pace.windows h true } else t
        simmerConfirm t
      else t := by
  rw [windowEnd, if_neg (by rw [hw]; decide)]

/-- Outside the entry to SIMMER the end of a window is that of its two rates. -/
theorem windowEnd_of_not_simmerEntry {s : State} {h : Nat} (hw : tget (fun _ => false) s.pace.windows h = true)
    (hphase : s.pwr.phase ≠ .simmerEntry) (na nb : Nat) :
    windowEnd s h na nb = paceEnd s h (trimmedRate s h false na) (trimmedRate s h true nb) := by
  rw [windowEnd_of_running hw]
  exact if_neg fun hentry => hphase (by rw [← hentry.1, paceEnd_pwr])

theorem windowEnd_of_noWindow {s : State} {h : Nat} (hno : NoWindow s h) (na nb : Nat) : windowEnd s h na nb = s := by
  cases hw : tget (fun _ => false) s.pace.windows h with
  | false => rw [windowEnd, if_pos hw]
  | true =>
    rcases hno with hno | ⟨hperiod, hphase⟩
    · rw [hw] at hno
      cases hno
    · rw [windowEnd_of_not_simmerEntry hw hphase, paceEnd_of_noWindow (.inr ⟨hperiod, hphase⟩)]

/-! ## The end of a window whose pace and factor are 12-bit numbers -/

section
variable {s : State} {h a b : Nat}

/-- The two rates agree within 12.5 %: the hearth's disagreement is over and its status is 01b (R81). -/
theorem paceEnd_of_agree (hno : ¬ NoWindow s h) (hpos : 0 < min a b) (hpace : min a b < 4096)
    (hfactor : 2048000 / min a b < 4096) (hagree : 8 * (max a b - min a b) ≤ min a b) :
    paceEnd s h a b = (s.setPace { s.pace with
      windows := tput (fun _ => false) s.pace.windows h false, bad := tput (fun _ => 0) s.pace.bad h 0,
      reported := tput (fun _ => false) s.pace.reported h false }).setWord (FAB_PACE h)
        (packWord [(24, min a b), (12, 2048000 / min a b), (10, 1)]) := by
  have hfits : ¬ (min a b = 0 ∨ 4096 ≤ 2048000 / min a b) := by omega
  have hdiffer : paceDiffer a b = false := decide_eq_false (by omega)
  rw [paceEnd, if_neg hno]
  simp only [paceFactor, if_neg hfits, hdiffer, Bool.false_eq_true, if_false, Bool.false_and, Nat.mod_eq_of_lt hpace]

/-- The third window in a row in which they do not: status is 10b, and 1107h is raised for the disagreement (R81). -/
theorem paceEnd_of_third_differ (hno : ¬ NoWindow s h) (hpos : 0 < min a b) (hpace : min a b < 4096)
    (hfactor : 2048000 / min a b < 4096) (hdiff : min a b < 8 * (max a b - min a b))
    (hbad : tget (fun _ => 0) s.pace.bad h = 2) (hrep : tget (fun _ => false) s.pace.reported h = false) :
    paceEnd s h a b = raise ((s.setPace { s.pace with
      windows := tput (fun _ => false) s.pace.windows h false, bad := tput (fun _ => 0) s.pace.bad h 3,
      reported := tput (fun _ => false) s.pace.reported h true }).setWord (FAB_PACE h)
        (packWord [(24, min a b), (12, 2048000 / min a b), (10, 2)]))
      0x1107 (packWord [(30, h), (18, a % 4096), (6, b % 4096)]) := by
  have hfits : ¬ (min a b = 0 ∨ 4096 ≤ 2048000 / min a b) := by omega
  have hdiffer : paceDiffer a b = true := decide_eq_true hdiff
  rw [paceEnd, if_neg hno]
  simp only [paceFactor, if_neg hfits, Nat.mod_eq_of_lt hpace]
  simp [hdiffer, hbad, hrep]

end

theorem not_noWindow {s : State} {h : Nat} (hw : tget (fun _ => false) s.pace.windows h = true)
    (hperiod : s.get FAB_PACE_CFG_period ≠ 0) : ¬ NoWindow s h := by
  rintro (hno | ⟨hstopped, _⟩)
  · rw [hw] at hno
    cases hno
  · exact hperiod hstopped

/-- Settles O17: outside the entry to SIMMER the end of a window is `paceEnd`, since that end moves the device to no other phase
(`paceEnd_pwr`); for a pace and a factor of 12 bits its two outcomes are `paceEnd_of_agree` and `paceEnd_of_third_differ`. -/
theorem paceWindows : Obligations.PaceWindows := by
  unfold Obligations.PaceWindows
  refine ⟨?start, ?noStart, ?agree, ?differ, ?noWindow, ?running, ?rate, ?rates⟩
  case start =>
    intro s hcommitted hperiod
    refine ⟨_, exec_paceWindowStart s, ?_⟩
    rw [paceStart_of_running hcommitted hperiod]
    simp only [setPace_pace]
    exact ⟨trivial, fun h hh => tget_allWindows s.pace.windows hh⟩
  case noStart =>
    intro s hstopped
    rw [exec_paceWindowStart, paceStart_of_stopped hstopped]
  case agree =>
    intro s h na nb hw hperiod hphase a b hpos hpace hfactor hagree
    rw [exec_paceWindowEnd, windowEnd_of_not_simmerEntry hw hphase]
    exact congrArg Host.Outcome.next (paceEnd_of_agree (not_noWindow hw hperiod) hpos hpace hfactor hagree)
  case differ =>
    intro s h na nb hw hperiod hphase a b hpos hpace hfactor hdiff hbad hrep
    rw [exec_paceWindowEnd, windowEnd_of_not_simmerEntry hw hphase]
    exact congrArg Host.Outcome.next
      (paceEnd_of_third_differ (not_noWindow hw hperiod) hpos hpace hfactor hdiff hbad hrep)
  case noWindow =>
    intro s h na nb hno
    rw [exec_paceWindowEnd, windowEnd_of_noWindow hno]
  case running =>
    intro s h na nb hw
    rw [exec_paceWindowEnd, windowEnd_of_running hw]
  case rate =>
    intro s h b n
    rw [trimmedRate]
  case rates =>
    intro s h a b
    rw [paceEnd]

end Sys2Proof.Machine
end

section
/-! VFAB over PMBus (R95 to R97): the target, the steps of the ramp, and the regulator's faults. -/
namespace Sys2Proof.Machine
open Sys2Proof

/-! ## The commands -/

theorem exec_vfabTargetWrite (s : State) (mv : BitVec 10) : exec (.vfabTargetWrite mv) s = .next (if s.mgcFull then
    vfabTarget (commandIf s false (decide (650 ≤ mv.toNat ∧ mv.toNat ≤ 900 ∧ mv.toNat % 5 = 0)) 0 mv.toNat) mv.toNat
    else s) := rfl

theorem exec_vfabRampStep (s : State) (ack : Bool) : exec (.vfabRampStep ack) s = .next (
    let t := vfabWatch s (vfabStep s ack)
    if s.flag FAB_VFAB_CTL_ramping && !t.flag FAB_VFAB_CTL_ramping && t.pwr.phase == .simmerEntry && t.flag CLK_STAT_div
    then rampEnd t else t) := rfl

theorem exec_pmbAlert (s : State) :
    exec .pmbAlert s = .next (if s.flag FAB_VFAB_PMB_en then vfabWatch s (vfabFault s) else s) := rfl

theorem exec_vfabReadVout (s : State) (mv : Option (BitVec 10)) (st : BitVec 16) : exec (.vfabReadVout mv st) s =
    .next (if s.mgcServing then simmerConfirm (vfabWatch s (vfabRead s mv st)) else s) := rfl

theorem exec_vfabMismatchTimeout (s : State) : exec .vfabMismatchTimeout s = .next (vfabWatch s (vfabMismatch s)) := rfl

/-! ## Targets and steps -/

/-- A voltage that FAB_VFAB_CTL takes as its target: 650 to 900 mV in steps of 5 (R95). -/
abbrev IsTarget (mv : Nat) : Prop := 650 ≤ mv ∧ mv ≤ 900 ∧ mv % 5 = 0

/-- With no fault held, VFAB starts toward its goal while the commanded value differs, or with PMBus control off actual reads
the target. -/
theorem vfabStart_of_not_stopped {s : State} (h : s.pace.stopped = false) : vfabStart s =
    if s.flag FAB_VFAB_PMB_en then setRamping s (s.pace.commanded != vfabGoal s)
    else s.put FAB_VFAB_CTL_actual (s.get FAB_VFAB_CTL_target) := by
  rw [vfabStart, h, Bool.not_false, Bool.and_true]

theorem vfabTarget_of_isTarget {mv : Nat} (h : IsTarget mv) (s : State) : vfabTarget s mv =
    let t := (s.put FAB_VFAB_CTL_target mv).setPace { s.pace with stopped := false }
    if inSimmer t && t.flag FAB_VFAB_PMB_en then t
    else if t.flag FAB_VFAB_PMB_en then setRamping t (t.pace.commanded != vfabGoal t)
    else t.put FAB_VFAB_CTL_actual (t.get FAB_VFAB_CTL_target) := by
  rw [vfabTarget, if_pos h]
  exact congrArg (ite _ _) (vfabStart_of_not_stopped rfl)

theorem vfabTarget_of_not_isTarget {mv : Nat} (h : ¬ IsTarget mv) (s : State) : vfabTarget s mv = s := by
  rw [vfabTarget, if_neg h]

/-- No value is commanded where the write has no effect (R395). -/
theorem commandIf_false (s : State) (fabric : Bool) (pair v : Nat) : commandIf s fabric false pair v = s := rfl

theorem setRamping_true (s : State) : setRamping s true = s.put FAB_VFAB_CTL_ramping 1 := rfl

theorem setRamping_false (s : State) : setRamping s false = (s.put FAB_VFAB_CTL_ramping 0).setPace
    { s.pace with addr := BitVec.ofNat 7 ((s.put FAB_VFAB_CTL_ramping 0).get FAB_VFAB_PMB_addr) } := rfl

/-- The regulator's address fits the 7 bits of PMBus, and ramping lies in another register. -/
theorem toNat_addr_of_ramping (s : State) (v : Nat) :
    (BitVec.ofNat 7 ((s.put FAB_VFAB_CTL_ramping v).get FAB_VFAB_PMB_addr)).toNat = s.get FAB_VFAB_PMB_addr := by
  rw [get_put_addr s _ _ v (by decide), BitVec.toNat_ofNat]
  exact Nat.mod_eq_of_lt (Nat.mod_lt _ (by decide))

theorem vfabGoal_eq (s : State) : vfabGoal s = if s.pwr.phase = .simmerEntry ∨ s.pwr.phase = .simmer then 650
    else s.get FAB_VFAB_CTL_target := by
  unfold vfabGoal
  cases s.pwr.phase <;> simp

/-- Settles O20: a target is stored and starts the ramp with no fault held (`vfabTarget_of_isTarget`); the step, the reads and
the mismatch are their operations written out, and a regulator fault acts only while none is held. -/
theorem vfabAndItsFaults : Obligations.VfabAndItsFaults := by
  unfold Obligations.VfabAndItsFaults
  refine ⟨?target, ?noTarget, ?step, setRamping_true, ?rampEnds, vfabGoal_eq, exec_pmbAlert, ?read, ?mismatch, ?held,
    ?fault⟩
  case target =>
    intro s mv hfull hlow hhigh hfive
    have htarget : IsTarget mv.toNat := ⟨hlow, hhigh, hfive⟩
    rw [exec_vfabTargetWrite, if_pos hfull, vfabTarget_of_isTarget htarget, decide_eq_true htarget]
    rfl
  case noTarget =>
    intro s mv hnot
    rw [exec_vfabTargetWrite]
    split
    · next hfull =>
      have htarget : ¬ IsTarget mv.toNat := by
        rintro ⟨hlow, hhigh, hfive⟩
        rcases hnot with hnot | hnot | hnot | hnot
        · simp [hfull] at hnot
        all_goals omega
      rw [vfabTarget_of_not_isTarget htarget, decide_eq_false htarget, commandIf_false]
    · rfl
  case step =>
    intro s ack
    rw [exec_vfabRampStep, vfabStep]
  case rampEnds =>
    intro s
    exact ⟨_, setRamping_false s, toNat_addr_of_ramping s 0⟩
  case read =>
    intro s mv st
    cases mv with
    | none => rfl
    | some v => rfl
  case mismatch =>
    intro s
    rw [exec_vfabMismatchTimeout, vfabMismatch]
  case held =>
    intro s hstopped
    rw [vfabFault, if_pos hstopped]
  case fault =>
    intro s hstopped
    rw [vfabFault, if_neg (by rw [hstopped]; decide)]

end Sys2Proof.Machine
end

section
/-! The rows of the store blocks (R104, Table 5.2): the nonets that a write of an item stores, and what a port's operations
leave of the rows. -/
namespace Sys2Proof.Machine
open Sys2Proof

/-! ## The nonets of a row -/

theorem bitsOf_nonet_lt {n : Nat} (w : BitVec n) (lo : Nat) : bitsOf w lo 9 < 2 ^ 9 := Nat.mod_lt _ (by decide)

theorem bitsOf_withBits_nonet (row : W36) {j k v : Nat} (hj : j < 4) (hv : v < 2 ^ 9) :
    bitsOf (withBits row (9 * j) 9 v) (9 * k) 9 = if k = j then v else bitsOf row (9 * k) 9 := by
  split
  next h => rw [h, bitsOf_withBits_self _ _ _ _ (by omega), Nat.mod_eq_of_lt hv]
  next h => exact bitsOf_withBits_other _ _ _ _ _ _ (by omega)

/-- Those of the low `n` nonets of `data` that `sel` picks, written to a row from its nonet `first` on. -/
def putNonets (row data : W36) (sel : Nat → Bool) (first n : Nat) : W36 :=
  (List.range n).foldl (fun r k => if sel k then withBits r (9 * (first + k)) 9 (bitsOf data (9 * k) 9) else r) row

theorem mergeItem_eq_putNonets (row data : W36) (width addr mask : Nat) : mergeItem row data width addr mask =
    putNonets row data (writesNonet width mask) (itemOf width addr).2.1 (itemOf width addr).2.2 := rfl

theorem putNonets_succ (row data : W36) (sel : Nat → Bool) (first n : Nat) : putNonets row data sel first (n + 1) =
    if sel n then withBits (putNonets row data sel first n) (9 * (first + n)) 9 (bitsOf data (9 * n) 9)
    else putNonets row data sel first n := by
  simp only [putNonets, List.range_succ, List.foldl_append, List.foldl_cons, List.foldl_nil]

theorem bitsOf_putNonets (row data : W36) (sel : Nat → Bool) (first k : Nat) : ∀ {n : Nat}, first + n ≤ 4 →
    bitsOf (putNonets row data sel first n) (9 * k) 9 =
      if first ≤ k ∧ k < first + n ∧ sel (k - first) = true then bitsOf data (9 * (k - first)) 9
      else bitsOf row (9 * k) 9
  | 0, _ => by
    rw [if_neg (by omega)]
    rfl
  | n + 1, hfits => by
    have ih := bitsOf_putNonets row data sel first k (n := n) (by omega)
    by_cases hk : k = first + n
    · have hn : k - first = n := by omega
      rw [hn, if_neg (by omega)] at ih
      rw [putNonets_succ, hn]
      cases hsel : sel n with
      | true => rw [if_pos rfl, bitsOf_withBits_nonet _ (by omega) (bitsOf_nonet_lt data _), if_pos hk,
          if_pos ⟨by omega, by omega, rfl⟩]
      | false => simp [ih]
    · have hrange : k < first + (n + 1) ↔ k < first + n := by omega
      simp only [putNonets_succ, hrange, ← ih]
      split
      · rw [bitsOf_withBits_nonet _ (by omega) (bitsOf_nonet_lt data _), if_neg hk]
      · rfl

/-- An item lies in one row (R104). -/
theorem itemOf_fits (width addr : Nat) : (itemOf width addr).2.1 + (itemOf width addr).2.2 ≤ 4 := by
  unfold itemOf
  split <;> dsimp only <;> omega

/-- A write stores the nonets of its item that it writes, and leaves the others of the row. -/
theorem bitsOf_mergeItem (row data : W36) (width addr mask k : Nat) {row₀ first n : Nat}
    (hitem : itemOf width addr = (row₀, first, n)) : bitsOf (mergeItem row data width addr mask) (9 * k) 9 =
      if first ≤ k ∧ k < first + n ∧ writesNonet width mask (k - first) = true then bitsOf data (9 * (k - first)) 9
      else bitsOf row (9 * k) 9 := by
  have hfits := itemOf_fits width addr
  rw [mergeItem_eq_putNonets]
  rw [hitem] at hfits ⊢
  exact bitsOf_putNonets _ _ _ _ _ hfits

theorem writesNonet_x9 (mask k : Nat) : writesNonet 0 mask k = true := rfl
theorem writesNonet_x18 (mask k : Nat) : writesNonet 1 mask k = bitN mask k := rfl
theorem writesNonet_x36 (mask k : Nat) : writesNonet 2 mask k = bitN mask k := rfl

/-! ## Rows -/

/-- The place of a row in the content of the store blocks says the hearth, the block and the row. -/
theorem rowKey_inj {h pb row h' pb' row' : Nat} (hrow : row < 1024) (hrow' : row' < 1024) (hpb : pb < 102)
    (hpb' : pb' < 102) : (h' * 102 + pb') * 1024 + row' = (h * 102 + pb) * 1024 + row ↔ h' = h ∧ pb' = pb ∧ row' = row := by
  omega

@[simp] theorem countEvent_store (s : State) (h k n : Nat) : (countEvent s h k n).store = s.store := rfl

@[simp] theorem countRoute_store (s : State) (d : Dst) : (countRoute s d).store = s.store :=
  foldl_leaves State.store (fun s k _ => countEvent_store s (dstHearth d) k 1) s

@[simp] theorem moveAck_store (s : State) (d : Dst) (b : Bool) : (moveAck s d b).store = s.store := by
  have counted : (if ackOf s d && !b then countRoute s d else s).store = s.store := by
    split
    · exact countRoute_store s d
    · rfl
  simp only [moveAck]
  split <;> exact counted

@[simp] theorem acksMoved_store (s : State) (l : List Dst) (b : Bool) :
    (l.foldl (fun s d => moveAck s d b) s).store = s.store :=
  foldl_leaves State.store (fun s d _ => moveAck_store s d b) s

theorem blockRow_eq_of_content {s t : State} (h : t.store.content = s.store.content) (g pb row : Nat) :
    blockRow t g pb row = blockRow s g pb row := congrArg (fun c => tget (fun _ => 0) c ((g * 102 + pb) * 1024 + row)) h

theorem setPort_content (s : State) (h b : Nat) (port : Bool) (p : StorePort) :
    (setPort s h b port p).store.content = s.store.content := rfl

/-! ## One access -/

/-- The row with the item of a write merged into it, stored in the block that the slot is steered to. -/
def itemStored (s : State) (h b : Nat) (port : Bool) (r : StoreCall) : State :=
  let w := portWidth s h b port
  let pb := (blockOf s h b).2
  let row := (itemOf w r.addr).1
  setRow s h pb row (mergeItem (blockRow s h pb row) r.data w r.addr r.mask)

/-- The item that `s` holds, kept for the response of the port in `t`. -/
def itemRead (s t : State) (h b : Nat) (port : Bool) (r : StoreCall) : State :=
  let w := portWidth s h b port
  setPort t h b port { portOf s h b port with
    read := some (itemValue (blockRow s h (blockOf s h b).2 (itemOf w r.addr).1) w r.addr) }

/-- The nonets of an access counted, and every position of its request acknowledged, in `t`. -/
def requestTaken (s t : State) (h b : Nat) (port : Bool) (r : StoreCall) : State :=
  (requestDsts s h b port).foldl (fun t d => moveAck t d true)
    (countEvent t h 7 (nonetsOf (portWidth s h b port) r))

theorem requestTaken_store (s t : State) (h b : Nat) (port : Bool) (r : StoreCall) :
    (requestTaken s t h b port r).store = t.store := acksMoved_store _ _ _

section
variable {s : State} {h b : Nat} {port : Bool} {r : StoreCall}

theorem storeAccess_of_read (hop : r.op = 0) :
    storeAccess s h b port r = requestTaken s (itemRead s s h b port r) h b port r := by
  simp only [storeAccess, hop]
  rfl

theorem storeAccess_of_write (hop : r.op = 1) :
    storeAccess s h b port r = requestTaken s (itemStored s h b port r) h b port r := by
  simp only [storeAccess, hop]
  rfl

theorem storeAccess_of_exchange (hop : r.op = 2) :
    storeAccess s h b port r = requestTaken s (itemRead s (itemStored s h b port r) h b port r) h b port r := by
  simp only [storeAccess, hop]
  rfl

/-- A read leaves every row. -/
theorem blockRow_storeAccess_of_read (hop : r.op = 0) (g pb row : Nat) :
    blockRow (storeAccess s h b port r) g pb row = blockRow s g pb row := by
  refine blockRow_eq_of_content ?_ g pb row
  rw [storeAccess_of_read hop, requestTaken_store]
  exact setPort_content s h b port _

end

/-- Settles O22: an item lies in one row and its nonets are written one by one (`bitsOf_putNonets`); the three widths differ in
the first nonet, the count and the mask. Two rows share no place of the content (`rowKey_inj`), and a read writes none. -/
theorem storeReadsAndWrites : Obligations.StoreReadsAndWrites := by
  unfold Obligations.StoreReadsAndWrites
  refine ⟨?x36, ?x9, ?x18, ?rows, ?read⟩
  case x36 =>
    intro row data addr mask k hk
    rw [bitsOf_mergeItem row data 2 addr mask k rfl, writesNonet_x36, Nat.sub_zero]
    exact if_congr ⟨fun h => h.2.2, fun h => ⟨by omega, by omega, h⟩⟩ rfl rfl
  case x9 =>
    intro row data addr mask k _
    rw [bitsOf_mergeItem row data 0 addr mask k rfl, writesNonet_x9]
    by_cases hitem : k = addr % 4
    · rw [if_pos hitem, if_pos ⟨by omega, by omega, rfl⟩, hitem, Nat.sub_self]
    · rw [if_neg hitem, if_neg (by omega)]
  case x18 =>
    intro row data addr mask k _
    rw [bitsOf_mergeItem row data 1 addr mask k rfl, writesNonet_x18]
    by_cases hitem : k / 2 = addr % 2
    · have hnonet : k - 2 * (addr % 2) = k % 2 := by omega
      rw [hnonet]
      exact if_congr ⟨fun h => ⟨hitem, h.2.2⟩, fun h => ⟨by omega, by omega, h.2⟩⟩ rfl rfl
    · rw [if_neg (by omega), if_neg fun h => hitem h.1]
  case rows =>
    intro s h pb row h' pb' row' v hrow hrow' hpb hpb'
    rw [blockRow_setRow]
    exact if_congr (rowKey_inj hrow hrow' hpb hpb') rfl rfl
  case read =>
    intro s r h b h' pb row port hop
    exact blockRow_storeAccess_of_read hop h' pb row

end Sys2Proof.Machine
end

section
/-! The ports of the store blocks (R106 to R110, R118) and the handover of a block (R114, Table 5.5). -/
namespace Sys2Proof.Machine
open Sys2Proof

/-! ## The commands -/

theorem exec_storeRead (s : State) (h : Fin 36) (slot : Fin 96) (port : Bool) :
    exec (.storeRead h slot port) s = .next (settled (storeRequest s h.val slot.val port 0)) := rfl

theorem exec_storeWrite (s : State) (h : Fin 36) (slot : Fin 96) (port : Bool) :
    exec (.storeWrite h slot port) s = .next (settled (storeRequest s h.val slot.val port 1)) := rfl

theorem exec_storeExchange (s : State) (h : Fin 36) (slot : Fin 96) (port : Bool) :
    exec (.storeExchange h slot port) s = .next (settled (storeRequest s h.val slot.val port 2)) := rfl

theorem exec_storeResponse (s : State) (h : Fin 36) (slot : Fin 96) (port : Bool) :
    exec (.storeResponse h slot port) s = .next (storeRespond s h.val slot.val port) := rfl

theorem exec_storeRequestFault (s : State) (h : Fin 36) (slot : Fin 96) (port : Bool) :
    exec (.storeRequestFault h slot port) s = .next (storeRequestFault s h slot port) := rfl

theorem exec_blockHandoverQuiesced (s : State) (h : Fin 36) (slot : Fin 96) :
    exec (.blockHandoverQuiesced h slot) s = .next (blockQuiesced s h slot) := rfl

theorem exec_blockHandoverSwitch (s : State) (h : Fin 36) (slot : Fin 96) : exec (.blockHandoverSwitch h slot) s =
    .next (if s.scb.handover = .blockCopy h slot then afterHandover (blockSwitch s h.val slot.val) else s) := rfl

theorem exec_blockHandoverTimeout (s : State) (h : Fin 36) (slot : Fin 96) : exec (.blockHandoverTimeout h slot) s =
    .next (if s.scb.handover = .blockWait h slot then afterHandover (blockAbandon s h.val slot.val) else s) := rfl

/-! ## A request at a port -/

section
variable {s : State} {h b : Nat} {port : Bool} {r : StoreCall}

/-- A port can serve a request: the hearth is awake, the port is free (R107) and has not stalled (R106). -/
theorem portFree_iff : portFree s h b port = true ↔
    hearthSt s h = .awake ∧ portBusy s h b port = false ∧ (portOf s h b port).faulted = false := by
  simp only [portFree, Bool.and_eq_true, beq_iff_eq, Bool.not_eq_true', and_assoc]

/-- A port waits: its slot is in HANDOVER (R114), or its side column is (R364). -/
theorem portHeld_iff : portHeld s h b port = true ↔ (blockOf s h b).1 = 2 ∨ bandHeld s h b port = true := by
  simp only [portHeld, Bool.or_eq_true, beq_iff_eq]

theorem portFree_eq_false_iff : portFree s h b port = false ↔
    hearthSt s h ≠ .awake ∨ portBusy s h b port = true ∨ (portOf s h b port).faulted = true := by
  rw [← Bool.not_eq_true, portFree_iff, not_and_or, not_and_or, Bool.not_eq_false, Bool.not_eq_false]

theorem storeRequest_of_none (hcall : requestOf s h b port = none) (op : Nat) : storeRequest s h b port op = s := by
  rw [storeRequest, hcall]

theorem storeRequest_of_some (hcall : requestOf s h b port = some r) (op : Nat) : storeRequest s h b port op =
    if r.op ≠ op ∨ portFree s h b port = false then s
    else if portHeld s h b port then setPort s h b port { portOf s h b port with held := true }
    else storeOrdered s h b port r := by
  rw [storeRequest, hcall]

theorem storeOrdered_of_noRival (hrival : rivalOf s h b port r = none) :
    storeOrdered s h b port r = storeServe s h b port := by
  rw [storeOrdered, hrival]

theorem storeServe_of_free (hcall : requestOf s h b port = some r) (hop : r.op < 3) (hfree : portFree s h b port = true)
    (hheld : portHeld s h b port = false) : storeServe s h b port = storeAccess s h b port r := by
  rw [storeServe, hcall]
  exact if_pos ⟨hop, hfree, hheld⟩

/-- A request that its command names, at a port that is free, not held and without a rival, is served whole. -/
theorem storeRequest_of_served (hcall : requestOf s h b port = some r) (hop : r.op < 3)
    (hfree : portFree s h b port = true) (hheld : portHeld s h b port = false) (hrival : rivalOf s h b port r = none) :
    storeRequest s h b port r.op = storeAccess s h b port r := by
  rw [storeRequest_of_some hcall, if_neg (by simp [hfree]), hheld, if_neg Bool.false_ne_true,
    storeOrdered_of_noRival hrival, storeServe_of_free hcall hop hfree hheld]

/-! ## Table 5.3 -/

theorem firstGoes_of_priA (hpri : slotConfig s h b 6 2 = 1) : firstGoes s h b port = !port := by
  simp only [firstGoes, hpri]

theorem firstGoes_of_priB (hpri : slotConfig s h b 6 2 = 2) : firstGoes s h b port = port := by
  simp only [firstGoes, hpri]

/-! ## Responses -/

/-- A response leaves from phase 0 (R107): its digits rise, and the consumers that they reach check them. -/
theorem storeRespond_of_phase0 {v : W36} (hread : (portOf s h b port).read = some v)
    (hidle : (responseSrcs s h b port).all (phase0 s) = true) : storeRespond s h b port =
    raiseRails (setPort s h b port { portOf s h b port with read := none })
      ((responseSrcs s h b port).zip (valueRails (responseSrcs s h b port).length v.toNat)) := by
  simp only [storeRespond, hread, hidle, if_true]

theorem storeRespond_of_waiting (hwait : (portOf s h b port).read = none ∨
    (responseSrcs s h b port).all (phase0 s) = false) : storeRespond s h b port = s := by
  unfold storeRespond
  dsimp only
  split
  · rfl
  next v hread =>
    rcases hwait with hnone | hbusy
    · rw [hread] at hnone
      cases hnone
    · rw [hbusy, if_neg Bool.false_ne_true]

end

/-- Settles O21: a request that is served is one access (`storeRequest_of_served`), whose three forms are `storeAccess_of_read`,
`storeAccess_of_write` and `storeAccess_of_exchange`; `portFree_iff` and `portHeld_iff` say when it waits. The faults and the
handover are the model's operations written out. -/
theorem storeAccessesAndHandover : Obligations.StoreAccessesAndHandover := by
  unfold Obligations.StoreAccessesAndHandover
  refine ⟨?served, ?commands, ?noRequest, ?request, ?order, ?requestFault, ?response, ?noResponse, ?quiesced,
    exec_blockHandoverSwitch, exec_blockHandoverTimeout, ?abandon, ?switch, ?fault⟩
  case served =>
    intro s h b port r hcall hawake hbusy hfaulted hslot hband hrival
    have hfree : portFree s h.val b.val port = true := portFree_iff.mpr ⟨hawake, hbusy, hfaulted⟩
    have hheld : portHeld s h.val b.val port = false :=
      Bool.eq_false_iff.mpr fun hheld => (portHeld_iff.mp hheld).elim hslot (by simp [hband])
    have hserved : ∀ n, n < 3 → r.op = n → storeRequest s h.val b.val port n = storeAccess s h.val b.val port r := by
      rintro n hn rfl
      exact storeRequest_of_served hcall hn hfree hheld hrival
    refine ⟨fun hop => ?read, fun hop => ?write, fun hop => ?exchange⟩
    case read =>
      rw [exec_storeRead, hserved 0 (by decide) hop, storeAccess_of_read hop]
      rfl
    case write =>
      rw [exec_storeWrite, hserved 1 (by decide) hop, storeAccess_of_write hop]
      rfl
    case exchange =>
      rw [exec_storeExchange, hserved 2 (by decide) hop, storeAccess_of_exchange hop]
      rfl
  case commands =>
    intro s h b port
    exact ⟨exec_storeRead s h b port, exec_storeWrite s h b port, exec_storeExchange s h b port⟩
  case noRequest =>
    intro s h b port op hcall
    exact storeRequest_of_none hcall op
  case request =>
    intro s h b port op r hcall
    rw [storeRequest_of_some hcall]
    exact if_congr (or_congr_right portFree_eq_false_iff) rfl (if_congr portHeld_iff rfl rfl)
  case order =>
    intro s h b
    exact ⟨fun hpri => ⟨firstGoes_of_priA hpri, firstGoes_of_priA hpri⟩,
      fun hpri => ⟨firstGoes_of_priB hpri, firstGoes_of_priB hpri⟩⟩
  case requestFault =>
    intro s h slot port
    rw [exec_storeRequestFault, storeRequestFault, portFree]
  case response =>
    intro s h slot port v hread hidle
    rw [exec_storeResponse, storeRespond_of_phase0 hread hidle, raiseRails]
  case noResponse =>
    intro s h slot port hwait
    rw [exec_storeResponse, storeRespond_of_waiting hwait]
  case quiesced =>
    intro s h slot
    rw [exec_blockHandoverQuiesced, blockQuiesced]
  case abandon =>
    intro s h b
    rw [blockAbandon]
  case switch =>
    intro s h b
    rw [blockSwitch]
  case fault =>
    intro s h b port kind
    rw [storeFault]

end Sys2Proof.Machine
end

section
/-! Event hinges (R125 to R128): an event offered, the four edges of its crossing, and the clear. -/
namespace Sys2Proof.Machine
open Sys2Proof

theorem exec_eventOffered (s : State) (i : Fin 1152) :
    exec (.eventOffered i) s = .next (tokensTaken (offerEvent s i.val)) := rfl

theorem exec_eventReqSeen (s : State) (i : Fin 1152) : exec (.eventReqSeen i) s = .next (eventReqSeen s i.val) := rfl

theorem exec_eventTaken (s : State) (i : Fin 1152) : exec (.eventTaken i) s = .next (eventTaken s i.val) := rfl

theorem exec_eventAckSeen (s : State) (i : Fin 1152) : exec (.eventAckSeen i) s = .next (eventAckSeen s i.val) := rfl

theorem exec_eventReqLowSeen (s : State) (i : Fin 1152) : exec (.eventReqLowSeen i) s = .next (eventReqLow s i.val) := rfl

theorem exec_eventCrossingComplete (s : State) (i : Fin 1152) :
    exec (.eventCrossingComplete i) s = .next (eventComplete s i.val) := rfl

theorem exec_evStatClear (s : State) (i : Fin 1152) : exec (.evStatClear i) s = .next
    (((s.put (HNG_EV_STAT_mcount i.val) 0).put (HNG_EV_STAT_disc i.val) 0).put (HNG_EV_STAT_refused i.val) 0) := rfl

/-- Settles O23: each clause is one edge of R125's handshake, the operation of its command written out. The offer alone goes on
to `tokensTaken`, since it alone acknowledges a fabric token. -/
theorem eventHinges : Obligations.EventHinges := by
  unfold Obligations.EventHinges
  refine ⟨?offered, ?reqSeen, ?taken, ?ackSeen, ?reqLowSeen, ?complete, exec_evStatClear⟩
  case offered =>
    intro s i
    rw [exec_eventOffered]
    rfl
  case reqSeen =>
    intro s i
    rw [exec_eventReqSeen, eventReqSeen]
  case taken =>
    intro s i
    rw [exec_eventTaken, eventTaken]
  case ackSeen =>
    intro s i
    rw [exec_eventAckSeen, eventAckSeen]
  case reqLowSeen =>
    intro s i
    rw [exec_eventReqLowSeen, eventReqLow]
  case complete =>
    intro s i
    rw [exec_eventCrossingComplete, eventComplete]

end Sys2Proof.Machine
end

section
/-! Word hinges (R130 to R134): values into the fabric, samples of them, and tokens out of the fabric. -/
namespace Sys2Proof.Machine
open Sys2Proof

/-! ## The commands -/

theorem exec_wordValueWrite (s : State) (j : Fin 288) (v : W36) :
    exec (.wordValueWrite j v) s = .next (wordWrite s j.val v) := rfl

theorem exec_wordValueVisible (s : State) (j : Fin 288) : exec (.wordValueVisible j) s = .next (wordVisible s j.val) := rfl

theorem exec_wordSampleRequest (s : State) (j : Fin 288) :
    exec (.wordSampleRequest j) s = .next (tokensTaken (wordSample s j.val)) := rfl

theorem exec_wordOutToken (s : State) (j : Fin 288) : exec (.wordOutToken j) s = .next (wordToken s j.val) := rfl

theorem exec_wordOutWrite (s : State) (j : Fin 288) :
    exec (.wordOutWrite j) s = .next (tokensTaken (wordOutWrite s j.val)) := rfl

theorem exec_wordValidRestore (s : State) (j : Fin 288) : exec (.wordValidRestore j) s = .next (wordValid s j.val) := rfl

theorem exec_wdStatClear (s : State) (j : Fin 288) : exec (.wdStatClear j) s =
    .next ((s.put (HNG_WD_STAT_jcount j.val) 0).put (HNG_WD_STAT_disc j.val) 0) := rfl

/-! ## Tokens at hinge ports -/

theorem takeAt_of_valid {s : State} {h p : Nat} {ks : List PosKind} (hvalid : (tokenAt s h p ks).isSome = true) :
    takeAt s h p ks = (hingeDsts h p ks.length).foldl (fun s d => moveAck s d true) s := if_pos hvalid

theorem presentAt_of_idle {s : State} {h p n : Nat} (hidle : portsIdle s h p n = true) (v : Nat) :
    presentAt s h p n v = raiseRails s ((hingeSrcs h p n).zip (valueRails n v)) := if_pos hidle

/-! ## A value token out of the fabric -/

section
variable {s : State} {j : Nat}

/-- A used word hinge out of the fabric, with no token waiting, keeps the token at its ports until a permit (R134). -/
theorem wordToken_of_token (hused : wdUsed s j = true) (hout : wdOut s j = true) (hfree : (wdOf s j).waiting = none)
    {l : List Digit} (htoken : valueToken s j = some l) : wordToken s j =
      setWd s j { wdOf s j with waiting := some (lowBits (wdWidth s j) (BitVec.ofNat 36 (digitsNat l))) } := by
  simp only [wordToken, hused, hout, hfree, htoken, Option.isNone_none, Bool.and_self, if_true]

theorem wordToken_of_noToken (htoken : valueToken s j = none) : wordToken s j = s := by
  simp only [wordToken, htoken, ite_self]

theorem wordToken_of_refused (hrefused : (wdUsed s j && wdOut s j && (wdOf s j).waiting.isNone) = false) :
    wordToken s j = s := by
  rw [wordToken, hrefused, if_neg Bool.false_ne_true]

end

/-- Settles O24: a token out of the fabric is kept by `wordToken_of_token` and left where it is otherwise; the other commands
are the model's operations written out, with `takeAt_of_valid` and `presentAt_of_idle` for what they do at the ports. -/
theorem wordHinges : Obligations.WordHinges := by
  unfold Obligations.WordHinges
  refine ⟨?write, ?visible, ?sample, ?outToken, ?noOutToken, ?outWrite, ?valid, exec_wdStatClear, ?take, ?present⟩
  case write =>
    intro s j v
    rw [exec_wordValueWrite, wordWrite]
  case visible =>
    intro s j
    rw [exec_wordValueVisible, wordVisible]
  case sample =>
    intro s j
    rw [exec_wordSampleRequest, wordSample]
  case outToken =>
    intro s j l hused hout hfree htoken
    rw [exec_wordOutToken, wordToken_of_token hused hout hfree htoken]
  case noOutToken =>
    intro s j hno
    rw [exec_wordOutToken]
    rcases hno with hunused | hinto | hwaits | htoken
    · rw [wordToken_of_refused (by simp [hunused])]
    · rw [wordToken_of_refused (by simp [hinto])]
    · rw [wordToken_of_refused (by simp [Option.isNone_eq_false_iff.mpr hwaits])]
    · rw [wordToken_of_noToken htoken]
  case outWrite =>
    intro s j
    rw [exec_wordOutWrite]
    rfl
  case valid =>
    intro s j
    rw [exec_wordValidRestore, wordValid]
  case take =>
    intro s h p ks hvalid
    exact takeAt_of_valid hvalid
  case present =>
    intro s h p n v hidle
    rw [presentAt_of_idle hidle, raiseRails]

end Sys2Proof.Machine
end

section
/-! Sealing and re-seat (R138 to R142): the steps of Table 6.15, and a reset of a clocked side by firmware (Table 6.25). -/
namespace Sys2Proof.Machine
open Sys2Proof

theorem exec_reseatSxSeen (s : State) (g : HingeId) : exec (.reseatSxSeen g) s = .next (reseatSx s g) := rfl

theorem exec_reseatXRelease (s : State) (g : HingeId) : exec (.reseatXRelease g) s = .next (reseatRelease s g) := rfl

theorem exec_reseatYOpen (s : State) (g : HingeId) : exec (.reseatYOpen g) s = .next (reseatYOpen s g) := rfl

theorem exec_reseatXOpen (s : State) (g : HingeId) : exec (.reseatXOpen g) s = .next (reseatXOpen s g) := rfl

theorem exec_hingeSideReset (s : State) (w : W36) : exec (.hingeSideReset w) s = .next (sideReset s w) := rfl

theorem exec_hingeSideResetEnd (s : State) (g : HingeId) : exec (.hingeSideResetEnd g) s =
    .next (updateSeal { s with hng := { s.hng with sideRst := s.hng.sideRst.filter (· != g) } } g) := rfl

/-- Settles O26: the clauses are steps 2 to 5 of Table 6.15, each the operation of its command written out, then the reset
that begins step 1 at a hinge that firmware names and its end. -/
theorem sealsAndReseats : Obligations.SealsAndReseats := by
  unfold Obligations.SealsAndReseats
  refine ⟨?sxSeen, ?release, ?yOpen, ?xOpen, ?sideReset, exec_hingeSideResetEnd⟩
  case sxSeen =>
    intro s g
    rw [exec_reseatSxSeen, reseatSx]
  case release =>
    intro s g
    rw [exec_reseatXRelease, reseatRelease]
  case yOpen =>
    intro s g
    rw [exec_reseatYOpen, reseatYOpen]
  case xOpen =>
    intro s g
    rw [exec_reseatXOpen, reseatXOpen]
  case sideReset =>
    intro s w
    rw [exec_hingeSideReset]
    rfl

end Sys2Proof.Machine
end

section
/-! User clocks (R124) and the stall watch (R143, R146). -/
namespace Sys2Proof.Machine
open Sys2Proof

/-! ## User clocks -/

theorem exec_userClockEnable (s : State) (k : Fin 8) (w : W36) :
    exec (.userClockEnable k w) s = .next (userClockWrite s k.val w) := rfl

theorem exec_userClockLost (s : State) (k : Fin 8) : exec (.userClockLost k) s = .next (userClockLost s k.val) := rfl

theorem exec_userClockPresent (s : State) (k : Fin 8) : exec (.userClockPresent k) s = .next (userClockPresent s k.val) := rfl

section
variable {s : State} {k : Nat}

/-- An enabled user clock whose absence has not been declared is declared lost (R124). -/
theorem userClockLost_of_running (hen : s.flag (HNG_UCLK_en k) = true)
    (hhere : tget (fun _ => false) s.hng.gone k = false) : userClockLost s k =
      logState (raise (userClockChanged
        (setGone ((s.put (HNG_UCLK_lost k) 1).put (HNG_UCLK_present k) 0) k true)) 0x2104 (packWord [(33, k)])) 2 0x6210 1 0 := by
  rw [userClockLost, if_pos (by simp only [hen, hhere, Bool.not_false, Bool.and_self])]

theorem userClockLost_of_disabled (hen : s.flag (HNG_UCLK_en k) = false) : userClockLost s k = s := by
  rw [userClockLost, if_neg (by simp only [hen, Bool.false_and, Bool.false_eq_true, not_false_iff])]

theorem userClockLost_of_gone (hgone : tget (fun _ => false) s.hng.gone k = true) : userClockLost s k = s := by
  rw [userClockLost, if_neg (by simp only [hgone, Bool.not_true, Bool.and_false, Bool.false_eq_true, not_false_iff])]

end

/-! ## The stall watch -/

theorem exec_hingeStall (s : State) (g : HingeId) : exec (.hingeStall g) s = .next (hingeStall s g) := rfl

theorem exec_stallLastClear (s : State) : exec .stallLastClear s = .next (s.setWord HNG_STALL_LAST 0) := rfl

section
variable {s : State} {g : HingeId}

/-- The stall watch of a hinge is off, or has reported: no limit, not assigned, or a stall that still holds (R143). -/
def StallUnwatched (s : State) (g : HingeId) : Prop :=
  stallLimit s g = 0 ∨ hingeUsed s g = false ∨ s.hng.stalls.contains (hingeKind g) = true

/-- A stall as it is recorded: the flag and the side in the hinge, HNG_STALL_LAST, and the hinge among those that stall. -/
def stallRecorded (s : State) (g : HingeId) (side : Bool) : State :=
  let t := (setStall s g side).setWord HNG_STALL_LAST
    (packWord [(34, (hingeKind g).1), (23, (hingeKind g).2), (22, stallPlace s g side), (21, 1), (20, 1)])
  { t with hng := { t.hng with stalls := hingeKind g :: t.hng.stalls } }

/-- The detail word of 2101h (Table 6.31). -/
def stallDetail (s : State) (g : HingeId) (side : Bool) : W36 :=
  packWord [(34, (hingeKind g).1), (23, (hingeKind g).2), (22, stallPlace s g side), (12, stallLimit s g)]

theorem hingeStall_of_unwatched (h : StallUnwatched s g) : hingeStall s g = s := if_pos h

theorem hingeStall_of_not_stalled (hside : stalledSide s g = none) : hingeStall s g = s := by
  simp only [hingeStall, hside, ite_self]

/-- A watched hinge that stalls is recorded, raised with its limit and logged (R143, R146). -/
theorem hingeStall_of_stalled (hwatched : ¬ StallUnwatched s g) {side : Bool} (hside : stalledSide s g = some side) :
    hingeStall s g = logState (raise (stallRecorded s g side) 0x2101 (stallDetail s g side)) 2 0x6210 4
      (stallRecorded s g side).hng.stalls.length := by
  refine (if_neg hwatched).trans ?_
  rw [hside]
  rfl

theorem not_stallUnwatched (hlim : stallLimit s g ≠ 0) (hused : hingeUsed s g = true)
    (hquiet : s.hng.stalls.contains (hingeKind g) = false) : ¬ StallUnwatched s g := by
  rintro (h | h | h)
  · exact hlim h
  · exact Bool.false_ne_true (h.symm.trans hused)
  · exact Bool.false_ne_true (hquiet.symm.trans h)

end

/-- Settles O27: a loss is declared once by `userClockLost_of_running` and not again by `userClockLost_of_gone`; a stall is
recorded and raised by `hingeStall_of_stalled`, where the hinge is watched and its state names a side, and is without effect
otherwise. -/
theorem userClocksAndStalls : Obligations.UserClocksAndStalls := by
  unfold Obligations.UserClocksAndStalls
  refine ⟨?enable, ?lost, ?notLost, ?present, ?stall, ?noStall, ?limit, exec_stallLastClear⟩
  case enable =>
    intro s k w
    rw [exec_userClockEnable, userClockWrite]
  case lost =>
    intro s k hen hhere
    rw [exec_userClockLost, userClockLost_of_running hen hhere]
  case notLost =>
    intro s k hno
    rw [exec_userClockLost]
    rcases hno with hdisabled | hgone
    · rw [userClockLost_of_disabled hdisabled]
    · rw [userClockLost_of_gone hgone]
  case present =>
    intro s k
    rw [exec_userClockPresent, userClockPresent]
  case stall =>
    intro s g side hlim hused hquiet hside
    rw [exec_hingeStall, hingeStall_of_stalled (not_stallUnwatched hlim hused hquiet) hside]
    cases g <;> rfl
  case noStall =>
    intro s g hno
    rw [exec_hingeStall]
    rcases hno with hlim | hunused | hstalled | hside
    · rw [hingeStall_of_unwatched (.inl hlim)]
    · rw [hingeStall_of_unwatched (.inr (.inl hunused))]
    · rw [hingeStall_of_unwatched (.inr (.inr hstalled))]
    · rw [hingeStall_of_not_stalled hside]
  case limit =>
    intro s g
    cases g <;> rfl

end Sys2Proof.Machine
end

section
/-! The order of a hinge FIFO's entries in stream mode (R153, R158): what each operation leaves of `unread`. -/
namespace Sys2Proof.Machine
open Sys2Proof

section
variable {x y : Fifo} {e : Entry} {l : List Entry}

/-! ## The entries not yet read -/

theorem unread_of_full_none (hfull : x.full = none) : unread x = x.drain ++ x.fill := by
  simp [unread, hfull]

theorem unread_of_full_some (hfull : x.full = some l) : unread x = x.drain ++ l := by
  simp [unread, hfull]

/-! ## The reader -/

/-- What a read takes: the head of a drain bank known sealed, or, past an empty drain bank, the head of a sealed fill bank
known sealed (R157). -/
theorem takeHead_cases (h : takeHead x = some (e, y)) :
    (∃ r, x.drainSeen = true ∧ x.drain = e :: r ∧ y = { x with drain := r }) ∨
    (∃ r, x.fullSeen = true ∧ x.drain = [] ∧ x.full = some (e :: r) ∧ y = { x with full := some r }) := by
  unfold takeHead at h
  split at h
  next hdrain =>
    simp only [Bool.and_eq_true] at hdrain
    split at h
    · nomatch h
    next e' r heq =>
      obtain ⟨rfl, rfl⟩ : e' = e ∧ { x with drain := r } = y := by simpa using h
      exact .inl ⟨r, hdrain.1, heq, rfl⟩
  next =>
    split at h
    next hfull =>
      simp only [Bool.and_eq_true, List.isEmpty_iff] at hfull
      split at h
      next e' r heq =>
        obtain ⟨rfl, rfl⟩ : e' = e ∧ { x with full := some r } = y := by simpa using h
        exact .inr ⟨r, hfull.2, hfull.1, heq, rfl⟩
      · nomatch h
      · nomatch h
    · nomatch h

theorem unread_of_takeHead (h : takeHead x = some (e, y)) : unread x = e :: unread y := by
  rcases takeHead_cases h with ⟨r, -, hdrain, rfl⟩ | ⟨r, -, hdrain, hfull, rfl⟩
  · simp only [unread, hdrain, List.cons_append]
  · rw [unread_of_full_some hfull, unread_of_full_some rfl, hdrain]
    rfl

theorem unread_sealCrossing (x : Fifo) : unread (sealCrossing x) = unread x := by
  unfold sealCrossing
  split
  · rfl
  · split <;> rfl

/-! ## The writer, in stream mode -/

theorem closePart_of_slot_none (hslot : x.slot = none) (cont abort : Bool) : closePart x cont abort = x := by
  rw [closePart, hslot]

theorem unread_newFill_stream (hfull : x.full = none) : unread (newFill false x) = x.drain :=
  (unread_of_full_none (x := newFill false x) hfull).trans (List.append_nil _)

theorem sealBank_of_knowsEmpty (hslot : x.slot = none) (hempty : x.knowsEmpty = true) (pm : Bool) :
    sealBank pm x = newFill pm { x with drain := x.fill, drainSeen := false, knowsEmpty := false, asked := false } := by
  simp only [sealBank, closePart_of_slot_none hslot, if_pos hempty]

theorem sealBank_of_not_knowsEmpty (hslot : x.slot = none) (hempty : x.knowsEmpty = false) (pm : Bool) :
    sealBank pm x = { x with full := some x.fill, level := x.fill.length, fullSeen := false } := by
  simp only [sealBank, closePart_of_slot_none hslot, hempty, Bool.false_eq_true, if_false]

/-- A seal moves the fill bank behind the drain bank, or into its place where the drain bank is empty (R153). -/
theorem unread_sealBank_stream (hslot : x.slot = none) (hfull : x.full = none)
    (hdrain : x.knowsEmpty = true → x.drain = []) : unread (sealBank false x) = unread x := by
  rw [unread_of_full_none hfull]
  cases hempty : x.knowsEmpty with
  | true =>
    rw [sealBank_of_knowsEmpty hslot hempty, unread_newFill_stream, hdrain hempty]
    · rfl
    · exact hfull
  | false => rw [sealBank_of_not_knowsEmpty hslot hempty, unread_of_full_some rfl]

/-- A swap puts a sealed fill bank in the place of an empty drain bank, or seals a fill bank of whole packets (R153). -/
theorem unread_bankSwap_stream (hslot : x.slot = none) : unread (bankSwap false x) = unread x := by
  unfold bankSwap
  split
  next hswap =>
    have hdrain : x.drain = [] := by
      simp only [Bool.and_eq_true, List.isEmpty_iff] at hswap
      exact hswap.1
    split
    next l hfull =>
      rw [unread_of_full_some hfull, hdrain]
      exact unread_newFill_stream rfl
    next hfull =>
      dsimp only
      split
      · exact unread_sealBank_stream (x := { x with knowsEmpty := true }) hslot hfull (fun _ => hdrain)
      · rfl
  · rfl

theorem storeEntry_stream (hslot : x.slot = none) (e : Entry) :
    storeEntry false x e = { x with fill := x.fill ++ [e], inPkt := !(e.e || e.a) } := by
  have hclose := closePart_of_slot_none (x := { x with fill := x.fill ++ [e], inPkt := true }) hslot false e.a
  simp only [storeEntry, Bool.false_and, Bool.false_eq_true, if_false, hclose]
  cases e.e || e.a <;> rfl

/-- An entry written goes behind all that were not read. -/
theorem unread_storeEntry_stream (hslot : x.slot = none) (hfull : x.full = none) (e : Entry) :
    unread (storeEntry false x e) = unread x ++ [e] := by
  rw [storeEntry_stream hslot, unread_of_full_none hfull, List.append_assoc]
  exact unread_of_full_none hfull

end

/-- Settles O29: a read by `unread_of_takeHead`, which cites what a read can take; a seal, a swap and a write by what each
leaves of the two banks; a seal's crossing changes only what the reader knows. -/
theorem fifoReadsInOrder : Obligations.FifoReadsInOrder := by
  unfold Obligations.FifoReadsInOrder
  exact ⟨fun _ _ _ => unread_of_takeHead, fun _ => unread_sealBank_stream, fun _ => unread_bankSwap_stream,
    unread_sealCrossing, fun _ e _ hslot hfull => unread_storeEntry_stream hslot hfull e⟩

end Sys2Proof.Machine
end

section
/-! Flush and clear of a hinge FIFO (R161 to R163) and the MGC's mailboxes (R167). -/
namespace Sys2Proof.Machine
open Sys2Proof

theorem exec_fifoFlushPkt (s : State) (f : Fin 128) : exec (.fifoFlushPkt f) s = .next (flushWrite s f.val) := rfl

theorem exec_fifoFlushPoint (s : State) (f : Fin 128) : exec (.fifoFlushPoint f) s = .next (flushPoint s f.val) := rfl

theorem exec_fifoFlushReader (s : State) (f : Fin 128) : exec (.fifoFlushReader f) s = .next (flushReader s f.val) := rfl

theorem exec_fifoClearNow (s : State) (f : Fin 128) : exec (.fifoClearNow f) s = .next (clearWrite s f.val) := rfl

theorem exec_fifoClearPoint (s : State) (f : Fin 128) : exec (.fifoClearPoint f) s = .next (clearPoint s f.val) := rfl

theorem exec_fifoClearReader (s : State) (f : Fin 128) : exec (.fifoClearReader f) s = .next (clearReader s f.val) := rfl

theorem exec_mailboxPush (s : State) (g : Fin 48) (e a : Bool) :
    exec (.mailboxPush g e a) s = .next (mailboxPush s g.val e a) := rfl

theorem exec_mailboxPop (s : State) (g : Fin 48) : exec (.mailboxPop g) s = .next (mailboxPop s g.val) := rfl

/-- Settles O30: the clauses are the steps of a flush (R161), those of a clear (R162), and a mailbox's push and pop (R167),
each the operation of its command written out. -/
theorem fifoFlushClearAndMailbox : Obligations.FifoFlushClearAndMailbox := by
  unfold Obligations.FifoFlushClearAndMailbox
  refine ⟨?flushWrite, ?flushPoint, ?flushReader, ?clearWrite, ?clearPoint, ?clearReader, ?push, ?pop⟩
  case flushWrite =>
    intro s f
    rw [exec_fifoFlushPkt, flushWrite]
  case flushPoint =>
    intro s f
    rw [exec_fifoFlushPoint, flushPoint]
  case flushReader =>
    intro s f
    rw [exec_fifoFlushReader]
    rfl
  case clearWrite =>
    intro s f
    rw [exec_fifoClearNow, clearWrite]
  case clearPoint =>
    intro s f
    rw [exec_fifoClearPoint, clearPoint]
  case clearReader =>
    intro s f
    rw [exec_fifoClearReader]
    rfl
  case push =>
    intro s g e a
    rw [exec_mailboxPush, mailboxPush]
  case pop =>
    intro s g
    rw [exec_mailboxPop]
    rfl

end Sys2Proof.Machine
end

section
/-! Cords and the control commands of a lane (R171, R172, R186 to R189, R193, R194, R197). -/
namespace Sys2Proof.Machine
open Sys2Proof

/-! ## The cords' commands -/

theorem exec_cordRefLost (s : State) (n : Fin 6) (stopped : Bool) :
    exec (.cordRefLost n stopped) s = .next (cordsLost s n.val stopped) := rfl

theorem exec_cordPllLock (s : State) (n : Fin 6) : exec (.cordPllLock n) s = .next (cordLock s n.val) := rfl

theorem exec_cordRateWrite (s : State) (n : Fin 6) (rate : BitVec 2) :
    exec (.cordRateWrite n rate) s = .next (cordRate s n.val rate.toNat) := rfl

theorem exec_cordMapWrite (s : State) (n : Fin 6) (map : BitVec 8) :
    exec (.cordMapWrite n map) s = .next (cordMap s n.val map.toNat) := rfl

/-! ## The lanes' control commands -/

theorem exec_laneModeWrite (s : State) (l : Fin 24) (mode : BitVec 2) :
    exec (.laneModeWrite l mode) s = .next (laneModeWrite s l.val mode.toNat) := rfl

theorem exec_laneRetrain (s : State) (l : Fin 24) : exec (.laneRetrain l) s = .next (retrain s l.val) := rfl

theorem exec_laneCntClear (s : State) (l : Fin 24) :
    exec (.laneCntClear l) s = .next ((s.setWord (LNE_ERR l.val) 0).setWord (LNE_PKT l.val) 0) := rfl

/-! ## Power states, which a transport writes while the management controller serves in full (R17) -/

theorem exec_laneSetActive (s : State) (l : Fin 24) : exec (.laneSetActive l) s =
    .next (if s.mgcFull then laneActive (setCommanded (fresh s l.val) (1 + l.val) 0) l.val else s) := rfl

theorem exec_laneSetIdleHold (s : State) (l : Fin 24) : exec (.laneSetIdleHold l) s =
    .next (if s.mgcFull then laneIdleHold (setCommanded (fresh s l.val) (1 + l.val) 1) l.val else s) := rfl

theorem exec_laneSetBanked (s : State) (l : Fin 24) : exec (.laneSetBanked l) s =
    .next (if s.mgcFull then laneBanked (setCommanded (fresh s l.val) (1 + l.val) 2) l.val else s) := rfl

/-- Settles O31: the three power states take the branch of their command that `mgcFull` picks; the other clauses are the
operations of their commands written out, then those of a kick, an attempt, IDLE-HOLD and BANKED. -/
theorem cordAndLaneControl : Obligations.CordAndLaneControl := by
  unfold Obligations.CordAndLaneControl
  refine ⟨?refLost, ?pllLock, ?rate, ?map, ?mode, ?retrain, ?active, ?idleHold, ?banked, ?notServed, exec_laneCntClear,
    ?kick, ?attempt, ?holds, ?goBanked⟩
  case refLost =>
    intro s n stopped
    rw [exec_cordRefLost, cordsLost]
  case pllLock =>
    intro s n
    rw [exec_cordPllLock, cordLock]
  case rate =>
    intro s n rate
    rw [exec_cordRateWrite, cordRate]
  case map =>
    intro s n map
    rw [exec_cordMapWrite, cordMap]
  case mode =>
    intro s l mode
    rw [exec_laneModeWrite, laneModeWrite]
  case retrain =>
    intro s l
    rw [exec_laneRetrain, retrain]
  case active =>
    intro s l hfull
    rw [exec_laneSetActive, if_pos hfull, laneActive]
  case idleHold =>
    intro s l hfull
    rw [exec_laneSetIdleHold, if_pos hfull, laneIdleHold]
  case banked =>
    intro s l hfull
    rw [exec_laneSetBanked, if_pos hfull, laneBanked]
  case notServed =>
    intro s l hstopped
    have hno : ¬ s.mgcFull = true := Bool.eq_false_iff.mp hstopped
    rw [exec_laneSetActive, exec_laneSetIdleHold, exec_laneSetBanked, if_neg hno, if_neg hno, if_neg hno]
    exact ⟨rfl, rfl, rfl⟩
  case kick =>
    intro s l
    rw [laneKick]
  case attempt =>
    intro s l presets
    rw [startAttempt]
  case holds =>
    intro s l
    rw [idleHold]
  case goBanked =>
    intro s l
    rw [laneGoBanked]

end Sys2Proof.Machine
end

section
/-! Block alignment and adaptation (R182 to R184, R188) and the training of a link (R191, R192). -/
namespace Sys2Proof.Machine
open Sys2Proof

/-! ## The aligner, the LMS loop and hold -/

theorem exec_signalDetected (s : State) (l : Fin 24) : exec (.signalDetected l) s = .next (signalDetected s l.val) := rfl

theorem exec_signalLost (s : State) (l : Fin 24) : exec (.signalLost l) s = .next (signalLost s l.val) := rfl

theorem exec_alignInvalidHeader (s : State) (l : Fin 24) (gap : Nat) :
    exec (.alignInvalidHeader l gap) s = .next (invalidHeader s l.val gap) := rfl

theorem exec_alignHuntDone (s : State) (l : Fin 24) : exec (.alignHuntDone l) s = .next (huntDone s l.val) := rfl

theorem exec_alignLocked (s : State) (l : Fin 24) : exec (.alignLocked l) s = .next (alignLocked s l.val) := rfl

theorem exec_adaptFreeze (s : State) (l : Fin 24) : exec (.adaptFreeze l) s = .next (adaptFreeze s l.val) := rfl

theorem exec_adaptResume (s : State) (l : Fin 24) : exec (.adaptResume l) s = .next (adaptResume s l.val) := rfl

theorem exec_rxHoldExit (s : State) (l : Fin 24) : exec (.rxHoldExit l) s = .next (holdExit s l.val) := rfl

theorem exec_rxHoldTimeout (s : State) (l : Fin 24) : exec (.rxHoldTimeout l) s = .next (holdTimeout s l.val) := rfl

/-! ## The steps of an attempt -/

theorem exec_trainAdaptDone (s : State) (l : Fin 24) : exec (.trainAdaptDone l) s = .next (trainAdaptDone s l.val) := rfl

theorem exec_trainSuccess (s : State) (l : Fin 24) (skew : BitVec 8) :
    exec (.trainSuccess l skew) s = .next (trainSuccess (kwrFresh s (l.val / 4)) l.val skew.toNat) := rfl

theorem exec_trainTimeout (s : State) (l : Fin 24) : exec (.trainTimeout l) s = .next (trainTimeout s l.val) := rfl

theorem exec_backoffElapsed (s : State) (l : Fin 24) : exec (.backoffElapsed l) s = .next (backoffElapsed s l.val) := rfl

/-- Settles O32: each clause is the operation of its command written out, then the link's way down, the start of an attempt
and what makes it succeed. -/
theorem laneAlignmentAndTraining : Obligations.LaneAlignmentAndTraining := by
  unfold Obligations.LaneAlignmentAndTraining
  refine ⟨?signal, ?noSignal, ?header, ?hunted, ?locked, ?freeze, ?resume, ?holdExit, ?holdTimeout, ?adapted, ?success,
    ?timeout, ?backoff, ?down, ?attempt, ?trained⟩
  case signal =>
    intro s l
    rw [exec_signalDetected, signalDetected]
  case noSignal =>
    intro s l
    rw [exec_signalLost, signalLost]
  case header =>
    intro s l gap
    rw [exec_alignInvalidHeader, invalidHeader]
  case hunted =>
    intro s l
    rw [exec_alignHuntDone, huntDone]
  case locked =>
    intro s l
    rw [exec_alignLocked, alignLocked]
  case freeze =>
    intro s l
    rw [exec_adaptFreeze, adaptFreeze]
  case resume =>
    intro s l
    rw [exec_adaptResume, adaptResume]
  case holdExit =>
    intro s l
    rw [exec_rxHoldExit, holdExit]
  case holdTimeout =>
    intro s l
    rw [exec_rxHoldTimeout, holdTimeout]
  case adapted =>
    intro s l
    rw [exec_trainAdaptDone, trainAdaptDone]
  case success =>
    intro s l skew
    rw [exec_trainSuccess, trainSuccess]
  case timeout =>
    intro s l
    rw [exec_trainTimeout, trainTimeout]
  case backoff =>
    intro s l
    rw [exec_backoffElapsed, backoffElapsed]
  case down =>
    intro s l cause
    rw [linkDown]
  case attempt =>
    intro s l presets
    rw [startAttempt]
  case trained =>
    intro s l
    rw [trained]

end Sys2Proof.Machine
end

section
/-! Blocks from the line (R176 to R181, R188, R195, R196) and the loopbacks (R197). -/
namespace Sys2Proof.Machine
open Sys2Proof

/-! ## A block by the loopback of its lane -/

section
variable {s : State} {l : Nat}

/-- With no loopback a block acts, and nothing is sent for it. -/
theorem fromLine_of_noLoop (hnear : (fresh s l).get (LNE_CTL_loop l) ≠ 1) (hfar : (fresh s l).get (LNE_CTL_loop l) ≠ 2)
    (b : Block) (f : State → State) : fromLine s l b f = f (fresh s l) := by
  simp only [fromLine, hnear, hfar, false_and, if_false]

/-- In far-end loopback a block acts and is sent back, where that leaves the link not OFF. -/
theorem fromLine_of_farEnd (hfar : (fresh s l).get (LNE_CTL_loop l) = 2) (b : Block) (f : State → State) :
    fromLine s l b f = if link (f (fresh s l)) l ≠ 0 then emitBlocks (f (fresh s l)) l [b] else f (fresh s l) := by
  simp only [fromLine, hfar, OfNat.ofNat_ne_one, if_false, true_and]

/-- In near-end loopback only the first of the lane's own blocks under way arrives. -/
theorem fromLine_of_nearEnd (hnear : (fresh s l).get (LNE_CTL_loop l) = 1) {x : Block} {r : List Block}
    (hback : (laneOf (fresh s l) l).back = x :: r) (b : Block) (f : State → State) : fromLine s l b f =
      if x = b then f (setLane (fresh s l) l { laneOf (fresh s l) l with back := r }) else fresh s l := by
  simp only [fromLine, hnear, hback, if_true]

theorem fromLine_congr {f g : State → State} (hact : ∀ t, f t = g t) (b : Block) : fromLine s l b f = fromLine s l b g := by
  rw [funext hact]

end

/-! ## The blocks' commands -/

theorem exec_rxIdleBlock (s : State) (l : Fin 24) :
    exec (.rxIdleBlock l) s = .next (fromLine s l.val idleBlock (rxIdle · l.val)) := rfl

theorem exec_rxStartBlock (s : State) (l : Fin 24) :
    exec (.rxStartBlock l) s = .next (fromLine s l.val startBlock (rxStart · l.val)) := rfl

theorem exec_rxDataBlock (s : State) (l : Fin 24) (bits : BitVec 64) :
    exec (.rxDataBlock l bits) s = .next (fromLine s l.val (dataBlock bits) (rxData · l.val bits)) := rfl

theorem exec_rxEndBlock (s : State) (l : Fin 24) (content : BitVec 56) : exec (.rxEndBlock l content) s =
    .next (fromLine s l.val (controlBlock 0x66 content.toNat) (rxEnd · l.val content)) := rfl

theorem exec_rxTrainBlock (s : State) (l : Fin 24) (content : BitVec 56) : exec (.rxTrainBlock l content) s =
    .next (fromLine s l.val (controlBlock 0x99 content.toNat) (rxTrain · l.val content)) := rfl

theorem exec_rxHoldBlock (s : State) (l : Fin 24) :
    exec (.rxHoldBlock l) s = .next (fromLine s l.val holdBlock (rxHold · l.val)) := rfl

theorem exec_rxInvalidBlock (s : State) (l : Fin 24) (b : Block) :
    exec (.rxInvalidBlock l b) s = .next (fromLine s l.val b (rxInvalid · l.val)) := rfl

theorem exec_ethHiBer (s : State) (l : Fin 24) (ended : Bool) :
    exec (.ethHiBer l ended) s = .next (ethHiBer s l.val ended) := rfl

theorem exec_ethRxBlock (s : State) (l : Fin 24) (b : Block) : exec (.ethRxBlock l b) s =
    .next (fromLine s l.val b (fun s => rxPayOwed (ethBlock s l.val b) l.val)) := rfl

/-- Settles O33: each block's clause is what its command does to whatever state the line hands it (`fromLine_congr`), and the
clauses of the loopbacks are `fromLine_of_noLoop`, `fromLine_of_farEnd` and `fromLine_of_nearEnd`. -/
theorem laneReceivesBlocks : Obligations.LaneReceivesBlocks := by
  unfold Obligations.LaneReceivesBlocks
  refine ⟨?idle, ?start, ?data, ?endBlock, ?train, ?hold, ?invalid, ?noLoop, ?farEnd, ?nearEnd, ?hiBer, exec_ethRxBlock⟩
  case idle =>
    intro s l
    rw [exec_rxIdleBlock]
    exact congrArg _ (fromLine_congr (fun t => by rw [rxIdle]) _)
  case start =>
    intro s l
    rw [exec_rxStartBlock]
    exact congrArg _ (fromLine_congr (fun t => by rw [rxStart]) _)
  case data =>
    intro s l bits
    rw [exec_rxDataBlock]
    exact congrArg _ (fromLine_congr (fun t => by rw [rxData]) _)
  case endBlock =>
    intro s l content
    rw [exec_rxEndBlock]
    exact congrArg _ (fromLine_congr (fun t => by rw [rxEnd]) _)
  case train =>
    intro s l content
    rw [exec_rxTrainBlock]
    exact congrArg _ (fromLine_congr (fun t => by rw [rxTrain]) _)
  case hold =>
    intro s l
    rw [exec_rxHoldBlock]
    exact congrArg _ (fromLine_congr (fun t => by rw [rxHold]) _)
  case invalid =>
    intro s l b
    rw [exec_rxInvalidBlock]
    exact congrArg _ (fromLine_congr (fun t => by rw [rxInvalid]) _)
  case noLoop =>
    intro s l b f hloop
    exact fromLine_of_noLoop (by omega) (by omega) b f
  case farEnd =>
    intro s l b f hfar
    exact fromLine_of_farEnd hfar b f
  case nearEnd =>
    intro s l b x r f hnear hback
    exact fromLine_of_nearEnd hnear hback b f
  case hiBer =>
    intro s l ended
    rw [exec_ethHiBer, ethHiBer]

end Sys2Proof.Machine
end

section
/-! Control of the ring's engines (R201, R212, R215, R216, R219 to R221): roles and widths, a hop's loss and re-seat, the
alarm, acknowledges. -/
namespace Sys2Proof.Machine
open Sys2Proof

/-! ## Role and width (R17, Table 9.7, Table 9.8) -/

theorem exec_kwrRoleWrite (s : State) (k : Fin 6) (role : BitVec 2) : exec (.kwrRoleWrite k role) s =
    .next (if s.mgcFull then kwrRole (commandIf s false (role != 3) (25 + k.val) role.toNat) k.val role.toNat else s) := rfl

theorem exec_kwrWidthWrite (s : State) (k : Fin 6) (w : BitVec 2) :
    exec (.kwrWidthWrite k w) s = .next (kwrWidthWrite s k.val w.toNat) := rfl

/-- A role other than 11b takes the port down, and starts it again unless the role is OFF. -/
theorem kwrRole_of_ne_three (s : State) (k : Nat) {role : Nat} (h : role ≠ 3) : kwrRole s k role =
    if role = 0 then kwrOff (kwrFresh (s.put (KWR_CFG_role k) role) k) k 3
    else kwrLanesUp (kwrGo (kwrOff (kwrFresh (s.put (KWR_CFG_role k) role) k) k 3) k 1 0) k :=
  if_neg h

theorem kwrRole_three (s : State) (k : Nat) : kwrRole s k 3 = s := rfl

/-- A role is 11b as a field of two bits where it is 3 as a number. -/
theorem role_toNat_ne_three {role : BitVec 2} (h : role ≠ 3) : role.toNat ≠ 3 :=
  fun heq => h (BitVec.eq_of_toNat_eq heq)

/-- A role that is in force, written while the management controller serves in full. -/
theorem exec_kwrRoleWrite_of_served {s : State} {role : BitVec 2} (hfull : s.mgcFull = true) (hrole : role ≠ 3) (k : Fin 6) :
    exec (.kwrRoleWrite k role) s =
      .next (kwrRole (commandIf s false true (25 + k.val) role.toNat) k.val role.toNat) := by
  rw [exec_kwrRoleWrite, if_pos hfull, bne_iff_ne.mpr hrole]

theorem exec_kwrRoleWrite_of_not_served {s : State} (hstopped : s.mgcFull = false) (k : Fin 6) (role : BitVec 2) :
    exec (.kwrRoleWrite k role) s = .next s := by
  rw [exec_kwrRoleWrite, if_neg (Bool.eq_false_iff.mp hstopped)]

/-- The role 11b commands nothing and sets nothing, served or not. -/
theorem exec_kwrRoleWrite_three (s : State) (k : Fin 6) : exec (.kwrRoleWrite k 3) s = .next s := by
  rw [exec_kwrRoleWrite, bne_self_eq_false, commandIf_false]
  exact congrArg _ (ite_self s)

/-! ## Losses, the alarm, the counts, acknowledges -/

theorem exec_kwrHopReseat (s : State) (k : Fin 6) : exec (.kwrHopReseat k) s = .next (hopReseat s k.val) := rfl

theorem exec_kwrBufferInvalid (s : State) (k : Fin 6) : exec (.kwrBufferInvalid k) s = .next (bufferInvalid s k.val) := rfl

theorem exec_kwrAlarmWrite (s : State) (k : Fin 6) : exec (.kwrAlarmWrite k) s = .next (alarmSet s k.val) := rfl

theorem exec_kwrAlarmClear (s : State) (k : Fin 6) : exec (.kwrAlarmClear k) s = .next (alarmClear s k.val) := rfl

theorem exec_kwrCntClear (s : State) (k : Fin 6) :
    exec (.kwrCntClear k) s = .next ((s.setWord (KWR_CNT k.val) 0).setWord (KWR_MCNT k.val) 0) := rfl

theorem exec_kwrAckTimer (s : State) (k : Fin 6) : exec (.kwrAckTimer k) s =
    .next (if kwrOn s k.val && decide (0 < (kwrOf s k.val).frameWords) then sendAck (kwrFresh s k.val) k.val false else s) :=
  rfl

theorem exec_kwrInsertPacket (s : State) (k : Fin 6) : exec (.kwrInsertPacket k) s =
    .next (if s.get (KWR_CFG_role k.val) = 0 then s else readPacket 1100 s k.val) := rfl

end Sys2Proof.Machine

/-! A namespace of its own: `Sys2Proof.Machine.kwrControl` is the model's control block of the ring. -/
namespace Sys2Proof.RingControl
open Sys2Proof Sys2Proof.Machine

/-- Settles O34: a role written takes the branch of `mgcFull` and of the value 11b; the other commands are their operations
written out, then those of a change of state, of OFF and of an ACK. -/
theorem kwrControl : Obligations.KwrControl := by
  unfold Obligations.KwrControl
  refine ⟨?role, ?noRole, ?width, ?reseat, ?invalid, ?alarm, ?alarmClear, exec_kwrCntClear, exec_kwrAckTimer,
    exec_kwrInsertPacket, ?go, ?off, ?ack⟩
  case role =>
    intro s k role hfull hrole
    rw [exec_kwrRoleWrite_of_served hfull hrole, kwrRole_of_ne_three _ _ (role_toNat_ne_three hrole)]
  case noRole =>
    intro s k role h
    rcases h with hstopped | rfl
    · exact exec_kwrRoleWrite_of_not_served hstopped k role
    · exact exec_kwrRoleWrite_three s k
  case width =>
    intro s k w
    rw [exec_kwrWidthWrite, kwrWidthWrite]
  case reseat =>
    intro s k
    rw [exec_kwrHopReseat, hopReseat]
  case invalid =>
    intro s k
    rw [exec_kwrBufferInvalid, bufferInvalid]
  case alarm =>
    intro s k
    rw [exec_kwrAlarmWrite, alarmSet]
  case alarmClear =>
    intro s k
    rw [exec_kwrAlarmClear, alarmClear]
  case go =>
    intro s k st cause
    rw [kwrGo]
  case off =>
    intro s k cause
    rw [kwrOff]
  case ack =>
    intro s k nak
    rfl

end Sys2Proof.RingControl
end

section
/-! A block of the ring by the loopbacks of its group's lanes (R197, R203), and an engine number at which two registers have
one address. -/
namespace Sys2Proof.Machine
open Sys2Proof

/-! ## A block of the ring by the loopbacks of its group's lanes -/

/-- The lanes of the group hear a block: those in near-end loopback have its share as the next of their own blocks under
way. -/
def ringHears (s : State) (k : Nat) (line : Nat → Nat → List Block) : Bool :=
  (List.range (kwrWidth s k)).all (fun j => s.get (LNE_CTL_loop (4 * k + j)) != 1 ||
    (line (kwrWidth s k) j).isPrefixOf (laneOf s (4 * k + j)).back)

/-- The blocks of the ring reach the lanes of the group, each its own share. -/
def ringArrives (s : State) (k : Nat) (line : Nat → Nat → List Block) : State :=
  (List.range (kwrWidth s k)).foldl (fun t j => ringLane t (4 * k + j) (line (kwrWidth s k) j)) s

section
variable {s : State} {k : Nat}

theorem fromRing_eq (line : Nat → Nat → List Block) (f : State → State) : fromRing s k line f =
    if ringHears (kwrFresh s k) k line then
      if kwrOn (ringArrives (kwrFresh s k) k line) k then f (ringArrives (kwrFresh s k) k line)
      else ringArrives (kwrFresh s k) k line
    else kwrFresh s k := rfl

/-- A lane that is not in near-end loopback takes whatever the line brings. -/
theorem ringHears_of_noLoop (hloop : ∀ j, j < kwrWidth s k → s.get (LNE_CTL_loop (4 * k + j)) ≠ 1)
    (line : Nat → Nat → List Block) : ringHears s k line = true :=
  List.all_eq_true.mpr fun j hj => by rw [bne_iff_ne.mpr (hloop j (List.mem_range.mp hj)), Bool.true_or]

/-- Where no lane of the group is in near-end loopback, a block arrives on every lane, and acts at an engine that takes
part. -/
theorem fromRing_of_noLoop
    (hloop : ∀ j, j < kwrWidth (kwrFresh s k) k → (kwrFresh s k).get (LNE_CTL_loop (4 * k + j)) ≠ 1)
    (line : Nat → Nat → List Block) (f : State → State) : fromRing s k line f =
      if kwrOn (ringArrives (kwrFresh s k) k line) k then f (ringArrives (kwrFresh s k) k line)
      else ringArrives (kwrFresh s k) k line := by
  rw [fromRing_eq, if_pos (ringHears_of_noLoop hloop line)]

end

/-! ## What a block of the ring leaves in the lanes -/

/-- The LMS loop of a lane runs (R184). -/
def lmsRuns (s : State) (l : Nat) : Bool :=
  s.flag (LNE_CTL_adapt_en l) && decide (2 ≤ align s l) && !s.flag (LNE_STAT_frozen l) && !s.flag (LNE_STAT_rx_hold l)

theorem laneOf_setLane (s : State) (l m : Nat) (x : Lane) : laneOf (setLane s l x) m = if m = l then x else laneOf s m :=
  tget_tput _ _ _ _ _

section
variable {s : State} {l m : Nat}

theorem laneOf_setLane_ne (h : m ≠ l) (x : Lane) : laneOf (setLane s l x) m = laneOf s m := by
  rw [laneOf_setLane, if_neg h]

theorem out_emitBlocks (bs : List Block) : (laneOf (emitBlocks s l bs) l).out = (laneOf s l).out ++ bs := by
  rw [emitBlocks, laneOf_setLane, if_pos rfl]

theorem laneOf_adapt : laneOf (adapt s l) m = laneOf s m := by
  unfold adapt
  split <;> rfl

theorem adapt_of_disabled (h : s.flag (LNE_CTL_adapt_en l) = false) : adapt s l = s := by
  simp [adapt, h]

/-- Where the LMS loop runs, it writes free coefficients, marked as its own. -/
theorem adapt_of_runs (h : lmsRuns s l = true) :
    adapt s l = ((s.setWord (LNE_EQ (physLane s l)) (Config.freeWord s.free)).put (LNE_EQ_src (physLane s l)) 1).tookFree := by
  rw [lmsRuns] at h
  rw [adapt, if_pos h]

/-- The LMS loop leaves every register but the coefficients of its physical lane. -/
theorem get_adapt {f : Field} (h : f.addr ≠ LNE_EQ (physLane s l)) : (adapt s l).get f = s.get f := by
  unfold adapt
  split
  · calc _ = (s.setWord (LNE_EQ (physLane s l)) (Config.freeWord s.free)).get f := get_put_addr _ _ _ _ h
      _ = s.get f := by rw [State.get, word_setWord_ne s _ h, State.get]
  · rfl

/-- A field of the coefficients, beside the bit that says where they come from, is free once the LMS loop has run. -/
theorem get_adapt_of_runs (h : lmsRuns s l = true) {f : Field} (haddr : f.addr = LNE_EQ (physLane s l)) (hlo : 1 ≤ f.lo) :
    (adapt s l).get f = bitsOf (Config.freeWord s.free) f.lo f.width := by
  rw [adapt_of_runs h]
  calc _ = (s.setWord (LNE_EQ (physLane s l)) (Config.freeWord s.free)).get f :=
        get_put_lo _ (LNE_EQ_src (physLane s l)) f 1 haddr (.inl hlo)
    _ = _ := by rw [State.get, haddr, word_setWord_self]

theorem laneOf_ringLane_ne (h : m ≠ l) (bs : List Block) : laneOf (ringLane s l bs) m = laneOf s m := by
  unfold ringLane
  split
  · dsimp only
    split
    · rw [laneOf_setLane_ne h, laneOf_adapt]
    · split
      · exact laneOf_adapt
      · rw [emitBlocks, laneOf_setLane_ne h, laneOf_adapt]
    · exact laneOf_adapt
  · rfl

/-- With no loopback the LMS loop runs, and nothing is sent. -/
theorem ringLane_of_noLoop (hmode : laneMode s l = 2) (hloop : (adapt s l).get (LNE_CTL_loop l) = 0) (bs : List Block) :
    ringLane s l bs = adapt s l := by
  simp only [ringLane, hmode, hloop, if_true]

/-- A lane in far-end loopback sends back what it receives (R197). -/
theorem ringLane_of_farEnd (hmode : laneMode s l = 2) (hstill : s.flag (LNE_CTL_adapt_en l) = false)
    (hfar : s.get (LNE_CTL_loop l) = 2) (hlink : link s l ≠ 0) (bs : List Block) :
    ringLane s l bs = emitBlocks s l bs := by
  simp only [ringLane, hmode, adapt_of_disabled hstill, hfar, hlink, if_true, if_false]

end

/-- Of the lanes of a group, the second has sent what it sends once the first has had its share: those after it leave it
alone. -/
theorem laneOf_second_foldl (s : State) (k n : Nat) (share : State → Nat → List Block) :
    laneOf ((List.range (n + 2)).foldl (fun t j => ringLane t (4 * k + j) (share t j)) s) (4 * k + 1) =
      laneOf (ringLane (ringLane s (4 * k) (share s 0)) (4 * k + 1) (share (ringLane s (4 * k) (share s 0)) 1))
        (4 * k + 1) := by
  rw [List.range_succ_eq_map, List.range_succ_eq_map, List.map_cons, List.foldl_cons, List.foldl_cons]
  refine foldl_leaves (laneOf · (4 * k + 1)) (fun t j hj => laneOf_ringLane_ne ?_ _) _
  simp only [List.mem_map] at hj
  obtain ⟨_, ⟨i, -, rfl⟩, rfl⟩ := hj
  omega

/-! ## An engine number at which two registers meet -/

/-- The number `k` at which LNE_EQ of lane 4k + 2 has the address of KWR_CFG_k. The device has engines 0 to 5; R197's clause
is stated of every number. -/
def strayEngine : Nat := 174714

/-- Of the group of width code `c`, the first lane stands on physical lane 2 of its cord and adapts, and the second is in
far-end loopback. -/
def strayGroup (c : Nat) : State :=
  let l := 4 * strayEngine
  let s := (State.reset.put (KWR_CFG_width strayEngine) c).put (LNE_CORD_CFG_map0 strayEngine) 2
  let s := ((s.put (LNE_CTL_mode l) 2).put (LNE_CTL_adapt_en l) 1).put (LNE_STAT_align l) 2
  ((s.put (LNE_CTL_mode (l + 1)) 2).put (LNE_CTL_loop (l + 1)) 2).put (LNE_STAT_link (l + 1)) 1

/-- What the two lanes of interest read as the block arrives. -/
structure StrayReads (s : State) : Prop where
  free : s.free = 0
  mode : laneMode s (4 * strayEngine) = 2
  loop : s.get (LNE_CTL_loop (4 * strayEngine)) = 0
  phys : physLane s (4 * strayEngine) = 4 * strayEngine + 2
  runs : lmsRuns s (4 * strayEngine) = true
  secondMode : laneMode s (4 * strayEngine + 1) = 2
  secondStill : s.get (LNE_CTL_adapt_en (4 * strayEngine + 1)) = 0
  secondFar : s.get (LNE_CTL_loop (4 * strayEngine + 1)) = 2
  secondLink : link s (4 * strayEngine + 1) ≠ 0
  secondOut : (laneOf s (4 * strayEngine + 1)).out = []

theorem strayReads_strayGroup {c : Nat} (hc : c = 1 ∨ c = 2) : StrayReads (kwrFresh (strayGroup c) strayEngine) := by
  rcases hc with rfl | rfl <;> constructor <;> decide +kernel

section
variable {s : State} (h : StrayReads s)
include h

/-- What the first lane writes into the width. -/
theorem kwrWidth_of_strayReads : kwrWidth (adapt s (4 * strayEngine)) strayEngine =
    2 ^ min 2 (bitsOf (Config.freeWord 0) 32 2) := by
  have hwidth := get_adapt_of_runs h.runs (f := KWR_CFG_width strayEngine) (by rw [h.phys]; rfl) (by decide)
  rw [kwrWidth, hwidth, h.free]
  rfl

/-- The second lane sends back its share, which is taken after the first lane's coefficients have changed. -/
theorem out_second_of_strayReads (n : Nat) (share : State → Nat → List Block) :
    (laneOf ((List.range (n + 2)).foldl (fun t j => ringLane t (4 * strayEngine + j) (share t j)) s)
      (4 * strayEngine + 1)).out = share (adapt s (4 * strayEngine)) 1 := by
  have hread : ∀ f : Field, f.addr ≠ LNE_EQ (4 * strayEngine + 2) → (adapt s (4 * strayEngine)).get f = s.get f :=
    fun f hf => get_adapt (by rwa [h.phys])
  have hfirst : ringLane s (4 * strayEngine) (share s 0) = adapt s (4 * strayEngine) :=
    ringLane_of_noLoop h.mode ((hread _ (by decide)).trans h.loop) _
  have hstill : (adapt s (4 * strayEngine)).flag (LNE_CTL_adapt_en (4 * strayEngine + 1)) = false := by
    rw [State.flag, hread _ (by decide), h.secondStill]
    rfl
  have hlink : link (adapt s (4 * strayEngine)) (4 * strayEngine + 1) ≠ 0 := by
    rw [link, hread _ (by decide)]
    exact h.secondLink
  rw [laneOf_second_foldl, hfirst, ringLane_of_farEnd ((hread _ (by decide)).trans h.secondMode) hstill
    ((hread _ (by decide)).trans h.secondFar) hlink, out_emitBlocks, laneOf_adapt, h.secondOut, List.nil_append]

end

/-- A line that carries a block for a group of `w` lanes only. -/
def lineFor (w w' _j : Nat) : List Block := if w' = w then [idleBlock] else []

theorem eq_of_lineFor {w w' j : Nat} (h : lineFor w w j = lineFor w w' j) : w' = w := by
  by_contra hne
  simp [lineFor, hne] at h

theorem regs_kwrFresh (s : State) (k : Nat) : (kwrFresh s k).regs = s.regs := by
  unfold kwrFresh
  exact foldl_leaves (f := fun s j => fresh s (4 * k + j)) State.regs (fun _ _ _ => rfl) _

theorem kwrWidth_kwrFresh (s : State) (k : Nat) : kwrWidth (kwrFresh s k) k = kwrWidth s k := by
  rw [kwrWidth, kwrWidth, State.get, State.get, State.word, State.word, regs_kwrFresh]

theorem strayGroup_noLoop {c : Nat} (hc : c = 1 ∨ c = 2) : ∃ n, 2 ^ c = n + 2 ∧
    kwrWidth (kwrFresh (strayGroup c) strayEngine) strayEngine = n + 2 ∧ ∀ j, j < n + 2 →
      (kwrFresh (strayGroup c) strayEngine).get (LNE_CTL_loop (4 * strayEngine + j)) ≠ 1 := by
  rcases hc with rfl | rfl
  · exact ⟨0, by decide +kernel⟩
  · exact ⟨2, by decide +kernel⟩

/-- The clause of R197 in `Obligations.KwrCyclesAndTime`, where the engine does nothing with the block: its `fun s j` takes
the width of the group anew at each lane. -/
def WidthTakenAnew (s : State) (k : Nat) (line : Nat → Nat → List Block) : Prop :=
  fromRing s k line id = (List.range (kwrWidth (kwrFresh s k) k)).foldl
    (fun t j => ringLane t (4 * k + j) (line (kwrWidth (kwrFresh t k) k) j)) (kwrFresh s k)

/-- Were the clause true of `strayGroup c`, the free word would hold the code of the group's width, whichever that is. -/
theorem freeWidth_of_widthTakenAnew {c : Nat} (hc : c = 1 ∨ c = 2)
    (h : WidthTakenAnew (strayGroup c) strayEngine (lineFor (2 ^ c))) :
    2 ^ min 2 (bitsOf (Config.freeWord 0) 32 2) = 2 ^ c := by
  obtain ⟨n, hn, hwidth, hloop⟩ := strayGroup_noLoop hc
  have hreads := strayReads_strayGroup hc
  rw [WidthTakenAnew, fromRing_of_noLoop (by rwa [hwidth]), id, ite_self, ringArrives, hn, hwidth] at h
  have hout := congrArg (fun t => (laneOf t (4 * strayEngine + 1)).out) h
  beta_reduce at hout
  rw [out_second_of_strayReads hreads, out_second_of_strayReads hreads, kwrWidth_kwrFresh,
    kwrWidth_of_strayReads hreads] at hout
  rw [hn]
  exact eq_of_lineFor hout

/-- Refutes O35, by its clause of R197. The clause's `fun s j` takes the group's width of the state that the lanes before
have left, where R206 has the block's width of the group, and its `k` is any number. For `strayEngine` the first lane's
coefficients are KWR_CFG_k: the second lane's share is then that of a width which the LMS loop has written, and no free word
is the right one for groups of two lanes and of four. -/
theorem not_kwrCyclesAndTime : ¬ Obligations.KwrCyclesAndTime := by
  unfold Obligations.KwrCyclesAndTime
  rintro ⟨-, -, -, -, -, -, -, -, -, hclause⟩
  have hanew : ∀ c, c = 1 ∨ c = 2 → WidthTakenAnew (strayGroup c) strayEngine (lineFor (2 ^ c)) := fun c hc => by
    obtain ⟨n, -, hwidth, hloop⟩ := strayGroup_noLoop hc
    have h := hclause (strayGroup c) strayEngine (lineFor (2 ^ c)) id (by rwa [hwidth])
    rw [WidthTakenAnew]
    simpa only [id, ite_self] using h
  have htwo := freeWidth_of_widthTakenAnew (.inl rfl) (hanew 1 (.inl rfl))
  have hfour := freeWidth_of_widthTakenAnew (.inr rfl) (hanew 2 (.inr rfl))
  omega

end Sys2Proof.Machine
end

section
/-! Superblocks, acknowledges, replays and the management channel of the ring (R205, R208, R216 to R219, R225, R226). -/
namespace Sys2Proof.Machine
open Sys2Proof

section
variable {s : State} {k : Nat}

theorem fromRing_congr {f g : State → State} (hact : ∀ t, f t = g t) (line : Nat → Nat → List Block) :
    fromRing s k line f = fromRing s k line g := by
  rw [funext hact]

theorem fromControl_congr {f g : State → State} (hact : ∀ t, f t = g t) (b : KwrBlock) :
    fromControl s k b f = fromControl s k b g :=
  fromRing_congr hact _

end

theorem exec_kwrRxSuperblock (s : State) (k : Fin 6) (sb : BitVec 512) (err : Bool) : exec (.kwrRxSuperblock k sb err) s =
    .next (fromRing s k.val (fun w j => superOn sb w j) (rxSuper · k.val sb err)) := rfl

theorem exec_kwrRxAck (s : State) (k : Fin 6) (seq : BitVec 24) (pos : BitVec 8) (nak : Bool) :
    exec (.kwrRxAck k seq pos nak) s = .next (fromControl s k.val (.ack seq pos nak) (rxAck · k.val seq pos nak)) := rfl

theorem exec_kwrRxReplay (s : State) (k : Fin 6) (seq : BitVec 24) (restart : Bool) : exec (.kwrRxReplay k seq restart) s =
    .next (fromControl s k.val (.replay seq restart) (rxReplay · k.val seq restart)) := rfl

theorem exec_kwrRxMgmt (s : State) (k : Fin 6) (m : Mgmt) :
    exec (.kwrRxMgmt k m) s = .next (fromControl s k.val (.mgmt m) (ringRequest · k.val m)) := rfl

theorem exec_kwrRxSlot (s : State) (k : Fin 6) :
    exec (.kwrRxSlot k) s = .next (fromControl s k.val .slot (rxSlot · k.val)) := rfl

theorem exec_kwrRxFill (s : State) (k : Fin 6) (copies : Fin 3) :
    exec (.kwrRxFill k copies) s = .next (fromControl s k.val .fill (rxFill · k.val copies.val)) := rfl

/-- Settles O36: each block's clause is what its command does to whatever state the ring hands it (`fromRing_congr`), then the
two outcomes of a superblock and the three of a management block are written out. -/
theorem kwrFramesAndMessages : Obligations.KwrFramesAndMessages := by
  unfold Obligations.KwrFramesAndMessages
  refine ⟨?superblock, ?ack, ?replay, ?mgmt, ?slot, ?fill, ?good, ?stomped, ?part⟩
  case superblock =>
    intro s k sb err
    rw [exec_kwrRxSuperblock]
    exact congrArg _ (fromRing_congr (fun t => by rw [rxSuper]) _)
  case ack =>
    intro s k seq pos nak
    rw [exec_kwrRxAck]
    exact congrArg _ (fromControl_congr (fun t => by rw [rxAck]) _)
  case replay =>
    intro s k seq restart
    rw [exec_kwrRxReplay]
    exact congrArg _ (fromControl_congr (fun t => by rw [rxReplay]) _)
  case mgmt =>
    intro s k m
    rw [exec_kwrRxMgmt]
    exact congrArg _ (fromControl_congr (fun t => rfl) _)
  case slot =>
    intro s k
    rw [exec_kwrRxSlot]
    exact congrArg _ (fromControl_congr (fun t => rfl) _)
  case fill =>
    intro s k copies
    rw [exec_kwrRxFill]
    exact congrArg _ (fromControl_congr (fun t => by rw [rxFill]) _)
  case good =>
    intro s k ws
    rw [goodSuper]
  case stomped =>
    intro s k ws
    rw [stompOn]
  case part =>
    intro s k m
    rw [rxMgmt]

end Sys2Proof.Machine
end

section
/-! Requests to the SDRAM channels (R238 to R245): how a packet enters its port's queue, the accesses, their ageing. -/
namespace Sys2Proof.Machine
open Sys2Proof

/-! ## What becomes of a packet -/

/-- A word address that no request may reach: beyond the capacity, or in a reserved row (R240, R251). -/
def addressError (s : State) (c a : Nat) : Bool := (decodeAddr s c a).elim true (reservedRow s c)

/-- The request of a packet as it enters the queue of port `p`: with the class of the port, and arriving now (R239, R244). -/
def queueEntry (s : State) (c p op : Nat) (r : DramRequest) : DramReq :=
  ⟨p, op, r.addr, r.n, r.tag, requestMask op r.addr r.n r.mask, List.replicate (r.addr % 16) 0 ++ r.data,
    s.get (DRM_PORT_cls c p), s.timebase, false, false, none⟩

/-- A request enters the channel, and the responses that may leave do. -/
def enqueue (s : State) (c : Nat) (q : DramReq) : State :=
  dramSettle (setDram s c { dramOf s c with reqs := insertReq q (dramOf s c).reqs }) c

section
variable {s : State} {c p op : Nat} {r : DramRequest}

theorem addressError_of_beyond {a : Nat} (h : decodeAddr s c a = none) : addressError s c a = true := by
  rw [addressError, h, Option.elim_none]

theorem addressError_of_place {a : Nat} {l : DramLoc} (h : decodeAddr s c a = some l) :
    addressError s c a = reservedRow s c l := by
  rw [addressError, h, Option.elim_some]

/-- With no whole packet, or a channel that takes no request, the FIFO's entries are all that is taken. -/
theorem sdramRequest_of_waits (h : requestHere (packetTake s c (p / 2)) c (p / 2) = none ∨
    dramTakes (packetTake s c (p / 2)) c = false) : sdramRequest s c p op = packetTake s c (p / 2) := by
  unfold sdramRequest
  cases hhere : requestHere (packetTake s c (p / 2)) c (p / 2) with
  | none => simp only [hhere]
  | some r =>
    have hclosed := h.resolve_left (by simp [hhere])
    simp only [hhere, hclosed, true_or, if_true]

/-- A sound packet of the operation and the port named is queued, unless its address is in error. -/
theorem sdramRequest_of_sound (hhere : requestHere (packetTake s c (p / 2)) c (p / 2) = some r)
    (htakes : dramTakes (packetTake s c (p / 2)) c = true) (hport : r.port = p) (hop : r.op = op)
    (hsound : r.sound = true) (haborted : r.aborted = false) :
    sdramRequest s c p op =
      let u := packetGone (packetTake s c (p / 2)) c (p / 2)
      if addressError u c r.addr then answerOnly u c p r.n r.tag 3 else enqueue u c (queueEntry u c p op r) := by
  have hact : ¬ (dramTakes (packetTake s c (p / 2)) c = false ∨ r.port ≠ p ∨ r.op ≠ op ∨ r.sound = false ∨
      r.aborted = true) := by
    simp [htakes, hport, hop, hsound, haborted]
  unfold sdramRequest addressError
  simp only [hhere, if_neg hact]
  cases decodeAddr (packetGone (packetTake s c (p / 2)) c (p / 2)) c r.addr <;> rfl

end

/-! ## The requests' commands -/

theorem exec_sdramRead (s : State) (c : Fin 2) (p : Fin 16) :
    exec (.sdramRead c p) s = .next (sdramRequest s c.val p.val 0) := rfl

theorem exec_sdramWrite (s : State) (c : Fin 2) (p : Fin 16) :
    exec (.sdramWrite c p) s = .next (sdramRequest s c.val p.val 1) := rfl

theorem exec_sdramMaskedWrite (s : State) (c : Fin 2) (p : Fin 16) :
    exec (.sdramMaskedWrite c p) s = .next (sdramRequest s c.val p.val 2) := rfl

theorem exec_sdramRequestFault (s : State) (c : Fin 2) (p : Fin 16) :
    exec (.sdramRequestFault c p) s = .next (requestFault s c.val p.val) := rfl

theorem exec_sdramAccessDone (s : State) (c : Fin 2) (p : Fin 16) (idx : Nat) (flips : List DramFlip) :
    exec (.sdramAccessDone c p idx flips) s = .next (accessDone s c.val p.val idx flips) := rfl

theorem exec_sdramRequestAged (s : State) (c : Fin 2) (p : Fin 16) (idx : Nat) : exec (.sdramRequestAged c p idx) s =
    .next ((requestAt s c.val p.val idx).elim s (fun e => requestAged s c.val e.1 e.2)) := rfl

theorem exec_sdramRequestLate (s : State) (c : Fin 2) (p : Fin 16) (idx : Nat) : exec (.sdramRequestLate c p idx) s =
    .next ((requestAt s c.val p.val idx).elim s (fun e => requestLate s c.val e.1 e.2)) := rfl

/-- Settles O37: a packet waits by `sdramRequest_of_waits`, and is queued or refused by `sdramRequest_of_sound`, as its address
is in error or not; an access, a fault and an immediate answer are their operations written out, and ageing looks at the
request that stands at the place named, if any does. -/
theorem sdramRequests : Obligations.SdramRequests := by
  unfold Obligations.SdramRequests
  refine ⟨?commands, ?queued, ?refused, ?waits, ?fault, ?access, ?aged, ?late, ?answer⟩
  case commands =>
    intro s c p
    exact ⟨exec_sdramRead s c p, exec_sdramWrite s c p, exec_sdramMaskedWrite s c p⟩
  case queued =>
    intro s c p op r l t hhere htakes hport hop hsound haborted u hplace hopen
    rw [sdramRequest_of_sound hhere htakes hport hop hsound haborted]
    exact if_neg (by rw [addressError_of_place hplace, hopen]; decide)
  case refused =>
    intro s c p op r t hhere htakes hport hop hsound haborted u hbad
    rw [sdramRequest_of_sound hhere htakes hport hop hsound haborted]
    refine if_pos ?_
    rcases hbad with hbeyond | ⟨l, hplace, hreserved⟩
    · exact addressError_of_beyond hbeyond
    · rw [addressError_of_place hplace, hreserved]
  case waits =>
    intro s c p op h
    exact sdramRequest_of_waits h
  case fault =>
    intro s c p
    rw [exec_sdramRequestFault]
    rfl
  case access =>
    intro s c p idx flips
    rw [exec_sdramAccessDone]
    rfl
  case aged =>
    intro s c p idx
    rw [exec_sdramRequestAged]
    cases requestAt s c.val p.val idx <;> rfl
  case late =>
    intro s c p idx
    rw [exec_sdramRequestLate]
    cases requestAt s c.val p.val idx <;> rfl
  case answer =>
    intro s c p n tag status
    rw [answerOnly]

end Sys2Proof.Machine
end

section
/-! Upkeep of the SDRAM channels: refresh and temperature (R248), patrol (R249), self-refresh (R250, R274), repair (R251,
R252), alerts and clears (R253, R255). -/
namespace Sys2Proof.Machine
open Sys2Proof

/-! ## Refresh, patrol, self-refresh -/

theorem exec_sdramRefreshDue (s : State) (c rank : Fin 2) :
    exec (.sdramRefreshDue c rank) s = .next (refreshDue s c.val rank.val) := rfl

theorem exec_sdramTempRead (s : State) (c : Fin 2) (die : BitVec 10) (mpr : Option (BitVec 10)) :
    exec (.sdramTempRead c die mpr) s = .next (tempRead s c.val die.toNat mpr) := rfl

theorem exec_sdramRefresh1x (s : State) (c : Fin 2) : exec (.sdramRefresh1x c) s =
    .next (if s.get (DRM_REF_tsrc c.val) ≠ 2 ∧ s.get (DRM_REF_temp c.val) ≤ 584 then setMode2x s c.val false else s) := rfl

theorem exec_sdramPatrolRead (s : State) (c : Fin 2) (flips : List DramFlip) :
    exec (.sdramPatrolRead c flips) s = .next (patrolRead s c.val flips) := rfl

theorem exec_sdramSelfRefreshEnter (s : State) (c : Fin 2) :
    exec (.sdramSelfRefreshEnter c) s = .next (selfRefreshEnter s c.val) := rfl

theorem exec_sdramSelfRefreshExit (s : State) (c : Fin 2) :
    exec (.sdramSelfRefreshExit c) s = .next (selfRefreshExit s c.val) := rfl

/-! ## Repair, alerts, clears -/

theorem exec_sdramLiveRemapDone (s : State) (c : Fin 2) :
    exec (.sdramLiveRemapDone c) s = .next (if dramServes s c.val then liveRemapDone s c.val else s) := rfl

theorem exec_sdramPprRequest (s : State) (c : Fin 2) : exec (.sdramPprRequest c) s =
    .next (if s.flag (DRM_CFG_ppr_en c.val) then s
      else setDram s c.val { dramOf s c.val with pprPending := true }) := rfl

theorem exec_sdramPprWithdraw (s : State) (c : Fin 2) : exec (.sdramPprWithdraw c) s =
    .next (setPpr (setDram s c.val { dramOf s c.val with pprPending := false }) c.val false) := rfl

theorem exec_sdramPprRecorded (s : State) (c : Fin 2) : exec (.sdramPprRecorded c) s =
    .next (if (dramOf s c.val).pprPending then
      setPpr (setDram s c.val { dramOf s c.val with pprPending := false }) c.val true else s) := rfl

theorem exec_sdramParityAlert (s : State) (c : Fin 2) :
    exec (.sdramParityAlert c) s = .next (parityAlert s c.val) := rfl

theorem exec_sdramAlertRelease (s : State) (c : Fin 2) : exec (.sdramAlertRelease c) s =
    .next (closeRows (setDram s c.val { dramOf s c.val with alert := false }) c.val none) := rfl

theorem exec_sdramEccClear (s : State) (c : Fin 2) : exec (.sdramEccClear c) s =
    .next ((s.setWord (DRM_ECC_LAST c.val) 0).setWord (DRM_ECC_SYN c.val) 0) := rfl

theorem exec_sdramCntClear (s : State) (c : Fin 2) : exec (.sdramCntClear c) s =
    .next ((s.setWord (DRM_ECC c.val) 0).setWord (DRM_CNT c.val) 0) := rfl

/-- Settles O38: each clause is the operation of its command written out; the commands with no operation of their own are their
equations, and the withdrawal of a repair is `setPpr` at the state that has no repair pending. -/
theorem sdramUpkeepAndRepair : Obligations.SdramUpkeepAndRepair := by
  unfold Obligations.SdramUpkeepAndRepair
  refine ⟨?refresh, ?temperature, exec_sdramRefresh1x, ?patrol, ?enter, ?exit, exec_sdramLiveRemapDone,
    exec_sdramPprRequest, ?withdraw, exec_sdramPprRecorded, ?alert, exec_sdramAlertRelease, exec_sdramEccClear,
    exec_sdramCntClear, ?mode, ?remap⟩
  case refresh =>
    intro s c rank
    rw [exec_sdramRefreshDue, refreshDue]
  case temperature =>
    intro s c die mpr
    rw [exec_sdramTempRead]
    rfl
  case patrol =>
    intro s c flips
    rw [exec_sdramPatrolRead, patrolRead]
  case enter =>
    intro s c
    rw [exec_sdramSelfRefreshEnter, selfRefreshEnter]
  case exit =>
    intro s c
    rw [exec_sdramSelfRefreshExit, selfRefreshExit]
  case withdraw =>
    intro s c
    rw [exec_sdramPprWithdraw, setPpr]
  case alert =>
    intro s c
    rw [exec_sdramParityAlert]
    rfl
  case mode =>
    intro s c b
    rw [setMode2x]
  case remap =>
    intro s c
    rfl

end Sys2Proof.Machine
end

section
/-! Start-up and cold resets (Tables 16.2, 16.4; R413, R419): what each command does and what a cold reset keeps. -/
namespace Sys2Proof.Machine
open Sys2Proof

/-! ## From the supplies to the root lock -/

theorem exec_supplyRise (s : State) : exec .supplyRise s = .next (supplyRise s) := rfl

theorem exec_powerOnResetRelease (s : State) (pdc : BitVec 12) (n : Bool) :
    exec (.powerOnResetRelease pdc n) s = .next (porRelease s pdc n) := rfl

theorem exec_rootPllLock (s : State) : exec .rootPllLock s = .next (rootLock s) := rfl

/-- Settles O1: each step is its operation written out, and acts in the phase that the step before it leaves. -/
theorem startUpStepsToTheRootLock : Obligations.StartUpStepsToTheRootLock := by
  unfold Obligations.StartUpStepsToTheRootLock
  refine ⟨?rise, ?release, ?lock⟩
  case rise =>
    intro s
    rw [exec_supplyRise, supplyRise]
  case release =>
    intro s pdc n
    rw [exec_powerOnResetRelease, porRelease]
  case lock =>
    intro s
    rw [exec_rootPllLock, rootLock]

/-! ## The causes of a cold reset -/

theorem exec_porst (s : State) :
    exec .porst s = .next (if s.pwr.phase = .cold then s else coldReset s 1 .supplies) := rfl

theorem exec_brownout (s : State) : exec .brownout s = .next (if s.pwr.phase = .cold then s
    else ((coldReset s 3 .cold).put PWR_SUP_sup 0).setPwr { (coldReset s 3 .cold).pwr with pwrRun := false }) := rfl

theorem exec_refLost (s : State) : exec .refLost s = .next (refLost s) := rfl

theorem exec_rootPllLockLost (s : State) : exec .rootPllLockLost s = .next (lockLost s) := rfl

/-- The root lock is watched in RUN and through SIMMER only: its loss in any other phase is no reset. -/
theorem lockLost_eq (s : State) : lockLost s = if s.pwr.phase = .run ∨ s.pwr.phase = .simmerEntry ∨
    s.pwr.phase = .simmer ∨ s.pwr.phase = .simmerExit then
      { coldReset s 2 .released with mgc := { (coldReset s 2 .released).mgc with refCause := some false } } else s := by
  unfold lockLost
  cases s.pwr.phase <;> rfl

/-- Settles O2: the first three causes are their operations written out; a lost root lock is judged phase by phase
(`lockLost_eq`). -/
theorem coldResetCauses : Obligations.ColdResetCauses := by
  unfold Obligations.ColdResetCauses
  refine ⟨exec_porst, exec_brownout, ?reference, ?rootLock⟩
  case reference =>
    intro s
    rw [exec_refLost, refLost]
  case rootLock =>
    intro s
    rw [exec_rootPllLockLost, lockLost_eq]

/-! ## What lasts -/

/-- What a cold reset hands on: the queue, the flashes and the keys, then the repair record, the shutdown test record, the
hours and the node-ID. -/
def lasting (s : State) : (List Instr × Tbl Octet × Tbl Octet × BitVec 256 × BitVec 256) ×
    RepairRecord × Option ShutdownRecord × BitVec 20 × BitVec 9 :=
  ((s.pending, s.cfg.flashA, s.cfg.flashB, s.cfg.efuse, s.cfg.bbKey),
    s.mtp.repair, s.mtp.shutdown, s.mtp.hours, s.mtp.nodeId)

theorem lasting_put (s : State) (f : Field) (v : Nat) : lasting (s.put f v) = lasting s := rfl

/-- A write of the repair record that is cut short spoils the copy it wrote, not the record. -/
theorem lasting_cutRepair (s : State) : lasting (cutRepair s) = lasting s := by
  simp only [cutRepair]
  split <;> rfl

/-- A write of the calibration bank that is cut short spoils its section only. -/
theorem lasting_cutCal (s : State) : lasting (cutCal s) = lasting s := by
  unfold cutCal
  split <;> rfl

/-- The reset cuts the writes of the MTP short and starts afresh beside what it hands on; the fields it then puts back are
registers. -/
theorem lasting_coldReset (s : State) (cause : Nat) (p : Phase) : lasting (coldReset s cause p) = lasting s := by
  have hcut : lasting (cutRepair (cutCal s)) = lasting s := (lasting_cutRepair _).trans (lasting_cutCal s)
  rw [← hcut, coldReset, lasting_put]
  refine (foldl_leaves lasting (by intros; rfl) _).trans ?_
  refine (foldl_leaves lasting (by intros; rfl) _).trans ?_
  exact foldl_leaves lasting (by intros; rfl) _

theorem get_coldReset_cause (s : State) {cause : Nat} (p : Phase) (h : cause < 8) :
    (coldReset s cause p).get CLK_STAT_cause = cause := by
  rw [coldReset, get_put_self _ _ _ (by decide)]
  exact Nat.mod_eq_of_lt h

/-- Settles O3: what the reset hands on is `lasting_coldReset`; the log, the phase and the timebase are the fresh state's, and
the cause is the last field written. -/
theorem coldResetKeepsWhatLasts : Obligations.ColdResetKeepsWhatLasts := by
  unfold Obligations.ColdResetKeepsWhatLasts
  intro s cause p
  have hlasting := lasting_coldReset s cause p
  simp only [lasting, Prod.mk.injEq] at hlasting
  obtain ⟨⟨hpending, hflashA, hflashB, hefuse, hbbKey⟩, hrepair, hshutdown, hhours, hnode⟩ := hlasting
  exact ⟨hpending, hflashA, hflashB, hefuse, hbbKey, hrepair, hshutdown, hhours, hnode, rfl, rfl, rfl,
    get_coldReset_cause s p⟩

end Sys2Proof.Machine
end

section
/-! Hearths that wake, rejoin and are isolated (R354, R424, R425), and their reloads (R355, R356). -/
namespace Sys2Proof.Machine
open Sys2Proof

/-! ## Isolation -/

theorem exec_hearthIsolate (s : State) (h : Fin 36) : exec (.hearthIsolate h) s =
    .next (if s.mgcFull then isoCommanded (isolateWrite s h.val) else s) := rfl

theorem exec_hearthIsolateRelease (s : State) (h : Fin 36) : exec (.hearthIsolateRelease h) s =
    .next (if s.bit SCB_HRL_BAD_bad h.val || !s.mgcFull then s else isoCommanded (releaseWrite s h.val)) := rfl

/-- A hearth that no failed load keeps isolated takes the write of 0 (R354). -/
theorem releaseWrite_of_not_bad {s : State} {h : Fin 36} (hbad : s.bit SCB_HRL_BAD_bad h.val = false) :
    releaseWrite s h.val =
      (let t := s.putBit SCB_ISO_iso h.val false
       if t.bit SCB_HRL_REQ_req h.val && !t.scb.written.contains h then t
       else if hearthSt t h.val = .isolated then
         let u := isoStat (reinsert t h.val) h.val
         { u with scb := { u.scb with written := u.scb.written.filter (· != h) } }
       else t) := by
  simp only [releaseWrite, reloading, hbad, Fin.ofNat_val_eq_self, Bool.false_eq_true, if_false]

/-! ## Waking -/

theorem exec_hearthWakeSlot (s : State) : exec .hearthWakeSlot s = .next (wakeSlot s) := rfl

theorem exec_singleHearthWake (s : State) (h : Fin 36) :
    exec (.singleHearthWake h) s = .next (singleWake s h.val) := rfl

/-- Settles O14: the two writes take the branch that the MGC's service and SCB_HRL_BAD pick, the release by
`releaseWrite_of_not_bad`; the wakes are their operations written out. -/
theorem hearthsWakeAndIsolate : Obligations.HearthsWakeAndIsolate := by
  unfold Obligations.HearthsWakeAndIsolate
  refine ⟨?unserved, ?isolate, ?bad, ?release, ?slot, ?single⟩
  case unserved =>
    intro s h hfull
    rw [exec_hearthIsolate, exec_hearthIsolateRelease, hfull, Bool.not_false, Bool.or_true]
    exact ⟨rfl, rfl⟩
  case isolate =>
    intro s h hfull
    rw [exec_hearthIsolate, if_pos hfull, isolateWrite]
    rfl
  case bad =>
    intro s h hbad
    rw [exec_hearthIsolateRelease, hbad, Bool.true_or, if_pos rfl]
  case release =>
    intro s h hfull hbad
    rw [exec_hearthIsolateRelease, releaseWrite_of_not_bad hbad, hbad, hfull]
    rfl
  case slot =>
    intro s
    rw [exec_hearthWakeSlot]
    rfl
  case single =>
    intro s h
    rw [exec_singleHearthWake, singleWake]
    rfl

/-! ## Reloads -/

theorem exec_hearthReloadRequest (s : State) (h : Fin 36) (c : ReloadCause) :
    exec (.hearthReloadRequest h c) s = .next (reloadRequest s h c false) := rfl

theorem exec_hearthReloadRetry (s : State) (h : Fin 36) : exec (.hearthReloadRetry h) s = .next (reloadRetry s h) := rfl

/-- Settles O15: a request, a retry and the acceptance are the named operations written out. -/
theorem reloadRequests : Obligations.ReloadRequests := by
  unfold Obligations.ReloadRequests
  refine ⟨?request, ?retry, ?accept⟩
  case request =>
    intro s h c
    rw [exec_hearthReloadRequest, reloadRequest]
    rfl
  case retry =>
    intro s h
    rw [exec_hearthReloadRetry]
    rfl
  case accept =>
    intro s rl
    rw [reloadAccept]

end Sys2Proof.Machine
end

section
/-! Power states (R426 to R433): what each command and each step of SIMMER and BANKED does. -/
namespace Sys2Proof.Machine
open Sys2Proof

/-! ## The commands -/

theorem exec_pwrCmdSimmer (s : State) : exec .pwrCmdSimmer s =
    .next (if s.mgcServing then cmdSimmer (commandIf s false (powerRefusal s).isNone 34 1) else s) := rfl

theorem exec_pwrCmdRun (s : State) : exec .pwrCmdRun s =
    .next (if s.mgcServing then cmdRun (commandIf s false (powerRefusal s).isNone 34 0) else s) := rfl

theorem exec_pwrCmdBanked (s : State) : exec .pwrCmdBanked s =
    .next (if s.mgcServing then cmdBanked (commandIf s false (powerRefusal s).isNone 34 2) else s) := rfl

/-! ## SIMMER and BANKED -/

theorem exec_simmerClockDivide (s : State) : exec .simmerClockDivide s = .next (clockDivide s) := rfl

theorem exec_simmerConfirmTimeout (s : State) : exec .simmerConfirmTimeout s =
    .next (if s.pwr.phase = .simmerEntry ∧ s.pwr.rampDone = true ∧ s.mgcServing = true then simmerFail s else s) := rfl

theorem exec_bankedEntryComplete (s : State) : exec .bankedEntryComplete s = .next (bankedDone s) := rfl

theorem exec_bankedSuppliesReady (s : State) : exec .bankedSuppliesReady s = .next (bankedReady s) := rfl

theorem exec_bankedSupplyLate (s : State) (supplies : BitVec 2) :
    exec (.bankedSupplyLate supplies) s = .next (bankedLate s supplies) := rfl

theorem exec_bankedWake (s : State) (src : WakeSource) : exec (.bankedWake src) s = .next (bankedWake s src) := rfl

/-- With the reference there, a wake event in BANKED is recorded and starts the exit at once (R433). -/
theorem wakeEvent_of_banked {s : State} (hphase : s.pwr.phase = .banked) (href : s.flag CLK_STAT_ref_ok = true)
    (kind src : Nat) : wakeEvent s kind src =
      (let t := setCommanded (((s.put PWR_STAT_wkind kind).put PWR_STAT_wsrc src).put PWR_CTL_cmd 0) 34 0
       setPhase { t with pwr := { t.pwr with pwrRun := true } } .bankedExit) := by
  simp only [wakeEvent, hphase, href, Bool.true_eq_false, if_false]

/-- Settles O55: a command takes the branch of the MGC's service; a wake event in BANKED goes through `wakeEvent_of_banked`,
each source of a wake through `bankedWake`'s own case; the other clauses are the named operations written out. -/
theorem powerStates : Obligations.PowerStates := by
  unfold Obligations.PowerStates
  refine ⟨?unserved, ?simmer, ?run, ?banked, ?divide, exec_simmerConfirmTimeout, ?entered, ?ready, ?late, ?sources, ?wake,
    ?refusal, ?leave, ?ramped, ?failed, ?pin⟩
  case unserved =>
    intro s hserving
    rw [exec_pwrCmdSimmer, exec_pwrCmdRun, exec_pwrCmdBanked, hserving]
    exact ⟨rfl, rfl, rfl⟩
  case simmer =>
    intro s hserving
    rw [exec_pwrCmdSimmer, if_pos hserving]
    rfl
  case run =>
    intro s hserving
    rw [exec_pwrCmdRun, if_pos hserving]
    rfl
  case banked =>
    intro s hserving
    rw [exec_pwrCmdBanked, if_pos hserving]
    rfl
  case divide =>
    intro s
    rw [exec_simmerClockDivide, clockDivide]
  case entered =>
    intro s
    rw [exec_bankedEntryComplete, bankedDone]
  case ready =>
    intro s
    rw [exec_bankedSuppliesReady]
    rfl
  case late =>
    intro s supplies
    rw [exec_bankedSupplyLate, bankedLate]
  case sources =>
    intro s b k t m
    simp only [exec_bankedWake, bankedWake, and_self]
  case wake =>
    intro s kind src hphase href
    exact wakeEvent_of_banked hphase href kind src
  case refusal =>
    intro s
    rw [powerRefusal]
  case leave =>
    intro s
    rw [simmerLeave]
  case ramped =>
    intro s
    rw [rampEnd]
  case failed =>
    intro s
    rw [simmerFail]
  case pin =>
    intro s b k
    rw [wakePin]

end Sys2Proof.Machine
end

section
/-! The training of the SDRAM channels (R262 to R274): what each command and each shared step does. -/
namespace Sys2Proof.Machine
open Sys2Proof

theorem exec_sweepStepDone (s : State) (c : Fin 2) (v : BitVec 512) (ppr : List Bool) :
    exec (.sweepStepDone c v ppr) s = .next (sweepStep s c.val v ppr) := rfl

theorem exec_sweepRequest (s : State) (c : Fin 2) : exec (.sweepRequest c) s = .next (sweepRequest s c.val) := rfl

theorem exec_gatheringStart (s : State) (c : Fin 2) : exec (.gatheringStart c) s = .next (gatherStart s c.val) := rfl

theorem exec_trainingPause (s : State) (c : Fin 2) : exec (.trainingPause c) s =
    .next (if s.get (DRM_TRN_STAT_phase c.val) = 2 ∧ (dramOf s c.val).alert = false ∧ (dramOf s c.val).rateReq = none then
      setDram s c.val { dramOf s c.val with pausing := true } else s) := rfl

theorem exec_pauseEnd (s : State) (c : Fin 2) (l : List (BitVec 17 × BitVec 17)) :
    exec (.pauseEnd c l) s = .next (pauseEnd s c.val l) := rfl

theorem exec_sdramRateRequest (s : State) (c : Fin 2) (r : BitVec 2) : exec (.sdramRateRequest c r) s =
    .next (if s.mgcFull then rateRequest (commandIf s false (r != 3) (31 + c.val) r.toNat) c.val r.toNat else s) := rfl

theorem exec_rateChangeBegin (s : State) (c : Fin 2) : exec (.rateChangeBegin c) s = .next (rateBegin s c.val) := rfl

theorem exec_sdramCheckDone (s : State) (c : Fin 2) (l : List (List (BitVec 17 × BitVec 17))) :
    exec (.sdramCheckDone c l) s = .next (checkDone s c.val l) := rfl

/-- Settles O39: a rate request takes the branch of `mgcFull`; the other commands, the start and the end of a sweep, and the
end of a gathering are the named operations written out. -/
theorem trainingSteps : Obligations.TrainingSteps := by
  unfold Obligations.TrainingSteps
  refine ⟨?step, ?sweep, ?gather, exec_trainingPause, ?pauseEnd, ?unserved, ?rate, ?begin, ?check, ?started, ?ended,
    ?gathered⟩
  case step =>
    intro s c v ppr
    rw [exec_sweepStepDone]
    rfl
  case sweep =>
    intro s c
    rw [exec_sweepRequest, sweepRequest]
  case gather =>
    intro s c
    rw [exec_gatheringStart, gatherStart]
  case pauseEnd =>
    intro s c l
    rw [exec_pauseEnd, pauseEnd]
  case unserved =>
    intro s c r hfull
    rw [exec_sdramRateRequest, hfull]
    rfl
  case rate =>
    intro s c r hfull
    rw [exec_sdramRateRequest, if_pos hfull, rateRequest]
  case begin =>
    intro s c
    rw [exec_rateChangeBegin]
    rfl
  case check =>
    intro s c l
    rw [exec_sdramCheckDone, checkDone]
  case started =>
    intro s c r k
    rw [sweepStart]
  case ended =>
    intro s c
    rfl
  case gathered =>
    intro s c
    rw [gatherEnd]

end Sys2Proof.Machine
end

section
/-! Bank supplies, pins, ports and tumblers (chapter 12): what each command does. -/
namespace Sys2Proof.Machine
open Sys2Proof

/-! ## Supplies and levels -/

theorem exec_bankSupplyChange (s : State) (b : Fin 12) (mv : BitVec 13) :
    exec (.bankSupplyChange b mv) s = .next (supplyChange s b.val mv.toNat) := rfl

theorem exec_bankSupplyAgreed (s : State) (b : Fin 12) :
    exec (.bankSupplyAgreed b) s = .next (supplyAgreed s b.val) := rfl

theorem exec_bankSupplyLost (s : State) (b : Fin 12) : exec (.bankSupplyLost b) s = .next (supplyLost s b.val) := rfl

theorem exec_pinLevelChange (s : State) (b : Fin 12) (p : Fin 36) (level : Option Bool) :
    exec (.pinLevelChange b p level) s = .next (levelChange s b.val p.val level) := rfl

theorem exec_wakePinEdge (s : State) (b : Fin 12) (k : Fin 4) :
    exec (.wakePinEdge b k) s = .next (wakePin s b.val k.val) := rfl

/-- Settles O40: each clause is the operation of its command written out. -/
theorem bankSuppliesAndPinLevels : Obligations.BankSuppliesAndPinLevels := by
  unfold Obligations.BankSuppliesAndPinLevels
  refine ⟨?change, ?agreed, ?lost, ?level, ?wake⟩
  case change =>
    intro s b mv
    rw [exec_bankSupplyChange, supplyChange]
  case agreed =>
    intro s b
    rw [exec_bankSupplyAgreed, supplyAgreed]
  case lost =>
    intro s b
    rw [exec_bankSupplyLost, supplyLost]
  case level =>
    intro s b p level
    rw [exec_pinLevelChange, levelChange]
  case wake =>
    intro s b k
    rw [exec_wakePinEdge, wakePin]

/-! ## Outputs and configurations -/

theorem exec_pinMaskedWrite (s : State) (b : Fin 12) (m v : W36) : exec (.pinMaskedWrite b m v) s =
    .next (if s.mgcFull then queueWrite s false b.val m v else s) := rfl

theorem exec_pinDoutWrite (s : State) (fabric : Bool) (b : Fin 12) (v : W36) : exec (.pinDoutWrite fabric b v) s =
    .next (if (if fabric then pinWindow s else s.mgcFull) then queueWrite s fabric b.val (BitVec.allOnes 36) v
      else s) := rfl

theorem exec_pinDoutApply (s : State) (b : Fin 12) : exec (.pinDoutApply b) s = .next (doutApply s b.val) := rfl

theorem exec_pinPulseEnd (s : State) (b : Fin 12) (p : Fin 36) : exec (.pinPulseEnd b p) s =
    .next (s.setPins { s.pins with
      pulse := setMask s.pins.pulse b.val (maskAt s.pins.pulse b.val &&& ~~~ pinBit p.val) }) := rfl

theorem exec_gpevPulseEnd (s : State) (b : Fin 12) (p : Fin 36) : exec (.gpevPulseEnd b p) s =
    .next (s.setPins { s.pins with
      gpev := setMask s.pins.gpev b.val (maskAt s.pins.gpev b.val &&& ~~~ pinBit p.val) }) := rfl

theorem exec_pinCfgStage (s : State) (b : Fin 12) (p : Fin 36) (w : W36) :
    exec (.pinCfgStage b p w) s = .next (cfgStage s b.val p.val w) := rfl

theorem exec_pinApply (s : State) (b : Fin 12) (m : W36) : exec (.pinApply b m) s = .next (applyGroup s b.val m) := rfl

theorem exec_pinSwitchTake (s : State) (b : Fin 12) : exec (.pinSwitchTake b) s = .next (switchTake s b.val) := rfl

/-- Settles O41: writes of the data register and ends of pulses are their commands' equations; staging, applying and
switching are the named operations written out. -/
theorem pinOutputsAndConfiguration : Obligations.PinOutputsAndConfiguration := by
  unfold Obligations.PinOutputsAndConfiguration
  refine ⟨exec_pinMaskedWrite, exec_pinDoutWrite, ?apply, exec_pinPulseEnd, exec_gpevPulseEnd, ?stage, ?group, ?switch⟩
  case apply =>
    intro s b
    rw [exec_pinDoutApply, doutApply]
  case stage =>
    intro s b p w
    rw [exec_pinCfgStage, cfgStage]
  case group =>
    intro s b m
    rw [exec_pinApply]
    rfl
  case switch =>
    intro s b
    rw [exec_pinSwitchTake, switchTake]

/-! ## Ports and tumblers -/

theorem exec_portInputStrobe (s : State) (g : Fin 48) : exec (.portInputStrobe g) s = .next (portStrobe s g.val) := rfl

theorem exec_portOutputEntry (s : State) (g : Fin 48) : exec (.portOutputEntry g) s = .next (portEntry s g.val) := rfl

theorem exec_tumblerFilterExpiry (s : State) (t : Fin 24) (pat : Fin 4) :
    exec (.tumblerFilterExpiry t pat) s = .next (filterExpiry s t.val pat.val) := rfl

theorem exec_tumblerWindowTimeout (s : State) (t : Fin 24) :
    exec (.tumblerWindowTimeout t) s = .next (windowTimeout s t.val) := rfl

theorem exec_tumblerStrictReturn (s : State) (t : Fin 24) :
    exec (.tumblerStrictReturn t) s = .next (strictReturn s t.val) := rfl

theorem exec_tumblerConfigWrite (s : State) (t : Fin 24) (r : Fin 9) (w : W36) :
    exec (.tumblerConfigWrite t r w) s = .next (tmbWrite s t.val r.val w) := rfl

theorem exec_tumblerStatClear (s : State) (t : Fin 24) : exec (.tumblerStatClear t) s =
    .next ((s.put (PIN_TMB_STAT_matches t.val) 0).put (PIN_TMB_STAT_timeouts t.val) 0) := rfl

/-- Settles O42: each clause is the operation of its command written out. -/
theorem portsAndTumblers : Obligations.PortsAndTumblers := by
  unfold Obligations.PortsAndTumblers
  refine ⟨?strobe, ?entry, ?filter, ?window, ?strict, ?write, exec_tumblerStatClear⟩
  case strobe =>
    intro s g
    rw [exec_portInputStrobe, portStrobe]
  case entry =>
    intro s g
    rw [exec_portOutputEntry]
    rfl
  case filter =>
    intro s t pat
    rw [exec_tumblerFilterExpiry, filterExpiry]
  case window =>
    intro s t
    rw [exec_tumblerWindowTimeout, windowTimeout]
  case strict =>
    intro s t
    rw [exec_tumblerStrictReturn, strictReturn]
  case write =>
    intro s t r w
    rw [exec_tumblerConfigWrite, tmbWrite]

end Sys2Proof.Machine
end

section
/-! Loading, the keyring and the flashes (chapter 13): what each command does. -/
namespace Sys2Proof.Machine
open Sys2Proof

/-! ## Loads -/

theorem exec_discoveryDone (s : State) (a b : FlashInfo) :
    exec (.discoveryDone a b) s = .next (discoveryDone s a b) := rfl

theorem exec_chunkRead (s : State) (errs : List (Fin 4096 × Octet)) :
    exec (.chunkRead errs) s = .next (flashResume (chunkRead s errs)) := rfl

theorem exec_wardCheckDone (s : State) : exec .wardCheckDone s = .next (wardCheckDone s) := rfl

theorem exec_configClearDone (s : State) : exec .configClearDone s = .next (clearDone s) := rfl

theorem exec_warmRecommit (s : State) : exec .warmRecommit s = .next (warmRecommit s) := rfl

theorem exec_hearthStreamRead (s : State) : exec .hearthStreamRead s = .next (hearthStreamRead s) := rfl

theorem exec_hearthStreamCheckDone (s : State) :
    exec .hearthStreamCheckDone s = .next (flashResume (hearthCheckDone s)) := rfl

/-- Settles O43: each clause is the operation of its command written out, then the read of a chunk, the check of a hearth's
stream and the failure of an image. -/
theorem loadSteps : Obligations.LoadSteps := by
  unfold Obligations.LoadSteps
  refine ⟨?discovery, exec_chunkRead, ?ward, ?clear, ?recommit, ?stream, exec_hearthStreamCheckDone, ?chunk, ?hearth, ?fail⟩
  case discovery =>
    intro s a b
    rw [exec_discoveryDone]
    rfl
  case ward =>
    intro s
    rw [exec_wardCheckDone]
    rfl
  case clear =>
    intro s
    rw [exec_configClearDone]
    rfl
  case recommit =>
    intro s
    rw [exec_warmRecommit]
    rfl
  case stream =>
    intro s
    rw [exec_hearthStreamRead]
    rfl
  case chunk =>
    intro s errs
    rfl
  case hearth =>
    intro s
    rfl
  case fail =>
    intro s img cause chunk
    rfl

/-! ## A stream that is complete -/

/-- Of a whole image whose last chunk is read, a failure lies in that chunk (R325). -/
theorem readFail_of_complete {r : Reader} (hcomplete : r.complete = true) (hhearth : r.hearth = none) (s : State)
    (cause : Nat) : readFail s r cause = imageFail s r.img cause (r.chunk - 1) := by
  simp only [readFail, failChunk, hhearth, hcomplete, if_true]

/-- Once the body is read, the tag is judged before anything that the ward check found (R323). -/
theorem wardCheckDone_of_complete {s : State} {r : Reader} (hreader : s.cfg.reader = some r) (hcomplete : r.complete = true)
    (hhearth : r.hearth = none) : wardCheckDone s =
      if tagOk s r = false then readFail s r 5
      else match r.failure <|> wholeCheck (streamState s r) r with
        | some w => wardFail s r w
        | none => commit s r := by
  have hended : ¬ (r.complete = false ∨ r.hearth.isSome = true) := by simp [hcomplete, hhearth]
  rw [wardCheckDone, hreader]
  exact if_neg hended

/-- Settles O56: with the stream complete the tag decides first (`wardCheckDone_of_complete`); both causes are failures of the
image (`readFail_of_complete`). -/
theorem onlyAMatchingTagCommits : Obligations.OnlyAMatchingTagCommits := by
  unfold Obligations.OnlyAMatchingTagCommits
  intro s r hreader hcomplete hhearth
  rw [exec_wardCheckDone, wardCheckDone_of_complete hreader hcomplete hhearth]
  constructor
  · intro htag
    rw [if_pos htag, readFail_of_complete hcomplete hhearth]
  · intro htag
    rw [if_neg (by simp [htag])]
    split <;> simp only [wardFail, readFail_of_complete hcomplete hhearth, *]

/-! ## The keyring -/

theorem exec_keyringProgramEfuse (s : State) (t : Transport) (r : Bool) :
    exec (.keyringProgramEfuse t r) s = .next (keyCommand s t 1 r true 0) := rfl

theorem exec_keyringWriteBbram (s : State) (t : Transport) (v : Bool) :
    exec (.keyringWriteBbram t v) s = .next (keyCommand s t 2 true v 0) := rfl

theorem exec_keyringZeroize (s : State) (t : Transport) :
    exec (.keyringZeroize t) s = .next (keyCommand s t 3 true true 0) := rfl

theorem exec_keyringBlowKeySrc (s : State) (t : Transport) (r : Bool) :
    exec (.keyringBlowKeySrc t r) s = .next (keyCommand s t 4 r true 0) := rfl

theorem exec_keyringBlowBbramOff (s : State) (t : Transport) (r : Bool) :
    exec (.keyringBlowBbramOff t r) s = .next (keyCommand s t 5 r true 0) := rfl

theorem exec_keyringBlowRbOff (s : State) (t : Transport) (r : Bool) :
    exec (.keyringBlowRbOff t r) s = .next (keyCommand s t 6 r true 0) := rfl

theorem exec_keyringBlowMinVer (s : State) (t : Transport) (r : Bool) :
    exec (.keyringBlowMinVer t r) s = .next (keyCommand s t 7 r true 0) := rfl

theorem exec_keyringProgramKindBase (s : State) (t : Transport) (r : Bool) (b : BitVec 8) :
    exec (.keyringProgramKindBase t r b) s = .next (keyCommand s t 8 r true b) := rfl

theorem exec_keyStage (s : State) (t : Transport) (key : BitVec 256) :
    exec (.keyStage t key) s = .next (keyStage s t key) := rfl

theorem exec_keyExpectedKcv (s : State) (t : Transport) (kcv : BitVec 18) :
    exec (.keyExpectedKcv t kcv) s = .next (keyExpect s t kcv) := rfl

theorem exec_keyringCommandDone (s : State) (ok : Bool) : exec (.keyringCommandDone ok) s = .next (keyDone s ok) := rfl

theorem exec_vbatLow (s : State) : exec .vbatLow s = .next (vbatLow s) := rfl

/-- Settles O44: the eight commands are `keyCommand` with their numbers; it, the staging and the end of a command are the
named operations written out. -/
theorem keyringCommands : Obligations.KeyringCommands := by
  unfold Obligations.KeyringCommands
  refine ⟨?keys, ?fuses, ?command, ?stage, ?expect, ?done, ?vbat⟩
  case keys =>
    intro s t r v
    exact ⟨exec_keyringProgramEfuse s t r, exec_keyringWriteBbram s t v, exec_keyringZeroize s t,
      exec_keyringBlowKeySrc s t r⟩
  case fuses =>
    intro s t r b
    exact ⟨exec_keyringBlowBbramOff s t r, exec_keyringBlowRbOff s t r, exec_keyringBlowMinVer s t r,
      exec_keyringProgramKindBase s t r b⟩
  case command =>
    intro s t cmd r v b
    rw [keyCommand]
  case stage =>
    intro s t key
    rw [exec_keyStage, keyStage]
  case expect =>
    intro s t kcv
    rw [exec_keyExpectedKcv, keyExpect]
  case done =>
    intro s ok
    rw [exec_keyringCommandDone]
    rfl
  case vbat =>
    intro s
    rw [exec_vbatLow, vbatLow]

/-! ## Flash service and readback -/

theorem exec_flashEraseSector (s : State) : exec .flashEraseSector s = .next (flashStart s 1) := rfl
theorem exec_flashEraseBlock (s : State) : exec .flashEraseBlock s = .next (flashStart s 2) := rfl
theorem exec_flashProgram (s : State) : exec .flashProgram s = .next (flashStart s 3) := rfl
theorem exec_flashCompare (s : State) : exec .flashCompare s = .next (flashStart s 4) := rfl
theorem exec_flashRead (s : State) : exec .flashRead s = .next (flashStart s 5) := rfl

theorem exec_flashServiceDone (s : State) (ok : Bool) : exec (.flashServiceDone ok) s = .next (flashDone s ok) := rfl

theorem exec_readbackIndexWrite (s : State) (w : W36) : exec (.readbackIndexWrite w) s = .next (readbackIndex s w) := rfl

theorem exec_readbackRead (s : State) : exec .readbackRead s = .next (readbackRead s) := rfl

/-- Settles O45: the five commands are `flashStart` with their numbers; it, the end of a command and the readback are the
named operations written out. -/
theorem flashService : Obligations.FlashService := by
  unfold Obligations.FlashService
  refine ⟨?writes, exec_flashRead, ?start, ?done, ?index, ?readback⟩
  case writes =>
    intro s
    exact ⟨exec_flashEraseSector s, exec_flashEraseBlock s, exec_flashProgram s, exec_flashCompare s⟩
  case start =>
    intro s cmd
    rw [flashStart]
  case done =>
    intro s ok
    rw [exec_flashServiceDone]
    rfl
  case index =>
    intro s w
    rw [exec_readbackIndexWrite, readbackIndex]
  case readback =>
    intro s
    rw [exec_readbackRead, readbackRead]

end Sys2Proof.Machine
end

section
/-! Test slices, the repair record, the shutdown test, the service hours and JTAG (chapter 14): what each command does. -/
namespace Sys2Proof.Machine
open Sys2Proof

/-! ## Slices -/

theorem exec_bistSliceStart (s : State) : exec .bistSliceStart s = .next (sliceStart s) := rfl

theorem exec_columnPrecopyDone (s : State) : exec .columnPrecopyDone s = .next (columnPrecopy s) := rfl

theorem exec_columnQuiesced (s : State) : exec .columnQuiesced s = .next (columnQuiesced s) := rfl

theorem exec_columnQuiesceTimeout (s : State) : exec .columnQuiesceTimeout s = execColumnQuiesceTimeout s := rfl

theorem exec_columnScanCopyDone (s : State) (ok : Bool) :
    exec (.columnScanCopyDone ok) s = .next (afterHandover (columnScanned s ok)) := rfl

theorem exec_columnTestDone (s : State) (run : TestRun) : exec (.columnTestDone run) s = .next (columnTested s run) := rfl

theorem exec_blockTestDone (s : State) (run : TestRun) : exec (.blockTestDone run) s = .next (blockTested s run) := rfl

theorem exec_laneTestDone (s : State) (run : TestRun) : exec (.laneTestDone run) s = .next (laneResult s run) := rfl

theorem exec_fifoTestDone (s : State) (run : TestRun) : exec (.fifoTestDone run) s = .next (fifoTested s run) := rfl

/-- Settles O47: each clause is the operation of its command written out, the handover's state picking its case, then the
scan copy, what a run amounts to, and the report and the record of a result. -/
theorem testSlices : Obligations.TestSlices := by
  unfold Obligations.TestSlices
  refine ⟨?start, ?precopy, ?quiesced, ?timeout, exec_columnScanCopyDone, ?column, ?block, ?lane, ?fifo, ?scanned, ?run,
    ?fail, ?result⟩
  case start =>
    intro s
    rw [exec_bistSliceStart]
    rfl
  case precopy =>
    intro s
    rw [exec_columnPrecopyDone]
    rfl
  case quiesced =>
    intro s
    rw [exec_columnQuiesced]
    rfl
  case timeout =>
    intro s
    rw [exec_columnQuiesceTimeout]
    rfl
  case column =>
    intro s run
    rw [exec_columnTestDone]
    rfl
  case block =>
    intro s run
    rw [exec_blockTestDone]
    rfl
  case lane =>
    intro s run
    rw [exec_laneTestDone]
    rfl
  case fifo =>
    intro s run
    rw [exec_fifoTestDone]
    rfl
  case scanned =>
    intro s ok
    rfl
  case run =>
    intro r
    rw [runResult]
  case fail =>
    intro s unit bits repaired
    rfl
  case result =>
    intro s result
    rw [sliceResult]

/-! ## Records and service -/

theorem exec_repairRecordWriteDone (s : State) (ok : Bool) :
    exec (.repairRecordWriteDone ok) s = .next (repairWritten s ok) := rfl

theorem exec_repairClearSdram (s : State) (t : Transport) (c : Fin 2) :
    exec (.repairClearSdram t c) s = .next (repairClear s t c) := rfl

theorem exec_shutdownTest (s : State) : exec .shutdownTest s = .next (shutdownTest s) := rfl

theorem exec_fullTestDone (s : State) (fails : List TestResult) (eligible incomplete : BitVec 24) (ms : BitVec 17) :
    exec (.fullTestDone fails eligible incomplete ms) s =
      .next (shutdownDone s fails eligible.toNat incomplete.toNat ms.toNat) := rfl

theorem exec_serviceHour (s : State) (hot : Bool) : exec (.serviceHour hot) s = .next (serviceHour s hot) := rfl

theorem exec_serviceHoursSave (s : State) :
    exec .serviceHoursSave s = .next (if s.mgcServing then hoursSave s else s) := rfl

/-- Settles O48: each clause is the operation of its command written out, and the save of the hours. -/
theorem recordsAndService : Obligations.RecordsAndService := by
  unfold Obligations.RecordsAndService
  refine ⟨?written, ?cleared, ?shutdown, ?done, ?hour, exec_serviceHoursSave, ?save⟩
  case written =>
    intro s ok
    rw [exec_repairRecordWriteDone]
    rfl
  case cleared =>
    intro s t c
    rw [exec_repairClearSdram, repairClear]
  case shutdown =>
    intro s
    rw [exec_shutdownTest]
    rfl
  case done =>
    intro s fails eligible incomplete ms
    rw [exec_fullTestDone, shutdownDone]
  case hour =>
    intro s hot
    rw [exec_serviceHour]
    rfl
  case save =>
    intro s
    rw [hoursSave]

/-! ## JTAG -/

theorem exec_jtagExtest (s : State) (en : Bool) :
    exec (.jtagExtest en) s = .next (jtagCurrent s 0x00 true .boundary en) := rfl

theorem exec_jtagIdcode (s : State) (en : Bool) :
    exec (.jtagIdcode en) s = .next (jtagCurrent s 0x01 false .idcode en) := rfl

theorem exec_jtagSamplePreload (s : State) (en : Bool) :
    exec (.jtagSamplePreload en) s = .next (jtagCurrent s 0x02 false .boundary en) := rfl

theorem exec_jtagClamp (s : State) (en : Bool) :
    exec (.jtagClamp en) s = .next (jtagCurrent s 0x04 true .bypass en) := rfl

theorem exec_jtagHighz (s : State) (en : Bool) :
    exec (.jtagHighz en) s = .next (jtagCurrent s 0x05 true .bypass en) := rfl

theorem exec_jtagExtestPulse (s : State) (en : Bool) :
    exec (.jtagExtestPulse en) s = .next (jtagCurrent s 0x0A true .boundary en) := rfl

theorem exec_jtagExtestTrain (s : State) (en : Bool) :
    exec (.jtagExtestTrain en) s = .next (jtagCurrent s 0x0B true .boundary en) := rfl

theorem exec_jtagBypass (s : State) (en : Bool) :
    exec (.jtagBypass en) s = .next (jtagCurrent s 0xFF false .bypass en) := rfl

theorem exec_jtagInstructionEnd (s : State) : exec .jtagInstructionEnd s = execJtagInstructionEnd s := rfl

/-- An instruction that controls pins acts only with the enable pin at 1, any other at once (R374). -/
theorem jtag_acts_and_controls (en controls : Bool) : ((en || !controls) && controls) = (en && controls) := by
  cases controls <;> simp

/-- The pins change hands where JTAG's hold of them and the instruction's claim differ (R374). -/
theorem jtagCurrent_eq (s : State) (op : BitVec 8) (controls : Bool) (reg : JtagReg) (en : Bool) :
    jtagCurrent s op controls reg en =
      (let t := s.put SCB_JTAG_en_pin (b2n en)
       let t := { t with jtag := if en || !controls then ⟨op, reg⟩ else ⟨0xFF, .bypass⟩ }
       if t.flag SCB_JTAG_ext = false ∧ (en && controls) = true then jtagTake t
       else if t.flag SCB_JTAG_ext = true ∧ (en && controls) = false then jtagRelease t
       else t) := by
  simp only [jtagCurrent, jtag_acts_and_controls]
  split <;> simp only [*, and_self, Bool.true_eq_false, Bool.false_eq_true, and_false, false_and, if_true, if_false]

/-- Settles O49: every instruction is `jtagCurrent` with its opcode and register, of which `jtagCurrent_eq` says when the
pins are taken and given back. -/
theorem jtagInstructions : Obligations.JtagInstructions := by
  unfold Obligations.JtagInstructions
  refine ⟨?low, ?high, ?current, ?ended⟩
  case low =>
    intro s en
    exact ⟨exec_jtagExtest s en, exec_jtagIdcode s en, exec_jtagSamplePreload s en, exec_jtagClamp s en⟩
  case high =>
    intro s en
    exact ⟨exec_jtagHighz s en, exec_jtagExtestPulse s en, exec_jtagExtestTrain s en, exec_jtagBypass s en⟩
  case current =>
    intro s op controls reg en
    exact jtagCurrent_eq s op controls reg en
  case ended =>
    intro s
    rw [exec_jtagInstructionEnd, execJtagInstructionEnd]

end Sys2Proof.Machine
end

section
/-! The management controller's transports (chapter 15): SDO transfers, published objects, SPI, bus-off, hasps, reports and
the calibration bank. -/
namespace Sys2Proof.Machine
open Sys2Proof

/-! ## SDO transfers -/

theorem exec_sdoDownloadExpedited (s : State) (t : Transport) (idx : BitVec 16) (sub : BitVec 8) (data : BitVec 32)
    (size : Option (BitVec 2)) :
    exec (.sdoDownloadExpedited t idx sub data size) s = .next (downloadExpedited s t idx sub data size) := rfl

theorem exec_sdoDownloadInitiate (s : State) (t : Transport) (idx : BitVec 16) (sub : BitVec 8)
    (size : Option (BitVec 32)) :
    exec (.sdoDownloadInitiate t idx sub size) s = .next (downloadInitiate s t idx sub size) := rfl

theorem exec_sdoDownloadSegment (s : State) (t : Transport) (toggle : Bool) (data : List Octet) (last : Bool) :
    exec (.sdoDownloadSegment t toggle data last) s = .next (downloadSegment s t toggle data last) := rfl

theorem exec_sdoUploadInitiate (s : State) (t : Transport) (idx : BitVec 16) (sub : BitVec 8) :
    exec (.sdoUploadInitiate t idx sub) s = .next (uploadInitiate s t idx sub) := rfl

theorem exec_sdoUploadSegment (s : State) (t : Transport) (toggle : Bool) :
    exec (.sdoUploadSegment t toggle) s = .next (uploadSegment s t toggle) := rfl

theorem exec_sdoSegmentTimeout (s : State) (t : Transport) :
    exec (.sdoSegmentTimeout t) s = .next (segmentTimeout s t) := rfl

/-- Settles O50: each clause is the operation of its command written out, a segment's by the session it meets, then what
`serve` and an abort do. -/
theorem sdoTransfers : Obligations.SdoTransfers := by
  unfold Obligations.SdoTransfers
  refine ⟨?expedited, ?initiate, ?segment, ?upload, ?uploadSegment, ?timeout, ?serve, ?abort⟩
  case expedited =>
    intro s t idx sub data size
    rw [exec_sdoDownloadExpedited]
    rfl
  case initiate =>
    intro s t idx sub size
    rw [exec_sdoDownloadInitiate]
    rfl
  case segment =>
    intro s t toggle data last
    rw [exec_sdoDownloadSegment]
    rfl
  case upload =>
    intro s t idx sub
    rw [exec_sdoUploadInitiate]
    rfl
  case uploadSegment =>
    intro s t toggle
    rw [exec_sdoUploadSegment]
    rfl
  case timeout =>
    intro s t
    rw [exec_sdoSegmentTimeout]
    rfl
  case serve =>
    intro s t idx sub f
    rfl
  case abort =>
    intro s t idx sub code
    rw [abortWith]

/-! ## Published objects and SPI -/

theorem exec_pubResponse (s : State) : exec .pubResponse s = .next (pubPacket s) := rfl

theorem exec_pubEvent (s : State) : exec .pubEvent s = .next (pubPacket s) := rfl

theorem exec_pubTimeout (s : State) : exec .pubTimeout s = .next (pubTimeout s) := rfl

theorem exec_spiSdoRequest (s : State) (frame : List Octet) :
    exec (.spiSdoRequest frame) s = .next (spiRequest s frame) := rfl

theorem exec_spiReadResponse (s : State) : exec .spiReadResponse s = .next (spiReadResponse s) := rfl

theorem exec_spiReadEmergency (s : State) : exec .spiReadEmergency s = .next (spiReadEmergency s) := rfl

theorem exec_spiReadStatus (s : State) : exec .spiReadStatus s = .next (spiReadStatus s) := rfl

/-- Settles O51: both kinds of packet are `pubPacket`, which tells them apart by the packet's head; the other clauses are the
named operations written out. -/
theorem publishedObjectsAndSpi : Obligations.PublishedObjectsAndSpi := by
  unfold Obligations.PublishedObjectsAndSpi
  refine ⟨?response, ?event, ?late, ?request, ?readResponse, ?readEmergency, ?readStatus⟩
  case response =>
    intro s
    rw [exec_pubResponse]
    rfl
  case event =>
    intro s
    rw [exec_pubEvent]
    rfl
  case late =>
    intro s
    rw [exec_pubTimeout]
    rfl
  case request =>
    intro s frame
    rw [exec_spiSdoRequest, spiRequest]
  case readResponse =>
    intro s
    rw [exec_spiReadResponse]
    rfl
  case readEmergency =>
    intro s
    rw [exec_spiReadEmergency]
    rfl
  case readStatus =>
    intro s
    rw [exec_spiReadStatus, spiReadStatus]

/-! ## Bus-off and hasps -/

theorem exec_canBusOff (s : State) (tec : BitVec 9) : exec (.canBusOff tec) s = .next (busOff s tec) := rfl

theorem exec_canBusOffRecovered (s : State) : exec .canBusOffRecovered s = .next (busBack s) := rfl

theorem exec_expertHaspOpen (s : State) (t : Transport) (code : BitVec 18) :
    exec (.expertHaspOpen t code) s = .next (whenServed s t (expertWrite s t code.toNat)) := rfl

theorem exec_expertHaspClose (s : State) (t : Transport) :
    exec (.expertHaspClose t) s = .next (whenServed s t (expertWrite s t 0)) := rfl

theorem exec_haspIdleTimeout (s : State) (t : Transport) : exec (.haspIdleTimeout t) s = .next (closeExpert s t) := rfl

theorem exec_calHaspOpen (s : State) (t : Transport) (code : BitVec 18) :
    exec (.calHaspOpen t code) s = .next (whenServed s t (calWrite s t code.toNat)) := rfl

theorem exec_calHaspClose (s : State) (t : Transport) :
    exec (.calHaspClose t) s = .next (whenServed s t (calWrite s t 0)) := rfl

/-- Settles O52: bus-off and its end are the named operations written out; a hasp is `whenServed` of the write of its
object. -/
theorem busOffAndHasps : Obligations.BusOffAndHasps := by
  unfold Obligations.BusOffAndHasps
  refine ⟨?off, ?back, ?expertOpen, ?expertClose, ?idle, ?calOpen, ?calClose, ?expertWrite, ?calWrite⟩
  case off =>
    intro s tec
    rw [exec_canBusOff, busOff]
  case back =>
    intro s
    rw [exec_canBusOffRecovered, busBack]
  case expertOpen =>
    intro s t code
    rw [exec_expertHaspOpen]
    rfl
  case expertClose =>
    intro s t
    rw [exec_expertHaspClose]
    rfl
  case idle =>
    intro s t
    rw [exec_haspIdleTimeout, closeExpert]
  case calOpen =>
    intro s t code
    rw [exec_calHaspOpen]
    rfl
  case calClose =>
    intro s t
    rw [exec_calHaspClose]
    rfl
  case expertWrite =>
    intro s t v
    rw [expertWrite]
  case calWrite =>
    intro s t v
    rw [calWrite]

/-! ## Reports and calibration -/

theorem exec_commandedActualCheck (s : State) : exec .commandedActualCheck s = .next (commandedCheck s) := rfl

theorem exec_emergencySend (s : State) (t : Transport) : exec (.emergencySend t) s = .next (emergencySend s t) := rfl

theorem exec_heartbeatTimer (s : State) : exec .heartbeatTimer s = .next (heartbeat s) := rfl

theorem exec_doorbellRing (s : State) (i : Fin 32) : exec (.doorbellRing i) s = .next (ringDoorbell s i.val) := rfl

theorem exec_calSectionWrite (s : State) (t : Transport) (sec : Fin 6) (data : List Octet) :
    exec (.calSectionWrite t sec data) s = .next (sectionWrite s t sec.val data) := rfl

theorem exec_calWriteDone (s : State) : exec .calWriteDone s = .next (sectionDone s) := rfl

/-- Settles O53: each clause is the operation of its command written out. -/
theorem reportsAndCalibration : Obligations.ReportsAndCalibration := by
  unfold Obligations.ReportsAndCalibration
  refine ⟨?check, ?emergency, ?heartbeat, ?doorbell, ?bank, ?done⟩
  case check =>
    intro s
    rw [exec_commandedActualCheck, commandedCheck]
  case emergency =>
    intro s t
    rw [exec_emergencySend]
    rfl
  case heartbeat =>
    intro s
    rw [exec_heartbeatTimer]
    rfl
  case doorbell =>
    intro s i
    rw [exec_doorbellRing, ringDoorbell]
  case bank =>
    intro s t sec data
    rw [exec_calSectionWrite, sectionWrite]
  case done =>
    intro s
    rw [exec_calWriteDone]
    rfl

end Sys2Proof.Machine
end

section
/-! The whole machine: a step runs the command in front of the queue, or lets a tick pass. -/
namespace Sys2Proof.Machine
open Sys2Proof

theorem step_of_cons {s : State} {c : Instr} {rest : List Instr} (h : s.pending = c :: rest) :
    step s = exec c { s with pending := rest } := by
  rw [step, h]

theorem step_of_nil {s : State} (h : s.pending = []) : step s = .next (tick s) := by
  rw [step, h]

theorem withFetchWord_eq (s : State) (nbits w : Nat) : s.withFetchWord nbits w = s := rfl

/-- Settles O57: a step looks at the queue's front (`step_of_cons`, `step_of_nil`), and the table spells no command. -/
theorem stepRunsTheFrontCommand : Obligations.StepRunsTheFrontCommand := by
  unfold Obligations.StepRunsTheFrontCommand
  refine ⟨?front, ?idle, ?word⟩
  case front =>
    intro s c rest h
    exact step_of_cons h
  case idle =>
    intro s h
    exact step_of_nil h
  case word =>
    intro s nbits w
    exact ⟨rfl, withFetchWord_eq s nbits w⟩

end Sys2Proof.Machine
end

section
/-! What the invariant needs of every operation. `Kept` asks for the canonical content of every entry of the table of
SDRAM channels, the invariant for that of channels 0 and 1 only, so a state that meets the invariant need not be
`Kept`; `Held` is the same with those two channels. -/
namespace Sys2Proof.Machine
open Sys2Proof

/-- The two channels, content in canonical form. -/
def ChannelsOk (K : Keep) (t : Tbl Dram) : Prop := ∀ n < 2, DramOk K (tget (fun _ => Dram.init) t n)

structure Held (K : Keep) (s : State) : Prop where
  queue : QueueOk K s.pending
  fresh : FreshOk K s.free
  regs : RegsOk K s.regs
  mgc : MgcOk K s.mgc
  fab : FabOk K s.fab
  store : StoreOk K s.store
  cfg : CfgOk K s.cfg
  dram : ChannelsOk K s.dram

/-- The same of the state that an operation answers beside other values, or in one of its cases. -/
def HeldP {α : Type} (K : Keep) (p : State × α) : Prop := Held K p.1
def HeldO (K : Keep) (o : Option State) : Prop := ∀ t, o = some t → Held K t
def HeldS {α : Type} (K : Keep) (x : State ⊕ α) : Prop := ∀ t, x = .inl t → Held K t
def HeldR (K : Keep) (o : Host.Outcome State Fault Refusal) : Prop := ∀ t, o = .next t → Held K t

variable {K : Keep} {s t : State} {α : Type}

/-! ## Updates beside what `Held` speaks of -/

section frames
variable {timebase hng pace fifo lane kwr pins scb mtp pwr jtag}

theorem Held.frame (h : Held K s) :
    Held K (State.mk s.pending s.free timebase s.regs s.fab hng pace s.store fifo lane kwr s.dram pins scb mtp s.mgc
      s.cfg pwr jtag) :=
  ⟨h.queue, h.fresh, h.regs, h.mgc, h.fab, h.store, h.cfg, h.dram⟩

theorem Held.fabFrame {committed rails wires join acks stage stalled muxStalled keepers holds steer hearths edges}
    (h : Held K s) :
    Held K (State.mk s.pending s.free timebase s.regs
      (Fab.mk committed s.fab.frames rails wires join acks stage stalled muxStalled keepers holds steer hearths edges)
      hng pace s.store fifo lane kwr s.dram pins scb mtp s.mgc s.cfg pwr jtag) :=
  ⟨h.queue, h.fresh, h.regs, h.mgc, h.fab, h.store, h.cfg, h.dram⟩

theorem Held.storeFrame {steer rowsUsed ports} (h : Held K s) :
    Held K (State.mk s.pending s.free timebase s.regs s.fab hng pace (Store.mk s.store.content steer rowsUsed ports)
      fifo lane kwr s.dram pins scb mtp s.mgc s.cfg pwr jtag) :=
  ⟨h.queue, h.fresh, h.regs, h.mgc, h.fab, h.store, h.cfg, h.dram⟩

theorem Held.mgcFrame {written cal session owed answer spiRefused spiOut ringFrom emSent heartbeat lastEm hbPeriod
    idleLimit logIndex bankRead tec pubTag pubNow pubWait pubOut commanded settleBy disagreed agreeDue refCause}
    (h : Held K s) :
    Held K (State.mk s.pending s.free timebase s.regs s.fab hng pace s.store fifo lane kwr s.dram pins scb mtp
      (Mgc.mk s.mgc.log written s.mgc.hold s.mgc.queues cal session owed answer spiRefused spiOut ringFrom emSent
        heartbeat lastEm hbPeriod idleLimit logIndex bankRead tec pubTag pubNow pubWait pubOut commanded settleBy
        disagreed agreeDue refCause) s.cfg pwr jtag) :=
  ⟨h.queue, h.fresh, h.regs, h.mgc, h.fab, h.store, h.cfg, h.dram⟩

theorem Held.cfgFrame {everCommitted load reader foundA foundB inForce chunks inForceDual pinPairs key efuse bbKey
    bbIntact vbatLow staged expected keyArg keyJob keyStatus done faultLow flashBuf flashHeld flashJob mainClass
    kindClass} (h : Held K s) :
    Held K (State.mk s.pending s.free timebase s.regs s.fab hng pace s.store fifo lane kwr s.dram pins scb mtp s.mgc
      (Cfg.mk everCommitted load reader foundA foundB s.cfg.flashA s.cfg.flashB inForce chunks inForceDual pinPairs key
        efuse bbKey bbIntact vbatLow staged expected keyArg keyJob keyStatus done faultLow flashBuf flashHeld flashJob
        mainClass kindClass) pwr jtag) :=
  ⟨h.queue, h.fresh, h.regs, h.mgc, h.fab, h.store, h.cfg, h.dram⟩

end frames

/-! ## Shapes of definitions -/

theorem held_ite {p : Prop} [Decidable p] (hs : Held K s) (ht : Held K t) : Held K (if p then s else t) := by
  split <;> assumption

/-- A further step in one case only, after the common `h`. -/
theorem held_iteAfter {p : Prop} [Decidable p] (h : Held K s) (f : Held K s → Held K t) :
    Held K (if p then t else s) :=
  held_ite (f h) h

theorem held_iteBefore {p : Prop} [Decidable p] (h : Held K s) (f : Held K s → Held K t) :
    Held K (if p then s else t) :=
  held_ite h (f h)

theorem heldP_ite {p : Prop} [Decidable p] {x y : State × α} (hx : HeldP K x) (hy : HeldP K y) :
    HeldP K (if p then x else y) := by
  split <;> assumption

theorem heldR_ite {p : Prop} [Decidable p] {x y : Host.Outcome State Fault Refusal} (hx : HeldR K x)
    (hy : HeldR K y) : HeldR K (if p then x else y) := by
  split <;> assumption

theorem heldO_ite {p : Prop} [Decidable p] {x y : Option State} (hx : HeldO K x) (hy : HeldO K y) :
    HeldO K (if p then x else y) := by
  split <;> assumption

theorem heldP_mk {x : α} (h : Held K s) : HeldP K (s, x) := h
theorem heldO_none : HeldO K none := fun _ e => nomatch e
theorem heldO_some (h : Held K s) : HeldO K (some s) := fun _ e => Option.some.inj e ▸ h
theorem heldS_inl (h : Held K s) : HeldS (α := α) K (.inl s) := fun _ e => Sum.inl.inj e ▸ h
theorem heldS_inr {x : α} : HeldS K (.inr x) := fun _ e => nomatch e
theorem heldR_next (h : Held K s) : HeldR K (.next s) := fun _ e => Host.Outcome.next.inj e ▸ h

theorem heldS_ite {p : Prop} [Decidable p] {x y : State ⊕ α} (hx : HeldS K x) (hy : HeldS K y) :
    HeldS K (if p then x else y) := by
  split <;> assumption

theorem HeldP.of_eq {p : State × α} {x : α} (h : HeldP K p) (e : p = (t, x)) : Held K t := by
  rw [e] at h
  exact h

theorem held_elim {o : Option α} {f : α → State} (h : Held K s) (hf : ∀ x, Held K (f x)) :
    Held K (o.elim s f) := by
  cases o with
  | none => exact h
  | some x => exact hf x

theorem held_foldl {f : State → α → State} {l : List α} (h : Held K s)
    (hf : ∀ s x, Held K s → Held K (f s x)) : Held K (l.foldl f s) :=
  foldl_keeps (Held K) f hf l s h

theorem heldP_foldl {β : Type} {f : State × β → α → State × β} {l : List α} {p : State × β}
    (h : HeldP K p) (hf : ∀ p x, HeldP K p → HeldP K (f p x)) : HeldP K (l.foldl f p) :=
  foldl_keeps (HeldP K) f hf l p h

/-! ## Writes of the parts -/

theorem held_setWord {a w} (h : Held K s) : Held K (s.setWord a w) := { h with regs := regsOk_tput h.regs }
theorem held_put {f v} (h : Held K s) : Held K (s.put f v) := held_setWord h
theorem held_bump {f n} (h : Held K s) : Held K (s.bump f n) := held_put h
theorem held_putBit {f i b} (h : Held K s) : Held K (s.putBit f i b) := held_put h

/-- Free values taken are counted on. -/
theorem held_addFree {n} (h : Held K s) : Held K { s with free := s.free + n } :=
  { h with fresh := freshOk_add h.fresh }
theorem held_tookFree (h : Held K s) : Held K s.tookFree := held_addFree h

theorem held_frames {f} (h : Held K s) (hf : FramesOk K f) : Held K { s with fab := { s.fab with frames := f } } :=
  { h with fab := hf }

theorem held_content {f} (h : Held K s) (hf : ContentOk K f) :
    Held K { s with store := { s.store with content := f } } :=
  { h with store := hf }

theorem held_setDram {n x} (h : Held K s) (hx : n < 2 → DramOk K x) : Held K (setDram s n x) where
  __ := h
  dram := by
    intro i hi
    simp only [setDram, tget_tput]
    split
    · next e => exact hx (e ▸ hi)
    · exact h.dram i hi

theorem held_logWrite {e} (h : Held K s) : Held K (logWrite s e) := { h with mgc := ⟨logOk_take, h.mgc.2⟩ }

theorem held_setQueue {t q} (h : Held K s) (hq : q.items.length ≤ 32) : Held K (setQueue s t q) :=
  { h with mgc := ⟨h.mgc.1, h.mgc.2.1, queuesOk_tput h.mgc.2.2 hq⟩ }

theorem held_enqueueOn {t e} (h : Held K s) : Held K (enqueueOn s t e) := by
  have hq := h.mgc.2.2 t.idx
  simp only [enqueueOn]
  split
  · refine held_setQueue h ?_
    simp only [List.length_append, List.length_singleton]
    omega
  · exact held_bump (held_setQueue h hq)

theorem held_holdEntry {e} (h : Held K s) : Held K (holdEntry s e) := by
  unfold holdEntry
  split
  · refine { h with mgc := ⟨h.mgc.1, ?_, h.mgc.2.2⟩ }
    simp only [HoldOk, List.length_append, List.length_singleton]
    omega
  · exact held_bump h

end Sys2Proof.Machine
end

section
/-! What every operation of Machine/Ops.lean keeps of the two channels and the rest of the invariant. -/
namespace Sys2Proof.Machine
open Sys2Proof
variable {K : Keep}

theorem held_sendEmergency {s code detail} (hs : Held K s) : Held K (sendEmergency s code detail) :=
  held_iteAfter (held_bump hs).mgcFrame fun hx => held_enqueueOn (held_enqueueOn (held_enqueueOn hx))

theorem held_raise {s code detail} (hs : Held K s) : Held K (raise s code detail) :=
  held_ite (held_sendEmergency (held_logWrite hs)) (held_holdEntry hs)

theorem held_logState {s sub idx subidx v} (hs : Held K s) : Held K (logState s sub idx subidx v) :=
  held_ite (held_logWrite hs) (held_holdEntry hs)

theorem held_replayHeld {s} (hs : Held K s) : Held K (replayHeld s) :=
  held_foldl { hs with mgc := ⟨hs.mgc.1, holdOk_nil, hs.mgc.2.2⟩ } fun _ _ h =>
    held_ite (held_sendEmergency (held_logWrite h)) (held_logWrite h)

theorem held_stallDone {s kind idx} (hs : Held K s) : Held K (stallDone s kind idx) :=
  held_iteAfter hs.frame held_put

theorem held_setCommanded {s pair v} (hs : Held K s) : Held K (setCommanded s pair v) :=
  hs.mgcFrame

theorem held_commandIf {s fabric b pair v} (hs : Held K s) : Held K (commandIf s fabric b pair v) :=
  held_ite (held_setCommanded hs) hs

theorem held_isoCommanded {s} (hs : Held K s) : Held K (isoCommanded s) :=
  held_setCommanded hs

theorem held_isoByDevice {s0 s} (hs : Held K s) : Held K (isoByDevice s0 s) :=
  held_ite hs (held_isoCommanded hs)

end Sys2Proof.Machine
end

section
/-! What every operation of Machine/Fabric.lean keeps of the two channels and the rest of the invariant. -/
namespace Sys2Proof.Machine
open Sys2Proof
variable {K : Keep}

theorem held_setHearth {s h₀ x} (hs : Held K s) : Held K (setHearth s h₀ x) :=
  hs.fabFrame

theorem held_watched {s0 s} (hs : Held K s) : Held K (watched s0 s) :=
  hs.fabFrame

theorem held_countEvent {s h₀ k n} (hs : Held K s) : Held K (countEvent s h₀ k n) :=
  hs.frame

theorem held_countRoute {s d} (hs : Held K s) : Held K (countRoute s d) :=
  held_foldl hs fun _ _ h => held_countEvent h

theorem held_drive {s x r} (hs : Held K s) : Held K (drive s x r) :=
  held_watched hs.fabFrame

theorem held_setAck {s d b} (hs : Held K s) : Held K (setAck s d b) :=
  held_watched hs.fabFrame

theorem held_rejoin {s x} (hs : Held K s) : Held K (rejoin s x) :=
  hs.fabFrame

theorem held_moveAck {s d b} (hs : Held K s) : Held K (moveAck s d b) := by
  unfold moveAck
  extract_lets s1 s2
  have hs1 : Held K s1 := held_ite (held_countRoute hs) hs
  have hs2 : Held K s2 := held_setAck hs1
  split
  · exact held_rejoin hs2
  · exact hs2
  · exact hs2

theorem held_rejoinAll {s} (hs : Held K s) : Held K (rejoinAll s) :=
  held_foldl hs fun _ _ h => held_rejoin h

theorem held_scrubReport {s a} (hs : Held K s) : Held K (scrubReport s a) :=
  held_ite hs.frame hs

theorem held_tokenFault {s c kind} (hs : Held K s) : Held K (tokenFault s c kind) :=
  held_raise (held_iteAfter (held_bump (held_setWord (held_putBit hs))) held_scrubReport)

end Sys2Proof.Machine
end

section
/-! What every operation of Machine/Store.lean keeps of the two channels and the rest of the invariant. -/
namespace Sys2Proof.Machine
open Sys2Proof
variable {K : Keep}

theorem held_setBlock {s h₀ b e} (hs : Held K s) : Held K (setBlock s h₀ b e) :=
  hs.storeFrame

theorem held_setRow {s h₀ pb row v} (hs : Held K s) : Held K (setRow s h₀ pb row v) :=
  held_content hs (contentOk_tput hs.store)

theorem held_setPort {s h₀ b port p} (hs : Held K s) : Held K (setPort s h₀ b port p) :=
  hs.storeFrame

theorem held_storeAccess {s h₀ b port r} (hs : Held K s) : Held K (storeAccess s h₀ b port r) := by
  unfold storeAccess
  extract_lets _ _ _ _ s5 _ s7 s8
  have hs5 : Held K s5 := held_ite hs (held_setRow hs)
  have hs7 : Held K s7 := held_ite hs5 (held_setPort hs5)
  have hs8 : Held K s8 := held_countEvent hs7
  exact held_foldl hs8 fun _ _ h => held_moveAck h

theorem held_storeServe {s h₀ b port} (hs : Held K s) : Held K (storeServe s h₀ b port) := by
  unfold storeServe
  split
  · exact hs
  · exact held_ite (held_storeAccess hs) hs

theorem held_storeOrdered {s h₀ b port r} (hs : Held K s) : Held K (storeOrdered s h₀ b port r) := by
  unfold storeOrdered
  split
  · exact held_storeServe hs
  · exact held_ite (held_storeServe (held_tookFree hs)) (held_storeServe (held_storeServe (held_tookFree hs)))

theorem held_storeRequest {s h₀ b port op} (hs : Held K s) : Held K (storeRequest s h₀ b port op) := by
  unfold storeRequest
  split
  · exact hs
  · exact held_ite hs (held_ite (held_setPort hs) (held_storeOrdered hs))

theorem held_storeResume {s h₀ b} (hs : Held K s) : Held K (storeResume s h₀ b) := by
  unfold storeResume
  refine held_foldl hs fun _ _ h => ?_
  extract_lets _ s2
  have hs2 : Held K s2 := held_setPort h
  split
  · split
    · exact held_storeOrdered hs2
    · exact hs2
  · exact h

theorem held_columnResume {s h₀ c} (hs : Held K s) : Held K (columnResume s h₀ c) :=
  held_ite (held_foldl hs fun _ _ h => held_storeResume h) hs

theorem held_markSpare {s h₀ p} (hs : Held K s) : Held K (markSpare s h₀ p) :=
  held_ite hs hs.frame

theorem held_sliceEnd {s result} (hs : Held K s) : Held K (sliceEnd s result) := by
  unfold sliceEnd
  extract_lets s1 s2 _
  have hs1 : Held K s1 := by
    unfold s1
    split
    · exact held_markSpare hs
    · exact hs
  have hs2 : Held K s2 := held_put (held_put hs1)
  exact hs2.frame

theorem held_blockAbandon {s h₀ b} (hs : Held K s) : Held K (blockAbandon s h₀ b) :=
  held_storeResume (held_sliceEnd (held_setBlock hs))

theorem held_storeFault {s h₀ b port kind} (hs : Held K s) : Held K (storeFault s h₀ b port kind) :=
  held_raise (held_scrubReport (held_setWord (held_putBit (held_setPort hs))))

theorem held_blockQuiesced {s h₀ b} (hs : Held K s) : Held K (blockQuiesced s h₀ b) :=
  held_ite hs.frame hs

theorem held_copyBlock {s h₀ a b} (hs : Held K s) : Held K (copyBlock s h₀ a b) :=
  held_foldl hs fun _ _ h => held_setRow h

theorem held_blockSwitch {s h₀ b} (hs : Held K s) : Held K (blockSwitch s h₀ b) :=
  held_storeResume (held_setBlock (held_setBlock (held_copyBlock hs))).frame

end Sys2Proof.Machine
end

section
/-! What every operation of Machine/Wires.lean keeps of the two channels and the rest of the invariant. -/
namespace Sys2Proof.Machine
open Sys2Proof
variable {K : Keep}

theorem held_markStalled {s d} (hs : Held K s) : Held K (markStalled s d) :=
  hs.fabFrame

theorem held_sideFault {s h₀ b port d} (hs : Held K s) : Held K (sideFault s h₀ b port d) := by
  unfold sideFault
  extract_lets s1
  have hs1 : Held K s1 := held_storeFault (held_markStalled hs)
  exact held_ite (held_blockAbandon hs1) hs1

theorem held_checkInput {s d} (hs : Held K s) : Held K (checkInput s d) := by
  unfold checkInput
  split
  · exact held_ite (held_tokenFault (held_markStalled hs)) hs
  · exact held_ite (held_tokenFault (held_markStalled hs)) hs
  · split
    · split
      · exact held_ite (held_sideFault hs) hs
      · exact hs
    · exact hs
  · exact hs
  · exact hs

theorem held_checkInputs {s x} (hs : Held K s) : Held K (checkInputs s x) := by
  unfold checkInputs
  refine held_foldl hs fun _ _ h => ?_
  split
  · exact held_checkInput h
  · exact h

theorem held_raiseRails {s l} (hs : Held K s) : Held K (raiseRails s l) :=
  held_foldl (held_foldl hs fun _ _ h => held_drive h) fun _ _ h => held_checkInputs h

theorem held_rerouted {s0 s} (hs : Held K s) : Held K (rerouted s0 s) :=
  held_foldl (held_rejoinAll (held_watched hs)) fun _ _ h => held_checkInputs h

theorem held_presentAt {s h₀ p n v} (hs : Held K s) : Held K (presentAt s h₀ p n v) :=
  held_ite (held_raiseRails hs) hs

theorem held_takeAt {s h₀ p ks} (hs : Held K s) : Held K (takeAt s h₀ p ks) :=
  held_ite (held_foldl hs fun _ _ h => held_moveAck h) hs

theorem held_storeRespond {s h₀ b port} (hs : Held K s) : Held K (storeRespond s h₀ b port) := by
  unfold storeRespond
  extract_lets
  split
  · exact hs
  · exact held_ite (held_raiseRails (held_setPort hs)) hs

theorem held_checkRow {s0 s r} (hs : Held K s) : Held K (checkRow s0 s r) := by
  unfold checkRow
  split
  · exact held_raise (held_scrubReport (held_bump (held_setWord (held_putBit hs.fabFrame))))
  · exact held_logState (held_iteAfter hs.fabFrame held_put)
  · exact hs
  · exact hs

theorem held_checkRows {s0 s rows} (hs : Held K s) : Held K (checkRows s0 s rows) :=
  held_ite (held_rerouted (held_foldl hs fun _ _ h => held_checkRow h)) hs

theorem held_putFrame {s h₀ col row f v} (hs : Held K s) : Held K (putFrame s h₀ col row f v) :=
  held_frames hs (framesOk_tput hs.fab)

theorem held_writeFrame {s a v} (hs : Held K s) : Held K (writeFrame s a v) :=
  held_checkRows (held_putFrame hs)

theorem held_holdPorts {s h₀ c p g} (hs : Held K s) : Held K (holdPorts s h₀ c p g) :=
  hs.fabFrame

theorem held_portsReleased {s0 s} (hs : Held K s) : Held K (portsReleased s0 s) :=
  held_rerouted hs.fabFrame

theorem held_drainHearth {s h₀ x} (hs : Held K s) : Held K (drainHearth s h₀ x) :=
  held_rerouted (held_setHearth { hs with
    fab := fabOk_foldl (fabOk_foldl (framesOk_of hs.fab) fun _ _ hf => hf) fun _ _ hf => hf })

theorem held_insertTile {s h₀ col row} (hs : Held K s) : Held K (insertTile s h₀ col row) :=
  held_foldl hs fun _ _ h => held_ite h.fabFrame h

theorem held_insertTokens {s h₀} (hs : Held K s) : Held K (insertTokens s h₀) :=
  held_foldl hs fun _ _ h => held_insertTile h

end Sys2Proof.Machine
end

section
/-! What every operation of Machine/Fifo.lean keeps of the two channels and the rest of the invariant. -/
namespace Sys2Proof.Machine
open Sys2Proof
variable {K : Keep}

theorem held_setFifo {s f x} (hs : Held K s) : Held K (setFifo s f x) :=
  hs.frame

theorem held_fifoPush {s f e} (hs : Held K s) : HeldP K (fifoPush s f e) :=
  heldP_ite
    (heldP_mk hs)
    (heldP_ite
      (heldP_mk (held_iteAfter (held_bump hs) held_put))
      (heldP_ite (heldP_mk (held_setFifo hs)) (heldP_mk (held_iteBefore (held_setFifo hs) held_stallDone))))

theorem held_writerPush {s f e} (hs : Held K s) : Held K (writerPush s f e) := by
  unfold writerPush
  split
  · split
    · exact hs
    · exact held_iteAfter (held_fifoPush hs) held_takeAt
  · exact held_fifoPush hs

theorem held_endFlushes {s f} (hs : Held K s) : Held K (endFlushes s f) :=
  held_ite (held_setFifo (held_put hs)) hs

theorem held_fifoPop {s f} (hs : Held K s) : HeldP K (fifoPop s f) := by
  unfold fifoPop
  extract_lets _ s2 s3
  have hs2 : Held K s2 := held_setFifo hs
  have hs3 : Held K s3 := held_put hs2
  split
  · exact heldP_mk hs
  · split
    · exact heldP_mk (held_put (held_put hs3))
    · split
      · exact heldP_mk (held_setFifo hs)
      · exact heldP_mk (held_endFlushes (held_iteBefore (held_put (held_setFifo hs)) held_stallDone))

theorem held_fifoSealCrossing {s f} (hs : Held K s) : Held K (fifoSealCrossing s f) :=
  held_ite (held_setFifo hs) hs

theorem held_flushWrite {s f} (hs : Held K s) : Held K (flushWrite s f) :=
  held_ite hs (held_put hs)

theorem held_clearWrite {s f} (hs : Held K s) : Held K (clearWrite s f) :=
  held_ite hs (held_put hs)

theorem held_flushPoint {s f} (hs : Held K s) : Held K (flushPoint s f) :=
  held_ite (held_setFifo hs) hs

theorem held_flushReader {s f} (hs : Held K s) : Held K (flushReader s f) := by
  unfold flushReader
  extract_lets
  split
  · exact hs
  · exact held_ite hs (held_endFlushes (held_setFifo (held_bump hs)))

theorem held_clearPoint {s f} (hs : Held K s) : Held K (clearPoint s f) :=
  held_ite (held_setFifo (held_put (held_bump hs))) hs

theorem held_clearReader {s f} (hs : Held K s) : Held K (clearReader s f) := by
  unfold clearReader
  extract_lets
  split
  · exact hs
  · exact held_iteBefore (held_setFifo (held_bump hs)) fun hx => held_put (held_put hx)

theorem held_dropWaiting {s f} (hs : Held K s) : Held K (dropWaiting s f) :=
  held_ite (held_setDram hs (hs.dram _)) hs

theorem held_fifoDiscard {s f} (hs : Held K s) : Held K (fifoDiscard s f) := by
  unfold fifoDiscard
  extract_lets _ _ _ s4 s5 s6 s7 _ s9 _ s11
  have hs4 : Held K s4 := held_dropWaiting hs
  have hs5 : Held K s5 := held_bump hs4
  have hs6 : Held K s6 := held_put (held_put hs5)
  have hs7 : Held K s7 := held_put (held_put hs6)
  have hs9 : Held K s9 := held_setFifo hs7
  have hs11 : Held K s11 := held_ite hs9.mgcFrame hs9
  exact held_ite (held_raise hs11) hs11

theorem held_mailboxPush {s g e a} (hs : Held K s) : Held K (mailboxPush s g e a) := by
  unfold mailboxPush
  extract_lets s1 p2
  have hs1 : Held K s1 := held_put (held_put hs)
  have hp2 : HeldP K p2 := held_fifoPush hs1
  exact held_ite (held_put hp2) (held_put hs1)

theorem held_mailboxPop {s g} (hs : Held K s) : Held K (mailboxPop s g) := by
  unfold mailboxPop
  split
  · split
    · rename_i heq
      have h1 := (held_fifoPop hs).of_eq heq
      exact held_put h1
    · rename_i heq
      have h2 := (held_fifoPop hs).of_eq heq
      exact held_put (held_put (held_put (held_setWord h2)))
  · exact held_put hs

end Sys2Proof.Machine
end

section
/-! What every operation of Machine/Hinge.lean keeps of the two channels and the rest of the invariant. -/
namespace Sys2Proof.Machine
open Sys2Proof
variable {K : Keep}

theorem held_setEv {s i e} (hs : Held K s) : Held K (setEv s i e) :=
  hs.frame

theorem held_setWd {s j w} (hs : Held K s) : Held K (setWd s j w) :=
  hs.frame

theorem held_doorbellDone {s i} (hs : Held K s) : Held K (doorbellDone s i) :=
  held_ite (held_putBit hs) hs

theorem held_mergeEvent {s i} (hs : Held K s) : Held K (mergeEvent s i) :=
  held_iteAfter (held_put (held_bump hs)) held_raise

theorem held_takeEvent {s i} (hs : Held K s) : Held K (takeEvent s i) :=
  held_ite (held_takeAt hs) hs

theorem held_offerEvent {s i} (hs : Held K s) : Held K (offerEvent s i) := by
  unfold offerEvent
  split
  · exact held_doorbellDone hs
  · split
    · exact hs
    · split
      · exact held_ite hs (held_doorbellDone (held_bump hs))
      · extract_lets _ s2
        have hs2 : Held K s2 := held_takeEvent hs
        split
        · exact held_setEv hs2
        · exact held_ite (held_mergeEvent hs2) (held_put hs2)
        · exact held_ite (held_mergeEvent hs2) (held_put hs2)

theorem held_eventAckSeen {s i} (hs : Held K s) : Held K (eventAckSeen s i) :=
  held_ite (held_setEv hs) hs

theorem held_eventTaken {s i} (hs : Held K s) : Held K (eventTaken s i) :=
  held_ite (held_setEv hs) hs

theorem held_eventReqLow {s i} (hs : Held K s) : Held K (eventReqLow s i) :=
  held_ite (held_setEv hs) hs

theorem held_eventComplete {s i} (hs : Held K s) : Held K (eventComplete s i) :=
  held_ite
    (held_ite (held_setEv (held_put (held_stallDone hs))) (held_doorbellDone (held_setEv (held_stallDone hs)))) hs

theorem held_countJump {s j} (hs : Held K s) : Held K (countJump s j) :=
  held_iteAfter (held_put (held_bump hs)) held_raise

theorem held_wdPresent {s j} (hs : Held K s) : Held K (wdPresent s j) :=
  held_setWd (held_presentAt hs)

theorem held_wdNotify {s j} (hs : Held K s) : Held K (wdNotify s j) :=
  held_ite hs (held_ite (held_setWd hs) (held_ite (held_wdPresent hs) (held_setWd hs)))

theorem held_wdNotices {s} (hs : Held K s) : Held K (wdNotices s) :=
  held_foldl hs fun _ _ h => held_ite (held_wdNotify h) h

theorem held_wordWrite {s j v} (hs : Held K s) : Held K (wordWrite s j v) := by
  unfold wordWrite
  extract_lets _ _ _ _ s5
  have hs5 : Held K s5 := held_setWord (held_setWd hs)
  exact held_ite hs
    (held_ite (held_ite (held_wdNotify hs5) hs5) (held_ite (held_setWd hs) (held_countJump (held_setWd hs))))

theorem held_timebaseViews {s} (hs : Held K s) : Held K (timebaseViews s) :=
  held_foldl hs fun _ _ h => held_wordWrite h

theorem held_timebaseJump {s} (hs : Held K s) : Held K (timebaseJump s) :=
  held_foldl (held_timebaseViews hs) fun _ _ h => held_ite (held_countJump h) h

theorem held_wordVisible {s j} (hs : Held K s) : Held K (wordVisible s j) := by
  unfold wordVisible
  extract_lets _ _ _ s4
  have hs4 : Held K s4 := held_setWord (held_setWd hs)
  exact held_ite hs (held_ite (held_wdNotify hs4) hs4)

theorem held_wordSample {s j} (hs : Held K s) : Held K (wordSample s j) :=
  held_ite (held_takeAt (held_wdPresent hs)) hs

theorem held_wordToken {s j} (hs : Held K s) : Held K (wordToken s j) := by
  unfold wordToken
  extract_lets
  split
  · split
    · exact held_setWd hs
    · exact hs
  · exact hs

theorem held_wordOutWrite {s j} (hs : Held K s) : Held K (wordOutWrite s j) := by
  unfold wordOutWrite
  extract_lets _ s2 s3 _
  have hs2 : Held K s2 := held_takeAt hs
  have hs3 : Held K s3 := held_stallDone hs2
  split
  · exact hs
  · exact held_ite hs
      (held_ite
        (held_setWd hs3)
        (held_ite (held_setWord (held_setWd hs3)) (held_countJump (held_setWord (held_setWd hs3)))))

theorem held_wordValid {s j} (hs : Held K s) : Held K (wordValid s j) :=
  held_ite (held_setWd hs) hs

theorem held_ctlRelease {s} (hs : Held K s) : Held K (ctlRelease s) :=
  held_ite (held_stallDone hs.frame) hs

theorem held_ctlCapture {s op} (hs : Held K s) : Held K (ctlCapture s op) := by
  unfold ctlCapture
  split
  · exact hs
  · exact held_ite (held_takeAt hs.frame) hs

theorem held_ctlRespond {s} (hs : Held K s) : Held K (ctlRespond s) := by
  unfold ctlRespond
  split
  · exact hs
  · exact held_ite (held_presentAt hs.frame) hs

theorem held_stallsTaken {s} (hs : Held K s) : Held K (stallsTaken s) :=
  held_foldl hs fun _ _ h => held_ite (held_ite (held_stallDone h) h) (held_ite (held_stallDone h) h)

theorem held_tokensTaken {s} (hs : Held K s) : Held K (tokensTaken s) :=
  held_stallsTaken (held_ctlRelease hs)

theorem held_setSeal {s g x} (hs : Held K s) : Held K (setSeal s g x) := by
  unfold setSeal
  split
  · exact held_setEv hs
  · exact held_setWd hs
  · exact held_setFifo hs
  · exact hs.frame

theorem held_removeShown {s p} (hs : Held K s) : Held K (removeShown s p) :=
  hs.frame

theorem held_removedDone {s g} (hs : Held K s) : Held K (removedDone s g) :=
  hs.frame

theorem held_sealDiscard {s g} (hs : Held K s) : Held K (sealDiscard s g) := by
  unfold sealDiscard
  extract_lets s1 _
  have hs1 : Held K s1 := held_stallDone hs
  split
  · exact held_doorbellDone (held_bump (held_put (held_setEv hs1)))
  · exact held_setWd (held_removedDone (held_bump hs1))
  · exact hs1.frame
  · exact held_removedDone (held_fifoDiscard hs1)

theorem held_levelTake {s h₀ cls idx} (hs : Held K s) : Held K (levelTake s h₀ cls idx) :=
  hs.frame

theorem held_sealLevels {s g} (hs : Held K s) : Held K (sealLevels s g) := by
  unfold sealLevels
  extract_lets
  split
  · exact hs
  · split
    · exact held_levelTake hs
    · exact held_levelTake hs
    · exact held_iteBefore (held_levelTake hs) fun hx => hx.frame
    · exact hs

theorem held_sealSide {s g side} (hs : Held K s) : Held K (sealSide s g side) := by
  unfold sealSide
  extract_lets _ _ s3
  have hs3 : Held K s3 := held_setSeal (held_sealLevels hs)
  exact held_ite (held_sealDiscard hs3) hs3

theorem held_unsealSide {s g side} (hs : Held K s) : Held K (unsealSide s g side) :=
  held_setSeal hs

theorem held_updateSeal {s g} (hs : Held K s) : Held K (updateSeal s g) :=
  held_ite hs
    (held_ite
      (held_sealSide (held_ite (held_sealSide hs) (held_ite (held_unsealSide hs) hs)))
      (held_iteAfter (held_ite (held_sealSide hs) (held_ite (held_unsealSide hs) hs)) held_unsealSide))

theorem held_updateSeals {s} (hs : Held K s) : Held K (updateSeals s) :=
  held_foldl hs fun _ _ h => held_updateSeal h

theorem held_reseatSx {s g} (hs : Held K s) : Held K (reseatSx s g) :=
  held_ite (held_sealDiscard (held_setSeal hs)) (held_ite (held_sealDiscard (held_setSeal hs)) hs)

theorem held_reseatRelease {s g} (hs : Held K s) : Held K (reseatRelease s g) :=
  held_ite (held_setSeal hs) (held_ite (held_setSeal hs) hs)

theorem held_reseatYOpen {s g} (hs : Held K s) : Held K (reseatYOpen s g) :=
  held_ite (held_setSeal hs) (held_ite (held_setSeal hs) hs)

theorem held_reseated {s g} (hs : Held K s) : Held K (reseated s g) := by
  unfold reseated
  split
  · exact held_ite (held_setWord (held_setWd hs)) (held_ite (held_wdNotify hs) hs)
  all_goals exact hs

theorem held_reseatXOpen {s g} (hs : Held K s) : Held K (reseatXOpen s g) := by
  unfold reseatXOpen
  extract_lets _ s2 s3 s4
  have hs2 : Held K s2 := held_setSeal hs
  have hs3 : Held K s3 := held_ite hs2 (held_logState (held_bump hs2))
  have hs4 : Held K s4 := held_ite (held_put hs3) hs3
  exact held_ite (held_reseated (held_stallDone hs4)) hs

theorem held_sideReset {s w} (hs : Held K s) : Held K (sideReset s w) := by
  unfold sideReset
  split
  · exact hs
  · split
    · exact hs
    · extract_lets s1 s2 _
      have hs1 : Held K s1 := held_put (held_put hs)
      have hs2 : Held K s2 := held_put hs1
      exact held_ite (held_updateSeal hs2.frame) hs1

theorem held_sideResetEnd {s g} (hs : Held K s) : Held K (sideResetEnd s g) :=
  held_updateSeal hs.frame

theorem held_setStall {s g side} (hs : Held K s) : Held K (setStall s g side) := by
  unfold setStall
  split
  all_goals exact held_put (held_put hs)

theorem held_hingeStall {s g} (hs : Held K s) : Held K (hingeStall s g) := by
  unfold hingeStall
  extract_lets
  split
  · exact hs
  · split
    · exact hs
    · exact held_logState (held_raise (held_setWord (held_setStall hs)).frame)

theorem held_userClockChanged {s} (hs : Held K s) : Held K (userClockChanged s) :=
  held_updateSeals hs

theorem held_setGone {s k b} (hs : Held K s) : Held K (setGone s k b) :=
  hs.frame

theorem held_userClockLost {s k} (hs : Held K s) : Held K (userClockLost s k) :=
  held_ite (held_logState (held_raise (held_userClockChanged (held_setGone (held_put (held_put hs)))))) hs

theorem held_userClockPresent {s k} (hs : Held K s) : Held K (userClockPresent s k) :=
  held_ite (held_userClockChanged (held_setGone (held_put hs))) hs

end Sys2Proof.Machine
end

section
/-! What every operation of Machine/Pace.lean keeps of the two channels and the rest of the invariant. -/
namespace Sys2Proof.Machine
open Sys2Proof
variable {K : Keep}

theorem held_setPace {s p} (hs : Held K s) : Held K (State.setPace s p) :=
  hs.frame

theorem held_paceStart {s} (hs : Held K s) : Held K (paceStart s) :=
  held_ite hs (held_setPace hs)

theorem held_paceEnd {s h₀ a b} (hs : Held K s) : Held K (paceEnd s h₀ a b) :=
  held_ite hs (held_iteAfter (held_setWord (held_setPace (held_ite (held_tookFree hs) hs))) held_raise)

theorem held_setLevel {s h₀ v} (hs : Held K s) : Held K (setLevel s h₀ v) :=
  held_put hs

theorem held_zeroLevels {s} (hs : Held K s) : Held K (zeroLevels s) :=
  held_foldl hs fun _ _ h => held_setLevel h

theorem held_governorWarm {s} (hs : Held K s) : Held K (governorWarm s) :=
  held_put (held_zeroLevels hs)

theorem held_estimate {s silent h₀} (hs : Held K s) : Held K (estimate s silent h₀) :=
  held_ite (held_setPace hs) (held_setWord (held_setPace hs))

theorem held_estimators {s silent} (hs : Held K s) : Held K (estimators s silent) :=
  held_setPace (held_foldl hs fun _ _ h => held_estimate h)

theorem held_raiseLevels {l n s} (hs : Held K s) : Held K (raiseLevels l n s) := by
  induction l generalizing n s with
  | nil =>
    exact hs
  | cons x l ih =>
    exact held_ite hs (held_ite (ih (held_setLevel hs)) (ih hs))

theorem held_lowerHighest {s} (hs : Held K s) : Held K (lowerHighest s) := by
  unfold lowerHighest
  split
  · exact held_ite (held_setLevel hs) hs
  · exact hs

theorem held_clampLevels {s} (hs : Held K s) : Held K (clampLevels s) :=
  held_ite (held_foldl hs fun _ _ h => held_ite (held_setLevel h) (held_setLevel h)) (held_zeroLevels hs)

theorem held_capReached {s} (hs : Held K s) : Held K (capReached s) :=
  held_ite (held_iteBefore (held_put hs) fun hx => held_raise (held_setPace hx)) hs

theorem held_governorPeriod {s silent tempMax} (hs : Held K s) : Held K (governorPeriod s silent tempMax) :=
  held_ite
    (held_iteBefore
      (held_setPace (held_clampLevels (held_put (held_put (held_put (held_estimators hs))))))
      fun hx => held_ite (held_capReached (held_raiseLevels hx)) (held_ite (held_lowerHighest hx) hx)) hs

theorem held_governorEnable {s} (hs : Held K s) : Held K (governorEnable s) :=
  held_ite hs (held_governorWarm (held_put hs))

theorem held_governorDisable {s} (hs : Held K s) : Held K (governorDisable s) :=
  held_put hs

theorem held_setRamping {s b} (hs : Held K s) : Held K (setRamping s b) :=
  held_iteBefore (held_put hs) held_setPace

theorem held_vfabStart {s} (hs : Held K s) : Held K (vfabStart s) :=
  held_ite (held_setRamping hs) (held_put hs)

theorem held_vfabTarget {s mv} (hs : Held K s) : Held K (vfabTarget s mv) :=
  held_ite (held_iteBefore (held_setPace (held_put hs)) held_vfabStart) hs

theorem held_vfabFault {s} (hs : Held K s) : Held K (vfabFault s) :=
  held_ite hs (held_raise (held_setRamping (held_put (held_setPace hs))))

theorem held_vfabStep {s ack} (hs : Held K s) : Held K (vfabStep s ack) :=
  held_ite (held_ite (held_setRamping (held_setPace hs)) (held_vfabFault hs)) hs

theorem held_vfabRead {s mv status} (hs : Held K s) : Held K (vfabRead s mv status) := by
  unfold vfabRead
  split
  · split
    · exact held_vfabFault hs
    · extract_lets _ s2
      have hs2 : Held K s2 := held_put (held_setPace hs)
      exact held_ite hs2 (held_vfabFault hs2)
  · exact hs

theorem held_vfabMismatch {s} (hs : Held K s) : Held K (vfabMismatch s) :=
  held_ite (held_vfabFault hs) hs

end Sys2Proof.Machine
end

section
/-! What every operation of Machine/Hearth.lean keeps of the two channels and the rest of the invariant. -/
namespace Sys2Proof.Machine
open Sys2Proof
variable {K : Keep}

theorem held_drain {s h₀ x} (hs : Held K s) : Held K (drain s h₀ x) :=
  held_updateSeals (held_drainHearth (held_removeShown hs)).storeFrame

theorem held_reinsert {s h₀} (hs : Held K s) : Held K (reinsert s h₀) :=
  held_setHearth (held_insertTokens hs)

theorem held_boundaryEnd {s h₀} (hs : Held K s) : Held K (boundaryEnd s h₀) :=
  held_ite (held_reinsert hs) hs

theorem held_boundaryEnds {s} (hs : Held K s) : Held K (boundaryEnds s) :=
  held_foldl hs fun _ _ h => held_boundaryEnd h

theorem held_startUserReset {s h₀} (hs : Held K s) : Held K (startUserReset s h₀) :=
  held_boundaryEnd (held_drain (held_putBit hs))

theorem held_userReset {s h₀} (hs : Held K s) : Held K (userReset s h₀) := by
  unfold userReset
  split
  · exact hs
  · split
    · exact hs
    · exact hs
    · exact held_ite (held_putBit hs).frame (held_startUserReset hs)
    all_goals exact held_putBit hs

theorem held_wakeHearth {s h₀} (hs : Held K s) : Held K (wakeHearth s h₀) :=
  held_updateSeals (held_rerouted (held_setHearth hs)).frame

theorem held_wakeSlot {s} (hs : Held K s) : Held K (wakeSlot s) := by
  unfold wakeSlot
  split
  · exact hs
  · exact (held_ite (held_wakeHearth hs) hs).frame

theorem held_singleWake {s h₀} (hs : Held K s) : Held K (singleWake s h₀) :=
  held_ite (held_putBit (held_putBit (held_wakeHearth hs))) hs

theorem held_isoApply {s h₀} (hs : Held K s) : Held K (isoApply s h₀) :=
  hs.frame

theorem held_isolate {s h₀} (hs : Held K s) : Held K (isolate s h₀) := by
  unfold isolate
  split
  · exact hs
  · exact hs
  · exact held_drain (held_isoApply hs)
  · exact held_drain (held_isoApply hs)
  · exact held_drain (held_isoApply hs)
  · exact held_setHearth (held_isoApply hs)

theorem held_isoStat {s h₀} (hs : Held K s) : Held K (isoStat s h₀) :=
  held_putBit hs

theorem held_isolateWrite {s h₀} (hs : Held K s) : Held K (isolateWrite s h₀) :=
  held_iteBefore (held_putBit hs) fun hx => held_isoStat (held_isolate hx)

theorem held_releaseWrite {s h₀} (hs : Held K s) : Held K (releaseWrite s h₀) :=
  held_ite hs (held_iteBefore (held_putBit hs) fun hx => held_ite (held_isoStat (held_reinsert hx)).frame hx)

end Sys2Proof.Machine
end

section
/-! What every operation of Machine/Tokens.lean keeps of the two channels and the rest of the invariant. -/
namespace Sys2Proof.Machine
open Sys2Proof
variable {K : Keep}

theorem held_setStage {s c v} (hs : Held K s) : Held K (setStage s c v) :=
  hs.fabFrame

theorem held_request {s l} (hs : Held K s) : Held K (request s l) :=
  held_ite (held_raiseRails hs) hs

theorem held_settled {s} (hs : Held K s) : Held K (settled s) :=
  held_wdNotices (held_boundaryEnds (held_tokensTaken hs))

theorem held_acknowledge {s l} (hs : Held K s) : Held K (acknowledge s l) :=
  held_ite (held_settled (held_foldl hs fun _ _ h => held_moveAck h)) hs

theorem held_release {s l} (hs : Held K s) : Held K (release s l) := by
  unfold release
  split
  · refine held_settled ?_
    refine held_foldl hs fun _ _ h => ?_
    extract_lets s1
    have hs1 : Held K s1 := held_drive h
    split
    · exact held_setStage hs1
    all_goals exact hs1
  · exact hs

theorem held_ready {s l} (hs : Held K s) : Held K (ready s l) :=
  held_ite (held_settled (held_foldl hs fun _ _ h => held_moveAck h)) hs

theorem held_ackSlots {s c l} (hs : Held K s) : Held K (ackSlots s c l) :=
  held_foldl hs fun _ _ h => held_moveAck h

theorem held_ackPorts {s c} (hs : Held K s) : Held K (ackPorts s c) :=
  held_ackSlots hs

theorem held_emit {s c v} (hs : Held K s) : Held K (emit s c v) :=
  held_countEvent (held_setStage hs)

theorem held_fireFunction {s c} (hs : Held K s) : Held K (fireFunction s c) := by
  unfold fireFunction
  split
  · exact held_ackPorts (held_emit hs)
  · exact hs

theorem held_firePass {s c} (hs : Held K s) : Held K (firePass s c) := by
  unfold firePass
  split
  · exact held_ackPorts (held_emit hs)
  · exact hs

theorem held_fireGuarded {s c} (hs : Held K s) : Held K (fireGuarded s c) := by
  unfold fireGuarded
  split
  · exact held_ackPorts (held_ite hs (held_emit hs))
  · exact hs

theorem held_fireArith {s c} (hs : Held K s) : Held K (fireArith s c) := by
  unfold fireArith
  split
  · split
    · extract_lets _ s2 s3
      have hs2 : Held K s2 := held_ackPorts (held_emit hs)
      have hs3 : Held K s3 := held_ite (held_moveAck hs2) hs2
      exact held_ite hs (held_ite (held_raiseRails hs3) hs3)
    · exact hs
  · exact hs

theorem held_setMuxStalled {s c b} (hs : Held K s) : Held K (setMuxStalled s c b) :=
  hs.fabFrame

theorem held_fireRoot {s c} (hs : Held K s) : Held K (fireRoot s c) := by
  unfold fireRoot
  split
  · exact hs
  · extract_lets
    split
    · split
      · exact held_ackSlots (held_ackSlots (held_emit (held_setMuxStalled hs)))
      · exact hs
    · exact held_ite hs (held_tokenFault (held_setMuxStalled hs))

theorem held_fire {s c} (hs : Held K s) : Held K (fire s c) := by
  unfold fire
  split
  · exact hs
  · split
    · exact held_fireFunction hs
    · exact held_firePass hs
    · exact held_fireGuarded hs
    · exact held_fireArith hs
    · exact held_fireRoot hs
    · exact held_fireFunction hs
    · exact hs

theorem held_upset {s x} (hs : Held K s) : Held K (upset s x) := by
  unfold upset
  split
  · exact held_writeFrame hs
  · exact held_checkInputs (held_watched hs.fabFrame)

end Sys2Proof.Machine
end

section
/-! What every operation of Machine/Clock.lean keeps of the two channels and the rest of the invariant. -/
namespace Sys2Proof.Machine
open Sys2Proof
variable {K : Keep}

theorem held_setPhase {s p} (hs : Held K s) : Held K (setPhase s p) :=
  held_iteBefore hs.frame fun hx => held_logState (held_put hx)

theorem held_wakeEvent {s kind src} (hs : Held K s) : Held K (wakeEvent s kind src) := by
  unfold wakeEvent
  split
  · exact held_ite hs (held_setPhase (held_setCommanded (held_put (held_put (held_put hs)))).frame)
  · exact held_ite hs.frame hs
  · exact hs

theorem held_timebaseRead {s} (hs : Held K s) : Held K (timebaseRead s) :=
  held_setWord (held_setWord hs)

theorem held_setAlmCmp {s a v} (hs : Held K s) : Held K (setAlmCmp s a v) :=
  held_setWord hs.frame

theorem held_almAdvance {s a} (hs : Held K s) : Held K (almAdvance s a) :=
  held_bump (held_setAlmCmp hs)

theorem held_almFire {s a} (hs : Held K s) : Held K (almFire s a) :=
  held_ite (held_almAdvance (held_put hs)) (held_put (held_put hs))

theorem held_alarmFire {s a} (hs : Held K s) : Held K (alarmFire s a) :=
  held_ite
    (held_ite (held_wakeEvent (held_almFire hs).frame) hs)
    (held_ite hs (held_ite (held_ite (held_offerEvent hs.frame) hs) (held_ite (held_offerEvent
      (held_almFire hs)) hs)))

theorem held_alarmCompareWrite {s a w} (hs : Held K s) : Held K (alarmCompareWrite s a w) :=
  held_setAlmCmp hs

theorem held_wakeTimeWrite {s tb} (hs : Held K s) : Held K (wakeTimeWrite s tb) :=
  held_put (held_put (held_put (held_setWord (held_setAlmCmp hs))))

theorem held_timebaseStep {s v} (hs : Held K s) : Held K (timebaseStep s v) :=
  held_foldl
    (held_timebaseJump (held_logState (held_put hs.frame)))
    fun _ _ h => held_ite (held_offerEvent (held_almFire h)) h

end Sys2Proof.Machine
end

section
/-! What every operation of Machine/Line.lean keeps of the two channels and the rest of the invariant. -/
namespace Sys2Proof.Machine
open Sys2Proof
variable {K : Keep}

theorem held_setLane {s l x} (hs : Held K s) : Held K (setLane s l x) :=
  hs.frame

theorem held_fresh {s l} (hs : Held K s) : Held K (fresh s l) :=
  held_setLane hs

theorem held_emitBlocks {s l bs} (hs : Held K s) : Held K (emitBlocks s l bs) :=
  held_setLane hs

end Sys2Proof.Machine
end

section
/-! What every operation of Machine/KwrCore.lean keeps of the two channels and the rest of the invariant. -/
namespace Sys2Proof.Machine
open Sys2Proof
variable {K : Keep}

theorem held_setKwr {s k x} (hs : Held K s) : Held K (setKwr s k x) :=
  hs.frame

theorem held_kwrFresh {s k} (hs : Held K s) : Held K (kwrFresh s k) :=
  held_foldl (held_setKwr hs) fun _ _ h => held_fresh h

theorem held_kwrNow1 {s k b} (hs : Held K s) : Held K (kwrNow1 s k b) :=
  held_foldl (held_setKwr hs) fun _ _ h => held_ite h (held_emitBlocks h)

theorem held_kwrNow {s k bs} (hs : Held K s) : Held K (kwrNow s k bs) :=
  held_foldl hs fun _ _ h => held_kwrNow1 h

theorem held_kwrGo {s k st cause} (hs : Held K s) : Held K (kwrGo s k st cause) :=
  held_ite hs (held_iteAfter (held_setKwr (held_offerEvent (held_put hs))) held_raise)

theorem held_kwrAligned {s k b} (hs : Held K s) : Held K (kwrAligned s k b) :=
  held_ite hs (held_offerEvent (held_put hs))

theorem held_kwrFault {s k cause} (hs : Held K s) : Held K (kwrFault s k cause) :=
  held_raise (held_put (held_kwrGo (held_tookFree hs)))

theorem held_kwrLaneDown {s k} (hs : Held K s) : Held K (kwrLaneDown s k) :=
  held_ite (held_kwrGo (held_setKwr hs)) hs

theorem held_kwrLanesUp {s k} (hs : Held K s) : Held K (kwrLanesUp s k) := by
  unfold kwrLanesUp
  split
  · extract_lets _ s2 s3 _
    have hs2 : Held K s2 := held_setKwr hs
    have hs3 : Held K s3 := held_ite (held_kwrNow hs2) hs2
    exact held_ite (held_kwrFault hs3) (held_ite (held_kwrGo (held_setKwr hs3)) (held_kwrGo hs3))
  · exact hs

theorem held_kwrFollow {s k} (hs : Held K s) : Held K (kwrFollow s k) :=
  held_kwrLanesUp (held_kwrLaneDown hs)

theorem held_kwrOff {s k cause} (hs : Held K s) : Held K (kwrOff s k cause) :=
  held_setWord (held_put (held_put (held_put (held_setKwr (held_kwrAligned (held_kwrGo hs))))))

theorem held_kwrRole {s k role} (hs : Held K s) : Held K (kwrRole s k role) := by
  unfold kwrRole
  split
  · exact hs
  · extract_lets s1
    have hs1 : Held K s1 := held_kwrOff (held_kwrFresh (held_put hs))
    exact held_ite hs1 (held_kwrLanesUp (held_kwrGo hs1))

theorem held_kwrWidthWrite {s k w} (hs : Held K s) : Held K (kwrWidthWrite s k w) :=
  held_ite hs (held_ite (held_put hs) (held_kwrLanesUp (held_kwrGo (held_kwrOff (held_tookFree (held_kwrFresh hs))))))

end Sys2Proof.Machine
end

section
/-! What every operation of Machine/Lane.lean keeps of the two channels and the rest of the invariant. -/
namespace Sys2Proof.Machine
open Sys2Proof
variable {K : Keep}

theorem held_presetEq {s p r} (hs : Held K s) : Held K (presetEq s p r) :=
  held_put (held_setWord hs)

theorem held_presetCord {s n} (hs : Held K s) : Held K (presetCord s n) :=
  held_foldl hs fun _ _ h => held_setWord (held_presetEq h)

theorem held_adapt {s l} (hs : Held K s) : Held K (adapt s l) :=
  held_ite (held_tookFree (held_put (held_setWord hs))) hs

theorem held_rxPayOwed {s l} (hs : Held K s) : Held K (rxPayOwed s l) :=
  held_ite (held_ite (held_setLane hs) (held_iteAfter (held_fifoPush hs) held_setLane)) hs

theorem held_rxWrite {s l e} (hs : Held K s) : Held K (rxWrite s l e) :=
  held_ite hs (held_ite (held_setLane (held_fifoPush hs)) (held_setLane (held_bump (held_fifoPush hs))))

theorem held_rxFinish {s l words a} (hs : Held K s) : Held K (rxFinish s l words a) := by
  unfold rxFinish
  extract_lets s1
  have hs1 : Held K s1 := held_foldl hs fun _ _ h => held_rxWrite h
  split
  · exact held_rxWrite hs1
  · exact hs1

theorem held_rxClear {s l} (hs : Held K s) : Held K (rxClear s l) :=
  held_setLane hs

theorem held_rxAbort {s l} (hs : Held K s) : Held K (rxAbort s l) :=
  held_ite hs
    (held_ite (held_rxClear (held_ite hs (held_bump hs))) (held_rxClear (held_iteBefore
      (held_rxFinish hs) held_bump)))

theorem held_rxBegin {s l} (hs : Held K s) : Held K (rxBegin s l) := by
  unfold rxBegin
  extract_lets s1 _
  have hs1 : Held K s1 := held_rxPayOwed (held_rxClear hs)
  exact held_ite (held_setLane (held_bump hs1)) (held_setLane hs1)

theorem held_blockError {s l} (hs : Held K s) : Held K (blockError s l) :=
  held_offerEvent (held_bump (held_setLane hs))

theorem held_setLink {s l v} (hs : Held K s) : Held K (setLink s l v) := by
  unfold setLink
  split
  · exact hs
  · extract_lets s1
    have hs1 : Held K s1 := held_offerEvent (held_put hs)
    exact held_ite (held_logState hs1) hs1

theorem held_showFrozen {s l} (hs : Held K s) : Held K (showFrozen s l) :=
  held_put hs

theorem held_attemptClear {s l} (hs : Held K s) : Held K (attemptClear s l) :=
  held_setLane hs

theorem held_startAttempt {s l presets} (hs : Held K s) : Held K (startAttempt s l presets) :=
  held_setLink (held_put (held_showFrozen (held_setLane (held_attemptClear (held_ite (held_presetEq hs) hs)))))

theorem held_newSequence {s l} (hs : Held K s) : Held K (newSequence s l) :=
  held_setLane (held_put hs)

theorem held_idleEnds {s l} (hs : Held K s) : Held K (idleEnds s l) :=
  held_iteAfter (held_setLane hs) held_put

theorem held_laneKick {s l} (hs : Held K s) : Held K (laneKick s l) := by
  unfold laneKick
  split
  · extract_lets s1
    have hs1 : Held K s1 := held_ite (held_put hs) hs
    exact held_ite (held_startAttempt (held_newSequence hs1)) hs1
  · exact hs

theorem held_txClear {s l} (hs : Held K s) : Held K (txClear s l) :=
  held_setLane hs

theorem held_linkOff {s l} (hs : Held K s) : Held K (linkOff s l) :=
  held_kwrFollow (held_setLink (held_put (held_put (held_put (held_put (held_setLane (held_idleEnds
    (held_attemptClear (held_txClear (held_rxAbort hs))))))))))

theorem held_linkDown {s l cause} (hs : Held K s) : Held K (linkDown s l cause) :=
  held_ite
    (held_kwrFollow (held_startAttempt (held_newSequence (held_put (held_raise (held_idleEnds (held_txClear
      (held_rxAbort hs)))))))) hs

theorem held_pllUpdate {s n} (hs : Held K s) : Held K (pllUpdate s n) :=
  held_ite hs (held_put hs)

theorem held_pllLost {s n} (hs : Held K s) : Held K (pllLost s n) :=
  held_updateSeals (held_foldl (held_updateSeals (held_put hs)) fun _ _ h => held_linkOff h)

theorem held_cordRefLost {s n stopped} (hs : Held K s) : Held K (cordRefLost s n stopped) :=
  held_raise (held_put (held_pllLost hs))

theorem held_cordsLost {s n stopped} (hs : Held K s) : Held K (cordsLost s n stopped) :=
  held_ite (held_foldl hs fun _ _ h => held_cordRefLost h) (held_cordRefLost hs)

theorem held_cordLock {s n} (hs : Held K s) : Held K (cordLock s n) :=
  held_ite (held_foldl (held_updateSeals (held_put hs)) fun _ _ h => held_laneKick h) hs

theorem held_cordRate {s n rate} (hs : Held K s) : Held K (cordRate s n rate) :=
  held_ite hs (held_ite (held_foldl (held_presetCord (held_put hs)) fun _ _ h => held_setLane h) hs)

theorem held_retrain {s l} (hs : Held K s) : Held K (retrain s l) := by
  unfold retrain
  split
  · exact hs
  · extract_lets _ s2 s3
    have hs2 : Held K s2 := held_idleEnds (held_txClear (held_rxAbort hs))
    have hs3 : Held K s3 := held_ite (held_newSequence hs2) hs2
    exact held_kwrFollow (held_startAttempt (held_put hs3))

theorem held_laneSliceAbandon {s p} (hs : Held K s) : Held K (laneSliceAbandon s p) := by
  unfold laneSliceAbandon
  split
  · exact held_ite (held_pllUpdate (held_sliceEnd hs)) hs
  all_goals exact hs

theorem held_cordMap {s n map} (hs : Held K s) : Held K (cordMap s n map) :=
  held_ite
    (held_foldl
      (held_laneSliceAbandon hs)
      fun _ _ h => held_ite h (held_iteBefore (held_setLane (held_put (held_put h))) held_retrain)) hs

theorem held_showPhys {s} (hs : Held K s) : Held K (showPhys s) :=
  held_foldl hs fun _ _ h => held_put h

theorem held_pulseSeals {s l} (hs : Held K s) : Held K (pulseSeals s l) :=
  held_updateSeals (held_iteAfter
    (held_ite (held_unsealSide (held_sealSide hs)) hs)
    fun hx => held_unsealSide (held_sealSide hx))

theorem held_laneModeWrite {s l mode} (hs : Held K s) : Held K (laneModeWrite s l mode) :=
  held_kwrFollow (held_laneKick (held_updateSeals (held_pllUpdate (held_put (held_iteBefore
    (held_laneSliceAbandon hs)
    fun hx => held_put (held_linkOff (held_pulseSeals hx)))))))

theorem held_emitNative {s l bs} (hs : Held K s) : Held K (emitNative s l bs) :=
  held_setLane (held_emitBlocks hs)

theorem held_idleHold {s l} (hs : Held K s) : Held K (idleHold s l) :=
  held_ite (held_put (held_setLane (held_ite (held_emitNative hs) (held_emitBlocks hs)))) hs

theorem held_txWake {s l} (hs : Held K s) : Held K (txWake s l) :=
  held_put (held_setLane hs)

theorem held_autowake {s l} (hs : Held K s) : Held K (autowake s l) :=
  held_ite (held_put (held_txWake hs)) hs

theorem held_leaveBanked {s l} (hs : Held K s) : Held K (leaveBanked s l) :=
  held_ite (held_laneKick (held_updateSeals (held_put hs))) hs

theorem held_laneActive {s l} (hs : Held K s) : Held K (laneActive s l) := by
  unfold laneActive
  extract_lets s1 s2
  have hs1 : Held K s1 := held_put hs
  have hs2 : Held K s2 := held_ite hs1 (held_leaveBanked hs1)
  exact held_ite (held_txWake hs2) hs2

theorem held_laneIdleHold {s l} (hs : Held K s) : Held K (laneIdleHold s l) :=
  held_ite hs (held_autowake (held_idleHold (held_iteBefore (held_put hs) held_leaveBanked)))

theorem held_laneGoBanked {s l} (hs : Held K s) : Held K (laneGoBanked s l) :=
  held_updateSeals (held_pllUpdate (held_setLane (held_put (held_linkOff (held_updateSeals (held_put hs))))))

theorem held_laneBanked {s l} (hs : Held K s) : Held K (laneBanked s l) :=
  held_laneGoBanked (held_put hs)

theorem held_signalDetected {s l} (hs : Held K s) : Held K (signalDetected s l) :=
  held_iteAfter (held_setLane hs) held_put

theorem held_lockLostAttempt {s l} (hs : Held K s) : Held K (lockLostAttempt s l) :=
  held_ite (held_attemptClear hs) hs

theorem held_signalLost {s l} (hs : Held K s) : Held K (signalLost s l) :=
  held_iteBefore (held_setLane hs) fun hx => held_linkDown (held_lockLostAttempt (held_put hx))

theorem held_slipOne {s l} (hs : Held K s) : Held K (slipOne s l) :=
  held_setLane hs

theorem held_invalidHeader {s l gap} (hs : Held K s) : Held K (invalidHeader s l gap) :=
  held_ite
    (held_put (held_slipOne hs))
    (held_ite
      (held_ite
        (held_setLane (held_bump hs))
        (held_ite
          (held_linkDown (held_lockLostAttempt (held_bump (held_put (held_setLane (held_setLane (held_bump hs)))))))
          (held_setLane (held_setLane (held_bump hs))))) hs)

theorem held_huntDone {s l} (hs : Held K s) : Held K (huntDone s l) :=
  held_ite (held_adapt (held_put hs)) hs

theorem held_alignLocked {s l} (hs : Held K s) : Held K (alignLocked s l) := by
  unfold alignLocked
  split
  · extract_lets s1 _ s3 _
    have hs1 : Held K s1 := held_adapt hs
    have hs3 : Held K s3 := held_setLane (held_put hs1)
    exact held_ite (held_startAttempt (held_setLane hs3)) hs3
  · exact hs

theorem held_adaptFreeze {s l} (hs : Held K s) : Held K (adaptFreeze s l) :=
  held_ite (held_showFrozen (held_setLane hs)) hs

theorem held_adaptResume {s l} (hs : Held K s) : Held K (adaptResume s l) :=
  held_showFrozen (held_setLane hs)

theorem held_fromLine {s l b f} (hs : Held K s) (hf : ∀ s, Held K s → Held K (f s)) :
    Held K (fromLine s l b f) := by
  unfold fromLine
  extract_lets s1 _ s3
  have hs1 : Held K s1 := held_fresh hs
  have hs3 : Held K s3 := hf _ hs1
  split
  · split
    · exact held_ite (hf _ (held_setLane hs1)) hs1
    · exact hs1
  · exact held_ite (held_emitBlocks hs3) hs3

theorem held_rxAlien {s l} (hs : Held K s) : Held K (rxAlien s l) :=
  held_ite (held_blockError hs) hs

theorem held_rxIdle {s l} (hs : Held K s) : Held K (rxIdle s l) :=
  held_ite (held_adapt hs) (held_rxAlien hs)

theorem held_rxStart {s l} (hs : Held K s) : Held K (rxStart s l) :=
  held_ite (held_iteAfter (held_adapt hs) fun hx => held_rxBegin (held_rxAbort hx)) (held_rxAlien hs)

theorem held_rxData {s l bits} (hs : Held K s) : Held K (rxData s l bits) :=
  held_ite
    (held_ite
      (held_setLane (held_foldl (held_adapt hs) fun _ _ h => held_rxWrite h))
      (held_blockError (held_adapt hs))) hs

theorem held_rxEnd {s l c} (hs : Held K s) : Held K (rxEnd s l c) :=
  held_ite
    (held_ite
      (held_blockError (held_adapt hs))
      (held_ite
        (held_rxClear (held_adapt hs))
        (held_ite
          (held_rxClear (held_iteAfter (held_rxFinish (held_adapt hs)) held_bump))
          (held_rxClear (held_bump (held_rxFinish (held_adapt hs)))))))
    (held_rxAlien hs)

theorem held_trainReady {s l} (hs : Held K s) : Held K (trainReady s l) :=
  held_setLane hs

theorem held_rxTrain {s l c} (hs : Held K s) : Held K (rxTrain s l c) :=
  held_ite
    (held_ite
      (held_ite (held_iteAfter (held_adapt hs) held_blockError) (held_linkDown (held_adapt hs)))
      (held_iteBefore
        (held_adapt hs)
        fun hx =>
          held_iteBefore
            (held_trainReady (held_setLane (held_put hx)))
            fun hy => held_iteBefore (held_put hy) fun hx => held_raise (held_setLane hx))) hs

theorem held_rxHold {s l} (hs : Held K s) : Held K (rxHold s l) :=
  held_ite (held_showFrozen (held_put (held_rxAbort (held_adapt hs)))) hs

theorem held_rxInvalid {s l} (hs : Held K s) : Held K (rxInvalid s l) :=
  held_ite (held_blockError hs) hs

theorem held_holdExit {s l} (hs : Held K s) : Held K (holdExit s l) :=
  held_ite (held_showFrozen (held_put hs)) hs

theorem held_holdTimeout {s l} (hs : Held K s) : Held K (holdTimeout s l) :=
  held_ite (held_linkDown (held_lockLostAttempt (held_showFrozen (held_put (held_put hs))))) hs

theorem held_trainAdaptDone {s l} (hs : Held K s) : Held K (trainAdaptDone s l) :=
  held_ite (held_trainReady (held_setLane (held_adapt hs))) hs

theorem held_trainSuccess {s l skew} (hs : Held K s) : Held K (trainSuccess s l skew) := by
  unfold trainSuccess
  split
  · extract_lets s1 _ s3 s4 s5 _ s7
    have hs1 : Held K s1 := held_put (held_put hs)
    have hs3 : Held K s3 := held_setLane hs1
    have hs4 : Held K s4 := held_setLink hs3
    have hs5 : Held K s5 := held_ite (held_emitNative hs4) hs4
    have hs7 : Held K s7 := held_ite (held_setKwr hs5) hs5
    exact held_kwrFollow (held_autowake (held_idleHold hs7))
  · exact hs

theorem held_trainTimeout {s l} (hs : Held K s) : Held K (trainTimeout s l) := by
  unfold trainTimeout
  split
  · extract_lets s1 _ s3 _
    have hs1 : Held K s1 := held_bump hs
    have hs3 : Held K s3 := held_setLink (held_put hs1)
    exact held_ite (held_raise (held_setLane hs3)) hs3
  · exact hs

theorem held_backoffElapsed {s l} (hs : Held K s) : Held K (backoffElapsed s l) :=
  held_ite (held_startAttempt (held_setLane hs)) hs

theorem held_ethHiBer {s l ended} (hs : Held K s) : Held K (ethHiBer s l ended) :=
  held_ite (held_iteAfter (held_setLane hs) held_linkDown) hs

theorem held_ethEnd {s l} (hs : Held K s) : Held K (ethEnd s l) :=
  held_ite hs (held_ite (held_rxClear hs) (held_rxClear (held_iteAfter (held_rxFinish hs) held_bump)))

theorem held_ethOctet {s l o} (hs : Held K s) : Held K (ethOctet s l o) := by
  unfold ethOctet
  extract_lets _ _ s3 _ _
  have hs3 : Held K s3 := held_ite (held_foldl hs fun _ _ h => held_rxWrite h) hs
  exact held_ite hs
    (held_ite
      (held_ite (held_rxClear (held_bump hs)) (held_setLane hs))
      (held_ite (held_ethEnd (held_setLane hs)) (held_ite (held_setLane hs3) (held_setLane hs3))))

theorem held_ethBad {s l} (hs : Held K s) : Held K (ethBad s l) :=
  held_setLane hs

theorem held_ethChar {s l c} (hs : Held K s) : Held K (ethChar s l c) := by
  unfold ethChar
  extract_lets _ s2 _ s4 s5 _
  have hs2 : Held K s2 := held_rxBegin (held_ethEnd (held_ethBad hs))
  have hs4 : Held K s4 := held_setLane hs
  have hs5 : Held K s5 := held_ethEnd (held_ethBad hs)
  split
  · exact held_ite (held_setLane hs) (held_setLane hs)
  · exact held_ethOctet hs
  · exact held_setLane hs2
  · exact held_ite (held_rxClear (held_bump hs4)) (held_ethEnd hs4)
  · exact held_ethBad (held_setLane hs)
  · exact held_ethEnd (held_ethBad (held_setLane hs))
  · exact held_setLane hs5

theorem held_ethBlock {s l b} (hs : Held K s) : Held K (ethBlock s l b) := by
  unfold ethBlock
  split
  · extract_lets s1 _ s3 _
    have hs1 : Held K s1 := held_ite (held_adapt hs) hs
    have hs3 : Held K s3 := held_foldl hs1 fun _ _ h => held_ethChar h
    exact held_ite hs1 (held_ite (held_setLane hs3) hs3)
  · exact hs

theorem held_txWord {s l w fin abort} (hs : Held K s) : Held K (txWord s l w fin abort) :=
  held_ite (held_txClear (held_emitNative hs)) (held_setLane (held_emitNative hs))

theorem held_txDropped {s l e} (hs : Held K s) : Held K (txDropped s l e) :=
  held_setLane hs

theorem held_nativeTx {s l e} (hs : Held K s) : Held K (nativeTx s l e) :=
  held_ite hs
    (held_ite
      (held_txDropped hs)
      (held_ite
        (held_idleHold (held_txWord hs))
        (held_ite (held_idleHold (held_setLane (held_bump (held_txWord hs)))) (held_txWord hs))))

theorem held_ethPush {s l cs} (hs : Held K s) : Held K (ethPush s l cs) :=
  held_emitBlocks (held_setLane hs)

theorem held_ethTail {s l bad} (hs : Held K s) : Held K (ethTail s l bad) :=
  held_ethPush (held_setLane (held_ite (held_ethPush hs) hs))

theorem held_ethIdle {s l} (hs : Held K s) : Held K (ethIdle s l) := by
  unfold ethIdle
  split
  · exact hs
  · exact held_ethPush hs

theorem held_ethTx {s l e} (hs : Held K s) : Held K (ethTx s l e) := by
  unfold ethTx
  extract_lets _ _ s3
  have hs3 : Held K s3 := held_ethPush (held_setLane hs)
  exact held_ite hs (held_ite (held_txDropped hs) (held_ite (held_ethTail hs3) hs3))

theorem held_ethEmpty {s l} (hs : Held K s) : Held K (ethEmpty s l) :=
  held_ite (held_setLane (held_ethTail (held_bump hs))) (held_ethIdle hs)

theorem held_trainTx {s l} (hs : Held K s) : Held K (trainTx s l) := by
  unfold trainTx
  extract_lets s1 _ s3 _
  have hs1 : Held K s1 := by
    unfold s1
    split
    · split
      · rename_i heq
        have h1 := (held_fifoPop hs).of_eq heq
        exact held_txDropped h1
      · rename_i heq
        have h2 := (held_fifoPop hs).of_eq heq
        exact h2
    · exact hs
  have hs3 : Held K s3 := held_emitBlocks hs1
  exact held_ite hs1 (held_ite (held_ethIdle hs1) (held_setLane hs3))

theorem held_ringIdle {s l} (hs : Held K s) : Held K (ringIdle s l) :=
  held_ite (held_ite (held_kwrNow1 hs) hs) (held_emitBlocks hs)

theorem held_laneSend {s l} (hs : Held K s) : Held K (laneSend s l) := by
  unfold laneSend
  extract_lets s1
  have hs1 : Held K s1 := held_kwrFresh hs
  split
  · exact held_trainTx hs1
  · split
    · exact hs1
    · split
      · split
        · rename_i heq
          have h1 := (held_fifoPop hs1).of_eq heq
          exact held_nativeTx h1
        · rename_i heq
          have h2 := (held_fifoPop hs1).of_eq heq
          exact held_emitNative h2
      · split
        · exact held_ethIdle hs1
        · split
          · rename_i heq
            have h3 := (held_fifoPop hs1).of_eq heq
            exact held_ethTx h3
          · rename_i heq
            have h4 := (held_fifoPop hs1).of_eq heq
            exact held_ethEmpty h4
      · exact held_ringIdle hs1

end Sys2Proof.Machine
end

section
/-! What every operation of Machine/Kwr.lean keeps of the two channels and the rest of the invariant. -/
namespace Sys2Proof.Machine
open Sys2Proof
variable {K : Keep}

theorem held_kwrRpl {s k} (hs : Held K s) : Held K (kwrRpl s k) :=
  held_put (held_put (held_put hs))

theorem held_sendAck {s k nak} (hs : Held K s) : Held K (sendAck s k nak) := by
  unfold sendAck
  split
  · exact held_setKwr (held_kwrNow1 hs)
  · exact hs

theorem held_countMissed {s k} (hs : Held K s) : Held K (countMissed s k) :=
  held_offerEvent (held_bump hs)

theorem held_kwrLatch {s k} (hs : Held K s) : Held K (kwrLatch s k) := by
  unfold kwrLatch
  extract_lets
  split
  · exact held_ite (held_ite (held_setKwr hs) (held_bump (held_setKwr hs))) (held_setKwr hs)
  · exact held_setKwr hs

theorem held_extractWrite {s k} (hs : Held K s) : Held K (extractWrite s k) :=
  held_ite hs (held_rxClear (held_rxFinish (held_rxBegin (held_setKwr hs))))

theorem held_extractWords {s k i ws} (hs : Held K s) : Held K (extractWords s k i ws) :=
  held_ite (held_iteAfter (held_setKwr hs) held_extractWrite) hs

theorem held_frameStart {s k} (hs : Held K s) : Held K (frameStart s k) :=
  held_setKwr hs

theorem held_readPacket {n s n'} (hs : Held K s) : Held K (readPacket n s n') := by
  induction n generalizing s n' with
  | zero =>
    exact hs
  | succ n ih =>
    unfold readPacket
    split
    · rename_i heq
      have h1 := (held_fifoPop hs).of_eq heq
      exact h1
    · rename_i heq
      have h2 := (held_fifoPop hs).of_eq heq
      exact held_ite (ih h2) (held_ite (held_ite (held_bump (held_setKwr h2)) (held_setKwr h2)) (ih (held_setKwr h2)))

theorem held_sendSuper {s k ws} (hs : Held K s) : Held K (sendSuper s k ws) :=
  held_kwrNow1 (held_setKwr (held_ite (held_kwrNow1 hs) hs))

theorem held_sendBlock {s k b} (hs : Held K s) : Held K (sendBlock s k b) := by
  unfold sendBlock
  split
  · exact held_sendSuper hs
  · exact held_kwrNow1 (held_setKwr (held_ite hs (held_kwrLatch hs)))
  · exact held_kwrNow1 hs
  · exact held_kwrNow1 (held_ite (held_countMissed hs) hs)
  · exact held_kwrNow1 hs

theorem held_pump {n s n'} (hs : Held K s) : Held K (pump n s n') := by
  induction n generalizing s n' with
  | zero =>
    exact hs
  | succ n ih =>
    unfold pump
    split
    · exact hs
    · exact held_ite (held_kwrNow1 hs) (ih (held_sendBlock (held_setKwr hs)))

theorem held_kwrSend {s k bs} (hs : Held K s) : Held K (kwrSend s k bs) :=
  held_kwrRpl (held_pump (held_setKwr hs))

theorem held_frameBegin {s k late} (hs : Held K s) : Held K (frameBegin s k late) :=
  held_kwrSend (held_wordWrite (held_offerEvent (held_iteAfter
    (held_setKwr (held_addFree (held_kwrLatch hs))) held_countMissed)))

theorem held_frameDue {n s n'} (hs : Held K s) : Held K (frameDue n s n') := by
  induction n generalizing s n' with
  | zero =>
    exact hs
  | succ n ih =>
    exact held_ite (ih (held_frameBegin (held_setKwr hs))) hs

theorem held_cycleBoundary {s k} (hs : Held K s) : Held K (cycleBoundary s k) :=
  held_ite
    (held_ite (held_frameBegin (held_setKwr (held_kwrFresh hs))) (held_setKwr (held_setKwr (held_kwrFresh hs)))) hs

theorem held_ringLane {s l bs} (hs : Held K s) : Held K (ringLane s l bs) := by
  unfold ringLane
  split
  · extract_lets s1 _
    have hs1 : Held K s1 := held_adapt hs
    split
    · exact held_setLane hs1
    · exact held_ite hs1 (held_emitBlocks hs1)
    · exact hs1
  · exact hs

theorem held_fromRing {s k line f} (hs : Held K s) (hf : ∀ s, Held K s → Held K (f s)) :
    Held K (fromRing s k line f) := by
  unfold fromRing
  extract_lets s1 _ s3
  have hs1 : Held K s1 := held_kwrFresh hs
  have hs3 : Held K s3 := held_foldl hs1 fun _ _ h => held_ringLane h
  exact held_ite (held_ite (hf _ hs3) hs3) hs1

theorem held_fromControl {s k b f} (hs : Held K s) (hf : ∀ s, Held K s → Held K (f s)) :
    Held K (fromControl s k b f) :=
  held_fromRing hs fun _ h => hf _ h

theorem held_alarmSeen {s k a} (hs : Held K s) : Held K (alarmSeen s k a) :=
  held_ite hs (held_offerEvent (held_put hs))

theorem held_kwrForward {s k b} (hs : Held K s) : Held K (kwrForward s k b) :=
  held_ite (held_ite (held_setKwr hs) hs) (held_ite hs (held_kwrSend hs))

theorem held_headCycle {s k n pos alarm counting} (hs : Held K s) : Held K (headCycle s k n pos alarm counting) := by
  unfold headCycle
  extract_lets
  split
  · exact held_kwrFault hs
  · extract_lets s2 s3 _ s5
    have hs2 : Held K s2 := held_setKwr hs
    have hs3 : Held K s3 := held_ite (held_kwrForward hs2) (held_frameStart hs2)
    have hs5 : Held K s5 := held_setKwr (held_put hs3)
    exact held_ite (held_ite (held_kwrFault hs3) (held_ite (held_kwrGo hs5) hs3)) hs3

theorem held_nodeCycle {s k n pos alarm counting} (hs : Held K s) : Held K (nodeCycle s k n pos alarm counting) :=
  held_kwrForward (held_iteBefore
    (held_setKwr (held_ite (held_ite (held_setKwr (held_kwrGo (held_put hs)))
      (held_kwrFault hs)) hs)) held_frameStart)

theorem held_rxCycle {s k n pos alarm counting} (hs : Held K s) : Held K (rxCycle s k n pos alarm counting) :=
  held_ite
    (held_headCycle (held_alarmSeen (held_setKwr hs)))
    (held_wordWrite (held_offerEvent (held_nodeCycle (held_alarmSeen (held_setKwr hs)))))

theorem held_heldActs {s k x} (hs : Held K s) : Held K (heldActs s k x) := by
  unfold heldActs
  split
  · exact held_frameStart hs
  · exact held_extractWrite hs
  · exact hs

theorem held_releaseHeld {n s n'} (hs : Held K s) : Held K (releaseHeld n s n') := by
  induction n generalizing s n' with
  | zero =>
    exact hs
  | succ n ih =>
    unfold releaseHeld
    extract_lets
    split
    · exact hs
    · split
      · exact hs
      · extract_lets s2
        have hs2 : Held K s2 := held_heldActs (held_setKwr hs)
        exact ih (held_ite hs2 (held_kwrSend hs2))

theorem held_heldRelease {s k} (hs : Held K s) : Held K (heldRelease s k) :=
  held_releaseHeld hs

theorem held_rxCycleEnd {s k n late} (hs : Held K s) : Held K (rxCycleEnd s k n late) := by
  unfold rxCycleEnd
  extract_lets s1 s2 s3 s4
  have hs1 : Held K s1 := held_ite (held_countMissed hs) hs
  have hs2 : Held K s2 := held_ite hs1 (held_extractWrite hs1)
  have hs3 : Held K s3 := held_kwrForward hs2
  have hs4 : Held K s4 := held_ite (held_sendAck hs3) hs3
  exact held_heldRelease hs4

theorem held_alignCycle {s k ok} (hs : Held K s) : Held K (alignCycle s k ok) :=
  held_ite
    (held_ite (held_setKwr (held_kwrGo (held_setKwr (held_kwrAligned hs)))) (held_setKwr (held_kwrAligned hs)))
    (held_ite
      (held_ite (held_kwrAligned (held_setKwr hs)) (held_ite (held_kwrAligned (held_setKwr hs)) (held_setKwr hs))) hs)

theorem held_loopMeasure {s k loop dly} (hs : Held K s) : Held K (loopMeasure s k loop dly) :=
  held_ite
    (held_put hs)
    (held_ite
      (held_setKwr (held_put hs))
      (held_ite
        (held_ite (held_put (held_put hs)) (held_raise (held_setKwr (held_put (held_put hs)))))
        (held_setKwr (held_put hs))))

theorem held_rxTime {s k tb dly residence frac} (hs : Held K s) : Held K (rxTime s k tb dly residence frac) :=
  held_alignCycle (held_iteAfter (held_setKwr (held_kwrForward (held_put hs))) held_loopMeasure)

theorem held_firstTime {s k hi} (hs : Held K s) : Held K (firstTime s k hi) :=
  held_ite (held_ite (held_put (held_timebaseStep (held_setKwr hs))) (held_setKwr hs)) hs

theorem held_rxTimeHigh {s k hi hop} (hs : Held K s) : Held K (rxTimeHigh s k hi hop) :=
  held_ite hs (held_setKwr (held_firstTime (held_kwrForward hs)))

theorem held_slew {s k} (hs : Held K s) : Held K (slew s k) :=
  held_ite (held_timebaseViews (held_setKwr hs.frame)) hs

theorem held_goodSuper {s k ws} (hs : Held K s) : Held K (goodSuper s k ws) := by
  unfold goodSuper
  extract_lets _ _ s3 s4 s5 s6
  have hs3 : Held K s3 := held_setKwr hs
  have hs4 : Held K s4 := held_extractWords hs3
  have hs5 : Held K s5 := held_ite hs4 (held_kwrSend hs4)
  have hs6 : Held K s6 := held_ite (held_sendAck hs5) hs5
  exact held_ite (held_heldRelease hs6) (held_setKwr hs)

theorem held_stompOn {s k ws} (hs : Held K s) : Held K (stompOn s k ws) :=
  held_ite hs (held_kwrSend hs)

theorem held_passOver {s k stomped} (hs : Held K s) : Held K (passOver s k stomped) :=
  held_ite hs (held_setKwr hs)

theorem held_rxSuper {s k sb err} (hs : Held K s) : Held K (rxSuper s k sb err) := by
  unfold rxSuper
  extract_lets _ _ _ _ s5 s6 _
  have hs5 : Held K s5 := held_ite (held_bump hs) hs
  have hs6 : Held K s6 := held_stompOn hs5
  exact held_ite hs5
    (held_ite
      (held_passOver hs5)
      (held_ite (held_stompOn hs5) (held_ite (held_sendAck (held_setKwr hs6)) (held_goodSuper hs5))))

theorem held_rxAck {s k seq pos nak} (hs : Held K s) : Held K (rxAck s k seq pos nak) := by
  unfold rxAck
  split
  · extract_lets s1 s2 s3
    have hs1 : Held K s1 := held_setKwr hs
    have hs2 : Held K s2 := held_ite hs1 (held_kwrNow1 hs1)
    have hs3 : Held K s3 := held_ite (held_kwrNow (held_bump hs2)) hs2
    exact held_frameDue (held_kwrSend hs3)
  · exact held_kwrNow1 hs

theorem held_rxReplay {s k seq restart} (hs : Held K s) : Held K (rxReplay s k seq restart) :=
  held_ite (held_setKwr hs) (held_heldRelease (held_setKwr hs))

theorem held_rxFill {s k copies} (hs : Held K s) : Held K (rxFill s k copies) :=
  held_ite hs (held_kwrNow hs)

theorem held_retrainGroup {s k} (hs : Held K s) : Held K (retrainGroup s k) :=
  held_foldl hs fun _ _ h => held_retrain h

theorem held_hopReseat {s k} (hs : Held K s) : Held K (hopReseat s k) :=
  held_ite (held_retrainGroup (held_raise (held_bump hs))) hs

theorem held_dropReplay {s k} (hs : Held K s) : Held K (dropReplay s k) :=
  held_kwrRpl (held_setKwr hs)

theorem held_bufferInvalid {s k} (hs : Held K s) : Held K (bufferInvalid s k) :=
  held_retrainGroup (held_raise (held_offerEvent (held_bump (held_dropReplay hs))))

theorem held_cycleMissed {s k} (hs : Held K s) : Held K (cycleMissed s k) := by
  unfold cycleMissed
  extract_lets _ _ _ s4
  have hs4 : Held K s4 := held_ite hs (held_countMissed (held_setKwr hs))
  exact held_ite (held_ite (held_kwrGo (held_put hs4)) hs4) hs

theorem held_frameLost {s k} (hs : Held K s) : Held K (frameLost s k) :=
  held_ite (held_iteAfter (held_setKwr (held_countMissed hs)) fun hx => held_kwrGo (held_setKwr hx)) hs

theorem held_alarmSet {s k} (hs : Held K s) : Held K (alarmSet s k) :=
  held_setKwr hs

theorem held_alarmClear {s k} (hs : Held K s) : Held K (alarmClear s k) :=
  held_ite (held_setKwr hs) hs

theorem held_rxSlot {s k} (hs : Held K s) : Held K (rxSlot s k) := by
  unfold rxSlot
  split
  · exact hs
  · split
    · exact held_kwrForward (held_setKwr hs)
    · exact held_kwrForward hs

theorem held_mgmtPart {s k m} (hs : Held K s) : HeldP K (mgmtPart s k m) :=
  heldP_ite (heldP_mk (held_setKwr hs)) (heldP_ite (heldP_mk (held_setKwr hs)) (heldP_mk (held_setKwr hs)))

theorem held_rxMgmt {s k m} (hs : Held K s) : HeldP K (rxMgmt s k m) :=
  heldP_ite
    (held_mgmtPart (held_kwrForward hs))
    (heldP_ite
      (heldP_ite (heldP_ite (heldP_mk (held_setKwr hs)) (heldP_mk (held_bump hs))) (heldP_mk hs))
      (heldP_mk (held_kwrForward hs)))

end Sys2Proof.Machine
end

section
/-! What every operation of Machine/Dram.lean keeps of the two channels and the rest of the invariant. -/
namespace Sys2Proof.Machine
open Sys2Proof
variable {K : Keep}

theorem held_setDramState {s c v} (hs : Held K s) : Held K (setDramState s c v) :=
  held_ite hs (held_logState (held_offerEvent (held_put hs)))

theorem held_startRemap {n s n'} (hs : Held K s) : Held K (startRemap n s n') := by
  induction n generalizing s n' with
  | zero =>
    exact hs
  | succ n ih =>
    unfold startRemap
    extract_lets
    split
    · split
      · exact hs
      · split
        · exact held_setDram hs (hs.dram _)
        · exact ih (held_raise (held_setDram hs (hs.dram _)))
    · exact hs

theorem held_addCandidate {s c l} (hs : Held K s) : Held K (addCandidate s c l) :=
  held_ite hs (held_startRemap (held_setDram hs (hs.dram _)))

theorem held_trackRow {s c l} (hs : Held K s) : Held K (trackRow s c l) := by
  unfold trackRow
  extract_lets _ _ s3
  have hs3 : Held K s3 := held_setDram hs (hs.dram _)
  exact held_ite (held_addCandidate hs3) hs3

theorem held_countDouble {s c l patrol j d} (hs : Held K s) : Held K (countDouble s c l patrol j d) :=
  held_ite hs
    (held_ite
      (held_trackRow (held_offerEvent (held_bump (held_setWord (held_setWord hs)))))
      (held_addCandidate (held_bump (held_setWord (held_setWord hs)))))

theorem held_countLine {s c l patrol copy ds} (hs : Held K s) : Held K (countLine s c l patrol copy ds) := by
  unfold countLine
  extract_lets s1
  have hs1 : Held K s1 := held_foldl hs fun _ _ h => held_countDouble h
  exact held_ite (held_raise (held_ite hs1 (held_offerEvent hs1))) hs1

theorem held_writeBack {s n l ds} (hs : Held K s) : Held K (writeBack s n l ds) := by
  refine held_setDram hs fun hn => dramOk_foldl (hs.dram n hn) fun _ _ hx => ?_
  split
  · exact dramOk_putDouble _ _ _ _ hx
  · exact hx

theorem held_drainOut {n s n' n''} (hs : Held K s) : Held K (drainOut n s n' n'') := by
  induction n generalizing s n' n'' with
  | zero =>
    exact hs
  | succ n ih =>
    unfold drainOut
    extract_lets
    split
    · exact hs
    · exact ih (held_setDram hs (hs.dram _))
    · extract_lets s3 p4 _
      have hs3 : Held K s3 := held_setDram hs (hs.dram _)
      have hp4 : HeldP K p4 := held_fifoPush hs3
      exact held_ite (ih (held_bump hs3)) (held_ite (ih hp4) (held_setDram hp4 (hp4.dram _)))

theorem held_leaveAll {n s n'} (hs : Held K s) : Held K (leaveAll n s n') := by
  induction n generalizing s n' with
  | zero =>
    exact hs
  | succ n ih =>
    unfold leaveAll
    split
    · exact hs
    · exact ih (held_drainOut (held_setDram hs (hs.dram _)))

theorem held_dramLevels {s c} (hs : Held K s) : Held K (dramLevels s c) :=
  held_put (held_foldl hs fun _ _ h => held_put h)

theorem held_dramSettle {s c} (hs : Held K s) : Held K (dramSettle s c) :=
  held_dramLevels (held_leaveAll hs)

theorem held_dramOutRetry {s c q} (hs : Held K s) : Held K (dramOutRetry s c q) :=
  held_drainOut hs

theorem held_answerOnly {s c p n tag status} (hs : Held K s) : Held K (answerOnly s c p n tag status) :=
  held_dramSettle (held_setDram hs (hs.dram _))

theorem held_requestTake {s c q} (hs : Held K s) : Held K (requestTake s c q) := by
  unfold requestTake
  extract_lets
  split
  · exact hs
  · split
    · rename_i heq
      have h1 := (held_fifoPop hs).of_eq heq
      exact h1
    · rename_i heq
      have h2 := (held_fifoPop hs).of_eq heq
      exact held_setDram h2 (h2.dram _)

theorem held_packetTake {s c q} (hs : Held K s) : Held K (packetTake s c q) :=
  held_foldl hs fun _ _ h => held_requestTake h

theorem held_packetGone {s c q} (hs : Held K s) : Held K (packetGone s c q) :=
  held_setDram hs (hs.dram _)

theorem held_requestFault {s c p} (hs : Held K s) : Held K (requestFault s c p) := by
  unfold requestFault
  extract_lets s1 s2
  have hs1 : Held K s1 := held_packetTake hs
  have hs2 : Held K s2 := held_bump (held_packetGone hs1)
  split
  · exact hs1
  · exact held_ite hs1 (held_ite hs2 (held_answerOnly hs2))

theorem held_sdramRequest {s c p op} (hs : Held K s) : Held K (sdramRequest s c p op) := by
  unfold sdramRequest
  extract_lets s1 s2 _
  have hs1 : Held K s1 := held_packetTake hs
  have hs2 : Held K s2 := held_packetGone hs1
  split
  · exact hs1
  · exact held_ite hs1 (held_ite (held_answerOnly hs2) (held_dramSettle (held_setDram hs2 (hs2.dram _))))

theorem held_requestAged {s c k r} (hs : Held K s) : Held K (requestAged s c k r) :=
  held_ite (held_setDram hs (hs.dram _)) hs

theorem held_requestLate {s c k r} (hs : Held K s) : Held K (requestLate s c k r) :=
  held_ite (held_offerEvent (held_bump (held_setDram hs (hs.dram _)))) hs

theorem held_ageAll {s c} (hs : Held K s) : Held K (ageAll s c) := by
  unfold ageAll
  refine held_foldl hs fun _ _ h => ?_
  extract_lets s1
  have hs1 : Held K s1 := held_elim h fun _ => held_requestAged h
  exact held_elim hs1 fun _ => held_requestLate hs1

theorem held_openRow {s c b row} (hs : Held K s) : Held K (openRow s c b row) :=
  held_setDram hs (hs.dram _)

theorem held_accessDone {s c p i flips} (hs : Held K s) : Held K (accessDone s c p i flips) := by
  unfold accessDone
  extract_lets s1
  have hs1 : Held K s1 := held_ite (held_ageAll hs) hs
  split
  · exact hs1
  · split
    · exact hs1
    · split
      · exact hs1
      · extract_lets _ s3 _ _ s6 s7 _ _ _ _ _ s13
        have hs3 : Held K s3 := held_openRow (held_setDram hs1 fun hn => dramOk_flipBits _ _ _ ((hs1.dram _) hn))
        have hs6 : Held K s6 := held_ite (held_countLine hs3) hs3
        have hs7 : Held K s7 :=
          held_ite
            (held_ite (held_writeBack hs6) hs6)
            (held_setDram hs6 (fun hn => dramOk_writeLine _ _ _ _ ((hs6.dram _) hn)))
        have hs13 : Held K s13 := held_setDram hs7 (hs7.dram _)
        exact held_dramSettle hs13

theorem held_closeRows {s c rank} (hs : Held K s) : Held K (closeRows s c rank) :=
  held_setDram hs (hs.dram _)

theorem held_refreshDue {s c rank} (hs : Held K s) : Held K (refreshDue s c rank) :=
  held_ite (held_ite (held_put hs) (held_ite (held_put hs) (held_closeRows (held_ite (held_put hs) hs)))) hs

theorem held_setMode2x {s c b} (hs : Held K s) : Held K (setMode2x s c b) :=
  held_ite hs (held_logState (held_offerEvent (held_put hs)))

theorem held_tempSource {s c} (hs : Held K s) : Held K (tempSource s c) :=
  held_ite (held_setMode2x hs) hs

theorem held_tempRead {s c die mpr} (hs : Held K s) : Held K (tempRead s c die mpr) := by
  unfold tempRead
  extract_lets _ _ _ s4
  have hs4 : Held K s4 := held_setDram (held_put hs) (hs.dram _)
  exact held_ite (held_setMode2x hs4) hs4

theorem held_patrolRead {s c flips} (hs : Held K s) : Held K (patrolRead s c flips) := by
  unfold patrolRead
  extract_lets _ _ _ s4 _ s6 _ _ _
  have hs4 : Held K s4 := held_openRow (held_setDram hs fun hn => dramOk_flipBits _ _ _ ((hs.dram _) hn))
  have hs6 : Held K s6 := held_writeBack (held_countLine hs4)
  exact held_ite hs (held_put (held_setDram hs6 (hs6.dram _)))

theorem held_patrolRestart {s c} (hs : Held K s) : Held K (patrolRestart s c) :=
  held_put (held_setDram hs (hs.dram _))

theorem held_setDramRows {s c l} (hs : Held K s) : Held K (setDramRows s c l) :=
  hs.frame

/-- Kept as a lemma with the channel as a variable: beside the copied lines the kernel would compute them. -/
theorem held_setDram_remap {s : State} {c y r} (hs : Held K s) (hy : c < 2 → DramOk K y) :
    Held K (setDram s c { y with remap := r }) :=
  held_setDram hs hy

theorem held_liveRemapDone {s c} (hs : Held K s) : Held K (liveRemapDone s c) := by
  unfold liveRemapDone
  extract_lets
  split
  · exact hs
  · extract_lets s1 y s2 s3 _ s4 _ s5 s6
    have hs1 : Held K s1 := held_foldl hs fun _ _ h => held_countLine h
    clear_value s1
    have hy : c < 2 → DramOk K y := fun hn => dramOk_foldl (hs1.dram c hn) fun _ _ hx => dramOk_copyLine _ _ _ _ hx
    clear_value y
    have hs2 : Held K s2 := held_setDram_remap hs1 hy
    clear_value s2
    have hs4 : Held K s4 := held_setDramRows (held_setWord hs2)
    have hs5 : Held K s5 := hs4.frame
    exact held_startRemap (held_raise (held_offerEvent hs5))

theorem held_setPpr {s c b} (hs : Held K s) : Held K (setPpr s c b) :=
  held_put hs.frame

theorem held_pprRow {s c i d ok} (hs : Held K s) : Held K (pprRow s c i d ok) := by
  unfold pprRow
  extract_lets _ _ s3
  have hs3 : Held K s3 := by
    unfold s3
    split
    · exact held_setWord hs
    · exact hs
  split
  · exact held_ite (held_setDramRows hs3) (held_raise hs)
  · exact hs

theorem held_pprRun {s c oks} (hs : Held K s) : Held K (pprRun s c oks) :=
  held_ite (held_setPpr (held_foldl hs fun _ _ h => held_pprRow h)) hs

theorem held_parityAlert {s c} (hs : Held K s) : Held K (parityAlert s c) := by
  unfold parityAlert
  extract_lets _ _ _ s4 s5 _ _
  have hs4 : Held K s4 := held_setDram hs (hs.dram _)
  have hs5 : Held K s5 := held_offerEvent (held_bump hs4)
  exact held_ite hs (held_ite (held_raise (held_setDram hs5 (hs5.dram _))) hs5)

end Sys2Proof.Machine
end

section
/-! What every operation of Machine/Train.lean keeps of the two channels and the rest of the invariant. -/
namespace Sys2Proof.Machine
open Sys2Proof
variable {K : Keep}

theorem held_setLaneSet {s c r rank lane x} (hs : Held K s) : Held K (setLaneSet s c r rank lane x) :=
  held_setDram hs (hs.dram _)

theorem held_setModes {s c r} (hs : Held K s) : Held K (setModes s c r) :=
  held_setDram hs (hs.dram _)

theorem held_sweepStart {s c r k} (hs : Held K s) : Held K (sweepStart s c r k) :=
  held_setDramState (held_closeRows (held_setModes (held_put (held_put (held_setDram hs (hs.dram _))))))

theorem held_dramStart {s c} (hs : Held K s) : Held K (dramStart s c) :=
  held_sweepStart (held_setDram hs (hs.dram _))

theorem held_storeSet {s c r l} (hs : Held K s) : Held K (storeSet s c r l) :=
  held_setWord (held_foldl hs fun _ _ h => held_foldl h fun _ _ h => held_setLaneSet h)

theorem held_dramDisable {s c} (hs : Held K s) : Held K (dramDisable s c) :=
  held_updateSeals (held_dramLevels (held_setDram (held_setDramState hs) ((held_setDramState hs).dram _)))

theorem held_dramReady {s c st} (hs : Held K s) : Held K (dramReady s c st) := by
  unfold dramReady
  extract_lets s1 s2 _ _ s5 s6 s7
  have hs1 : Held K s1 := held_put hs
  have hs2 : Held K s2 := held_ite (held_put hs1) hs1
  have hs5 : Held K s5 := held_setDram hs2 (hs2.dram _)
  have hs6 : Held K s6 := held_setDramState (held_setModes hs5)
  have hs7 : Held K s7 := held_dramSettle (held_ite (held_offerEvent hs6) hs6)
  exact held_ite (held_sweepStart hs7) hs7

theorem held_sweepFail {s c i r} (hs : Held K s) : Held K (sweepFail s c i r) := by
  unfold sweepFail
  extract_lets _ s2 _ s4
  have hs2 : Held K s2 := held_put hs
  have hs4 : Held K s4 := held_dramReady hs2
  split
  · exact held_raise (held_dramDisable (held_put hs2))
  · exact held_raise (held_dramDisable (held_put hs2))
  · exact held_raise (held_dramReady (held_put hs2))
  · exact held_raise hs4

theorem held_sweepEnd {s c} (hs : Held K s) : Held K (sweepEnd s c) := by
  unfold sweepEnd
  extract_lets _ _ s3 s4 s5 _
  have hs3 : Held K s3 := held_put (held_setDram hs (hs.dram _))
  have hs4 : Held K s4 := held_storeSet hs3
  have hs5 : Held K s5 := held_put (held_put hs4)
  split
  · exact held_dramReady (held_put (held_setDram hs5 (hs5.dram _)))
  · exact held_sweepFail hs3

theorem held_sweepStep {s c v ppr} (hs : Held K s) : Held K (sweepStep s c v ppr) := by
  unfold sweepStep
  split
  · extract_lets _ s2 _ _ s5
    have hs2 : Held K s2 := by
      unfold s2
      split
      · exact held_pprRun hs
      · exact hs
    have hs5 : Held K s5 := held_setDram (held_tookFree hs2) (hs2.dram _)
    exact held_ite (held_sweepEnd hs5) (held_put hs5)
  · exact hs

theorem held_sweepRequest {s c} (hs : Held K s) : Held K (sweepRequest s c) :=
  held_iteBefore (held_put hs) fun hx => held_ite (held_ite (held_setDram hx (hx.dram _)) (held_sweepStart hx)) hs

theorem held_gatherStart {s c} (hs : Held K s) : Held K (gatherStart s c) :=
  held_ite (held_setDram (held_put hs) (hs.dram _)) hs

theorem held_applySample {s c r p} (hs : Held K s) : Held K (applySample s c r p) :=
  held_ite hs (held_setLaneSet hs)

theorem held_applySamples {s c r l} (hs : Held K s) : Held K (applySamples s c r l) :=
  held_bump (held_put (held_put (held_put (held_foldl hs fun _ _ h => held_applySample h))))

theorem held_laneOutcome {s c rank lane l} (hs : Held K s) : Held K (laneOutcome s c rank lane l) := by
  unfold laneOutcome
  extract_lets _ _ _ _ s5 s6
  have hs5 : Held K s5 := held_setDram hs (hs.dram _)
  have hs6 : Held K s6 := held_logState (held_putBit hs5)
  split
  · exact held_setDram hs (hs.dram _)
  · exact held_ite (held_raise (held_setDramState hs6)) hs6

theorem held_gathered {s c r l} (hs : Held K s) : Held K (gathered s c r l) :=
  held_bump (held_put (held_foldl (held_applySamples hs) fun _ _ h => held_foldl h fun _ _ h => held_laneOutcome h))

theorem held_gatherEnd {s c} (hs : Held K s) : Held K (gatherEnd s c) :=
  held_put (held_gathered hs)

theorem held_pauseEnd {s c l} (hs : Held K s) : Held K (pauseEnd s c l) := by
  unfold pauseEnd
  extract_lets _ s2 _
  have hs2 : Held K s2 := held_setDram hs (hs.dram _)
  exact held_ite
    (held_ite
      (held_sweepStart hs2)
      (held_ite (held_put (held_setDram hs2 (hs2.dram _))) (held_ite (held_gatherEnd hs2) hs2))) hs

theorem held_rateRequest {s c r} (hs : Held K s) : Held K (rateRequest s c r) := by
  unfold rateRequest
  extract_lets _ _ s3
  have hs3 : Held K s3 := held_setDram hs (hs.dram _)
  exact held_ite hs (held_ite hs (held_ite (held_put hs3) hs3))

theorem held_rateBegin {s c} (hs : Held K s) : Held K (rateBegin s c) := by
  unfold rateBegin
  extract_lets
  split
  · exact hs
  · split
    · exact hs
    · split
      · exact held_sweepStart (held_put (held_setDram hs (hs.dram _)))
      · split
        · extract_lets s5
          have hs5 : Held K s5 := held_setDram hs (hs.dram _)
          exact held_ite (held_put (held_closeRows (held_setModes hs5))) (held_sweepStart hs5)
        · exact hs

theorem held_checkDone {s c l} (hs : Held K s) : Held K (checkDone s c l) := by
  unfold checkDone
  extract_lets _ _ _ _ _ s6 s7
  have hs6 : Held K s6 := held_ite (held_gathered hs) hs
  have hs7 : Held K s7 := held_put hs6
  exact held_ite (held_ite (held_dramReady (held_put hs6)) (held_sweepStart hs7)) hs

theorem held_selfRefreshEnter {s c} (hs : Held K s) : Held K (selfRefreshEnter s c) :=
  held_ite (held_setDramState (held_put (held_closeRows (held_setDram hs (hs.dram _))))) hs

theorem held_selfRefreshExit {s c} (hs : Held K s) : Held K (selfRefreshExit s c) := by
  unfold selfRefreshExit
  split
  · extract_lets _ s2
    have hs2 : Held K s2 := held_setDram hs (hs.dram _)
    exact held_ite (held_rateBegin hs2) (held_put hs2)
  · exact hs

end Sys2Proof.Machine
end

section
/-! What every operation of Machine/Tumbler.lean keeps of the two channels and the rest of the invariant. -/
namespace Sys2Proof.Machine
open Sys2Proof
variable {K : Keep}

theorem held_setPins {s p} (hs : Held K s) : Held K (State.setPins s p) :=
  hs.frame

theorem held_setTmb {s t x} (hs : Held K s) : Held K (setTmb s t x) :=
  held_setPins hs

theorem held_tmbSetStep {s t n} (hs : Held K s) : Held K (tmbSetStep s t n) :=
  held_put hs

theorem held_tmbCond {s t} (hs : Held K s) : Held K (tmbCond s t) :=
  held_put hs

theorem held_tmbFire {s t} (hs : Held K s) : Held K (tmbFire s t) := by
  unfold tmbFire
  extract_lets _ s2 s3 _ s5 s6 _ s8 _ s10
  have hs2 : Held K s2 := held_bump hs
  have hs3 : Held K s3 := held_ite (held_offerEvent hs2) hs2
  have hs5 : Held K s5 := held_setTmb hs3
  have hs6 : Held K s6 := held_logState hs5
  have hs8 : Held K s8 := held_raise hs6
  have hs10 : Held K s10 := held_ite (held_ite (held_setTmb hs8) hs6) hs5
  exact held_ite (held_ite (held_wakeEvent hs) hs) (held_ite (held_wakeEvent hs10) hs10)

theorem held_tmbBegin {s t} (hs : Held K s) : Held K (tmbBegin s t) :=
  held_tmbSetStep (held_ite (held_setTmb hs) hs)

theorem held_tmbAdvance {n s n'} (hs : Held K s) : Held K (tmbAdvance n s n') := by
  induction n generalizing s n' with
  | zero =>
    exact hs
  | succ n ih =>
    unfold tmbAdvance
    extract_lets _ _ s3
    have hs3 : Held K s3 := held_tmbFire (held_setTmb (held_tmbSetStep hs))
    exact held_ite
      (held_ite (ih (held_tmbBegin hs)) (held_ite (held_ite (held_tmbBegin hs3) hs3) (ih (held_tmbSetStep hs)))) hs

theorem held_tmbSample {s t} (hs : Held K s) : Held K (tmbSample s t) :=
  held_ite (held_tmbCond (held_tmbAdvance hs)) hs

theorem held_tmbFilter {s t i v} (hs : Held K s) : Held K (tmbFilter s t i v) := by
  unfold tmbFilter
  extract_lets _ s2 s3
  have hs2 : Held K s2 := held_setTmb hs
  have hs3 : Held K s3 := by
    unfold s3
    split
    · exact held_ite (held_tmbFire hs2) hs2
    · exact held_ite (held_tmbFire hs2) hs2
    · exact held_tmbAdvance hs2
  exact held_ite hs (held_tmbCond hs3)

theorem held_tmbFollow {s t} (hs : Held K s) : Held K (tmbFollow s t) :=
  held_ite (held_foldl hs fun _ _ h => held_tmbFilter h) hs

theorem held_tmbRestart {s t} (hs : Held K s) : Held K (tmbRestart s t) :=
  held_tmbCond (held_tmbFollow (held_put (held_setTmb (held_tmbSetStep (held_ite (held_put (held_put hs)) hs)))))

theorem held_tmbBankChange {s b} (hs : Held K s) : Held K (tmbBankChange s b) :=
  held_foldl hs fun _ _ h => held_ite (held_tmbRestart h) h

theorem held_tmbRestartAll {s} (hs : Held K s) : Held K (tmbRestartAll s) :=
  held_foldl hs fun _ _ h => held_tmbRestart h

theorem held_tmbLevel {s0 s b p t} (hs : Held K s) : Held K (tmbLevel s0 s b p t) :=
  held_ite (held_tmbFollow (held_ite (held_setTmb hs) hs)) hs

theorem held_filterExpiry {s t i} (hs : Held K s) : Held K (filterExpiry s t i) :=
  held_ite (held_tmbFilter hs) hs

theorem held_tmbReturn {s t} (hs : Held K s) : Held K (tmbReturn s t) :=
  held_tmbCond (held_tmbAdvance (held_setTmb (held_tmbSetStep hs)))

theorem held_windowTimeout {s t} (hs : Held K s) : Held K (windowTimeout s t) :=
  held_ite (held_tmbReturn (held_bump hs)) hs

theorem held_strictReturn {s t} (hs : Held K s) : Held K (strictReturn s t) :=
  held_ite (held_tmbReturn hs) hs

theorem held_tmbWrite {s t r w} (hs : Held K s) : Held K (tmbWrite s t r w) := by
  unfold tmbWrite
  split
  · exact hs
  · extract_lets _ s2
    have hs2 : Held K s2 := held_tmbRestart (held_setWord hs)
    exact held_ite (held_tmbRestart hs2) hs2

end Sys2Proof.Machine
end

section
/-! What every operation of Machine/Pins.lean keeps of the two channels and the rest of the invariant. -/
namespace Sys2Proof.Machine
open Sys2Proof
variable {K : Keep}

theorem held_setStg {s b p} (hs : Held K s) : Held K (setStg s b p) :=
  held_put hs

theorem held_putForce {s b p w} (hs : Held K s) : Held K (putForce s b p w) :=
  held_setStg (held_setPins hs)

theorem held_probeRefuse {s q} (hs : Held K s) : Held K (probeRefuse s q) :=
  held_put (held_put hs)

theorem held_abandonSwitch {s b} (hs : Held K s) : Held K (abandonSwitch s b) :=
  held_put (held_setPins hs)

theorem held_bankHot {s b st} (hs : Held K s) : Held K (bankHot s b st) :=
  held_tmbBankChange (held_setPins (held_put (held_abandonSwitch (held_ite (held_setWord hs) hs))))

theorem held_supplyChange {s b mv} (hs : Held K s) : Held K (supplyChange s b mv) := by
  unfold supplyChange
  extract_lets _ s2 s3 s4
  have hs2 : Held K s2 := held_setPins hs
  have hs3 : Held K s3 := held_put hs2
  have hs4 : Held K s4 := held_ite (held_foldl hs3 fun _ _ h => held_ite (held_probeRefuse h) h) hs3
  exact held_ite (held_bankHot hs4) hs4

theorem held_wordInputs {s b} (hs : Held K s) : Held K (wordInputs s b) :=
  held_foldl hs fun _ _ h => held_ite (held_wordWrite h) h

theorem held_bankConfigured {s b} (hs : Held K s) : Held K (bankConfigured s b) :=
  held_wordInputs (held_tmbBankChange (held_setWord (held_put hs)))

theorem held_supplyAgreed {s b} (hs : Held K s) : Held K (supplyAgreed s b) :=
  held_ite (held_setPins hs) hs

theorem held_supplyLost {s b} (hs : Held K s) : Held K (supplyLost s b) :=
  held_ite (held_raise (held_bankHot hs)) hs

theorem held_queueWrite {s fabric b m v} (hs : Held K s) : Held K (queueWrite s fabric b m v) :=
  held_setPins hs

theorem held_doutApply {s b} (hs : Held K s) : Held K (doutApply s b) :=
  held_setPins (held_setWord hs)

theorem held_pinAction {s b p code} (hs : Held K s) : Held K (pinAction s b p code) := by
  unfold pinAction
  split
  · extract_lets
    split
    · exact held_setWord hs
    · exact held_setWord hs
    · exact held_setWord hs
    · exact held_ite (held_setPins hs) hs
    · exact hs
  · exact hs

theorem held_pinEvent {s b p isB} (hs : Held K s) : Held K (pinEvent s b p isB) :=
  held_pinAction hs

theorem held_cfgStage {s b p w} (hs : Held K s) : Held K (cfgStage s b p w) :=
  held_setStg (held_setWord hs)

theorem held_leavePin {s b p} (hs : Held K s) : Held K (leavePin s b p) :=
  held_setPins hs

theorem held_applyPin {s b p} (hs : Held K s) : Held K (applyPin s b p) := by
  unfold applyPin
  extract_lets _ s2 _ s4 s5
  have hs2 : Held K s2 := held_leavePin hs
  have hs4 : Held K s4 := held_setPins hs2
  have hs5 : Held K s5 := by
    unfold s5
    split
    · exact held_probeRefuse hs4
    · exact hs4
  exact held_ite (held_putBit (held_putForce hs)) (held_putBit hs5)

theorem held_applyGroup {s b m} (hs : Held K s) : Held K (applyGroup s b m) := by
  unfold applyGroup
  split
  · exact held_setWord (held_setPins hs)
  · extract_lets x1 _ s3 s4
    have hs3 : Held K s3 := held_foldl hs fun _ _ h => held_applyPin h
    have hs4 : Held K s4 := held_foldl hs3 fun _ _ h => held_putBit h
    clear_value x1
    split
    · exact hs3
    · exact held_raise (held_put hs4)

theorem held_switchTake {s b} (hs : Held K s) : Held K (switchTake s b) :=
  held_ite hs
    (held_ite
      (held_ite (held_bankConfigured (held_setPins (held_foldl hs fun _ _ h => held_putForce h))) (held_setPins hs))
      (held_ite hs
        (held_iteBefore
          (held_wordInputs (held_setPins (held_foldl hs fun _ _ h => held_putBit
            (held_putForce h)))) held_applyGroup)))

theorem held_pinInput {s b p v} (hs : Held K s) : Held K (pinInput s b p v) := by
  unfold pinInput
  extract_lets
  split
  · exact held_ite hs (held_wordWrite hs)
  · exact held_ite hs (held_ite (held_offerEvent hs) hs)
  · exact hs

theorem held_levelChange {s b p level} (hs : Held K s) : Held K (levelChange s b p level) :=
  held_iteBefore
    (held_setPins (held_ite (held_tookFree hs) hs))
    fun hx => held_foldl (held_iteAfter (held_setWord hx) held_pinInput) fun _ _ h => held_tmbLevel h

theorem held_gpevEvent {s n} (hs : Held K s) : Held K (gpevEvent s n) := by
  unfold gpevEvent
  split
  · exact held_ite (held_setPins hs) hs
  · exact hs

theorem held_setPortOut {s g x} (hs : Held K s) : Held K (setPortOut s g x) :=
  held_setPins hs

theorem held_portStrobe {s g} (hs : Held K s) : Held K (portStrobe s g) :=
  held_ite (held_iteBefore (held_setPins (held_fifoPush hs)) fun hx => held_iteBefore (held_bump hx) held_raise) hs

theorem held_popData {n s n'} (hs : Held K s) : HeldP K (popData n s n') := by
  induction n generalizing s n' with
  | zero =>
    exact heldP_mk hs
  | succ n ih =>
    unfold popData
    split
    · rename_i heq
      have h1 := (held_fifoPop hs).of_eq heq
      exact heldP_ite (ih h1) (heldP_mk h1)
    · rename_i heq
      have h2 := (held_fifoPop hs).of_eq heq
      exact heldP_mk h2

theorem held_portEntry {s g} (hs : Held K s) : Held K (portEntry s g) := by
  unfold portEntry
  split
  · split
    · exact held_setPortOut hs
    · split
      · rename_i heq
        have h1 := (held_popData hs).of_eq heq
        exact held_setPortOut h1
      · rename_i heq
        have h2 := (held_popData hs).of_eq heq
        exact held_setPortOut h2
  · exact hs

theorem held_wakePin {s b k} (hs : Held K s) : Held K (wakePin s b k) :=
  held_ite (held_wakeEvent hs) hs

theorem held_probeWrite {s q mask w} (hs : Held K s) : Held K (probeWrite s q mask w) :=
  held_ite
    (held_setWord hs)
    (held_ite
      (held_setWord hs)
      (held_ite (held_put (held_ite (held_setWord hs) (held_setWord hs).fabFrame)) (held_put (held_setWord hs))))

theorem held_probesOff {s} (hs : Held K s) : Held K (probesOff s) :=
  held_foldl hs fun _ _ h => held_put (held_put h)

theorem held_userClockWrite {s k w} (hs : Held K s) : Held K (userClockWrite s k w) :=
  held_updateSeals (held_setWord (held_ite (held_setGone hs) hs))

theorem held_bankCommit {s b} (hs : Held K s) : Held K (bankCommit s b) := by
  unfold bankCommit
  extract_lets s1 _ s3 s4
  have hs1 : Held K s1 := held_abandonSwitch hs
  have hs3 : Held K s3 := held_setPins hs1
  have hs4 : Held K s4 := held_foldl hs3 fun _ _ h => held_putForce h
  exact held_ite (held_put hs4) (held_ite (held_bankConfigured hs4) (held_raise (held_put hs4)))

theorem held_streamPins {s} (hs : Held K s) : Held K (streamPins s) :=
  held_foldl hs fun _ _ h => held_setPins h

theorem held_keepLevels {s} (hs : Held K s) : Held K (keepLevels s) :=
  held_setPins hs

theorem held_restorePins {s} (hs : Held K s) : Held K (restorePins s) :=
  held_foldl hs fun _ _ h => held_cfgStage h

theorem held_pinsCommit {s} (hs : Held K s) : Held K (pinsCommit s) :=
  held_tmbRestartAll (held_foldl (held_probesOff hs) fun _ _ h => held_bankCommit h)

theorem held_pinsHot {s} (hs : Held K s) : Held K (pinsHot s) :=
  held_foldl hs fun _ _ h => held_bankHot h

end Sys2Proof.Machine
end

section
/-! What every operation of Machine/RegRules.lean keeps of the two channels and the rest of the invariant. -/
namespace Sys2Proof.Machine
open Sys2Proof
variable {K : Keep}

theorem held_setStream {s a w} (hs : Held K s) : Held K (setStream s a w) :=
  held_setWord hs

end Sys2Proof.Machine
end

section
/-! What every operation of Machine/Reload.lean keeps of the two channels and the rest of the invariant. -/
namespace Sys2Proof.Machine
open Sys2Proof
variable {K : Keep}

theorem held_reloadLast {s rl result} (hs : Held K s) : Held K (reloadLast s rl result) :=
  held_setWord hs

theorem held_reloadAccept {s rl} (hs : Held K s) : Held K (reloadAccept s rl) :=
  held_reloadLast (held_isoStat (held_isolate (held_isoByDevice (held_putBit hs)))).frame

theorem held_reloadRequest {s h₀ cause retry} (hs : Held K s) : Held K (reloadRequest s h₀ cause retry) :=
  held_ite hs (held_ite (held_putBit hs).frame (held_reloadAccept (held_putBit hs)))

theorem held_reloadRetry {s h₀} (hs : Held K s) : Held K (reloadRetry s h₀) := by
  unfold reloadRetry
  split
  · exact held_reloadRequest hs.frame
  · exact hs

theorem held_clearHearth {s h₀} (hs : Held K s) : Held K (clearHearth s h₀) :=
  held_checkRows (held_frames hs (framesOk_tdrop hs.fab))

theorem held_reloadEnd {s h₀ result} (hs : Held K s) : Held K (reloadEnd s h₀ result) := by
  unfold reloadEnd
  extract_lets s1 _
  have hs1 : Held K s1 := by
    unfold s1
    split
    · exact held_reloadLast hs
    · exact hs
  exact hs1.frame

theorem held_reloadFail {s h₀ cause cls} (hs : Held K s) : Held K (reloadFail s h₀ cause cls) := by
  unfold reloadFail
  extract_lets _ _ _ s4 s5 s6 s7 s8 _
  have hs4 : Held K s4 := hs.cfgFrame
  have hs5 : Held K s5 := held_raise (held_bump hs4)
  have hs6 : Held K s6 := held_reloadEnd (held_clearHearth hs5)
  have hs7 : Held K s7 := held_putBit (held_putBit hs6)
  have hs8 : Held K s8 := held_isoByDevice (held_putBit hs7)
  exact held_ite hs8.frame (held_raise (held_putBit hs8))

theorem held_reloadDone {s h₀} (hs : Held K s) : Held K (reloadDone s h₀) :=
  held_ite
    (held_putBit (held_reloadEnd (held_bump (held_put (held_ite hs.cfgFrame.frame hs.cfgFrame))))).frame
    (held_isoStat (held_reinsert (held_putBit (held_reloadEnd (held_bump (held_put
      (held_ite hs.cfgFrame.frame hs.cfgFrame)))))))

theorem held_reloadsDrop {s} (hs : Held K s) : Held K (reloadsDrop s) := by
  unfold reloadsDrop
  extract_lets s1 s2 _ _
  have hs1 : Held K s1 := by
    unfold s1
    split
    · exact held_reloadLast hs
    · exact hs
  have hs2 : Held K s2 := held_put (held_put hs1)
  exact hs2.cfgFrame

theorem held_afterHandover {s} (hs : Held K s) : Held K (afterHandover s) :=
  held_foldl (held_foldl hs.frame fun _ _ h => held_ite (held_startUserReset h) h) fun _ _ h => held_reloadAccept h

end Sys2Proof.Machine
end

section
/-! What every operation of Machine/Load.lean keeps of the two channels and the rest of the invariant. -/
namespace Sys2Proof.Machine
open Sys2Proof
variable {K : Keep}

theorem held_setFlash {s b a v} (hs : Held K s) : Held K (setFlash s b a v) :=
  held_ite { hs with cfg := ⟨hs.cfg.1, flashOk_tput hs.cfg.2⟩ }
    { hs with cfg := ⟨flashOk_tput hs.cfg.1, hs.cfg.2⟩ }

theorem held_setReader {s r} (hs : Held K s) : Held K (setReader s r) :=
  hs.cfgFrame

theorem held_clearMemory {s} (hs : Held K s) : Held K (clearMemory s) :=
  (held_frames hs framesOk_nil).frame

theorem held_deviceFault {s} (hs : Held K s) : Held K (deviceFault s) :=
  held_raise (held_setPhase (held_put (held_put (held_clearMemory hs).cfgFrame)))

theorem held_imageFail {s img cause chunk} (hs : Held K s) : Held K (imageFail s img cause chunk) := by
  unfold imageFail
  extract_lets _ s2 s3 s4 _ s6 _
  have hs2 : Held K s2 := held_put hs
  have hs3 : Held K s3 := held_setWord hs2
  have hs4 : Held K s4 := held_setReader hs3
  have hs6 : Held K s6 := held_ite hs4.cfgFrame hs4.cfgFrame
  split
  · exact hs6
  · exact held_ite (held_deviceFault hs6) (held_raise hs6.cfgFrame)

theorem held_readFail {s r cause} (hs : Held K s) : Held K (readFail s r cause) := by
  unfold readFail
  split
  · exact held_imageFail hs
  · exact held_reloadFail (held_setWord hs)

theorem held_wardFail {s r w} (hs : Held K s) : Held K (wardFail s r w) :=
  held_readFail (held_setWord hs)

theorem held_loadStart {s firmware img} (hs : Held K s) : Held K (loadStart s firmware img) :=
  held_put hs.cfgFrame

theorem held_discoveryDone {s a b} (hs : Held K s) : Held K (discoveryDone s a b) := by
  unfold discoveryDone
  split
  · exact hs
  · split
    · exact hs
    · extract_lets _ s2 _ s4 s5 s6 s7 s8
      have hs2 : Held K s2 := hs.cfgFrame
      have hs4 : Held K s4 := held_ite hs2 (held_raise hs2)
      have hs5 : Held K s5 := held_ite (held_raise hs4) hs4
      have hs6 : Held K s6 := held_put (held_put hs5)
      have hs7 : Held K s7 := held_put hs6
      have hs8 : Held K s8 := held_ite (held_setPhase hs7) hs7
      exact held_ite (held_imageFail hs2) (held_setReader hs8)

theorem held_clearDone {s} (hs : Held K s) : Held K (clearDone s) := by
  unfold clearDone
  split
  · exact held_ite (held_put (held_clearMemory hs).cfgFrame) hs
  · exact hs

theorem held_takeFrame {s r h₀ n l} (hs : Held K s) : HeldP K (takeFrame s r h₀ n l) :=
  heldP_mk (held_writeFrame hs)

theorem held_takeRows {s h₀ b n l} (hs : Held K s) : Held K (takeRows s h₀ b n l) :=
  held_setRow (held_setRow hs)

theorem held_takeMap {s h₀ n l} (hs : Held K s) : Held K (takeMap s h₀ n l) :=
  hs.frame

theorem held_takeRecord {s r x off l} (hs : Held K s) : HeldP K (takeRecord s r x off l) := by
  unfold takeRecord
  split
  · exact held_takeFrame hs
  · exact heldP_mk (held_takeRows hs)
  · exact heldP_mk (held_takeMap hs)
  · exact heldP_mk hs
  · exact heldP_mk hs

theorem held_withPairs {s pairs only} (hs : Held K s) : Held K (withPairs s pairs only) :=
  held_foldl hs fun _ _ h => held_ite (held_setStream h) h

theorem held_dramOff {s c keep} (hs : Held K s) : Held K (dramOff s c keep) := by
  unfold dramOff
  extract_lets _ _ s3 s4
  have hs3 : Held K s3 := held_setDram hs fun hn => memOk_ite (hs.dram _ hn) memOk_nil
  have hs4 : Held K s4 := held_put (held_put hs3)
  exact held_updateSeals (held_dramLevels (held_ite hs4 (held_setDramState hs4)))

theorem held_earlyChannel {s r c} (hs : Held K s) : HeldP K (earlyChannel s r c) :=
  heldP_ite
    (heldP_mk (held_ite hs (held_dramOff hs)))
    (heldP_ite
      (heldP_mk (held_iteBefore (held_withPairs hs) held_dramOff))
      (heldP_ite (heldP_mk hs) (heldP_mk (held_dramStart (held_dramOff (held_withPairs hs))))))

theorem held_earlyFields {s r} (hs : Held K s) : HeldP K (earlyFields s r) :=
  heldP_ite (heldP_mk hs) (held_earlyChannel (held_earlyChannel hs))

theorem held_takeSections {n s x} (hs : Held K s) : HeldP K (takeSections n s x) := by
  induction n generalizing s x with
  | zero =>
    exact heldP_mk hs
  | succ n ih =>
    unfold takeSections
    split
    · exact heldP_ite (heldP_mk hs) (ih hs)
    · extract_lets _ _ _ p4 _ _ p7
      have hp4 : HeldP K p4 := heldP_ite (held_takeRecord hs) (heldP_mk hs)
      have hp7 : HeldP K p7 := held_earlyFields hp4
      exact heldP_ite (heldP_mk hs) (heldP_ite (ih hp7) (ih hp4))

theorem held_keyLatch {s} (hs : Held K s) : Held K (keyLatch s) :=
  (held_put hs).cfgFrame

theorem held_headerCause {s r hdr} (hs : Held K s) : HeldP K (headerCause s r hdr) :=
  heldP_ite
    (heldP_mk (held_setWord hs))
    (heldP_ite
      (heldP_mk hs)
      (heldP_ite (heldP_mk (held_raise hs)) (heldP_mk (held_iteBefore (held_keyLatch hs) held_put))))

theorem held_hearthHeader {s h₀ hdr} (hs : Held K s) : HeldP K (hearthHeader s h₀ hdr) :=
  heldP_ite (heldP_mk (held_setWord hs)) (heldP_mk hs)

theorem held_chunkTaken {s r l} (hs : Held K s) : Held K (chunkTaken s r l) := by
  unfold chunkTaken
  extract_lets _ _ p3 s4 _ _ p7 s8 _ s10
  have hp3 : HeldP K p3 := by
    unfold p3
    split
    · split
      · exact held_headerCause hs
      · exact held_hearthHeader hs
    · exact heldP_mk hs
  have hs4 : Held K s4 := hp3
  have hp7 : HeldP K p7 := held_takeSections hs4
  have hs8 : Held K s8 := hp7
  have hs10 : Held K s10 := held_setReader hs8
  exact held_ite
    (held_readFail hp3)
    (held_ite (held_ite (held_put hs10) hs10) (held_ite (held_readFail hs8) (held_setReader hs8)))

theorem held_chunkFailed {s r crcBad} (hs : Held K s) : Held K (chunkFailed s r crcBad) :=
  held_ite
    (held_setReader (held_bump hs))
    (held_ite
      (held_readFail hs)
      (held_ite (held_ite (held_setReader (held_put hs)) (held_readFail hs)) (held_readFail hs)))

theorem held_chunkRead {s errs} (hs : Held K s) : Held K (chunkRead s errs) := by
  unfold chunkRead
  split
  · exact hs
  · exact held_ite hs (held_ite (held_chunkFailed hs) (held_ite (held_chunkFailed hs) (held_chunkTaken hs)))

theorem held_hearthStreamRead {s} (hs : Held K s) : Held K (hearthStreamRead s) := by
  unfold hearthStreamRead
  split
  · exact hs
  · exact held_ite hs (held_ite (held_readFail hs) (held_ite (held_readFail hs) (held_setReader hs)))

theorem held_hearthCheckDone {s} (hs : Held K s) : Held K (hearthCheckDone s) := by
  unfold hearthCheckDone
  split
  · exact hs
  · split
    · exact hs
    · split
      · exact hs
      · split
        · exact held_readFail hs
        · split
          · exact held_wardFail hs
          · exact held_reloadDone hs

end Sys2Proof.Machine
end

section
/-! What every operation of Machine/Commit.lean keeps of the two channels and the rest of the invariant. -/
namespace Sys2Proof.Machine
open Sys2Proof
variable {K : Keep}

theorem held_sliceAbandon {s} (hs : Held K s) : Held K (sliceAbandon s) := by
  unfold sliceAbandon
  split
  · exact hs
  · exact held_columnResume (held_portsReleased (held_sliceEnd hs.fabFrame))
  · exact held_columnResume (held_portsReleased (held_sliceEnd hs.fabFrame))
  · exact held_blockAbandon hs
  · exact held_blockAbandon hs
  · exact held_sliceEnd hs
  · exact held_sliceEnd hs
  · exact held_sliceEnd hs
  · exact held_sliceEnd hs
  · exact held_pllUpdate (held_sliceEnd hs)

theorem held_dropFabric {s} (hs : Held K s) : Held K (dropFabric s) := by
  have hshown : Held K (removeShown s fun _ => true) := held_removeShown hs
  unfold dropFabric
  exact held_updateSeals { hshown with }

theorem held_laneOff {s l} (hs : Held K s) : Held K (laneOff s l) :=
  held_pllUpdate (held_put (held_put (held_linkOff hs)))

theorem held_stopLinks {s} (hs : Held K s) : Held K (stopLinks s) :=
  held_foldl
    (held_foldl (held_foldl hs fun _ _ h => held_kwrOff (held_put h)) fun _ _ h => held_laneOff h)
    fun _ _ h => held_put h

theorem held_stopScrub {s} (hs : Held K s) : Held K (stopScrub s) :=
  held_iteBefore (held_sliceAbandon hs).frame held_put

theorem held_stopDesign {s} (hs : Held K s) : Held K (stopDesign s) := by
  unfold stopDesign
  extract_lets s1 _ s2 s3 s4
  have hs1 : Held K s1 := held_reloadsDrop (held_stopScrub hs)
  have hs2 : Held K s2 := hs1.frame
  have hs3 : Held K s3 := held_dropFabric (held_pinsHot (held_probesOff hs2))
  have hs4 : Held K s4 := held_zeroLevels (held_stopLinks hs3)
  clear_value s4
  exact hs4.cfgFrame

theorem held_closeHasps {s} (hs : Held K s) : Held K (closeHasps s) :=
  held_put (held_put hs)

/-- The flash command that waits is refused; a lemma of its own, so that the state before it stays a variable. -/
theorem held_refuseHeld {s : State} (hs : Held K s) : Held K (if s.cfg.flashHeld.isSome then
    { s.put CFG_FL_CMD_status 4 with cfg := { s.cfg with flashHeld := none } } else s) :=
  held_ite (held_put hs).cfgFrame hs

theorem held_warmRecommit {s} (hs : Held K s) : Held K (warmRecommit s) := by
  have stopped (p : Phase) :
      Held K (closeHasps (stopDesign { s.put CFG_CTL_recommit 1 with pwr := { s.pwr with phase := p } })) :=
    held_closeHasps (held_stopDesign (held_put hs).frame)
  unfold warmRecommit
  split
  · exact hs
  · split
    case h_4 => exact hs
    all_goals exact held_loadStart (held_put (held_refuseHeld (stopped .loading).frame))

theorem held_hingesFirst {s} (hs : Held K s) : Held K (hingesFirst s) :=
  held_foldl (held_put hs) fun _ _ h => held_setSeal h

theorem held_commitFabric {s} (hs : Held K s) : Held K (commitFabric s) :=
  held_foldl (held_dropFabric hs).fabFrame fun _ _ h => held_insertTokens (held_isoStat (held_setHearth h))

theorem held_commitCore {s} (hs : Held K s) : Held K (commitCore s) :=
  (held_patrolRestart (held_patrolRestart (held_pinsCommit (held_governorWarm (held_put (held_foldl
    (held_setPace (held_hingesFirst (held_commitFabric (held_put hs))))
    fun _ _ h => held_put h)))))).frame

theorem held_streamState {s r} (hs : Held K s) : Held K (streamState s r) :=
  held_withPairs (held_withPairs hs)

theorem held_clearBlocks {s} (hs : Held K s) : Held K (clearBlocks s) :=
  held_content hs (contentOk_tdrop hs.store)

theorem held_clearBad {s} (hs : Held K s) : Held K (clearBad s) :=
  (held_put (held_isoByDevice (held_foldl hs fun _ _ h => held_ite (held_putBit h) h))).frame

theorem held_commitCfg {s r} (hs : Held K s) : Held K (commitCfg s r) :=
  (held_put (held_put (held_bump (held_put (held_put (held_put (held_put (held_put (held_put hs))))))))).cfgFrame

theorem held_commandFromStream {s} (hs : Held K s) : Held K (commandFromStream s) :=
  held_foldl (held_foldl hs fun _ _ h => held_setCommanded h) fun _ _ h => held_setCommanded h

theorem held_startLinks {s} (hs : Held K s) : Held K (startLinks s) :=
  held_foldl
    (held_foldl
      (held_foldl hs fun _ _ h => held_presetCord h)
      fun _ _ h => held_laneKick (held_updateSeals (held_pllUpdate (held_ite (held_put h) h))))
    fun _ _ h => held_kwrRole h

theorem held_commit {s r} (hs : Held K s) : Held K (commit s r) := by
  unfold commit
  extract_lets s1 _ s2 s3 s4 s5
  have hs1 : Held K s1 := held_streamState hs
  have hs2 : Held K s2 := hs1.frame
  have hs3 : Held K s3 := held_put (held_setWord hs2)
  have hs4 : Held K s4 := held_commitCfg (held_clearBlocks (held_clearBad hs3))
  have hs5 : Held K s5 := held_commitCore (held_streamPins hs4)
  exact held_commandFromStream (held_setPhase hs5)

theorem held_wardCheckDone {s} (hs : Held K s) : Held K (wardCheckDone s) := by
  unfold wardCheckDone
  split
  · exact hs
  · split
    · exact hs
    · split
      · exact held_readFail hs
      · split
        · exact held_wardFail hs
        · exact held_commit hs

end Sys2Proof.Machine
end

section
/-! What every operation of Machine/Keys.lean keeps of the two channels and the rest of the invariant. -/
namespace Sys2Proof.Machine
open Sys2Proof
variable {K : Keep}

theorem held_keyStatus {s} (hs : Held K s) : Held K (keyStatus s) :=
  held_put (held_put (held_put hs))

theorem held_clearStaged {s} (hs : Held K s) : Held K (clearStaged s) :=
  hs.cfgFrame

theorem held_keyStage {s t k} (hs : Held K s) : Held K (keyStage s t k) :=
  held_ite hs.cfgFrame hs

theorem held_keyExpect {s t v} (hs : Held K s) : Held K (keyExpect s t v) :=
  held_ite hs.cfgFrame hs

theorem held_keyCommand {s t cmd inRange vbat arg} (hs : Held K s) :
    Held K (keyCommand s t cmd inRange vbat arg) :=
  held_ite hs
    (held_ite (held_clearStaged hs).cfgFrame (held_ite (held_clearStaged hs).cfgFrame (held_clearStaged hs).cfgFrame))

theorem held_keyEffect {s j} (hs : Held K s) : Held K (keyEffect s j) := by
  unfold keyEffect
  split
  · exact held_keyStatus (held_put hs.cfgFrame)
  · exact held_keyStatus hs.cfgFrame
  · exact held_keyStatus hs.cfgFrame
  all_goals exact held_put hs

theorem held_keyDone {s ok} (hs : Held K s) : Held K (keyDone s ok) := by
  unfold keyDone
  split
  · exact hs
  · exact held_ite
      (held_keyEffect hs.cfgFrame).cfgFrame
      (held_raise (held_iteAfter hs.cfgFrame fun hx => held_keyStatus (held_tookFree hx).cfgFrame).cfgFrame)

theorem held_vbatLow {s} (hs : Held K s) : Held K (vbatLow s) :=
  held_keyStatus hs.cfgFrame

theorem held_readbackIndex {s w} (hs : Held K s) : Held K (readbackIndex s w) :=
  held_setWord hs

theorem held_readbackRead {s} (hs : Held K s) : Held K (readbackRead s) :=
  held_ite (held_setWord (held_put hs)) (held_put (held_setWord hs))

theorem held_flashStart {s cmd} (hs : Held K s) : Held K (flashStart s cmd) := by
  unfold flashStart
  extract_lets _ s2 _ s4
  have hs2 : Held K s2 := held_put (held_put hs)
  have hs4 : Held K s4 := hs2.cfgFrame
  exact held_ite hs
    (held_ite (held_put (held_put hs)) (held_ite hs2.cfgFrame (held_ite (held_raise (held_put hs4)) hs4)))

theorem held_flashEffect {s j} (hs : Held K s) : HeldP K (flashEffect s j) := by
  unfold flashEffect
  extract_lets
  split
  · exact heldP_mk (held_foldl hs fun _ _ h => held_setFlash h)
  · exact heldP_mk hs
  · exact heldP_mk hs.cfgFrame
  · exact heldP_mk (held_foldl hs fun _ _ h => held_setFlash h)

theorem held_flashError {s j} (hs : Held K s) : Held K (flashError s j) :=
  held_ite (held_foldl hs fun _ _ h => held_setFlash (held_tookFree h)) hs

theorem held_flashDone {s ok} (hs : Held K s) : Held K (flashDone s ok) := by
  unfold flashDone
  split
  · exact hs
  · exact held_put (heldP_ite (held_flashEffect hs) (heldP_mk (held_flashError hs))).cfgFrame

theorem held_flashResume {s} (hs : Held K s) : Held K (flashResume s) := by
  unfold flashResume
  split
  · exact held_ite (held_flashStart hs.cfgFrame) hs
  · exact hs
  · exact hs

end Sys2Proof.Machine
end

section
/-! What every operation of Machine/Scrub.lean keeps of the two channels and the rest of the invariant. -/
namespace Sys2Proof.Machine
open Sys2Proof
variable {K : Keep}

theorem held_passBegin {s} (hs : Held K s) : Held K (passBegin s) :=
  (held_setWord (held_put hs)).frame

theorem held_passStart {s} (hs : Held K s) : Held K (passStart s) :=
  held_ite (held_ite hs.frame (held_passBegin hs)) hs

theorem held_scrubLast {s a kind syn} (hs : Held K s) : Held K (scrubLast s a kind syn) :=
  held_setWord hs

theorem held_frameCorrect {s a syn v} (hs : Held K s) : Held K (frameCorrect s a syn v) :=
  (held_scrubLast (held_bump (held_writeFrame hs))).frame

theorem held_frameLostEss {s a syn} (hs : Held K s) : Held K (frameLostEss s a syn) := by
  unfold frameLostEss
  extract_lets _ s2 s3
  have hs2 : Held K s2 := held_scrubLast (held_bump hs)
  have hs3 : Held K s3 := held_ite (held_reloadRequest hs2) (held_isoByDevice (held_isolateWrite hs2))
  exact held_raise hs3

theorem held_framePend {s a syn} (hs : Held K s) : Held K (framePend s a syn) := by
  unfold framePend
  split
  · exact hs
  · extract_lets s1 _ s3 s4 s5 _
    have hs1 : Held K s1 := held_scrubLast (held_bump hs)
    have hs3 : Held K s3 := hs1.frame
    have hs4 : Held K s4 := held_put hs3
    have hs5 : Held K s5 := held_raise hs1
    exact held_ite (held_raise hs4) (held_ite (held_reloadRequest hs5) (held_ite hs5 (held_raise hs5.frame)))

theorem held_frameAct {s a mapBad} (hs : Held K s) : Held K (frameAct s a mapBad) := by
  unfold frameAct
  extract_lets _ s2
  have hs2 : Held K s2 := held_framePend hs
  split
  · exact hs
  · exact held_frameCorrect hs
  · exact held_ite hs (held_ite (held_frameLostEss hs) (held_ite hs (held_ite (held_markSpare hs2) hs2)))

theorem held_rateUpdate {s} (hs : Held K s) : Held K (rateUpdate s) :=
  held_ite (held_put (held_put hs)) (held_tookFree (held_put (held_put hs)))

theorem held_walkOn {s} (hs : Held K s) : Held K (walkOn s) :=
  held_ite hs.frame
    (held_ite
      (held_passBegin (held_put (held_put (held_rateUpdate hs))).frame)
      (held_put (held_put (held_rateUpdate hs))).frame)

theorem held_frameRead {s votes mapBad romBad} (hs : Held K s) : Held K (frameRead s votes mapBad romBad) := by
  unfold frameRead
  split
  · exact hs
  · extract_lets s1 _ _ s4 s5
    have hs1 : Held K s1 := held_bump hs
    have hs4 : Held K s4 := hs1.frame
    have hs5 : Held K s5 := held_setWord hs4
    split
    · exact hs1.frame
    · split
      · exact held_iteBefore (held_setWord hs1.frame) held_frameAct
      · exact held_ite hs1 (held_walkOn (held_ite hs5 (held_frameAct hs5)))

theorem held_scrubRestart {s} (hs : Held K s) : Held K (scrubRestart s) :=
  held_iteBefore (held_raise (held_bump hs).frame) fun hx => held_raise (held_put hx).frame

theorem held_heartbeatCheck {s} (hs : Held K s) : Held K (heartbeatCheck s) :=
  held_ite hs (held_iteAfter hs.frame held_scrubRestart)

end Sys2Proof.Machine
end

section
/-! What every operation of Machine/Slices.lean keeps of the two channels and the rest of the invariant. -/
namespace Sys2Proof.Machine
open Sys2Proof
variable {K : Keep}

theorem held_setSteer {s h₀ c e} (hs : Held K s) : Held K (setSteer s h₀ c e) :=
  hs.fabFrame

theorem held_putColumn {s h₀ q v} (hs : Held K s) : Held K (putColumn s h₀ q v) :=
  held_checkRows (held_foldl hs fun _ _ h => held_putFrame h)

theorem held_copyFrames {s h₀ p q} (hs : Held K s) : Held K (copyFrames s h₀ p q) :=
  held_putColumn hs

theorem held_scanCopy {s h₀ p q} (hs : Held K s) : Held K (scanCopy s h₀ p q) :=
  hs.fabFrame

theorem held_testedFrames {s h₀ p} (hs : Held K s) : Held K (testedFrames s h₀ p) :=
  { held_putColumn hs with fresh := freshOk_add hs.fresh }

theorem held_repStat {s} (hs : Held K s) : Held K (repStat s) :=
  held_setWord hs

theorem held_setRepair {s r} (hs : Held K s) : Held K (setRepair s r) :=
  held_repStat hs.frame

theorem held_recordColumn {s h₀ p} (hs : Held K s) : HeldO K (recordColumn s h₀ p) :=
  heldO_ite (heldO_some hs) (heldO_ite (heldO_some (held_setRepair hs)) heldO_none)

theorem held_recordRows {s h₀ p rows} (hs : Held K s) : HeldO K (recordRows s h₀ p rows) :=
  heldO_ite heldO_none (heldO_some (held_setRepair hs).storeFrame)

theorem held_recordBlock {s h₀ p} (hs : Held K s) : HeldO K (recordBlock s h₀ p) :=
  heldO_ite (heldO_some hs) (heldO_ite (heldO_some (held_setRepair hs)) heldO_none)

theorem held_repairWritten {s ok} (hs : Held K s) : Held K (repairWritten s ok) :=
  held_ite hs (held_ite (held_repStat hs.frame) (held_raise (held_repStat hs.frame)))

theorem held_repairClear {s t c} (hs : Held K s) : Held K (repairClear s t c) :=
  held_ite hs.frame hs

theorem held_resultsClear {s} (hs : Held K s) : Held K (resultsClear s) :=
  (held_put (held_put hs)).frame

theorem held_addResults {s bits} (hs : Held K s) : Held K (addResults s bits) :=
  held_ite (held_bump (held_put hs)).frame hs

theorem held_testFail {s unit bits repaired} (hs : Held K s) : Held K (testFail s unit bits repaired) := by
  unfold testFail
  extract_lets _ s2 s3
  have hs2 : Held K s2 := held_ite (held_tookFree hs) hs
  have hs3 : Held K s3 := held_raise (held_addResults hs2)
  exact held_ite hs3 (held_raise hs3)

theorem held_roundEnd {s} (hs : Held K s) : Held K (roundEnd s) :=
  held_iteAfter hs.frame fun hx => (held_put (held_put (held_bump hx))).frame

theorem held_roundOn {s} (hs : Held K s) : Held K (roundOn s) := by
  unfold roundOn
  extract_lets _ _ _ _ _ s6
  have hs6 : Held K s6 := by
    unfold s6
    split
    · exact held_ite hs.frame (held_ite hs.frame hs.frame)
    · exact hs.frame
    · exact held_roundEnd hs.frame
  exact held_put hs6

theorem held_nextSlice {n s} (hs : Held K s) : HeldP K (nextSlice n s) := by
  induction n generalizing s with
  | zero =>
    exact heldP_mk hs
  | succ n ih =>
    unfold nextSlice
    split
    · exact heldP_mk hs
    · exact ih (held_roundOn hs)

theorem held_sliceStat {s kind h₀ unit} (hs : Held K s) : Held K (sliceStat s kind h₀ unit) :=
  held_put (held_put (held_put hs))

theorem held_sliceBegin {s x} (hs : Held K s) : Held K (sliceBegin s x) := by
  unfold sliceBegin
  extract_lets s1 _ s3 _ s5 _ s7 _
  have hs1 : Held K s1 := held_resultsClear hs
  have hs3 : Held K s3 := held_ite hs hs1.frame
  have hs5 : Held K s5 := held_ite hs3 hs3.frame
  have hs7 : Held K s7 := hs5.frame
  split
  · exact held_sliceStat hs7
  · exact held_sliceStat (held_setBlock hs7)
  · exact held_sliceStat hs7.frame
  · exact held_sliceStat hs7.frame
  all_goals exact hs7

theorem held_sliceStart {s} (hs : Held K s) : Held K (sliceStart s) := by
  unfold sliceStart
  split
  · split
    · exact held_sliceStat hs.frame
    · extract_lets p1
      have hp1 : HeldP K p1 := held_nextSlice hs
      split
      · exact held_sliceBegin hp1
      · exact hp1
  · exact hs

theorem held_sliceResult {s result} (hs : Held K s) : Held K (sliceResult s result) :=
  held_ite (held_sliceEnd hs).frame (held_ite (held_sliceEnd hs) (held_roundOn (held_sliceEnd hs).frame))

theorem held_columnPrecopy {s} (hs : Held K s) : Held K (columnPrecopy s) := by
  unfold columnPrecopy
  split
  · exact held_ite (held_sliceAbandon hs) (held_holdPorts (held_setSteer (held_copyFrames hs)))
  all_goals exact hs

theorem held_columnQuiesced {s} (hs : Held K s) : Held K (columnQuiesced s) := by
  unfold columnQuiesced
  split
  · exact held_ite hs.frame hs
  all_goals exact hs

theorem held_columnScanned {s ok} (hs : Held K s) : Held K (columnScanned s ok) := by
  unfold columnScanned
  split
  · exact held_ite
      (held_columnResume (held_portsReleased (held_bump (held_setSteer (held_setSteer (held_scanCopy hs)))).frame))
      (held_sliceAbandon (held_markSpare hs))
  all_goals exact hs

theorem held_columnTested {s r} (hs : Held K s) : Held K (columnTested s r) := by
  unfold columnTested
  split
  · extract_lets _ s2 s3
    have hs2 : Held K s2 := held_testedFrames hs
    have hs3 : Held K s3 := by
      unfold s3
      split
      · split
        · rename_i heq
          have h1 := held_recordColumn hs2 _ heq
          exact held_testFail (held_setSteer h1)
        · exact held_testFail hs2
      · exact hs2
    exact held_sliceResult hs3
  all_goals exact hs

theorem held_blockTested {s r} (hs : Held K s) : Held K (blockTested s r) := by
  unfold blockTested
  split
  · extract_lets _ _ s3
    have hs3 : Held K s3 := by
      unfold s3
      split
      · split
        · rename_i heq
          have h1 := held_recordRows hs _ heq
          exact held_testFail h1
        · split
          · rename_i heq
            have h2 := held_recordBlock hs _ heq
            exact held_testFail (held_setBlock h2)
          · exact held_testFail hs
      · exact hs
    exact held_sliceResult hs3
  all_goals exact hs

theorem held_laneResult {s r} (hs : Held K s) : Held K (laneResult s r) := by
  unfold laneResult
  split
  · exact held_pllUpdate (held_sliceResult (held_ite (held_testFail hs) hs))
  all_goals exact hs

theorem held_fifoTested {s r} (hs : Held K s) : Held K (fifoTested s r) := by
  unfold fifoTested
  split
  · exact held_sliceResult (held_ite (held_testFail hs) hs)
  all_goals exact hs

theorem held_watchHandover {s0 s} (hs : Held K s) : Held K (watchHandover s0 s) := by
  unfold watchHandover
  split
  · exact held_ite (held_afterHandover (held_sliceAbandon hs)) hs
  · exact held_ite (held_afterHandover (held_sliceAbandon hs)) hs
  all_goals exact held_afterHandover hs

theorem held_storeRequestFault {s h₀ b port} (hs : Held K s) : Held K (storeRequestFault s h₀ b port) :=
  held_ite (held_iteAfter (held_storeFault hs) fun hx => held_afterHandover (held_blockAbandon hx)) hs

end Sys2Proof.Machine
end

section
/-! What every operation of Machine/Service.lean keeps of the two channels and the rest of the invariant. -/
namespace Sys2Proof.Machine
open Sys2Proof
variable {K : Keep}

theorem held_steerHearth {s h₀} (hs : Held K s) : Held K (steerHearth s h₀) :=
  held_foldl hs fun _ _ h => held_setSteer h

theorem held_blocksHearth {s h₀} (hs : Held K s) : Held K (blocksHearth s h₀) :=
  held_foldl (held_foldl hs fun _ _ h => held_setBlock h) fun _ _ h => held_setBlock (held_setBlock h)

theorem held_rowsApply {s} (hs : Held K s) : Held K (rowsApply s) :=
  hs.storeFrame

theorem held_fullFail {x f} (hx : HeldP K x) : HeldP K (fullFail x f) := by
  unfold fullFail
  extract_lets s1
  have hs1 : Held K s1 := hx
  split
  · extract_lets
    split
    · exact heldP_mk (held_testFail hs1)
    · split
      · rename_i heq
        have h1 := held_recordColumn hs1 _ heq
        exact heldP_mk (held_steerHearth (held_testFail h1))
      · exact heldP_mk (held_testFail hs1)
  · extract_lets
    split
    · exact heldP_mk (held_testFail hs1)
    · split
      · rename_i heq
        have h2 := held_recordRows hs1 _ heq
        exact heldP_mk (held_testFail h2)
      · split
        · rename_i heq
          have h3 := held_recordBlock hs1 _ heq
          exact heldP_mk (held_blocksHearth (held_testFail h3))
        · exact heldP_mk (held_testFail hs1)
  · exact heldP_mk (held_testFail hs1)

theorem held_fullTest {s fails eligible incomplete ms} (hs : Held K s) :
    HeldP K (fullTest s fails eligible incomplete ms) := by
  unfold fullTest
  extract_lets s1 s2 s3 s4
  have hs1 : Held K s1 := held_resultsClear hs
  have hs2 : Held K s2 := held_put hs1
  have hs3 : Held K s3 := held_put hs2
  have hs4 : Held K s4 := by
    unfold s4
    refine held_foldl hs3 fun _ _ h => ?_
    refine held_foldl h fun _ _ h => ?_
    split
    · exact held_testedFrames h
    · exact h
  exact heldP_foldl (heldP_mk hs4) fun _ _ h => held_fullFail h

theorem held_testEnd {s} (hs : Held K s) : Held K (testEnd s) :=
  held_foldl hs fun _ _ h => held_pllUpdate h

theorem held_startupTest {s fails eligible incomplete ms} (hs : Held K s) :
    Held K (startupTest s fails eligible incomplete ms) :=
  held_ite (held_loadStart (held_testEnd (held_setPhase (held_fullTest hs)))) hs

theorem held_shutdownTest {s} (hs : Held K s) : Held K (shutdownTest s) := by
  have stopped : Held K (setPhase (stopDesign s) .shutdown) := held_setPhase (held_stopDesign hs)
  unfold shutdownTest
  split
  · exact hs
  · split
    case h_7 => exact hs
    all_goals
      refine held_flashResume (held_put (held_put ?_))
      exact held_iteAfter (held_put stopped).frame held_vfabStart

theorem held_hoursSave {s} (hs : Held K s) : Held K (hoursSave s) :=
  hs.frame

theorem held_shutdownDone {s fails eligible incomplete ms} (hs : Held K s) :
    Held K (shutdownDone s fails eligible incomplete ms) :=
  held_ite (held_testEnd (held_put (held_put (held_put (held_hoursSave (held_fullTest hs)).frame)))) hs

theorem held_serviceHour {s hot} (hs : Held K s) : Held K (serviceHour s hot) := by
  unfold serviceHour
  split
  · extract_lets s1 _
    have hs1 : Held K s1 := held_ite (held_bump hs) hs
    exact held_ite (held_put hs1) (held_tookFree (held_put hs1))
  · extract_lets s1 _
    have hs1 : Held K s1 := held_ite (held_bump hs) hs
    exact held_ite (held_put hs1) (held_tookFree (held_put hs1))
  · exact hs

theorem held_pinsLeave {s b} (hs : Held K s) : Held K (pinsLeave s b) :=
  held_ite (held_setPins (held_foldl hs fun _ _ h => held_ite h (held_leavePin h))) hs

theorem held_jtagTake {s} (hs : Held K s) : Held K (jtagTake s) :=
  held_updateSeals (held_foldl
    (held_foldl (held_foldl (held_put hs) fun _ _ h => held_pinsLeave h) fun _ _ h => held_put (held_linkOff h))
    fun _ _ h => held_kwrFollow h)

theorem held_jtagRelease {s} (hs : Held K s) : Held K (jtagRelease s) :=
  held_foldl (held_updateSeals (held_put hs)) fun _ _ h => held_laneKick h

theorem held_jtagCurrent {s op controls reg en} (hs : Held K s) : Held K (jtagCurrent s op controls reg en) := by
  unfold jtagCurrent
  extract_lets s1 _ s3
  have hs1 : Held K s1 := held_put hs
  have hs3 : Held K s3 := hs1.frame
  split
  · exact held_jtagTake hs3
  · exact held_jtagRelease hs3
  · exact hs3
  · exact hs3

end Sys2Proof.Machine
end

section
/-! What every operation of Machine/Power.lean keeps of the two channels and the rest of the invariant. -/
namespace Sys2Proof.Machine
open Sys2Proof
variable {K : Keep}

theorem held_setPwr {s p} (hs : Held K s) : Held K (State.setPwr s p) :=
  hs.frame

theorem held_cutCal {s} (hs : Held K s) : Held K (cutCal s) := by
  unfold cutCal
  split
  · exact hs
  · exact (held_addFree hs).frame

theorem held_cutRepair {s} (hs : Held K s) : Held K (cutRepair s) :=
  held_ite hs (held_tookFree hs).frame

/-- A cold reset starts afresh with empty registers, queues, frames, blocks and channels; the flashes stay. -/
theorem held_coldReset {s cause p} (hs : Held K s) : Held K (coldReset s cause p) := by
  have hcut := held_cutRepair (held_cutCal hs)
  have hfresh : ∀ n < 2, DramOk K (tget (fun _ => Dram.init) [] n) := fun _ _ => dramOk_init
  unfold coldReset
  refine held_put (held_foldl (held_foldl (held_foldl ?_ fun _ _ h => held_put h) fun _ _ h => held_put h)
    fun _ _ h => held_put (held_put h))
  exact ⟨hcut.queue, hcut.fresh, rfl, ⟨logOk_nil, holdOk_nil, queuesOk_nil⟩, framesOk_nil, contentOk_nil, hcut.cfg,
    hfresh⟩

theorem held_supplyRise {s} (hs : Held K s) : Held K (supplyRise s) :=
  held_ite (held_setPwr (held_tookFree (held_put hs))) hs

theorem held_porRelease {s pdc forceKindN} (hs : Held K s) : Held K (porRelease s pdc forceKindN) :=
  held_ite (held_setPwr (held_put (held_foldl hs fun _ _ h => held_put h)).frame) hs

theorem held_rootLock {s} (hs : Held K s) : Held K (rootLock s) :=
  held_ite (held_updateSeals (held_setPwr (held_put (held_put hs)))) hs

theorem held_refLost {s} (hs : Held K s) : Held K (refLost s) :=
  held_ite hs (held_ite (held_put hs) (held_coldReset hs).mgcFrame)

theorem held_lockLost {s} (hs : Held K s) : Held K (lockLost s) := by
  unfold lockLost
  split
  · exact (held_coldReset hs).mgcFrame
  · exact (held_coldReset hs).mgcFrame
  · exact (held_coldReset hs).mgcFrame
  · exact (held_coldReset hs).mgcFrame
  · exact hs

theorem held_bootCal {s} (hs : Held K s) : Held K (bootCal s) := by
  unfold bootCal
  extract_lets _ _ _ s4 s5
  have hs4 : Held K s4 := hs.mgcFrame
  have hs5 : Held K s5 := held_foldl hs4 fun _ _ h => held_presetCord h
  exact held_ite hs5 (held_raise hs5)

theorem held_bootRemaps {s c} (hs : Held K s) : Held K (bootRemaps s c) :=
  held_foldl hs fun _ _ h => held_setWord h

theorem held_bootRepair {s} (hs : Held K s) : Held K (bootRepair s) := by
  unfold bootRepair
  extract_lets _ _ s3 s4 _ _ _ _ s9 s10 s11 s12
  have hs3 : Held K s3 := hs.frame
  have hs4 : Held K s4 := held_ite hs3 (held_raise hs3)
  have hs9 : Held K s9 := held_ite hs4 (held_setRepair hs4.frame)
  have hs10 : Held K s10 := held_foldl hs9 fun _ _ h => held_blocksHearth (held_steerHearth h)
  have hs11 : Held K s11 := held_foldl (held_rowsApply hs10) fun _ _ h => held_bootRemaps h
  have hs12 : Held K s12 := held_put (held_put hs11)
  exact held_repStat (held_foldl hs12 fun _ _ h => held_cordMap h)

theorem held_bootRecord {s} (hs : Held K s) : HeldP K (bootRecord s) := by
  unfold bootRecord
  split
  · exact heldP_mk hs
  · exact heldP_mk (held_put hs.frame)

theorem held_vfabCommand {s mv} (hs : Held K s) : Held K (vfabCommand s mv) :=
  held_ite (held_ite hs (held_setPace hs)) (held_put hs)

theorem held_vfabBoot {s m} (hs : Held K s) : Held K (vfabBoot s m) :=
  held_iteAfter (held_vfabCommand hs) held_vfabFault

theorem held_mgcReady {s} (hs : Held K s) : Held K (mgcReady s) := by
  unfold mgcReady
  extract_lets s1 _ s3 _
  have hs1 : Held K s1 := held_replayHeld (held_put hs)
  have hs3 : Held K s3 := by
    unfold s3
    split
    · exact held_raise hs1.mgcFrame
    · exact hs1
  exact hs3.mgcFrame

theorem held_mgcBoot {s vout} (hs : Held K s) : Held K (mgcBoot s vout) := by
  unfold mgcBoot
  split
  · extract_lets s1 p2 s3 s4
    have hs1 : Held K s1 := held_showPhys (held_bootRepair (held_bootCal hs))
    have hp2 : HeldP K p2 := held_bootRecord hs1
    have hs3 : Held K s3 := held_put (held_put hp2)
    have hs4 : Held K s4 := held_mgcReady (held_vfabBoot (held_keyStatus hs3))
    exact held_ite (held_loadStart (held_setPhase hs4)) (held_setPhase hs4)
  · exact hs

theorem held_powerPhase {s p} (hs : Held K s) : Held K (powerPhase s p) :=
  held_clearStaged (held_closeHasps (held_setPhase hs))

theorem held_lanesReturn {s} (hs : Held K s) : Held K (lanesReturn s) :=
  held_foldl hs fun _ _ h => held_ite h (held_leaveBanked h)

theorem held_simmerEnter {s} (hs : Held K s) : Held K (simmerEnter s) :=
  held_powerPhase (held_setPwr hs)

theorem held_bankedEnter {s} (hs : Held K s) : Held K (bankedEnter s) :=
  held_foldl
    (held_foldl
      (held_stopScrub (held_zeroLevels (held_probesOff (held_updateSeals (held_powerPhase (held_setPwr
        (held_keepLevels hs)))))))
      fun _ _ h => held_laneGoBanked h)
    fun _ _ h => held_dropReplay (held_kwrFollow h)

theorem held_simmerLeave {s} (hs : Held K s) : Held K (simmerLeave s) :=
  held_put (held_powerPhase (held_setPwr hs))

theorem held_powerResume {s} (hs : Held K s) : Held K (powerResume s) := by
  unfold powerResume
  split
  · exact held_ite hs (held_simmerEnter hs)
  · exact held_ite hs (held_bankedEnter hs)
  · exact held_ite hs (held_bankedEnter hs)
  · exact hs

theorem held_simmerDone {s} (hs : Held K s) : Held K (simmerDone s) :=
  held_ite (held_powerResume (held_vfabStart (held_powerPhase hs))) hs

theorem held_runReached {s} (hs : Held K s) : Held K (runReached s) := by
  unfold runReached
  split
  · exact held_ite hs (held_powerResume (held_passStart (held_startLinks (held_setPhase hs))))
  · exact held_ite hs (held_powerResume (held_passStart (held_lanesReturn (held_powerPhase hs))))
  · exact held_simmerDone hs
  · exact hs

theorem held_powerRefuse {s cmd why} (hs : Held K s) : Held K (powerRefuse s cmd why) :=
  held_raise (held_put hs)

theorem held_cmdSimmer {s} (hs : Held K s) : Held K (cmdSimmer s) := by
  unfold cmdSimmer
  split
  · exact held_powerRefuse hs
  · split
    · exact hs
    · exact hs
    · exact held_setPwr (held_put hs)
    · exact held_setPwr (held_put hs)
    · exact held_powerResume (held_setPwr (held_put hs))

theorem held_cmdBanked {s} (hs : Held K s) : Held K (cmdBanked s) := by
  unfold cmdBanked
  split
  · exact held_powerRefuse hs
  · split
    · exact hs
    · exact hs
    · exact held_powerResume (held_setPwr (held_put hs))

theorem held_cmdRun {s} (hs : Held K s) : Held K (cmdRun s) := by
  unfold cmdRun
  split
  · exact held_powerRefuse hs
  · extract_lets _ s2
    have hs2 : Held K s2 := held_setPwr (held_put hs)
    split
    · exact held_simmerLeave hs2
    · exact held_simmerLeave hs2
    · exact held_wakeEvent hs2
    · exact held_wakeEvent hs2
    · exact hs2

theorem held_simmerConfirm {s} (hs : Held K s) : Held K (simmerConfirm s) :=
  held_ite (held_powerResume (held_powerPhase hs)) hs

theorem held_rampEnd {s} (hs : Held K s) : Held K (rampEnd s) :=
  held_simmerConfirm (held_setPace (held_setPwr hs))

theorem held_clockDivide {s} (hs : Held K s) : Held K (clockDivide s) :=
  held_ite
    (held_ite
      (held_iteBefore (held_vfabStart (held_put hs)) held_rampEnd)
      (held_simmerConfirm (held_setPwr (held_put hs)))) hs

theorem held_simmerFail {s} (hs : Held K s) : Held K (simmerFail s) :=
  held_raise (held_simmerLeave hs)

theorem held_vfabWatch {s0 s} (hs : Held K s) : Held K (vfabWatch s0 s) :=
  held_ite (held_simmerFail hs) hs

theorem held_windowEnd {s h₀ na nb} (hs : Held K s) : Held K (windowEnd s h₀ na nb) :=
  held_ite hs
    (held_iteAfter (held_paceEnd hs) fun hx => held_simmerConfirm (held_iteAfter (held_setPwr hx) held_setPace))

theorem held_bankedCut {s} (hs : Held K s) : Held K (bankedCut s) :=
  held_put (held_put (held_put (held_content (held_dropFabric hs) contentOk_nil)))

theorem held_suppliesAs {s k} (hs : Held K s) : Held K (suppliesAs s k) :=
  held_put hs

theorem held_bankedOff {s} (hs : Held K s) : Held K (bankedOff s) :=
  held_foldl (held_powerPhase (held_setPwr hs)) fun _ _ h => held_ite (held_bankHot h) h

theorem held_wakeLatched {s} (hs : Held K s) : Held K (wakeLatched s) := by
  unfold wakeLatched
  split
  · exact held_wakeEvent (held_setPwr hs)
  · exact hs

theorem held_bankedDone {s} (hs : Held K s) : Held K (bankedDone s) :=
  held_ite (held_wakeLatched (held_bankedOff (held_suppliesAs (held_bankedCut hs)))) hs

theorem held_bankedWake {s x} (hs : Held K s) : Held K (bankedWake s x) := by
  unfold bankedWake
  split
  · exact held_wakePin hs
  · exact held_ite (held_wakeEvent hs) hs
  · exact held_ite (held_alarmFire hs) hs
  · exact held_ite hs (held_wakeEvent hs)

theorem held_pinsReturn {s} (hs : Held K s) : Held K (pinsReturn s) :=
  held_withPairs (held_restorePins hs)

theorem held_bankedReady {s} (hs : Held K s) : Held K (bankedReady s) := by
  unfold bankedReady
  split
  · extract_lets s1 _ s3 s4 _ s6
    have hs1 : Held K s1 := held_put (held_put (held_suppliesAs hs))
    have hs3 : Held K s3 := held_setPwr hs1
    have hs4 : Held K s4 := held_setRamping (held_vfabCommand hs3)
    have hs6 : Held K s6 := by
      unfold s6
      split
      · exact held_raise (held_setPwr hs4)
      · exact hs4
    exact held_commitCore (held_pinsReturn hs6)
  · exact hs

theorem held_bankedLate {s supplies} (hs : Held K s) : Held K (bankedLate s supplies) :=
  held_ite (held_setPwr (held_suppliesAs hs)) hs

theorem held_tick {s} (hs : Held K s) : Held K (tick s) := by
  unfold tick
  extract_lets s1 _ s3 _ s5
  have hs1 : Held K s1 := hs.frame
  have hs3 : Held K s3 := held_ite (held_timebaseViews hs1) hs1
  have hs5 : Held K s5 := held_ite (held_foldl hs3 fun _ _ h => held_tmbSample h) hs3
  exact held_powerResume (held_simmerDone hs5)

end Sys2Proof.Machine
end

section
/-! What every operation of Machine/RegWrite.lean keeps of the two channels and the rest of the invariant. -/
namespace Sys2Proof.Machine
open Sys2Proof
variable {K : Keep}

theorem held_readRegister {s a} (hs : Held K s) : HeldP K (readRegister s a) :=
  heldP_ite (heldP_mk (held_timebaseRead hs)) (heldP_ite (heldP_mk (held_readbackRead hs)) (heldP_mk hs))

theorem held_plainWrite {s a mask data} (hs : Held K s) : Held K (plainWrite s a mask data) :=
  held_setWord hs

theorem held_writeFab {s fabric a mask data} (hs : Held K s) : Held K (writeFab s fabric a mask data) :=
  held_ite
    (held_foldl hs fun _ _ h => held_ite (held_userReset h) h)
    (held_ite
      (held_ite (held_setWord hs) hs)
      (held_ite
        (held_ite (held_put hs) hs)
        (held_ite
          (held_ite (held_put hs) hs)
          (held_ite
            (held_probeWrite hs)
            (held_ite
              (held_ite
                (held_plainWrite hs)
                (held_ite (held_governorEnable (held_plainWrite hs)) (held_governorDisable (held_plainWrite hs))))
              (held_ite
                (held_ite (held_commandIf (held_vfabTarget (held_plainWrite hs))) (held_plainWrite hs))
                (held_ite
                  (held_ite
                    (held_ite
                      (held_ite
                        (held_setRamping (held_plainWrite hs))
                        (held_vfabStart (held_setRamping (held_plainWrite hs))))
                      (held_vfabStart (held_setRamping (held_setRamping (held_plainWrite hs)))))
                    (held_setRamping (held_plainWrite hs)))
                  (held_plainWrite hs))))))))

theorem held_writeHng {s a mask data} (hs : Held K s) : Held K (writeHng s a mask data) := by
  unfold writeHng
  split
  · exact held_iteAfter (held_plainWrite hs) fun hx => held_put (held_put (held_put hx))
  · split
    · exact held_iteAfter (held_plainWrite hs) fun hx => held_put (held_put hx)
    · split
      · exact held_ite (held_setWord hs) hs
      · split
        · exact held_sideReset hs
        · split
          · exact held_userClockWrite hs
          · split
            · exact held_iteAfter (held_plainWrite hs) held_put
            · split
              · extract_lets _ s2 s3 s4
                have hs2 : Held K s2 := held_plainWrite hs
                have hs3 : Held K s3 := held_ite (held_setWord hs2) hs2
                have hs4 : Held K s4 := held_ite (held_flushWrite hs3) hs3
                exact held_ite (held_clearWrite hs4) hs4
              · split
                · extract_lets _ s2 s3
                  have hs2 : Held K s2 := held_plainWrite hs
                  have hs3 : Held K s3 := held_ite (held_mailboxPush hs2) hs2
                  exact held_ite (held_mailboxPop hs3) hs3
                · exact held_plainWrite hs

theorem held_seekWrite {s mask data} (hs : Held K s) : Held K (seekWrite s mask data) :=
  held_ite (held_plainWrite hs) hs

theorem held_laneWrite {s fabric l mask data} (hs : Held K s) : Held K (laneWrite s fabric l mask data) := by
  unfold laneWrite
  extract_lets _ x1 _ _ s5 s6 s7 s8 s9 s10
  have hs5 : Held K s5 := held_plainWrite hs
  have hs6 : Held K s6 := held_commandIf hs5
  have hs7 : Held K s7 := held_ite (held_laneModeWrite hs6) hs6
  have hs8 : Held K s8 := by
    unfold s8
    split
    · clear_value x1
      split
      · exact held_laneActive hs7
      · exact held_laneIdleHold hs7
      · exact held_laneBanked hs7
      · exact hs7
    · exact hs7
  have hs9 : Held K s9 := held_ite (held_retrain hs8) hs8
  have hs10 : Held K s10 := held_ite (held_setWord (held_setWord hs9)) hs9
  exact held_ite (held_autowake hs10) hs10

theorem held_writeLne {s fabric a mask data} (hs : Held K s) : Held K (writeLne s fabric a mask data) :=
  held_ite
    (held_cordRate (held_iteBefore (held_plainWrite hs) held_cordMap))
    (held_ite
      (held_laneWrite hs)
      (held_ite
        (held_ite hs (held_put (held_plainWrite hs)))
        (held_ite (held_ite (held_plainWrite hs) hs) (held_ite (held_seekWrite hs) (held_plainWrite hs)))))

theorem held_ringWrite {s fabric k mask data} (hs : Held K s) : Held K (ringWrite s fabric k mask data) := by
  unfold ringWrite
  extract_lets _ _ _ _ _ _ _ s8 s9 s10
  have hs8 : Held K s8 := held_plainWrite hs
  have hs9 : Held K s9 := held_commandIf hs8
  have hs10 : Held K s10 := held_ite (held_kwrWidthWrite hs9) hs9
  exact held_ite (held_kwrRole hs10) hs10

theorem held_cycleWrite {s k mask data} (hs : Held K s) : Held K (cycleWrite s k mask data) :=
  held_ite (held_plainWrite hs) hs

theorem held_writeKwr {s fabric a mask data} (hs : Held K s) : Held K (writeKwr s fabric a mask data) := by
  unfold writeKwr
  split
  · exact held_ringWrite hs
  · split
    · exact held_cycleWrite hs
    · split
      · extract_lets _ s2 s3
        have hs2 : Held K s2 := held_ite (held_setWord (held_setWord hs)) hs
        have hs3 : Held K s3 := held_ite (held_alarmSet hs2) hs2
        exact held_ite (held_alarmClear hs3) hs3
      · exact held_plainWrite hs

theorem held_writeDrm {s fabric a mask data} (hs : Held K s) : Held K (writeDrm s fabric a mask data) := by
  unfold writeDrm
  split
  · extract_lets _ _ _ s4 _ s6
    have hs4 : Held K s4 := held_plainWrite hs
    have hs6 : Held K s6 :=
      held_ite
        (held_ite (held_ite hs4 (held_setDram hs4 (hs4.dram _))) (held_setPpr (held_setDram hs4 (hs4.dram _))))
        hs4
    exact held_ite (held_commandIf (held_rateRequest hs6)) hs6
  · exact held_ite
      (held_ite (held_setWord (held_setWord hs)) hs)
      (held_ite
        (held_ite (held_setWord (held_setWord hs)) hs)
        (held_ite
          (held_tempSource (held_plainWrite hs))
          (held_ite (held_ite (held_sweepRequest (held_plainWrite hs)) (held_plainWrite hs)) (held_plainWrite hs))))

theorem held_writePin {s fabric a mask data} (hs : Held K s) : Held K (writePin s fabric a mask data) := by
  unfold writePin
  extract_lets _ _ _ s4 _
  have hs4 : Held K s4 := held_plainWrite hs
  split
  · exact held_cfgStage hs
  · split
    · exact held_applyGroup hs
    · split
      · exact held_queueWrite hs
      · split
        · exact held_ite (held_put (held_put hs)) hs
        · split
          · exact held_ite hs4 (held_setPortOut hs4)
          · split
            · exact held_tmbWrite hs
            · exact held_plainWrite hs

theorem held_writeCfg {s a mask data} (hs : Held K s) : Held K (writeCfg s a mask data) :=
  held_ite
    (held_ite (held_warmRecommit (held_plainWrite hs)) (held_plainWrite hs))
    (held_ite
      (held_readbackIndex hs)
      (held_ite (held_ite hs (held_flashStart (held_plainWrite hs))) (held_plainWrite hs)))

theorem held_scrubFollow {s} (hs : Held K s) : Held K (scrubFollow s) :=
  held_ite hs (held_ite (held_ite (held_put hs) hs) (held_put hs).frame)

theorem held_writeScb {s fabric a mask data} (hs : Held K s) : Held K (writeScb s fabric a mask data) := by
  unfold writeScb
  split
  · exact held_iteAfter (held_plainWrite hs) held_scrubFollow
  · split
    · exact held_ite (held_setWord (held_setWord hs)) hs
    · split
      · exact held_foldl hs fun _ _ h => held_ite (held_reloadRequest h) h
      · split
        · extract_lets s1
          have hs1 : Held K s1 :=
            held_foldl hs fun _ _ h => held_ite (held_ite (held_isolateWrite h) (held_releaseWrite h)) h
          exact held_ite hs1 (held_isoCommanded hs1)
        · exact held_ite (held_ite hs.frame hs) (held_ite (held_ite (held_shutdownTest hs) hs) (held_plainWrite hs))

theorem held_ringDoorbell {s i} (hs : Held K s) : Held K (ringDoorbell s i) :=
  held_offerEvent (held_putBit hs)

theorem held_writeMgc {s a mask data} (hs : Held K s) : Held K (writeMgc s a mask data) :=
  held_ite (held_foldl hs fun _ _ h => held_ite (held_ringDoorbell h) h) (held_plainWrite hs)

theorem held_writeClk {s a mask data} (hs : Held K s) : Held K (writeClk s a mask data) :=
  held_ite (held_iteAfter (held_plainWrite hs) held_put) (held_ite (held_alarmCompareWrite hs) (held_plainWrite hs))

theorem held_powerWrite {s fabric cmd} (hs : Held K s) : Held K (powerWrite s fabric cmd) := by
  unfold powerWrite
  extract_lets s1
  have hs1 : Held K s1 := held_commandIf hs
  split
  · exact held_cmdRun hs1
  · exact held_cmdSimmer hs1
  · exact held_cmdBanked hs1
  · exact hs1

theorem held_writePwr {s fabric a mask data} (hs : Held K s) : Held K (writePwr s fabric a mask data) :=
  held_ite (held_ite (held_powerWrite hs) hs) (held_plainWrite hs)

theorem held_writeRegister {s fabric a mask data} (hs : Held K s) : Held K (writeRegister s fabric a mask data) := by
  unfold writeRegister
  split
  · exact hs
  · split
    · exact held_writeMgc hs
    · exact held_writeFab hs
    · exact held_writeHng hs
    · exact held_writeLne hs
    · exact held_writeKwr hs
    · exact held_writeDrm hs
    · exact held_writePin hs
    · exact held_writeCfg hs
    · exact held_writeScb hs
    · exact held_writeClk hs
    · exact held_writePwr hs
    · exact hs

theorem held_busAccess {s r} (hs : Held K s) : HeldP K (busAccess s r) :=
  heldP_ite
    (heldP_mk (held_put (held_put hs)))
    (heldP_ite (heldP_ite (heldP_mk (held_readRegister hs)) (heldP_mk (held_writeRegister hs))) (heldP_mk hs))

theorem held_accessEdge {s} (hs : Held K s) : Held K (accessEdge s) := by
  unfold accessEdge
  split
  · exact hs
  · exact held_ite hs (held_busAccess hs).frame

end Sys2Proof.Machine
end

section
/-! What every operation of Machine/Deliver.lean keeps of the two channels and the rest of the invariant. -/
namespace Sys2Proof.Machine
open Sys2Proof
variable {K : Keep}

theorem held_doorbellIn {s i} (hs : Held K s) : Held K (doorbellIn s i) :=
  held_ite hs (held_iteAfter (held_putBit hs) held_raise)

theorem held_endpointPulse {s i} (hs : Held K s) : Held K (endpointPulse s i) :=
  held_ite
    (held_pinEvent hs)
    (held_ite
      (held_ite (held_alarmSet hs) (held_ite (held_alarmClear hs) hs))
      (held_ite (held_doorbellIn hs) (held_ite (held_gpevEvent hs) hs)))

theorem held_eventReqSeen {s i} (hs : Held K s) : Held K (eventReqSeen s i) :=
  held_ite (held_ite (held_endpointPulse (held_setEv hs)) (held_ite (held_presentAt (held_setEv hs)) hs)) hs

theorem held_popFabric {s f} (hs : Held K s) : Held K (popFabric s f) := by
  unfold popFabric
  extract_lets
  split
  · split
    · rename_i heq
      have h1 := (held_fifoPop hs).of_eq heq
      exact h1
    · rename_i heq
      have h2 := (held_fifoPop hs).of_eq heq
      exact held_presentAt h2
  · exact hs

theorem held_readerPop {s f} (hs : Held K s) : Held K (readerPop s f) := by
  unfold readerPop
  split
  · exact held_ite (held_laneSend hs) (held_popFabric hs)
  · split
    · exact held_ite (held_requestTake hs) (held_popFabric hs)
    · split
      · exact held_popFabric hs
      · exact held_portEntry hs
      · exact held_ite hs (held_ite (held_mailboxPop hs) hs)
      · exact held_fifoPop hs

theorem held_sealSeen {s f} (hs : Held K s) : Held K (sealSeen s f) :=
  held_iteAfter (held_fifoSealCrossing hs) held_autowake

end Sys2Proof.Machine
end

section
/-! What every operation of Machine/Dictionary.lean keeps of the two channels and the rest of the invariant. -/
namespace Sys2Proof.Machine
open Sys2Proof
variable {K : Keep}

theorem held_closeCal {s t} (hs : Held K s) : Held K (closeCal s t) :=
  held_putBit hs

theorem held_closeExpert {s t} (hs : Held K s) : Held K (closeExpert s t) :=
  held_closeCal (held_putBit hs)

theorem held_expertWrite {s t v} (hs : Held K s) : HeldS K (expertWrite s t v) :=
  heldS_ite (heldS_inl (held_closeExpert hs)) (heldS_ite (heldS_inl (held_putBit hs)) heldS_inr)

theorem held_calWrite {s t v} (hs : Held K s) : HeldS K (calWrite s t v) :=
  heldS_ite (heldS_inl (held_closeCal hs)) (heldS_ite heldS_inr (heldS_ite (heldS_inl (held_putBit hs)) heldS_inr))

theorem held_readObj {s t o} (hs : Held K s) : HeldP K (readObj s t o) := by
  unfold readObj
  split
  · exact heldP_mk (held_readRegister hs)
  · exact heldP_mk hs
  · exact heldP_mk hs
  · exact heldP_mk hs
  · exact heldP_mk hs
  · exact heldP_mk hs
  · exact heldP_mk hs
  · exact heldP_mk hs
  · exact heldP_mk hs
  · exact heldP_mk hs
  · split
    · exact heldP_mk hs
    · exact heldP_mk hs

theorem held_bounded {lo hi v s} (hs : Held K s) : HeldS K (bounded lo hi v s) :=
  heldS_ite (heldS_inl hs) heldS_inr

theorem held_fieldWrite {s f v} (hs : Held K s) : HeldS K (fieldWrite s f v) :=
  heldS_ite heldS_inr (heldS_inl (held_writeRegister hs))

theorem held_setAll {s n f v} (hs : Held K s) : Held K (setAll s n f v) :=
  held_foldl hs fun _ _ h => held_put h

theorem held_keyCommandWrite {s t v} (hs : Held K s) : Held K (keyCommandWrite s t v) :=
  held_keyCommand (held_tookFree (held_tookFree hs))

theorem held_keyArgWrite {s v} (hs : Held K s) : Held K (keyArgWrite s v) :=
  hs.cfgFrame

theorem held_ownWrite {s t o v} (hs : Held K s) : HeldS K (ownWrite s t o v) := by
  unfold ownWrite
  extract_lets
  split
  · exact heldS_inl hs.mgcFrame
  · exact held_expertWrite hs
  · exact held_calWrite hs
  · exact held_bounded hs.mgcFrame
  · exact held_bounded hs.frame
  · exact held_bounded hs.frame
  · exact held_bounded hs.frame
  · exact heldS_inl hs.frame
  · exact heldS_ite (heldS_inl hs.frame) heldS_inr
  · exact held_bounded hs.frame
  · exact held_bounded hs.frame
  · exact heldS_inl hs.mgcFrame
  · exact heldS_inl (held_setAll hs)
  · exact heldS_inl (held_setAll hs)
  · exact heldS_inl (held_setAll hs)
  · exact held_bounded (held_flushWrite hs)
  · exact held_bounded (held_clearWrite hs)
  · exact heldS_inl (held_queueWrite hs)
  · exact heldS_inl (held_keyExpect hs)
  · exact heldS_inl (held_keyCommandWrite hs)
  · exact held_bounded (held_keyArgWrite hs)
  · exact held_bounded (held_repairClear hs)
  · exact heldS_inl (held_wakeTimeWrite hs)
  all_goals exact heldS_inl hs

theorem held_writeObj {s t o l} (hs : Held K s) : HeldS K (writeObj s t o l) := by
  unfold writeObj
  split
  · exact heldS_ite heldS_inr (heldS_inl (held_put hs.cfgFrame))
  · exact heldS_ite (heldS_inl (held_keyStage hs)) heldS_inr
  · split
    · exact heldS_ite heldS_inr (heldS_inl (held_writeRegister hs))
    · exact heldS_inr
  · split
    · exact held_fieldWrite hs
    · exact heldS_inr
  · split
    · exact held_fieldWrite hs
    · exact heldS_inr
  · split
    · exact held_ownWrite hs
    · exact heldS_inr
  all_goals exact heldS_inl hs

end Sys2Proof.Machine
end

section
/-! What every operation of Machine/Sdo.lean keeps of the two channels and the rest of the invariant. -/
namespace Sys2Proof.Machine
open Sys2Proof
variable {K : Keep}

theorem held_setSession {s t x} (hs : Held K s) : Held K (setSession s t x) :=
  hs.mgcFrame

theorem held_setOwed {s t x} (hs : Held K s) : Held K (setOwed s t x) :=
  hs.mgcFrame

theorem held_setAnswer {s t x} (hs : Held K s) : Held K (setAnswer s t x) :=
  hs.mgcFrame

theorem held_ringSend {s k dst n l} (hs : Held K s) : Held K (ringSend s k dst n l) :=
  held_setKwr hs

theorem held_respond {s t l} (hs : Held K s) : Held K (respond s t l) := by
  unfold respond
  extract_lets s1
  have hs1 : Held K s1 := held_setOwed hs
  split
  · exact held_setAnswer hs1
  · exact held_setAnswer hs1
  · exact held_ringSend (held_setAnswer hs1)

theorem held_abortWith {s t idx sub code} (hs : Held K s) : Held K (abortWith s t idx sub code) :=
  held_respond (held_setSession hs)

theorem held_pushRequests {n s} (hs : Held K s) : Held K (pushRequests n s) := by
  induction n generalizing s with
  | zero =>
    exact hs
  | succ n ih =>
    unfold pushRequests
    split
    · exact hs
    · exact held_iteAfter (held_fifoPush hs) fun hx => ih hx.mgcFrame

theorem held_pubSend {s a} (hs : Held K s) : Held K (pubSend s a) :=
  held_pushRequests hs.mgcFrame

theorem held_pubRefuse {s a} (hs : Held K s) : Held K (pubRefuse s a) := by
  unfold pubRefuse
  split
  · exact held_abortWith hs
  · exact hs

theorem held_pubNext {s} (hs : Held K s) : Held K (pubNext s) := by
  unfold pubNext
  split
  · exact hs
  · split
    · split
      · exact held_pubSend hs.mgcFrame
      · exact hs
    · exact held_foldl hs.mgcFrame fun _ _ h => held_pubRefuse h

theorem held_pubBegin {s a o} (hs : Held K s) : Held K (pubBegin s a o) :=
  held_pubNext (held_setOwed hs).mgcFrame

theorem held_sectionBegin {s n l} (hs : Held K s) : HeldS K (sectionBegin s n l) :=
  heldS_ite heldS_inr (heldS_ite heldS_inr (heldS_inl hs.frame))

theorem held_finishWrite {s t idx sub l ok} (hs : Held K s) : Held K (finishWrite s t idx sub l ok) := by
  unfold finishWrite
  extract_lets
  split
  · exact held_abortWith hs
  · split
    · split
      · exact held_abortWith hs
      · exact held_pubBegin hs
    · split
      · exact held_abortWith hs
      · rename_i heq
        have h1 := held_sectionBegin hs _ heq
        exact held_setOwed h1
    · split
      · exact held_abortWith hs
      · rename_i heq
        have h2 := held_writeObj hs _ heq
        exact held_iteAfter (held_respond h2) held_setAnswer

theorem held_serve {s t idx sub f} (hs : Held K s) (hf : ∀ s, Held K s → Held K (f s)) :
    Held K (serve s t idx sub f) := by
  unfold serve
  split
  · exact hs
  · exact held_abortWith hs
  · exact hf _ hs

theorem held_downloadExpedited {s t idx sub data size} (hs : Held K s) :
    Held K (downloadExpedited s t idx sub data size) :=
  held_serve hs fun _ h => by
    extract_lets s1
    have hs1 : Held K s1 := held_setSession h
    split
    · exact held_abortWith hs1
    · exact held_ite (held_abortWith hs1) (held_finishWrite hs1)

theorem held_downloadInitiate {s t idx sub size} (hs : Held K s) : Held K (downloadInitiate s t idx sub size) :=
  held_serve hs fun _ h => by
    extract_lets s1
    have hs1 : Held K s1 := held_setSession h
    split
    · exact held_abortWith hs1
    · exact held_ite (held_abortWith hs1) (held_respond (held_setSession hs1))

theorem held_downloadSegment {s t toggle data last} (hs : Held K s) :
    Held K (downloadSegment s t toggle data last) := by
  unfold downloadSegment
  split
  · exact held_serve hs fun _ h =>
      held_ite
        (held_abortWith h)
        (held_ite
          (held_abortWith h)
          (held_ite (held_finishWrite (held_setSession h)) (held_respond (held_setSession h))))
  · exact held_serve hs fun _ h => held_abortWith h
  · exact held_serve hs fun _ h => held_abortWith h

theorem held_uploadValue {s t idx sub l} (hs : Held K s) : Held K (uploadValue s t idx sub l) :=
  held_ite (held_respond hs) (held_respond (held_setSession hs))

theorem held_uploadInitiate {s t idx sub} (hs : Held K s) : Held K (uploadInitiate s t idx sub) :=
  held_serve hs fun _ h => by
    extract_lets s1
    have hs1 : Held K s1 := held_setSession h
    split
    · exact held_abortWith hs1
    · split
      · exact held_pubBegin hs1
      · split
        · rename_i heq
          have h1 := (held_readObj hs1).of_eq heq
          exact held_uploadValue h1
        · rename_i heq
          have h2 := (held_readObj hs1).of_eq heq
          exact held_abortWith h2

theorem held_uploadEnd {s t idx sub} (hs : Held K s) : Held K (uploadEnd s t idx sub) :=
  held_iteAfter (held_setSession hs) fun hx => hx.mgcFrame

theorem held_uploadSegment {s t toggle} (hs : Held K s) : Held K (uploadSegment s t toggle) := by
  unfold uploadSegment
  split
  · exact held_serve hs fun _ h =>
      held_ite (held_abortWith h) (held_respond (held_ite (held_uploadEnd h) (held_setSession h)))
  · exact held_serve hs fun _ h => held_abortWith h
  · exact held_serve hs fun _ h => held_abortWith h

theorem held_segmentTimeout {s t} (hs : Held K s) : Held K (segmentTimeout s t) := by
  unfold segmentTimeout
  split
  · exact hs
  · split
    · exact hs
    · exact held_abortWith hs
    · exact held_abortWith hs

theorem held_requestFrame {s t l} (hs : Held K s) : Held K (requestFrame s t l) := by
  unfold requestFrame
  extract_lets
  split
  · exact held_downloadSegment hs
  · exact held_ite (held_downloadExpedited hs) (held_downloadInitiate hs)
  · exact held_uploadInitiate hs
  · exact held_uploadSegment hs
  · exact held_ite (held_setSession hs) hs
  · exact held_serve hs fun _ h => held_abortWith h

theorem held_ringRequest {s k m} (hs : Held K s) : Held K (ringRequest s k m) := by
  unfold ringRequest
  split
  · rename_i heq
    have h1 := (held_rxMgmt hs).of_eq heq
    exact h1
  · rename_i heq
    have h2 := (held_rxMgmt hs).of_eq heq
    exact held_ite h2 (held_requestFrame h2.mgcFrame)

theorem held_pubAnswer {s a status ws} (hs : Held K s) : Held K (pubAnswer s a status ws) := by
  unfold pubAnswer
  split
  · exact hs
  · extract_lets
    split
    · exact held_ite (held_respond hs) (held_abortWith hs)
    · split
      · exact held_uploadValue hs
      · exact held_abortWith hs
    · exact held_ite (held_abortWith hs) (held_abortWith hs)
    · exact held_ite (held_abortWith hs) (held_abortWith hs)
    · exact held_ite (held_abortWith hs) (held_abortWith hs)
    · exact held_abortWith hs

theorem held_pubTake {s head ws} (hs : Held K s) : Held K (pubTake s head ws) := by
  unfold pubTake
  split
  · exact hs
  · exact held_ite (held_pubNext (held_pubAnswer hs.mgcFrame)) hs

theorem held_takePacket {n s n'} (hs : Held K s) : HeldP K (takePacket n s n') := by
  induction n generalizing s n' with
  | zero =>
    exact heldP_mk hs
  | succ n ih =>
    unfold takePacket
    split
    · rename_i heq
      have h1 := (held_fifoPop hs).of_eq heq
      exact heldP_mk h1
    · rename_i heq
      have h2 := (held_fifoPop hs).of_eq heq
      exact heldP_ite (ih h2) (heldP_ite (heldP_mk h2) (heldP_mk (ih h2)))

theorem held_pubPacket {s} (hs : Held K s) : Held K (pubPacket s) := by
  unfold pubPacket
  extract_lets _ p2
  have hp2 : HeldP K p2 := held_takePacket hs
  split
  · split
    · exact hp2
    · split
      · exact hp2
      · exact held_ite (held_ite (held_raise hp2) hp2) (held_pubTake hp2)
  · exact hs

theorem held_pubTimeout {s} (hs : Held K s) : Held K (pubTimeout s) := by
  unfold pubTimeout
  split
  · exact hs
  · split
    · extract_lets s1 _ s3
      have hs1 : Held K s1 := held_raise hs
      have hs3 : Held K s3 := hs1.mgcFrame
      refine held_pubNext ?_
      split
      · exact held_abortWith hs3
      · exact hs3
    · exact hs

theorem held_sectionWrite {s t n l} (hs : Held K s) : Held K (sectionWrite s t n l) :=
  held_serve hs fun _ h => held_finishWrite (held_setSession h)

theorem held_sectionDone {s} (hs : Held K s) : Held K (sectionDone s) := by
  unfold sectionDone
  split
  · exact hs
  · extract_lets _ s2
    have hs2 : Held K s2 := hs.frame
    refine held_foldl hs2 fun _ _ h => ?_
    split
    · exact held_ite (held_respond h) h
    · exact h

theorem held_bankSwapped {s f} (hs : Held K s) : Held K (bankSwapped s f) :=
  held_ite
    (held_ite
      (held_iteAfter (held_setFifo hs) held_rxPayOwed)
      (held_ite
        (held_iteAfter (held_setFifo hs) held_dramOutRetry)
        (held_iteAfter (held_setFifo hs) held_pushRequests))) hs

end Sys2Proof.Machine
end

section
/-! What every operation of Machine/Mgc.lean keeps of the two channels and the rest of the invariant. -/
namespace Sys2Proof.Machine
open Sys2Proof
variable {K : Keep}

theorem held_abortTransfer {s t} (hs : Held K s) : Held K (abortTransfer s t) := by
  unfold abortTransfer
  split
  · exact held_abortWith hs
  · exact held_abortWith hs
  · exact held_abortWith hs
  · exact hs

theorem held_firmwareStop {s} (hs : Held K s) : Held K (firmwareStop s) :=
  held_ite
    (held_raise (held_iteBefore
      (held_clearStaged (held_closeHasps (held_bump
        (held_foldl hs fun _ _ h => held_abortTransfer h)))).mgcFrame held_put)) hs

theorem held_restartEnd {s} (hs : Held K s) : Held K (restartEnd s) :=
  held_ite (held_foldl (held_flashResume (held_replayHeld (held_put hs))) fun _ _ h => held_startRemap h) hs

/-- The note of an overflow enters a queue that has room for it (R398). -/
theorem held_overflowNote {s t} (hs : Held K s) : Held K (overflowNote s t) := by
  have hq := hs.mgc.2.2 t.idx
  simp only [overflowNote]
  split
  · next howed =>
    simp only [Bool.and_eq_true, decide_eq_true_eq] at howed
    have hnoted : Held K ((logWrite s ⟨s.timebase, true, 0xA002,
        packWord [(34, t.idx), (16, s.get MGC_EM_CNT_dropped)]⟩).bump MGC_EM_CNT_sent 1) :=
      held_bump (held_logWrite hs)
    split
    · refine held_setQueue (hnoted.mgcFrame) ?_
      simp only [List.length_append, List.length_singleton]
      omega
    · exact held_setQueue hnoted.mgcFrame hq
  · exact hs

/-- The oldest entry leaves its queue, which makes room for the note that is owed. -/
theorem held_emTake {s t} (hs : Held K s) : HeldP K (emTake s t) := by
  have hq := hs.mgc.2.2 t.idx
  unfold emTake
  split
  · exact hs
  · next e rest hitems =>
    refine held_overflowNote (held_setQueue hs ?_)
    have hlength := congrArg List.length hitems
    simp only [queueOf, List.length_cons] at hlength
    dsimp only
    omega

theorem held_setEmSent {s t x} (hs : Held K s) : Held K (setEmSent s t x) :=
  hs.mgcFrame

theorem held_spiOut {s l} (hs : Held K s) : Held K (spiOut s l) :=
  hs.mgcFrame

theorem held_spiServe {s f} (hs : Held K s) (hf : ∀ s, Held K s → Held K (f s)) : Held K (spiServe s f) :=
  held_ite hs (held_ite hs.mgcFrame (hf _ hs))

theorem held_spiRequest {s l} (hs : Held K s) : Held K (spiRequest s l) :=
  held_spiServe hs fun _ h => held_ite h (held_iteBefore (held_spiOut h).mgcFrame held_requestFrame)

theorem held_spiReadResponse {s} (hs : Held K s) : Held K (spiReadResponse s) :=
  held_spiServe
    hs
    (fun _ h => by
       split
       · exact held_setAnswer (held_spiOut h)
       · exact held_spiOut h)

theorem held_spiReadEmergency {s} (hs : Held K s) : Held K (spiReadEmergency s) :=
  held_spiServe
    hs
    (fun _ h => by
       split
       · rename_i heq
         have h1 := (held_emTake h).of_eq heq
         exact held_setEmSent h1.mgcFrame
       · exact held_spiOut h)

theorem held_spiReadStatus {s} (hs : Held K s) : Held K (spiReadStatus s) :=
  held_spiServe hs fun _ h => held_spiOut h

theorem held_emergencySend {s t} (hs : Held K s) : Held K (emergencySend s t) := by
  unfold emergencySend
  split
  · exact hs
  · split
    · exact held_spiReadEmergency hs
    · split
      · exact hs
      · split
        · rename_i heq
          have h1 := (held_emTake hs).of_eq heq
          exact held_setEmSent h1
        · rename_i heq
          have h2 := (held_emTake hs).of_eq heq
          exact h2
    · extract_lets
      split
      · split
        · rename_i heq
          have h3 := (held_emTake hs).of_eq heq
          exact held_ringSend (held_setEmSent h3)
        · rename_i heq
          have h4 := (held_emTake hs).of_eq heq
          exact h4
      · exact hs

theorem held_heartbeat {s} (hs : Held K s) : Held K (heartbeat s) := by
  unfold heartbeat
  split
  · exact hs
  · split
    · exact hs.mgcFrame
    · exact (held_tookFree hs).mgcFrame

theorem held_busOff {s tec} (hs : Held K s) : Held K (busOff s tec) :=
  held_ite hs (held_put hs).mgcFrame

theorem held_busBack {s} (hs : Held K s) : Held K (busBack s) :=
  held_ite (held_raise (held_put hs)) hs

theorem held_whenServed {s t r} (hs : Held K s) (hr : HeldS K r) : Held K (whenServed s t r) := by
  unfold whenServed
  split
  · exact hr _ rfl
  · exact hs

theorem held_setSettle {s p x} (hs : Held K s) : Held K (setSettle s p x) :=
  hs.mgcFrame

theorem held_setDisagreed {s p b} (hs : Held K s) : Held K (setDisagreed s p b) :=
  hs.mgcFrame

theorem held_setAgreeDue {s p b} (hs : Held K s) : Held K (setAgreeDue s p b) :=
  hs.mgcFrame

theorem held_pairRestart {s p} (hs : Held K s) : Held K (pairRestart s p) :=
  held_ite (held_setSettle hs) hs

theorem held_pairCheck {s p} (hs : Held K s) : Held K (pairCheck s p) := by
  unfold pairCheck
  extract_lets s1 _ _ s4
  have hs1 : Held K s1 := held_pairRestart hs
  have hs4 : Held K s4 := held_setAgreeDue (held_setDisagreed (held_setSettle hs1))
  split
  · exact held_ite (held_logState hs4) hs4
  · split
    · exact held_setSettle hs1
    · exact held_ite (held_raise (held_setAgreeDue (held_setDisagreed hs1))) hs1

theorem held_commandedCheck {s} (hs : Held K s) : Held K (commandedCheck s) :=
  held_ite (held_foldl hs fun _ _ h => held_pairCheck h) (held_ite (held_pairCheck hs) hs)

end Sys2Proof.Machine
end

section
/-! Every command keeps what `Held` speaks of: one arm for each, through the operation of its meaning. -/
namespace Sys2Proof.Machine
open Sys2Proof
variable {K : Keep}

theorem held_execVfabRampStep {ack s} (h : Held K s) : HeldR K (execVfabRampStep ack s) := by
  unfold execVfabRampStep
  refine heldR_next ?_
  extract_lets s1
  have hs1 : Held K s1 := held_vfabWatch (held_vfabStep h)
  exact held_ite (held_rampEnd hs1) hs1

theorem held_execColumnQuiesceTimeout {s} (h : Held K s) : HeldR K (execColumnQuiesceTimeout s) := by
  unfold execColumnQuiesceTimeout
  refine heldR_next ?_
  split
  · exact held_afterHandover (held_sliceAbandon h)
  all_goals exact h

theorem held_exec : ∀ (x : Instr) (s : State), Held K s → HeldR K (exec x s)
  | .supplyRise, _, h => heldR_next (held_supplyRise h)
  | .powerOnResetRelease _ _, _, h => heldR_next (held_porRelease h)
  | .rootPllLock, _, h => heldR_next (held_rootLock h)
  | .mgcBootDone _, _, h => heldR_next (held_mgcBoot h)
  | .startupBistDone _ _ _ _, _, h => heldR_next (held_startupTest h)
  | .runReached, _, h => heldR_next (held_runReached h)
  | .porst, _, h => heldR_next (held_ite h (held_coldReset h))
  | .brownout, _, h => heldR_next (held_ite h (held_setPwr (held_put (held_coldReset h))))
  | .refLost, _, h => heldR_next (held_refLost h)
  | .rootPllLockLost, _, h => heldR_next (held_lockLost h)
  | .mgcFirmwareStop, _, h => heldR_next (held_firmwareStop h)
  | .mgcRestartEnd, _, h => heldR_next (held_restartEnd h)
  | .handshakeRequest _, _, h => heldR_next (held_watchHandover (held_request h))
  | .handshakeAck _, _, h => heldR_next (held_acknowledge h)
  | .handshakeRelease _, _, h => heldR_next (held_release h)
  | .handshakeReady _, _, h => heldR_next (held_ready h)
  | .cellFire _, _, h => heldR_next (held_settled (held_fire h))
  | .particleUpset _, _, h => heldR_next (held_watchHandover (held_upset h))
  | .userResetRequest _, _, h => heldR_next (held_userReset h)
  | .boundaryWaitEnd _, _, h => heldR_next (held_boundaryEnd h)
  | .boundaryWaitTimeout _, _, h => heldR_ite (heldR_next (held_raise (held_putBit h))) (heldR_next h)
  | .tokLastClear, _, h => heldR_next (held_setWord h)
  | .tokCntClear, _, h => heldR_next (held_put h)
  | .xbLastClear, _, h => heldR_next (held_setWord h)
  | .xbCntClear, _, h => heldR_next (held_put h)
  | .probeEnable _ _, _, h => heldR_next (held_probeWrite h)
  | .probeDisable _ _, _, h => heldR_next (held_probeWrite h)
  | .probeSelWrite _ _, _, h => heldR_next (held_setWord h)
  | .paceWindowStart, _, h => heldR_next (held_paceStart h)
  | .paceWindowEnd _ _ _, _, h => heldR_next (held_windowEnd h)
  | .governorPeriod _ _, _, h => heldR_next (held_governorPeriod h)
  | .governorWarmEnd, _, h => heldR_next (held_ite (held_put h) h)
  | .governorEnable, _, h => heldR_next (held_governorEnable h)
  | .governorDisable, _, h => heldR_next (held_governorDisable h)
  | .vfabTargetWrite _, _, h => heldR_next (held_ite (held_vfabTarget (held_commandIf h)) h)
  | .vfabRampStep _, _, h => held_execVfabRampStep h
  | .vfabReadVout _ _, _, h => heldR_next (held_ite (held_simmerConfirm (held_vfabWatch (held_vfabRead h))) h)
  | .pmbAlert, _, h => heldR_next (held_ite (held_vfabWatch (held_vfabFault h)) h)
  | .vfabMismatchTimeout, _, h => heldR_next (held_vfabWatch (held_vfabMismatch h))
  | .storeRead _ _ _, _, h => heldR_next (held_settled (held_storeRequest h))
  | .storeWrite _ _ _, _, h => heldR_next (held_settled (held_storeRequest h))
  | .storeExchange _ _ _, _, h => heldR_next (held_settled (held_storeRequest h))
  | .storeRequestFault _ _ _, _, h => heldR_next (held_storeRequestFault h)
  | .storeResponse _ _ _, _, h => heldR_next (held_storeRespond h)
  | .blockHandoverQuiesced _ _, _, h => heldR_next (held_blockQuiesced h)
  | .blockHandoverSwitch _ _, _, h => heldR_next (held_ite (held_afterHandover (held_blockSwitch h)) h)
  | .blockHandoverTimeout _ _, _, h => heldR_next (held_ite (held_afterHandover (held_blockAbandon h)) h)
  | .eventOffered _, _, h => heldR_next (held_tokensTaken (held_offerEvent h))
  | .eventReqSeen _, _, h => heldR_next (held_eventReqSeen h)
  | .eventTaken _, _, h => heldR_next (held_eventTaken h)
  | .eventAckSeen _, _, h => heldR_next (held_eventAckSeen h)
  | .eventReqLowSeen _, _, h => heldR_next (held_eventReqLow h)
  | .eventCrossingComplete _, _, h => heldR_next (held_eventComplete h)
  | .wordValueWrite _ _, _, h => heldR_next (held_wordWrite h)
  | .wordValueVisible _, _, h => heldR_next (held_wordVisible h)
  | .wordSampleRequest _, _, h => heldR_next (held_tokensTaken (held_wordSample h))
  | .wordOutToken _, _, h => heldR_next (held_wordToken h)
  | .wordOutWrite _, _, h => heldR_next (held_tokensTaken (held_wordOutWrite h))
  | .wordValidRestore _, _, h => heldR_next (held_wordValid h)
  | .ctlhRead, _, h => heldR_next (held_tokensTaken (held_ctlCapture h))
  | .ctlhWrite, _, h => heldR_next (held_tokensTaken (held_ctlCapture h))
  | .ctlhMaskedWrite, _, h => heldR_next (held_tokensTaken (held_ctlCapture h))
  | .ctlhReservedOp, _, h => heldR_next (held_tokensTaken (held_ctlCapture h))
  | .ctlhAccessEdge, _, h => heldR_next (held_accessEdge h)
  | .ctlhResponse, _, h => heldR_next (held_ctlRespond h)
  | .reseatSxSeen _, _, h => heldR_next (held_reseatSx h)
  | .reseatXRelease _, _, h => heldR_next (held_reseatRelease h)
  | .reseatYOpen _, _, h => heldR_next (held_reseatYOpen h)
  | .reseatXOpen _, _, h => heldR_next (held_reseatXOpen h)
  | .hingeSideReset _, _, h => heldR_next (held_sideReset h)
  | .hingeSideResetEnd _, _, h => heldR_next (held_sideResetEnd h)
  | .userClockEnable _ _, _, h => heldR_next (held_userClockWrite h)
  | .userClockLost _, _, h => heldR_next (held_userClockLost h)
  | .userClockPresent _, _, h => heldR_next (held_userClockPresent h)
  | .hingeStall _, _, h => heldR_next (held_hingeStall h)
  | .evStatClear _, _, h => heldR_next (held_put (held_put (held_put h)))
  | .wdStatClear _, _, h => heldR_next (held_put (held_put h))
  | .stallLastClear, _, h => heldR_next (held_setWord h)
  | .ctlhStatClear, _, h => heldR_next (held_put h)
  | .fifoPush _ _, _, h => heldR_next (held_tokensTaken (held_writerPush h))
  | .fifoSealTimeout _, _, h => heldR_next (held_ite (held_setFifo h) h)
  | .fifoSealCrossing _, _, h => heldR_next (held_sealSeen h)
  | .fifoPop _, _, h => heldR_next (held_readerPop h)
  | .fifoBankSwap _, _, h => heldR_next (held_bankSwapped h)
  | .fifoParityError _ _, _, h => heldR_ite (heldR_next (held_raise (held_updateSeal h.frame))) (heldR_next h)
  | .fifoFlushPkt _, _, h => heldR_next (held_flushWrite h)
  | .fifoFlushPoint _, _, h => heldR_next (held_flushPoint h)
  | .fifoFlushReader _, _, h => heldR_next (held_flushReader h)
  | .fifoClearNow _, _, h => heldR_next (held_clearWrite h)
  | .fifoClearPoint _, _, h => heldR_next (held_clearPoint h)
  | .fifoClearReader _, _, h => heldR_next (held_clearReader h)
  | .fifoCntClear _, _, h => heldR_next (held_setWord h)
  | .fifoSealToWrite _ _ _, _, h => heldR_next (held_put (held_put h))
  | .mailboxPush _ _ _, _, h => heldR_next (held_mailboxPush h)
  | .mailboxPop _, _, h => heldR_next (held_mailboxPop h)
  | .cordRefLost _ _, _, h => heldR_next (held_cordsLost h)
  | .cordPllLock _, _, h => heldR_next (held_cordLock h)
  | .cordRateWrite _ _, _, h => heldR_next (held_cordRate h)
  | .cordMapWrite _ _, _, h => heldR_next (held_cordMap h)
  | .laneModeWrite _ _, _, h => heldR_next (held_laneModeWrite h)
  | .laneRetrain _, _, h => heldR_next (held_retrain h)
  | .laneSetActive _, _, h => heldR_next (held_ite (held_laneActive (held_setCommanded (held_fresh h))) h)
  | .laneSetIdleHold _, _, h => heldR_next (held_ite (held_laneIdleHold (held_setCommanded (held_fresh h))) h)
  | .laneSetBanked _, _, h => heldR_next (held_ite (held_laneBanked (held_setCommanded (held_fresh h))) h)
  | .laneCntClear _, _, h => heldR_next (held_setWord (held_setWord h))
  | .signalDetected _, _, h => heldR_next (held_signalDetected h)
  | .signalLost _, _, h => heldR_next (held_signalLost h)
  | .alignInvalidHeader _ _, _, h => heldR_next (held_invalidHeader h)
  | .alignHuntDone _, _, h => heldR_next (held_huntDone h)
  | .alignLocked _, _, h => heldR_next (held_alignLocked h)
  | .adaptFreeze _, _, h => heldR_next (held_adaptFreeze h)
  | .adaptResume _, _, h => heldR_next (held_adaptResume h)
  | .rxIdleBlock _, _, h => heldR_next (held_fromLine h (fun _ h => held_rxIdle h))
  | .rxStartBlock _, _, h => heldR_next (held_fromLine h (fun _ h => held_rxStart h))
  | .rxDataBlock _ _, _, h => heldR_next (held_fromLine h (fun _ h => held_rxData h))
  | .rxEndBlock _ _, _, h => heldR_next (held_fromLine h (fun _ h => held_rxEnd h))
  | .rxTrainBlock _ _, _, h => heldR_next (held_fromLine h (fun _ h => held_rxTrain h))
  | .rxHoldBlock _, _, h => heldR_next (held_fromLine h (fun _ h => held_rxHold h))
  | .rxInvalidBlock _ _, _, h => heldR_next (held_fromLine h (fun _ h => held_rxInvalid h))
  | .rxHoldExit _, _, h => heldR_next (held_holdExit h)
  | .rxHoldTimeout _, _, h => heldR_next (held_holdTimeout h)
  | .trainAdaptDone _, _, h => heldR_next (held_trainAdaptDone h)
  | .trainSuccess _ _, _, h => heldR_next (held_trainSuccess (held_kwrFresh h))
  | .trainTimeout _, _, h => heldR_next (held_trainTimeout h)
  | .backoffElapsed _, _, h => heldR_next (held_backoffElapsed h)
  | .ethHiBer _ _, _, h => heldR_next (held_ethHiBer h)
  | .ethRxBlock _ _, _, h => heldR_next (held_fromLine h (fun _ h => held_rxPayOwed (held_ethBlock h)))
  | .kwrRoleWrite _ _, _, h => heldR_next (held_ite (held_kwrRole (held_commandIf h)) h)
  | .kwrWidthWrite _ _, _, h => heldR_next (held_kwrWidthWrite h)
  | .kwrCycleBoundary _, _, h => heldR_next (held_cycleBoundary h)
  | .kwrRxCycle _ _ _ _ _, _, h => heldR_next (held_fromControl h (fun _ h => held_rxCycle h))
  | .kwrRxCycleEnd _ _ _, _, h => heldR_next (held_fromControl h (fun _ h => held_rxCycleEnd h))
  | .kwrRxTime _ _ _ _ _, _, h => heldR_next (held_fromControl h (fun _ h => held_rxTime h))
  | .kwrRxTimeHigh _ _ _, _, h => heldR_next (held_fromControl h (fun _ h => held_rxTimeHigh h))
  | .kwrTimebaseSlew _, _, h => heldR_next (held_slew h)
  | .kwrRxSuperblock _ _ _, _, h => heldR_next (held_fromRing h (fun _ h => held_rxSuper h))
  | .kwrRxAck _ _ _ _, _, h => heldR_next (held_fromControl h (fun _ h => held_rxAck h))
  | .kwrRxReplay _ _ _, _, h => heldR_next (held_fromControl h (fun _ h => held_rxReplay h))
  | .kwrRxMgmt _ _, _, h => heldR_next (held_fromControl h (fun _ h => held_ringRequest h))
  | .kwrRxSlot _, _, h => heldR_next (held_fromControl h (fun _ h => held_rxSlot h))
  | .kwrRxFill _ _, _, h => heldR_next (held_fromControl h (fun _ h => held_rxFill h))
  | .kwrInsertPacket _, _, h => heldR_next (held_ite h (held_readPacket h))
  | .kwrAckTimer _, _, h => heldR_next (held_ite (held_sendAck (held_kwrFresh h)) h)
  | .kwrHopReseat _, _, h => heldR_next (held_hopReseat h)
  | .kwrBufferInvalid _, _, h => heldR_next (held_bufferInvalid h)
  | .kwrCycleMissed _, _, h => heldR_next (held_cycleMissed h)
  | .kwrFrameNotReturned _, _, h => heldR_next (held_frameLost h)
  | .kwrAlarmWrite _, _, h => heldR_next (held_alarmSet h)
  | .kwrAlarmClear _, _, h => heldR_next (held_alarmClear h)
  | .kwrCntClear _, _, h => heldR_next (held_setWord (held_setWord h))
  | .sdramRead _ _, _, h => heldR_next (held_sdramRequest h)
  | .sdramWrite _ _, _, h => heldR_next (held_sdramRequest h)
  | .sdramMaskedWrite _ _, _, h => heldR_next (held_sdramRequest h)
  | .sdramRequestFault _ _, _, h => heldR_next (held_requestFault h)
  | .sdramAccessDone _ _ _ _, _, h => heldR_next (held_accessDone h)
  | .sdramRequestAged _ _ _, _, h => heldR_next (held_elim h fun _ => held_requestAged h)
  | .sdramRequestLate _ _ _, _, h => heldR_next (held_elim h fun _ => held_requestLate h)
  | .sdramRefreshDue _ _, _, h => heldR_next (held_refreshDue h)
  | .sdramTempRead _ _ _, _, h => heldR_next (held_tempRead h)
  | .sdramRefresh1x _, _, h => heldR_next (held_ite (held_setMode2x h) h)
  | .sdramPatrolRead _ _, _, h => heldR_next (held_patrolRead h)
  | .sdramSelfRefreshEnter _, _, h => heldR_next (held_selfRefreshEnter h)
  | .sdramSelfRefreshExit _, _, h => heldR_next (held_selfRefreshExit h)
  | .sdramLiveRemapDone _, _, h => heldR_next (held_ite (held_liveRemapDone h) h)
  | .sdramPprRequest _, _, h => heldR_next (held_ite h (held_setDram h (h.dram _)))
  | .sdramPprWithdraw _, _, h => heldR_next (held_setPpr (held_setDram h (h.dram _)))
  | .sdramPprRecorded _, _, h => heldR_next (held_ite (held_setPpr (held_setDram h (h.dram _))) h)
  | .sdramParityAlert _, _, h => heldR_next (held_parityAlert h)
  | .sdramAlertRelease _, _, h => heldR_next (held_closeRows (held_setDram h (h.dram _)))
  | .sdramEccClear _, _, h => heldR_next (held_setWord (held_setWord h))
  | .sdramCntClear _, _, h => heldR_next (held_setWord (held_setWord h))
  | .sweepStepDone _ _ _, _, h => heldR_next (held_sweepStep h)
  | .sweepRequest _, _, h => heldR_next (held_sweepRequest h)
  | .gatheringStart _, _, h => heldR_next (held_gatherStart h)
  | .trainingPause _, _, h => heldR_next (held_ite (held_setDram h (h.dram _)) h)
  | .pauseEnd _ _, _, h => heldR_next (held_pauseEnd h)
  | .sdramRateRequest _ _, _, h => heldR_next (held_ite (held_rateRequest (held_commandIf h)) h)
  | .rateChangeBegin _, _, h => heldR_next (held_rateBegin h)
  | .sdramCheckDone _ _, _, h => heldR_next (held_checkDone h)
  | .bankSupplyChange _ _, _, h => heldR_next (held_supplyChange h)
  | .bankSupplyAgreed _, _, h => heldR_next (held_supplyAgreed h)
  | .bankSupplyLost _, _, h => heldR_next (held_supplyLost h)
  | .pinLevelChange _ _ _, _, h => heldR_next (held_levelChange h)
  | .pinMaskedWrite _ _ _, _, h => heldR_next (held_ite (held_queueWrite h) h)
  | .pinDoutWrite _ _ _, _, h => heldR_next (held_ite (held_queueWrite h) h)
  | .pinDoutApply _, _, h => heldR_next (held_doutApply h)
  | .pinPulseEnd _ _, _, h => heldR_next (held_setPins h)
  | .pinCfgStage _ _ _, _, h => heldR_next (held_cfgStage h)
  | .pinApply _ _, _, h => heldR_next (held_applyGroup h)
  | .pinSwitchTake _, _, h => heldR_next (held_switchTake h)
  | .gpevPulseEnd _ _, _, h => heldR_next (held_setPins h)
  | .portInputStrobe _, _, h => heldR_next (held_portStrobe h)
  | .portOutputEntry _, _, h => heldR_next (held_portEntry h)
  | .tumblerFilterExpiry _ _, _, h => heldR_next (held_filterExpiry h)
  | .tumblerWindowTimeout _, _, h => heldR_next (held_windowTimeout h)
  | .tumblerStrictReturn _, _, h => heldR_next (held_strictReturn h)
  | .tumblerConfigWrite _ _ _, _, h => heldR_next (held_tmbWrite h)
  | .tumblerStatClear _, _, h => heldR_next (held_put (held_put h))
  | .wakePinEdge _ _, _, h => heldR_next (held_wakePin h)
  | .discoveryDone _ _, _, h => heldR_next (held_discoveryDone h)
  | .chunkRead _, _, h => heldR_next (held_flashResume (held_chunkRead h))
  | .wardCheckDone, _, h => heldR_next (held_wardCheckDone h)
  | .configClearDone, _, h => heldR_next (held_clearDone h)
  | .warmRecommit, _, h => heldR_next (held_warmRecommit h)
  | .hearthStreamRead, _, h => heldR_next (held_hearthStreamRead h)
  | .hearthStreamCheckDone, _, h => heldR_next (held_flashResume (held_hearthCheckDone h))
  | .keyStage _ _, _, h => heldR_next (held_keyStage h)
  | .keyExpectedKcv _ _, _, h => heldR_next (held_keyExpect h)
  | .keyringProgramEfuse _ _, _, h => heldR_next (held_keyCommand h)
  | .keyringWriteBbram _ _, _, h => heldR_next (held_keyCommand h)
  | .keyringZeroize _, _, h => heldR_next (held_keyCommand h)
  | .keyringBlowKeySrc _ _, _, h => heldR_next (held_keyCommand h)
  | .keyringBlowBbramOff _ _, _, h => heldR_next (held_keyCommand h)
  | .keyringBlowRbOff _ _, _, h => heldR_next (held_keyCommand h)
  | .keyringBlowMinVer _ _, _, h => heldR_next (held_keyCommand h)
  | .keyringProgramKindBase _ _ _, _, h => heldR_next (held_keyCommand h)
  | .keyringCommandDone _, _, h => heldR_next (held_keyDone h)
  | .vbatLow, _, h => heldR_next (held_vbatLow h)
  | .readbackIndexWrite _, _, h => heldR_next (held_readbackIndex h)
  | .readbackRead, _, h => heldR_next (held_readbackRead h)
  | .flashEraseSector, _, h => heldR_next (held_flashStart h)
  | .flashEraseBlock, _, h => heldR_next (held_flashStart h)
  | .flashProgram, _, h => heldR_next (held_flashStart h)
  | .flashCompare, _, h => heldR_next (held_flashStart h)
  | .flashRead, _, h => heldR_next (held_flashStart h)
  | .flashServiceDone _, _, h => heldR_next (held_flashDone h)
  | .peatPassStart, _, h => heldR_next (held_passStart h)
  | .frameRead _ _ _, _, h => heldR_next (held_watchHandover (held_frameRead h))
  | .scrubPriorityReport _, _, h => heldR_next (held_scrubReport h)
  | .scrubHeartbeatCheck, _, h => heldR_next (held_heartbeatCheck h)
  | .scrubCntClear, _, h => heldR_next (held_setWord (held_setWord h))
  | .hearthIsolate _, _, h => heldR_next (held_ite (held_isoCommanded (held_isolateWrite h)) h)
  | .hearthIsolateRelease _, _, h => heldR_next (held_ite h (held_isoCommanded (held_releaseWrite h)))
  | .hearthReloadRequest _ _, _, h => heldR_next (held_reloadRequest h)
  | .hearthReloadRetry _, _, h => heldR_next (held_reloadRetry h)
  | .bistSliceStart, _, h => heldR_next (held_sliceStart h)
  | .columnPrecopyDone, _, h => heldR_next (held_columnPrecopy h)
  | .columnQuiesced, _, h => heldR_next (held_columnQuiesced h)
  | .columnQuiesceTimeout, _, h => held_execColumnQuiesceTimeout h
  | .columnScanCopyDone _, _, h => heldR_next (held_afterHandover (held_columnScanned h))
  | .columnTestDone _, _, h => heldR_next (held_columnTested h)
  | .blockTestDone _, _, h => heldR_next (held_blockTested h)
  | .laneTestDone _, _, h => heldR_next (held_laneResult h)
  | .fifoTestDone _, _, h => heldR_next (held_fifoTested h)
  | .repairRecordWriteDone _, _, h => heldR_next (held_repairWritten h)
  | .repairClearSdram _ _, _, h => heldR_next (held_repairClear h)
  | .shutdownTest, _, h => heldR_next (held_shutdownTest h)
  | .fullTestDone _ _ _ _, _, h => heldR_next (held_shutdownDone h)
  | .serviceHour _, _, h => heldR_next (held_serviceHour h)
  | .serviceHoursSave, _, h => heldR_next (held_ite (held_hoursSave h) h)
  | .jtagExtest _, _, h => heldR_next (held_jtagCurrent h)
  | .jtagIdcode _, _, h => heldR_next (held_jtagCurrent h)
  | .jtagSamplePreload _, _, h => heldR_next (held_jtagCurrent h)
  | .jtagClamp _, _, h => heldR_next (held_jtagCurrent h)
  | .jtagHighz _, _, h => heldR_next (held_jtagCurrent h)
  | .jtagExtestPulse _, _, h => heldR_next (held_jtagCurrent h)
  | .jtagExtestTrain _, _, h => heldR_next (held_jtagCurrent h)
  | .jtagBypass _, _, h => heldR_next (held_jtagCurrent h)
  | .jtagInstructionEnd, _, h => heldR_next (held_ite (held_jtagRelease h) h).frame
  | .sdoDownloadExpedited _ _ _ _ _, _, h => heldR_next (held_downloadExpedited h)
  | .sdoDownloadInitiate _ _ _ _, _, h => heldR_next (held_downloadInitiate h)
  | .sdoDownloadSegment _ _ _ _, _, h => heldR_next (held_downloadSegment h)
  | .sdoUploadInitiate _ _ _, _, h => heldR_next (held_uploadInitiate h)
  | .sdoUploadSegment _ _, _, h => heldR_next (held_uploadSegment h)
  | .sdoSegmentTimeout _, _, h => heldR_next (held_segmentTimeout h)
  | .pubResponse, _, h => heldR_next (held_pubPacket h)
  | .pubEvent, _, h => heldR_next (held_pubPacket h)
  | .pubTimeout, _, h => heldR_next (held_pubTimeout h)
  | .spiSdoRequest _, _, h => heldR_next (held_spiRequest h)
  | .spiReadResponse, _, h => heldR_next (held_spiReadResponse h)
  | .spiReadEmergency, _, h => heldR_next (held_spiReadEmergency h)
  | .spiReadStatus, _, h => heldR_next (held_spiReadStatus h)
  | .canBusOff _, _, h => heldR_next (held_busOff h)
  | .canBusOffRecovered, _, h => heldR_next (held_busBack h)
  | .expertHaspOpen _ _, _, h => heldR_next (held_whenServed h (held_expertWrite h))
  | .expertHaspClose _, _, h => heldR_next (held_whenServed h (held_expertWrite h))
  | .haspIdleTimeout _, _, h => heldR_next (held_closeExpert h)
  | .calHaspOpen _ _, _, h => heldR_next (held_whenServed h (held_calWrite h))
  | .calHaspClose _, _, h => heldR_next (held_whenServed h (held_calWrite h))
  | .commandedActualCheck, _, h => heldR_next (held_commandedCheck h)
  | .emergencySend _, _, h => heldR_next (held_emergencySend h)
  | .heartbeatTimer, _, h => heldR_next (held_heartbeat h)
  | .doorbellRing _, _, h => heldR_next (held_ringDoorbell h)
  | .calSectionWrite _ _ _, _, h => heldR_next (held_sectionWrite h)
  | .calWriteDone, _, h => heldR_next (held_sectionDone h)
  | .timebaseRead, _, h => heldR_next (held_timebaseRead h)
  | .alarmFire _, _, h => heldR_next (held_alarmFire h)
  | .alarmCompareWrite _ _, _, h => heldR_next (held_alarmCompareWrite h)
  | .alarmSkippedClear _, _, h => heldR_next (held_put h)
  | .wakeTimeWrite _ _, _, h => heldR_next (held_ite (held_wakeTimeWrite h) h)
  | .hearthWakeSlot, _, h => heldR_next (held_wakeSlot h)
  | .singleHearthWake _, _, h => heldR_next (held_singleWake h)
  | .pwrCmdSimmer, _, h => heldR_next (held_ite (held_cmdSimmer (held_commandIf h)) h)
  | .pwrCmdRun, _, h => heldR_next (held_ite (held_cmdRun (held_commandIf h)) h)
  | .pwrCmdBanked, _, h => heldR_next (held_ite (held_cmdBanked (held_commandIf h)) h)
  | .simmerClockDivide, _, h => heldR_next (held_clockDivide h)
  | .simmerConfirmTimeout, _, h => heldR_next (held_ite (held_simmerFail h) h)
  | .bankedEntryComplete, _, h => heldR_next (held_bankedDone h)
  | .bankedWake _, _, h => heldR_next (held_bankedWake h)
  | .bankedSuppliesReady, _, h => heldR_next (held_bankedReady h)
  | .bankedSupplyLate _, _, h => heldR_next (held_bankedLate h)
  | .registerWrite _ _ _, _, h =>
    heldR_next (held_ite (held_ite (held_busAccess h) h) (held_ite (held_writeRegister h) h))

end Sys2Proof.Machine
end

section
/-! The invariant of every step. A state is `Held` with its own queue and count of free values exactly where it meets the
invariant, so each command keeps the invariant, leaves the queue and only counts free values on. -/
namespace Sys2Proof.Machine
open Sys2Proof

/-- Which queue and count are asked for does not matter to the rest of the invariant. -/
theorem inv_of_held {K : Keep} {s : State} (h : Held K s) : Inv s := by
  obtain ⟨hlog, hhold, hqueues⟩ := h.mgc
  obtain ⟨hflashA, hflashB⟩ := h.cfg
  refine ⟨h.regs, ⟨hlog, hhold, hqueues⟩, ?_⟩
  simp only [Memory.wf, Bool.and_eq_true]
  exact ⟨⟨⟨⟨⟨h.store, hflashA⟩, hflashB⟩, h.dram 0 (by decide)⟩, h.dram 1 (by decide)⟩, h.fab⟩

theorem held_of_inv {s : State} (h : Inv s) : Held (s.pending, s.free) s := by
  obtain ⟨hregs, hmgc, hmem⟩ := h
  simp only [Memory.wf, Bool.and_eq_true] at hmem
  obtain ⟨⟨⟨⟨⟨hstore, hflashA⟩, hflashB⟩, hdram0⟩, hdram1⟩, hframes⟩ := hmem
  refine ⟨rfl, Nat.le_refl _, hregs, hmgc, hframes, hstore, ⟨hflashA, hflashB⟩, fun n hn => ?_⟩
  obtain rfl | rfl : n = 0 ∨ n = 1 := by omega
  · exact hdram0
  · exact hdram1

/-- The invariant speaks of no command that waits. -/
theorem inv_withQueue {s : State} {l : List Instr} (h : Inv s) : Inv { s with pending := l } := h

theorem held_of_exec {c : Instr} {s t : State} (hs : Inv s) (e : exec c s = .next t) : Held (s.pending, s.free) t :=
  held_exec c s (held_of_inv hs) t e

/-- Settles O60: after a command the state is `Held` with the queue and the count from before it (`held_of_exec`). -/
theorem commandsLeaveTheQueue : Obligations.CommandsLeaveTheQueue := by
  unfold Obligations.CommandsLeaveTheQueue
  intro c s t hs e
  have ht := held_of_exec hs e
  exact ⟨ht.queue, ht.fresh⟩

/-- Settles O59, by the front of the queue: an idle tick keeps what `Held` says (`held_tick`), and so does every command
(`held_exec`). -/
theorem everyStepKeepsTheInvariant : Obligations.EveryStepKeepsTheInvariant := by
  unfold Obligations.EveryStepKeepsTheInvariant
  intro s t hs e
  cases hq : s.pending with
  | nil =>
    rw [step_of_nil hq] at e
    obtain rfl := Host.Outcome.next.inj e
    exact inv_of_held (held_tick (held_of_inv hs))
  | cons c rest =>
    rw [step_of_cons hq] at e
    exact inv_of_held (held_of_exec (inv_withQueue hs) e)

end Sys2Proof.Machine
end
